-- ==== Sys2Proof/Word.lean ====
section
/-! DEFINITION. The word types of the ZX9 (spec/03_numbers.md R56, R57) and their plainest arithmetic. -/
namespace Sys2Proof

/-- A 32-bit lane or pack register value, or an instruction word (R56, R202). -/
abbrev Word := BitVec 32

/-- A 64-bit value: an even:odd register pair, a pointer, MEET (R33, R56). -/
abbrev DWord := BitVec 64

/-- One byte of flat memory or of a vault. -/
abbrev Byte := BitVec 8

/-- The number of a v register (R31). -/
abbrev VReg := BitVec 7

/-- The number of an s register (R37). -/
abbrev SReg := BitVec 6

/-- A set of lanes of a pack; bit l names thread l. -/
abbrev LaneMask := BitVec 32

/-- The pair with low word `lo` and high word `hi` (R56). -/
def pair (lo hi : Word) : DWord := hi ++ lo

/-- The low word of a pair. -/
def DWord.lo (x : DWord) : Word := x.extractLsb' 0 32

/-- The high word of a pair. -/
def DWord.hi (x : DWord) : Word := x.extractLsb' 32 32

end Sys2Proof
end

