-- ==== Sys2Proof/Syntax.lean ====
section
/-! DEFINITION. The instructions of the ZX9: every row of spec/opcode_table.json is one constructor of `Instr`. The rows
with an encoding (spec/10_encoding.md R202-R211) carry their decoded fields; the rows that are host actions or device
events (spec/95_what_each_step_holds.md) carry what names the event. -/
namespace Sys2Proof

/-- The guard of format LW (R209): predicate `pg` (7 = always), negated when `pn`. -/
structure Guard where
  pg : BitVec 3
  pn : Bool
  deriving DecidableEq, Repr

/-- Operand a of format LA (R206). `small c` is code 0xC0 + c: integers 0-15, -1 to -8, then the eight float constants;
`lit` is the literal word of code 0xFE; `reserved` is a code that raises OPERAND. -/
inductive Src where
  | v (n : VReg)
  | s (n : SReg)
  | small (c : BitVec 5)
  | lane
  | item
  | tglobal
  | lit (w : Word)
  | reserved (c : BitVec 8)
  deriving DecidableEq, Repr

/-- Conditions of the integer comparisons (R228, R278). -/
inductive IntCond where
  | eq | ne | lt | le | gt | ge
  deriving DecidableEq, Repr

/-- Conditions of the float comparisons (R228). -/
inductive FltCond where
  | eq | ne | lt | le | gt | ge | un | or | ltq | leq | gtq | geq
  deriving DecidableEq, Repr

/-- Rounding selector of frnd (R237). -/
inductive RndSel where
  | rne | rtz | rup | rdn | mode
  deriving DecidableEq, Repr

/-- Rounding selector of cvt (R239). -/
inductive CvtRnd where
  | rne | rtz | rup | rdn | dyn | sr
  deriving DecidableEq, Repr

/-- Type codes of cvt (R239). -/
inductive NumTy where
  | f64 | f32 | bf16 | f16 | e4m3 | e5m2 | i64 | n64 | i32 | n32 | i16 | i8 | n8 | f4x
  deriving DecidableEq, Repr

/-- TYPE of the memory forms (R257). -/
inductive AtomTy where
  | i32 | i64 | f32 | f64
  deriving DecidableEq, Repr

/-- AOP (R259). -/
inductive AtomOp where
  | add | min | max | minu | maxu | and | or | xor | exch
  deriving DecidableEq, Repr

/-- ORD (R257). -/
inductive MemOrd where
  | rlx | acq | rel | acqrel
  deriving DecidableEq, Repr

/-- Scopes (R113) and remote-scope promotion (R120). -/
inductive Scope where
  | pack | grp | cl | dev | sys | rem
  deriving DecidableEq, Repr

/-- Kinds of accumulator handle (R45, R292). -/
inductive AccKind where
  | single | split | splgrad
  deriving DecidableEq, Repr

/-- The count of bar.init: word 1 or a register (R266). -/
inductive CountSrc where
  | imm (n : BitVec 16)
  | reg (b : SReg)
  deriving DecidableEq, Repr

/-- The three queues that share a core's buffer pool (R136). -/
inductive QueueId where
  | cpy | tile | atom
  deriving DecidableEq, Repr

/-- A unit of partitioning: a cluster or an HBM channel group (R162). -/
inductive UnitRef where
  | cluster (n : Nat)
  | group (n : Nat)
  deriving DecidableEq, Repr

/-- A request from another device over the Ralvan fabric (R29, R128): read, write, or read-modify-write of `n` bytes at a
local HBM offset. -/
inductive RemoteReq where
  | load (addr n : Nat)
  | store (addr : Nat) (data : List Byte)
  | rmw (addr : Nat) (ty : AtomTy) (op : AtomOp) (x : DWord)
  deriving DecidableEq, Repr

/-- The instructions and events: one constructor per row of the opcode table. -/
inductive Instr where
  -- LA 0x01-0x16: integer and bit forms (R221); `sat` rows are the X = 1 spellings
  | addI32 (d : VReg) (a : Src) (b : VReg)
  | addI32Sat (d : VReg) (a : Src) (b : VReg)
  | subI32 (d : VReg) (a : Src) (b : VReg)
  | subI32Sat (d : VReg) (a : Src) (b : VReg)
  | mulI32 (d : VReg) (a : Src) (b : VReg)
  | mulhiI32 (d : VReg) (a : Src) (b : VReg)
  | mulhiN32 (d : VReg) (a : Src) (b : VReg)
  | minI32 (d : VReg) (a : Src) (b : VReg)
  | maxI32 (d : VReg) (a : Src) (b : VReg)
  | minN32 (d : VReg) (a : Src) (b : VReg)
  | maxN32 (d : VReg) (a : Src) (b : VReg)
  | andB32 (d : VReg) (a : Src) (b : VReg)
  | orB32 (d : VReg) (a : Src) (b : VReg)
  | xorB32 (d : VReg) (a : Src) (b : VReg)
  | andnB32 (d : VReg) (a : Src) (b : VReg)
  | shlB32 (d : VReg) (a : Src) (b : VReg)
  | shrN32 (d : VReg) (a : Src) (b : VReg)
  | shrI32 (d : VReg) (a : Src) (b : VReg)
  | rotB32 (d : VReg) (a : Src) (b : VReg)
  | popcB32 (d : VReg) (a : Src)
  | clzB32 (d : VReg) (a : Src)
  | brevB32 (d : VReg) (a : Src)
  | lsbB32 (d : VReg) (a : Src)
  | movB32 (d : VReg) (a : Src)
  -- LA 0x17-0x20: byte permutation (R224), packed 16-bit and byte dot products (R223), shuffles (R225)
  | permB8 (d : VReg) (a : Src) (b : VReg)
  | addX2I16 (d : VReg) (a : Src) (b : VReg)
  | addX2I16Sat (d : VReg) (a : Src) (b : VReg)
  | subX2I16 (d : VReg) (a : Src) (b : VReg)
  | subX2I16Sat (d : VReg) (a : Src) (b : VReg)
  | minX2I16 (d : VReg) (a : Src) (b : VReg)
  | maxX2I16 (d : VReg) (a : Src) (b : VReg)
  | dot4I8 (d : VReg) (a : Src) (b : VReg)
  | dot4N8 (d : VReg) (a : Src) (b : VReg)
  | pullIdx (d : VReg) (a : Src) (b : VReg)
  | pullXor (d : VReg) (a : Src) (b : VReg)
  | pullBack (d : VReg) (a : Src) (b : VReg)
  | pullFwd (d : VReg) (a : Src) (b : VReg)
  -- LA 0x21-0x33: float forms (R231-R233); x negates operand a (R207)
  | faddF32 (d : VReg) (a : Src) (b : VReg) (x : Bool)
  | fsubF32 (d : VReg) (a : Src) (b : VReg) (x : Bool)
  | fmulF32 (d : VReg) (a : Src) (b : VReg) (x : Bool)
  | fminF32 (d : VReg) (a : Src) (b : VReg) (x : Bool)
  | fmaxF32 (d : VReg) (a : Src) (b : VReg) (x : Bool)
  | fmacF32 (d : VReg) (a : Src) (b : VReg) (x : Bool)
  | faddF64 (d : VReg) (a : Src) (b : VReg) (x : Bool)
  | fsubF64 (d : VReg) (a : Src) (b : VReg) (x : Bool)
  | fmulF64 (d : VReg) (a : Src) (b : VReg) (x : Bool)
  | fminF64 (d : VReg) (a : Src) (b : VReg) (x : Bool)
  | fmaxF64 (d : VReg) (a : Src) (b : VReg) (x : Bool)
  | fmacF64 (d : VReg) (a : Src) (b : VReg) (x : Bool)
  | faddX2Bf16 (d : VReg) (a : Src) (b : VReg) (x : Bool)
  | fmulX2Bf16 (d : VReg) (a : Src) (b : VReg) (x : Bool)
  | fmacX2Bf16 (d : VReg) (a : Src) (b : VReg) (x : Bool)
  | faddX2F16 (d : VReg) (a : Src) (b : VReg) (x : Bool)
  | fmulX2F16 (d : VReg) (a : Src) (b : VReg) (x : Bool)
  | fmacX2F16 (d : VReg) (a : Src) (b : VReg) (x : Bool)
  | dot2Bf16 (d : VReg) (a : Src) (b : VReg) (x : Bool)
  | nop
  -- LB: immediate forms (R222) and control (R243, R245-R247)
  | addiI32 (d a : VReg) (i : BitVec 9)
  | muliI32 (d a : VReg) (i : BitVec 9)
  | andiB32 (d a : VReg) (i : BitVec 9)
  | oriB32 (d a : VReg) (i : BitVec 9)
  | xoriB32 (d a : VReg) (i : BitVec 9)
  | shliB32 (d a : VReg) (i : BitVec 5)
  | shriN32 (d a : VReg) (i : BitVec 5)
  | shriI32 (d a : VReg) (i : BitVec 5)
  | moviB32 (d : VReg) (i : BitVec 9)
  | bra (pg : BitVec 3) (pn : Bool) (off : BitVec 19)
  | meet (off : BitVec 19)
  | unmeet
  | exit (pg : BitVec 3) (pn : Bool)
  | yield
  -- LM: flat, tensor and vault accesses (R253-R256), claims (R271)
  | ldB8 (t c : VReg) (la : BitVec 4) (x : SReg)
  | ldI8 (t c : VReg) (la : BitVec 4) (x : SReg)
  | ldB16 (t c : VReg) (la : BitVec 4) (x : SReg)
  | ldI16 (t c : VReg) (la : BitVec 4) (x : SReg)
  | ldB32 (t c : VReg) (la : BitVec 4) (x : SReg)
  | ldB64 (t c : VReg) (la : BitVec 4) (x : SReg)
  | ldB128 (t c : VReg) (la : BitVec 4) (x : SReg)
  | stB8 (t c : VReg) (la : BitVec 4) (x : SReg)
  | stB16 (t c : VReg) (la : BitVec 4) (x : SReg)
  | stB32 (t c : VReg) (la : BitVec 4) (x : SReg)
  | stB64 (t c : VReg) (la : BitVec 4) (x : SReg)
  | stB128 (t c : VReg) (la : BitVec 4) (x : SReg)
  | tld (t c : VReg) (la : BitVec 4) (x : SReg)
  | tst (t c : VReg) (la : BitVec 4) (x : SReg)
  | tstp (t c : VReg) (la : BitVec 4) (x : SReg)
  | vldB32 (t c : VReg) (la : BitVec 4) (x : SReg)
  | vldB64 (t c : VReg) (la : BitVec 4) (x : SReg)
  | vldB128 (t c : VReg) (la : BitVec 4) (x : SReg)
  | vstB32 (t c : VReg) (la : BitVec 4) (x : SReg)
  | vstB64 (t c : VReg) (la : BitVec 4) (x : SReg)
  | vstB128 (t c : VReg) (la : BitVec 4) (x : SReg)
  | claim (c : VReg) (la : BitVec 4) (x : SReg)
  | tclaim (c : VReg) (la : BitVec 4) (x : SReg)
  -- LW: guarded forms (R226-R242)
  | madI32 (g : Guard) (d a b c : VReg)
  | madwI32 (g : Guard) (d a b c : VReg)
  | madwN32 (g : Guard) (d a b c : VReg)
  | addI64 (g : Guard) (d a b : VReg)
  | subI64 (g : Guard) (d a b : VReg)
  | addcN32 (g : Guard) (d a b : VReg) (ci co : BitVec 3)
  | bfxI32 (g : Guard) (d a : VReg) (pos : BitVec 5) (len : BitVec 6)
  | bfxN32 (g : Guard) (d a : VReg) (pos : BitVec 5) (len : BitVec 6)
  | bfiB32 (g : Guard) (d a b : VReg) (pos : BitVec 5) (len : BitVec 6)
  | bitfnB32 (g : Guard) (d a b c : VReg) (fn : BitVec 8)
  | cselB32 (g : Guard) (d a b : VReg) (p : BitVec 3) (neg : Bool)
  | cmpI32 (g : Guard) (pd : BitVec 3) (a b : VReg) (cond : IntCond)
  | cmpN32 (g : Guard) (pd : BitVec 3) (a b : VReg) (cond : IntCond)
  | cmpI64 (g : Guard) (pd : BitVec 3) (a b : VReg) (cond : IntCond)
  | fcmpF32 (g : Guard) (pd : BitVec 3) (a b : VReg) (cond : FltCond)
  | fcmpF64 (g : Guard) (pd : BitVec 3) (a b : VReg) (cond : FltCond)
  | pset (g : Guard) (pd pa pb : BitVec 3) (tbl : BitVec 4)
  | ffmaF32 (g : Guard) (d a b c : VReg) (np nc : Bool)
  | ffmaF64 (g : Guard) (d a b c : VReg) (np nc : Bool)
  | ffmaX2Bf16 (g : Guard) (d a b c : VReg) (np nc : Bool)
  | frcpF32 (g : Guard) (d a : VReg) (la : BitVec 4)
  | frsqF32 (g : Guard) (d a : VReg) (la : BitVec 4)
  | fsqrtF32 (g : Guard) (d a : VReg) (la : BitVec 4)
  | fsqrtF64 (g : Guard) (d a : VReg) (la : BitVec 4)
  | fdivF32 (g : Guard) (d a b : VReg) (la : BitVec 4)
  | fdivF64 (g : Guard) (d a b : VReg) (la : BitVec 4)
  | fexp2F32 (g : Guard) (d a : VReg) (la : BitVec 4)
  | flog2F32 (g : Guard) (d a : VReg) (la : BitVec 4)
  | fsinpF32 (g : Guard) (d a : VReg) (la : BitVec 4)
  | fcospF32 (g : Guard) (d a : VReg) (la : BitVec 4)
  | frndF32 (g : Guard) (d a : VReg) (la : BitVec 4) (r : RndSel) (exact : Bool)
  | frndF64 (g : Guard) (d a : VReg) (la : BitVec 4) (r : RndSel) (exact : Bool)
  | fclass (g : Guard) (d a : VReg) (ty : BitVec 2)
  | cvt (g : Guard) (d a : VReg) (sl dl : BitVec 2) (rnd : CvtRnd) (src dst : NumTy)
  | qblkF4x (g : Guard) (d a : VReg)
  | dqblkF4x (g : Guard) (d a b : VReg) (hi : Bool)
  -- LW memory forms (R257-R264)
  | atom (g : Guard) (d a b : VReg) (la : BitVec 4) (ty : AtomTy) (op : AtomOp) (ord : MemOrd) (sc : Scope) (x : SReg)
  | cas (g : Guard) (d a b c : VReg) (la : BitVec 4) (wide : Bool) (ord : MemOrd) (sc : Scope) (x : SReg)
  | red (g : Guard) (a b : VReg) (la : BitVec 4) (ty : AtomTy) (op : AtomOp) (ord : MemOrd) (sc : Scope) (x : SReg) (bar : Option SReg)
  | tatom (g : Guard) (d a b : VReg) (la : BitVec 4) (op : AtomOp) (ord : MemOrd) (sc : Scope) (x : SReg)
  | tred (g : Guard) (a b : VReg) (la : BitVec 4) (op : AtomOp) (ord : MemOrd) (sc : Scope) (x : SReg) (bar : Option SReg)
  | vatom (g : Guard) (d a b : VReg) (la : BitVec 4) (ty : AtomTy) (op : AtomOp) (ord : MemOrd) (sc : Scope) (x : SReg)
  | ldAcq (g : Guard) (d a : VReg) (la : BitVec 4) (wide vault : Bool) (sc : Scope) (x : SReg)
  | stRel (g : Guard) (a b : VReg) (wide vault : Bool) (sc : Scope) (x : SReg)
  | fence (g : Guard) (sc : Scope)
  -- LW control (R244, R245, R230, R248)
  | jal (g : Guard) (d : VReg) (off : BitVec 31)
  | jr (g : Guard) (link : Option VReg) (a : VReg)
  | meetm (g : Guard) (a : VReg) (off : BitVec 17)
  | vote (g : Guard) (mode : BitVec 2) (d : VReg) (pd p : BitVec 3) (neg : Bool)
  | brk (g : Guard) (code : BitVec 16)
  -- PA: uniform arithmetic (R277, R278) and special registers (R282)
  | sadd (d a b : SReg)
  | ssub (d a b : SReg)
  | smul (d a b : SReg)
  | sand (d a b : SReg)
  | sor (d a b : SReg)
  | sxor (d a b : SReg)
  | sshl (d a b : SReg)
  | sshr (d a b : SReg) (m : Bool)
  | smin (d a b : SReg) (m : Bool)
  | smax (d a b : SReg) (m : Bool)
  | sadd64 (d a b : SReg) (m : Bool)
  | smov (d a : SReg)
  | scmp (q : BitVec 2) (a b : SReg) (cond : IntCond) (uns wide : Bool)
  | ssel (d : SReg) (q : BitVec 2) (neg : Bool) (a b : SReg)
  | sget (d : SReg) (cw : Bool) (sel : BitVec 6) (idx : BitVec 4)
  | sset (sel : BitVec 6) (a : SReg)
  | svote (d : SReg) (p : BitVec 3) (neg : Bool)
  -- PI: constants (R279), branches and sleep (R280, R281)
  | smovi (d : SReg) (i : BitVec 17)
  | saddi (d : SReg) (i : BitVec 17)
  | smovhi (d : SReg) (i : BitVec 15)
  | sbra (qg : BitVec 3) (qn : Bool) (off : BitVec 19)
  | scall (qg : BitVec 3) (qn : Bool) (off : BitVec 19)
  | sret (qg : BitVec 3) (qn : Bool)
  | ssleep (qg : BitVec 3) (qn : Bool) (n : BitVec 19)
  -- PE: engine commands (R286-R303) and reserving loops (R272-R274)
  | cpy (r c bar : SReg) (la : BitVec 4) (tok : Bool)
  | cpyf (r c bar : SReg) (la : BitVec 4) (b tok : Bool)
  | cpyg (r c bar : SReg) (la : BitVec 4) (tok : Bool)
  | mma (r c bar : SReg) (la : BitVec 4) (tok : Bool)
  | mmv (r bar : SReg) (la : BitVec 4) (tok : Bool)
  | accdrain (r c bar : SReg) (la : BitVec 4) (zero tok : Bool)
  | accreduce (r bar : SReg) (la : BitVec 4) (tok : Bool)
  | splgrid (r bar : SReg) (la : BitVec 4) (tok : Bool)
  | splload (r bar : SReg) (la : BitVec 4) (tok : Bool)
  | splmv (r bar : SReg) (la : BitVec 4) (dx tok : Bool)
  | splgrad (r bar : SReg) (la : BitVec 4) (tok : Bool)
  | splrefine (bar : SReg) (la : BitVec 4) (tok : Bool)
  | item (r : SReg)
  | admitWave (r : SReg)
  | iret (r : SReg)
  -- PW (R109, R265-R270, R279, R283-R285, R292-R312)
  | smovl (d : SReg) (i : Word)
  | rdv (d a : SReg) (cnt : BitVec 4) (off : BitVec 16)
  | wrv (a b : SReg) (cnt : BitVec 4) (off : BitVec 16)
  | barInit (a : SReg) (n : CountSrc)
  | barArrive (sc : Scope) (a : SReg)
  | barExpect (a b : SReg)
  | barWait (sc : Scope) (stat : Option SReg) (a b : SReg)
  | barTest (sc : Scope) (d a b : SReg)
  | stgWait (stat : Option SReg) (a b : SReg)
  | stgDone (a b : SReg)
  | acquire
  | release
  | accalloc (h : BitVec 3) (kind : AccKind)
  | accfree (h : BitVec 3)
  | nodeReg (d a b : SReg)
  | nodeDec (a b : SReg)
  | nodeDone
  | tadvise (a b : SReg) (cls : BitVec 3) (unsettle : Bool) (cnt : BitVec 24)
  | tpin (a b : SReg) (layout : BitVec 4) (cnt : BitVec 24)
  | tunpin (a b : SReg) (cnt : BitVec 24)
  | tquery (d a b : SReg) (img : Bool)
  | tdef (a : SReg)
  | sfence (sc : Scope)
  | icinv (sc : Scope) (a b : SReg)
  | sys (d a b : SReg) (n : BitVec 16)
  | stage1Invalidate (d a b : SReg)
  | stage1Root (d a b : SReg)
  | takePageRequest (d a b : SReg)
  | reply (d a b : SReg)
  | donateRetileFrames (d a b : SReg)
  | rti
  | rqget (d a b : SReg)
  | rqput (d a b : SReg)
  | sbget (d a b : SReg)
  | ctxsave (d a b : SReg)
  | ctxrest (d a b : SReg)
  -- host actions (R17-R19, R28, R87, R128, R166, R167, R185, R195, R197, R316)
  | nodeDecrement (fn slot : Nat) (d : Word)
  | registration (fn : Nat) (w : DWord)
  | nodeWindowBadAccess (fn off : Nat)
  | hostMemWrite (fn addr : Nat) (data : List Byte)
  | hostMemRead (fn addr n : Nat)
  | hostSnoop (addr : Nat)
  | stage (hpa : Nat)
  | commit
  | xlinv (part gpa count : Nat)
  | frames (part group list count : Nat)
  | framesTakeBack (part group list count : Nat)
  | assign (part : Nat) (tenant : DWord) (nonce : BitVec 256)
  | token (part : Nat)
  | cert
  | preq (hpa : Nat) (reserved : Bool)
  | preply (arg : DWord) (reserved : Bool)
  | preempt (part grace : Nat)
  | resume (part : Nat)
  | ntailWrite (w : Word)
  | nlostClear (w : Word)
  | logvalidWrite (w : DWord)
  | registerWrite (off : Nat) (w : DWord)
  -- scheduler and admission (R15, R21, R22, R25, R26, R132, R175)
  | groupDispatch (die : Nat)
  | reservation (die : Nat)
  | argumentLoadReply (core slot : Nat)
  | overflowListRead (slot : Nat)
  | planningInterval
  | energyCorrection
  | scrubTokenDelivery (part : Nat) (rcb : DWord)
  | scrubholdTimeout (part : Nat) (rcb : DWord)
  -- packs: timers, grants and replies (R120, R121, R135, R136, R141, R146, R158, R179, R250, R281, R319, R320)
  | joinTimeout (core slot : Nat)
  | yieldWindowEnd (core slot lane : Nat)
  | ssleepWake (core slot : Nat)
  | acquireGrant (core unit : Nat)
  | queueEntryGrant (core : Nat) (q : QueueId)
  | laneReply (core slot entry lane : Nat)
  | fetchReply (core slot : Nat)
  | walkComplete (core slot entry lane : Nat)
  | pageRequestEntryGrant (fn : Nat)
  | homeSliceRequest (core slot entry lane : Nat)
  | hbmReadReply (slice : Nat)
  | atomicPerform (core slot entry lane : Nat)
  | vaultBankUpdate (core : Nat)
  | remoteRequest (req : RemoteReq)
  | promotionRequest (slice : Nat)
  | promotionReply (slice : Nat)
  -- memory system (R90, R95, R96, R184) and re-tile engines (R104, R105)
  | patrol (slice addr : Nat)
  | hbmRecalibration (channel : Nat)
  | linkRetrain (source : Nat)
  | monitorReport (slice : Nat)
  | retileStart (stack : Nat)
  | retileCopyEnd (stack : Nat)
  | retileDirtyPassEnd (stack : Nat)
  | retilePublish (stack : Nat)
  | retileDirtyCopyDone (stack : Nat)
  | retileRelease (stack : Nat)
  -- engines (R138, R139, R287)
  | engineCommandStart (core id : Nat)
  | kstepWrite (core id : Nat)
  | engineCommandCompletion (core id : Nat)
  -- pre-emption, commits, retirement, scrub (R164, R168-R175, R195-R197), boot and loss (R28, R94, R201), teardown (R193)
  | graceExpiry (part : Nat)
  | shadowSwapDone (part : Nat)
  | saveDrainDone (part : Nat)
  | commitPhase
  | layoutVersionTick
  | revocation (unit : UnitRef)
  | retirement (unit : UnitRef)
  | scrub (unit : UnitRef)
  | scrubDone (unit : UnitRef)
  | scrubTokenSigned (part : Nat)
  | coldBoot
  | warmReset
  | firmwareReload
  | refresh (sel : Nat)
  | ralvanPortLoss (port : Nat)
  | regionTeardown (part : Nat) (rcb : DWord)
  | packAccessReply (core slot : Nat)
  deriving DecidableEq, Repr

end Sys2Proof
end

