-- ==== Sys2Proof/WellFormed.lean ====
section
/-! DEFINITION. Which instructions have an encoding (spec/10_encoding.md R205-R211 and the field rules of the instruction
chapters), and the numeric codes of the named field values. -/
namespace Sys2Proof

def IntCond.code : IntCond → Nat
  | .eq => 0 | .ne => 1 | .lt => 2 | .le => 3 | .gt => 4 | .ge => 5

def IntCond.ofCode : Nat → Option IntCond
  | 0 => some .eq | 1 => some .ne | 2 => some .lt | 3 => some .le | 4 => some .gt | 5 => some .ge | _ => none

def FltCond.code : FltCond → Nat
  | .eq => 0 | .ne => 1 | .lt => 2 | .le => 3 | .gt => 4 | .ge => 5 | .un => 6 | .or => 7
  | .ltq => 8 | .leq => 9 | .gtq => 10 | .geq => 11

def FltCond.ofCode : Nat → Option FltCond
  | 0 => some .eq | 1 => some .ne | 2 => some .lt | 3 => some .le | 4 => some .gt | 5 => some .ge | 6 => some .un
  | 7 => some .or | 8 => some .ltq | 9 => some .leq | 10 => some .gtq | 11 => some .geq | _ => none

def RndSel.code : RndSel → Nat
  | .rne => 0 | .rtz => 1 | .rup => 2 | .rdn => 3 | .mode => 4

def RndSel.ofCode : Nat → Option RndSel
  | 0 => some .rne | 1 => some .rtz | 2 => some .rup | 3 => some .rdn | 4 => some .mode | _ => none

def CvtRnd.code : CvtRnd → Nat
  | .rne => 0 | .rtz => 1 | .rup => 2 | .rdn => 3 | .dyn => 4 | .sr => 5

def CvtRnd.ofCode : Nat → Option CvtRnd
  | 0 => some .rne | 1 => some .rtz | 2 => some .rup | 3 => some .rdn | 4 => some .dyn | 5 => some .sr | _ => none

def NumTy.code : NumTy → Nat
  | .f64 => 0 | .f32 => 1 | .bf16 => 2 | .f16 => 3 | .e4m3 => 4 | .e5m2 => 5 | .i64 => 6 | .n64 => 7 | .i32 => 8
  | .n32 => 9 | .i16 => 10 | .i8 => 11 | .n8 => 12 | .f4x => 13

def NumTy.ofCode : Nat → Option NumTy
  | 0 => some .f64 | 1 => some .f32 | 2 => some .bf16 | 3 => some .f16 | 4 => some .e4m3 | 5 => some .e5m2
  | 6 => some .i64 | 7 => some .n64 | 8 => some .i32 | 9 => some .n32 | 10 => some .i16 | 11 => some .i8
  | 12 => some .n8 | 13 => some .f4x | _ => none

def AtomTy.code : AtomTy → Nat
  | .i32 => 0 | .i64 => 1 | .f32 => 2 | .f64 => 3

def AtomTy.ofCode : Nat → Option AtomTy
  | 0 => some .i32 | 1 => some .i64 | 2 => some .f32 | 3 => some .f64 | _ => none

def AtomOp.code : AtomOp → Nat
  | .add => 0 | .min => 1 | .max => 2 | .minu => 3 | .maxu => 4 | .and => 5 | .or => 6 | .xor => 7 | .exch => 8

def AtomOp.ofCode : Nat → Option AtomOp
  | 0 => some .add | 1 => some .min | 2 => some .max | 3 => some .minu | 4 => some .maxu | 5 => some .and
  | 6 => some .or | 7 => some .xor | 8 => some .exch | _ => none

def MemOrd.code : MemOrd → Nat
  | .rlx => 0 | .acq => 1 | .rel => 2 | .acqrel => 3

def MemOrd.ofCode : Nat → Option MemOrd
  | 0 => some .rlx | 1 => some .acq | 2 => some .rel | 3 => some .acqrel | _ => none

def Scope.code : Scope → Nat
  | .pack => 0 | .grp => 1 | .cl => 2 | .dev => 3 | .sys => 4 | .rem => 5

def Scope.ofCode : Nat → Option Scope
  | 0 => some .pack | 1 => some .grp | 2 => some .cl | 3 => some .dev | 4 => some .sys | 5 => some .rem | _ => none

def AccKind.code : AccKind → Nat
  | .single => 0 | .split => 1 | .splgrad => 2

def AccKind.ofCode : Nat → Option AccKind
  | 0 => some .single | 1 => some .split | 2 => some .splgrad | _ => none

/-- Whether an atomic operation is permitted for a type (R259). -/
def AtomOp.okFor (op : AtomOp) (ty : AtomTy) : Bool :=
  match ty, op with
  | .i32, _ => true
  | .i64, _ => true
  | _, .add => true
  | _, .min => true
  | _, .max => true
  | _, .exch => true
  | _, _ => false

/-- Scope .rem needs acquire ordering (R257). -/
def scopeOk (sc : Scope) (ord : MemOrd) : Bool := sc != .rem || ord == .acq || ord == .acqrel

/-- ORD and SCOPE of a reduction (R257). -/
def redOk (sc : Scope) (ord : MemOrd) : Bool := sc != .rem && (ord == .rlx || ord == .rel)

/-- Number of elements of a type that fit the 32-bit register: the range of SL and DL (R239). -/
def NumTy.lanes : NumTy → Nat
  | .bf16 | .f16 | .i16 => 2
  | .e4m3 | .e5m2 | .i8 | .n8 => 4
  | _ => 1

/-- SL, DL and the destination type of cvt (R239). -/
def cvtOk (sl dl : BitVec 2) (src dst : NumTy) : Bool :=
  decide (sl.toNat < src.lanes) && decide (dl.toNat < dst.lanes) && dst != .f4x

/-- The field rules of vote (R230). -/
def voteOk (mode : BitVec 2) (d : VReg) (pd : BitVec 3) : Bool :=
  if mode = 0 then pd == 0 else d == 0 && pd != 7

/-- The guard field of the pack branches (R38, R280). -/
def qgOk (qg : BitVec 3) (qn : Bool) : Bool := decide (qg.toNat < 4) || (qg == 7 && !qn)

def Guard.ok (g : Guard) : Bool := !(g.pg == 7 && g.pn)

/-- A reserved operand code is one that R206 reserves. -/
def Src.ok : Src → Bool
  | .reserved c => (decide (0xE3 ≤ c.toNat) && decide (c.toNat ≤ 0xFD)) || c == 0xFF
  | _ => true

/-- A lookahead of an engine command needs a token (R210, R286). -/
def laOk (la : BitVec 4) (tok : Bool) : Bool := tok || la == 0

/-- An instruction is well formed when the encoding tables can hold it; a host action or device event always is. -/
def Instr.wf : Instr → Bool
  | .addI32 _ a _ | .addI32Sat _ a _ | .subI32 _ a _ | .subI32Sat _ a _ | .mulI32 _ a _ | .mulhiI32 _ a _
  | .mulhiN32 _ a _ | .minI32 _ a _ | .maxI32 _ a _ | .minN32 _ a _ | .maxN32 _ a _ | .andB32 _ a _ | .orB32 _ a _
  | .xorB32 _ a _ | .andnB32 _ a _ | .shlB32 _ a _ | .shrN32 _ a _ | .shrI32 _ a _ | .rotB32 _ a _ | .popcB32 _ a
  | .clzB32 _ a | .brevB32 _ a | .lsbB32 _ a | .movB32 _ a | .permB8 _ a _ | .addX2I16 _ a _ | .addX2I16Sat _ a _
  | .subX2I16 _ a _ | .subX2I16Sat _ a _ | .minX2I16 _ a _ | .maxX2I16 _ a _ | .dot4I8 _ a _ | .dot4N8 _ a _
  | .pullIdx _ a _ | .pullXor _ a _ | .pullBack _ a _ | .pullFwd _ a _ => a.ok
  | .faddF32 _ a _ _ | .fsubF32 _ a _ _ | .fmulF32 _ a _ _ | .fminF32 _ a _ _ | .fmaxF32 _ a _ _ | .fmacF32 _ a _ _
  | .faddF64 _ a _ _ | .fsubF64 _ a _ _ | .fmulF64 _ a _ _ | .fminF64 _ a _ _ | .fmaxF64 _ a _ _ | .fmacF64 _ a _ _
  | .faddX2Bf16 _ a _ _ | .fmulX2Bf16 _ a _ _ | .fmacX2Bf16 _ a _ _ | .faddX2F16 _ a _ _ | .fmulX2F16 _ a _ _
  | .fmacX2F16 _ a _ _ | .dot2Bf16 _ a _ _ => a.ok
  | .bra pg pn _ => !(pg == 7 && pn)
  | .exit pg pn => !(pg == 7 && pn)
  | .madI32 g _ _ _ _ | .madwI32 g _ _ _ _ | .madwN32 g _ _ _ _ | .addI64 g _ _ _ | .subI64 g _ _ _
  | .addcN32 g _ _ _ _ _ | .bitfnB32 g _ _ _ _ _ | .ffmaF32 g _ _ _ _ _ _ | .ffmaF64 g _ _ _ _ _ _
  | .ffmaX2Bf16 g _ _ _ _ _ _ | .frcpF32 g _ _ _ | .frsqF32 g _ _ _ | .fsqrtF32 g _ _ _ | .fsqrtF64 g _ _ _
  | .fdivF32 g _ _ _ _ | .fdivF64 g _ _ _ _ | .fexp2F32 g _ _ _ | .flog2F32 g _ _ _ | .fsinpF32 g _ _ _
  | .fcospF32 g _ _ _ | .frndF32 g _ _ _ _ _ | .frndF64 g _ _ _ _ _ | .fclass g _ _ _ | .qblkF4x g _ _
  | .dqblkF4x g _ _ _ _ | .jal g _ _ | .meetm g _ _ | .brk g _ => g.ok
  | .jr g _ _ => g.ok
  | .bfxI32 g _ _ _ len | .bfxN32 g _ _ _ len | .bfiB32 g _ _ _ _ len => g.ok && decide (len.toNat ≤ 32)
  | .cselB32 g _ _ _ p _ => g.ok && p != 7
  | .cmpI32 g pd _ _ _ | .cmpN32 g pd _ _ _ | .cmpI64 g pd _ _ _ | .fcmpF32 g pd _ _ _ | .fcmpF64 g pd _ _ _ =>
    g.ok && pd != 7
  | .pset g pd _ _ _ => g.ok && pd != 7
  | .cvt g _ _ sl dl _ src dst => g.ok && cvtOk sl dl src dst
  | .atom g _ _ _ _ ty op ord sc _ => g.ok && op.okFor ty && scopeOk sc ord
  | .vatom g _ _ _ _ ty op ord sc _ => g.ok && op.okFor ty && scopeOk sc ord
  | .cas g _ _ _ _ _ _ ord sc _ => g.ok && scopeOk sc ord
  | .red g _ _ _ ty op ord sc _ _ => g.ok && op.okFor ty && op != .exch && redOk sc ord
  | .tatom g _ _ _ _ _ ord sc _ => g.ok && scopeOk sc ord
  | .tred g _ _ _ op ord sc _ _ => g.ok && op != .exch && redOk sc ord
  | .ldAcq g _ _ _ _ _ _ _ => g.ok
  | .stRel g _ _ _ _ sc _ => g.ok && sc != .rem
  | .fence g sc => g.ok && sc != .rem
  | .vote g mode d pd _ _ => g.ok && voteOk mode d pd
  | .sget _ cw sel idx => idx == 0 || (cw && sel == 29)
  | .sbra qg qn _ | .scall qg qn _ | .ssleep qg qn _ => qgOk qg qn
  | .sret qg qn => qgOk qg qn
  | .cpy _ _ _ la tok | .cpyg _ _ _ la tok | .mma _ _ _ la tok => laOk la tok
  | .cpyf _ _ _ la _ tok | .accdrain _ _ _ la _ tok => laOk la tok
  | .mmv _ _ la tok | .accreduce _ _ la tok | .splgrid _ _ la tok | .splload _ _ la tok | .splgrad _ _ la tok =>
    laOk la tok
  | .splmv _ _ la _ tok => laOk la tok
  | .splrefine _ la tok => laOk la tok
  | .barArrive sc _ => sc != .rem
  | .barWait sc _ _ _ => sc != .rem
  | .barTest sc _ _ _ => sc != .rem
  | .sfence sc => sc != .rem
  | .icinv sc _ _ => sc == .grp || sc == .cl || sc == .dev
  | .sys _ _ _ n => decide (n = 0 ∨ 5 < n.toNat)
  | _ => true

end Sys2Proof
end

