-- ==== Sys2Proof/Decode.lean ====
section
/-! DEFINITION. From instruction words to instructions (spec/10_encoding.md R202-R211 and the encoding tables of the
instruction chapters) and back. Decoding is total: every encoding that is not an instruction is rejected by name, and the
step takes the ILLEGAL trap for it (R205, R211). -/
namespace Sys2Proof

/-- Why words are no instruction (R205, R211): each raises ILLEGAL. -/
inductive DecodeError where
  /-- a reserved opcode, the all-zero word included -/
  | reserved
  /-- a must-be-zero field that is not zero -/
  | nonZero
  /-- a field value the instruction's entry forbids with ILLEGAL -/
  | badField
  /-- fewer bytes than the instruction has -/
  | short
  deriving DecidableEq, Repr

/-- Bits [lo+n-1:lo] of x. -/
def fld {k : Nat} (x : BitVec k) (lo n : Nat) : BitVec n := x.extractLsb' lo n

/-- The instruction, if its must-be-zero fields are zero. -/
def req (c : Bool) (i : Instr) : Except DecodeError Instr := if c then .ok i else .error .nonZero

/-- The instruction, if its field values are allowed. -/
def lgl (c : Bool) (i : Instr) : Except DecodeError Instr := if c then .ok i else .error .badField

/-- The instruction of a named field value. -/
def named {α : Type} (x : Option α) (f : α → Instr) : Except DecodeError Instr :=
  match x with
  | some a => .ok (f a)
  | none => .error .badField

/-- Operand code a (R206). -/
def decodeSrc (a : BitVec 8) (lit : Word) : Src :=
  if a.toNat < 0x80 then .v (fld a 0 7)
  else if a.toNat < 0xC0 then .s (fld a 0 6)
  else if a.toNat < 0xE0 then .small (fld a 0 5)
  else if a = 0xE0 then .lane
  else if a = 0xE1 then .item
  else if a = 0xE2 then .tglobal
  else if a = 0xFE then .lit lit
  else .reserved a

/-- The m17 field of the memory forms (R257). -/
def memForm (m : BitVec 17) (k : AtomTy → AtomOp → MemOrd → Scope → SReg → Except DecodeError Instr) :
    Except DecodeError Instr :=
  match AtomTy.ofCode (fld m 15 2).toNat, AtomOp.ofCode (fld m 11 4).toNat, MemOrd.ofCode (fld m 9 2).toNat,
    Scope.ofCode (fld m 6 3).toNat with
  | some ty, some op, some ord, some sc => k ty op ord sc (fld m 0 6)
  | _, _, _, _ => .error .badField

/-- The barrier field of the reductions (R263). -/
def barForm (c : BitVec 7) (k : Option SReg → Except DecodeError Instr) : Except DecodeError Instr :=
  if c.getLsbD 6 then k (some (fld c 0 6)) else if fld c 0 6 = 0 then k none else .error .nonZero

/-- cvt (R239). -/
def decodeCvt (g : Guard) (d a : VReg) (m : BitVec 17) : Except DecodeError Instr :=
  match CvtRnd.ofCode (fld m 8 3).toNat, NumTy.ofCode (fld m 4 4).toNat, NumTy.ofCode (fld m 0 4).toNat with
  | some r, some s, some t => lgl (cvtOk (fld m 13 2) (fld m 11 2) s t) (.cvt g d a (fld m 13 2) (fld m 11 2) r s t)
  | _, _, _ => .error .badField

/-- The scope field of the barrier instructions and sfence (R265, R266). -/
def packScope (m : BitVec 4) (f : Scope → Instr) : Except DecodeError Instr :=
  if (fld m 0 3).toNat < 5 then named (Scope.ofCode (fld m 0 3).toNat) f else .error .badField

/-- sys by its service number: services 1-5 are instructions of their own in the opcode table (R309). -/
def sysForm (d a b : SReg) (n : BitVec 16) : Instr :=
  if n = 1 then .stage1Invalidate d a b
  else if n = 2 then .stage1Root d a b
  else if n = 3 then .takePageRequest d a b
  else if n = 4 then .reply d a b
  else if n = 5 then .donateRetileFrames d a b
  else .sys d a b n

/-- Format LA (R203, R221-R225, R231-R233, R249); `lit` is the word that follows (R206). -/
def decodeLA (w lit : Word) : Except DecodeError Instr :=
  let d := fld w 16 7
  let a := fld w 8 8
  let b := fld w 1 7
  let x := w.getLsbD 0
  let src := decodeSrc a lit
  match (fld w 23 6).toNat with
  | 0x01 => .ok (if x then .addI32Sat d src b else .addI32 d src b)
  | 0x02 => .ok (if x then .subI32Sat d src b else .subI32 d src b)
  | 0x03 => req (!x) (.mulI32 d src b)
  | 0x04 => req (!x) (.mulhiI32 d src b)
  | 0x05 => req (!x) (.mulhiN32 d src b)
  | 0x06 => req (!x) (.minI32 d src b)
  | 0x07 => req (!x) (.maxI32 d src b)
  | 0x08 => req (!x) (.minN32 d src b)
  | 0x09 => req (!x) (.maxN32 d src b)
  | 0x0A => req (!x) (.andB32 d src b)
  | 0x0B => req (!x) (.orB32 d src b)
  | 0x0C => req (!x) (.xorB32 d src b)
  | 0x0D => req (!x) (.andnB32 d src b)
  | 0x0E => req (!x) (.shlB32 d src b)
  | 0x0F => req (!x) (.shrN32 d src b)
  | 0x10 => req (!x) (.shrI32 d src b)
  | 0x11 => req (!x) (.rotB32 d src b)
  | 0x12 => req (!x && b == 0) (.popcB32 d src)
  | 0x13 => req (!x && b == 0) (.clzB32 d src)
  | 0x14 => req (!x && b == 0) (.brevB32 d src)
  | 0x15 => req (!x && b == 0) (.lsbB32 d src)
  | 0x16 => req (!x && b == 0) (.movB32 d src)
  | 0x17 => req (!x) (.permB8 d src b)
  | 0x18 => .ok (if x then .addX2I16Sat d src b else .addX2I16 d src b)
  | 0x19 => .ok (if x then .subX2I16Sat d src b else .subX2I16 d src b)
  | 0x1A => req (!x) (.minX2I16 d src b)
  | 0x1B => req (!x) (.maxX2I16 d src b)
  | 0x1C => .ok (if x then .dot4N8 d src b else .dot4I8 d src b)
  | 0x1D => req (!x) (.pullIdx d src b)
  | 0x1E => req (!x) (.pullXor d src b)
  | 0x1F => req (!x) (.pullBack d src b)
  | 0x20 => req (!x) (.pullFwd d src b)
  | 0x21 => .ok (.faddF32 d src b x)
  | 0x22 => .ok (.fsubF32 d src b x)
  | 0x23 => .ok (.fmulF32 d src b x)
  | 0x24 => .ok (.fminF32 d src b x)
  | 0x25 => .ok (.fmaxF32 d src b x)
  | 0x26 => .ok (.fmacF32 d src b x)
  | 0x27 => .ok (.faddF64 d src b x)
  | 0x28 => .ok (.fsubF64 d src b x)
  | 0x29 => .ok (.fmulF64 d src b x)
  | 0x2A => .ok (.fminF64 d src b x)
  | 0x2B => .ok (.fmaxF64 d src b x)
  | 0x2C => .ok (.fmacF64 d src b x)
  | 0x2D => .ok (.faddX2Bf16 d src b x)
  | 0x2E => .ok (.fmulX2Bf16 d src b x)
  | 0x2F => .ok (.fmacX2Bf16 d src b x)
  | 0x30 => .ok (.faddX2F16 d src b x)
  | 0x31 => .ok (.fmulX2F16 d src b x)
  | 0x32 => .ok (.fmacX2F16 d src b x)
  | 0x33 => .ok (.dot2Bf16 d src b x)
  | 0x3F => req (d == 0 && a == 0 && b == 0 && !x) .nop
  | _ => .error .reserved

/-- Format LB and its branch forms (R203, R222, R243, R245-R247). -/
def decodeLB (w : Word) : Except DecodeError Instr :=
  let d := fld w 16 7
  let a := fld w 9 7
  let i := fld w 0 9
  let pg := fld w 20 3
  let pn := w.getLsbD 19
  let off := fld w 0 19
  match (fld w 23 6).toNat with
  | 0x00 => .ok (.addiI32 d a i)
  | 0x01 => .ok (.muliI32 d a i)
  | 0x02 => .ok (.andiB32 d a i)
  | 0x03 => .ok (.oriB32 d a i)
  | 0x04 => .ok (.xoriB32 d a i)
  | 0x05 => req (fld i 5 4 == 0) (.shliB32 d a (fld i 0 5))
  | 0x06 => req (fld i 5 4 == 0) (.shriN32 d a (fld i 0 5))
  | 0x07 => req (fld i 5 4 == 0) (.shriI32 d a (fld i 0 5))
  | 0x08 => req (a == 0) (.moviB32 d i)
  | 0x20 => lgl (!(pg == 7 && pn)) (.bra pg pn off)
  | 0x21 => req (pg == 7 && !pn) (.meet off)
  | 0x22 => req (fld w 0 23 == 0) .unmeet
  | 0x23 => if off != 0 then .error .nonZero else lgl (!(pg == 7 && pn)) (.exit pg pn)
  | 0x24 => req (fld w 0 23 == 0) .yield
  | _ => .error .reserved

/-- Format LM (R203, R253-R256, R271). -/
def decodeLM (w : Word) : Except DecodeError Instr :=
  let t := fld w 17 7
  let c := fld w 10 7
  let la := fld w 6 4
  let x := fld w 0 6
  match (fld w 24 5).toNat with
  | 0x00 => .ok (.ldB8 t c la x)
  | 0x01 => .ok (.ldI8 t c la x)
  | 0x02 => .ok (.ldB16 t c la x)
  | 0x03 => .ok (.ldI16 t c la x)
  | 0x04 => .ok (.ldB32 t c la x)
  | 0x05 => .ok (.ldB64 t c la x)
  | 0x06 => .ok (.ldB128 t c la x)
  | 0x07 => .ok (.stB8 t c la x)
  | 0x08 => .ok (.stB16 t c la x)
  | 0x09 => .ok (.stB32 t c la x)
  | 0x0A => .ok (.stB64 t c la x)
  | 0x0B => .ok (.stB128 t c la x)
  | 0x0C => .ok (.tld t c la x)
  | 0x0D => .ok (.tst t c la x)
  | 0x0E => .ok (.tstp t c la x)
  | 0x0F => .ok (.vldB32 t c la x)
  | 0x10 => .ok (.vldB64 t c la x)
  | 0x11 => .ok (.vldB128 t c la x)
  | 0x12 => .ok (.vstB32 t c la x)
  | 0x13 => .ok (.vstB64 t c la x)
  | 0x14 => .ok (.vstB128 t c la x)
  | 0x15 => req (t == 0) (.claim c la x)
  | 0x16 => req (t == 0) (.tclaim c la x)
  | _ => .error .reserved

/-- Format LW, the opcodes (R203, R226-R242, R244, R245, R248, R230, R257-R264), after `decodeLW` has checked bit 0 and
the guard. -/
def decodeLWOp (w w1 : Word) (g : Guard) : Except DecodeError Instr :=
  let d := fld w 15 7
  let a := fld w 8 7
  let b := fld w 1 7
  let c := fld w1 25 7
  let la := fld w1 21 4
  let m := fld w1 0 17
  match (fld w 22 7).toNat with
  | 0x00 => req (la == 0 && m == 0) (.madI32 g d a b c)
  | 0x01 => req (la == 0 && m == 0) (.madwI32 g d a b c)
  | 0x02 => req (la == 0 && m == 0) (.madwN32 g d a b c)
  | 0x03 => req (c == 0 && la == 0 && m == 0) (.addI64 g d a b)
  | 0x04 => req (c == 0 && la == 0 && m == 0) (.subI64 g d a b)
  | 0x05 => req (c == 0 && la == 0 && fld m 6 11 == 0) (.addcN32 g d a b (fld m 0 3) (fld m 3 3))
  | 0x06 => if !(b == 0 && c == 0 && la == 0 && fld m 11 6 == 0) then .error .nonZero else lgl (decide ((fld m 5 6).toNat ≤ 32)) (.bfxI32 g d a (fld m 0 5) (fld m 5 6))
  | 0x07 => if !(b == 0 && c == 0 && la == 0 && fld m 11 6 == 0) then .error .nonZero else lgl (decide ((fld m 5 6).toNat ≤ 32)) (.bfxN32 g d a (fld m 0 5) (fld m 5 6))
  | 0x08 => if !(c == 0 && la == 0 && fld m 11 6 == 0) then .error .nonZero else lgl (decide ((fld m 5 6).toNat ≤ 32)) (.bfiB32 g d a b (fld m 0 5) (fld m 5 6))
  | 0x09 => req (la == 0 && fld m 8 9 == 0) (.bitfnB32 g d a b c (fld m 0 8))
  | 0x0A => if !(c == 0 && la == 0 && fld m 4 13 == 0) then .error .nonZero else lgl (fld m 0 3 != 7) (.cselB32 g d a b (fld m 0 3) (m.getLsbD 3))
  | 0x0B => if !(d == 0 && c == 0 && la == 0 && fld m 7 10 == 0 && fld m 0 3 != 7) then .error .nonZero else named (IntCond.ofCode (fld m 3 4).toNat) (fun k => .cmpI32 g (fld m 0 3) a b k)
  | 0x0C => if !(d == 0 && c == 0 && la == 0 && fld m 7 10 == 0 && fld m 0 3 != 7) then .error .nonZero else named (IntCond.ofCode (fld m 3 4).toNat) (fun k => .cmpN32 g (fld m 0 3) a b k)
  | 0x0D => if !(d == 0 && c == 0 && la == 0 && fld m 7 10 == 0 && fld m 0 3 != 7) then .error .nonZero else named (IntCond.ofCode (fld m 3 4).toNat) (fun k => .cmpI64 g (fld m 0 3) a b k)
  | 0x0E => if !(d == 0 && c == 0 && la == 0 && fld m 7 10 == 0 && fld m 0 3 != 7) then .error .nonZero else named (FltCond.ofCode (fld m 3 4).toNat) (fun k => .fcmpF32 g (fld m 0 3) a b k)
  | 0x0F => if !(d == 0 && c == 0 && la == 0 && fld m 7 10 == 0 && fld m 0 3 != 7) then .error .nonZero else named (FltCond.ofCode (fld m 3 4).toNat) (fun k => .fcmpF64 g (fld m 0 3) a b k)
  | 0x10 => if !(d == 0 && a == 0 && b == 0 && c == 0 && la == 0 && fld m 13 4 == 0) then .error .nonZero else lgl (fld m 0 3 != 7) (.pset g (fld m 0 3) (fld m 3 3) (fld m 6 3) (fld m 9 4))
  | 0x11 => req (la == 0 && fld m 2 15 == 0) (.ffmaF32 g d a b c (m.getLsbD 0) (m.getLsbD 1))
  | 0x12 => req (la == 0 && fld m 2 15 == 0) (.ffmaF64 g d a b c (m.getLsbD 0) (m.getLsbD 1))
  | 0x13 => req (la == 0 && fld m 2 15 == 0) (.ffmaX2Bf16 g d a b c (m.getLsbD 0) (m.getLsbD 1))
  | 0x14 => req (b == 0 && c == 0 && m == 0) (.frcpF32 g d a la)
  | 0x15 => req (b == 0 && c == 0 && m == 0) (.frsqF32 g d a la)
  | 0x16 => req (b == 0 && c == 0 && m == 0) (.fsqrtF32 g d a la)
  | 0x17 => req (b == 0 && c == 0 && m == 0) (.fsqrtF64 g d a la)
  | 0x1A => req (b == 0 && c == 0 && m == 0) (.fexp2F32 g d a la)
  | 0x1B => req (b == 0 && c == 0 && m == 0) (.flog2F32 g d a la)
  | 0x1C => req (b == 0 && c == 0 && m == 0) (.fsinpF32 g d a la)
  | 0x1D => req (b == 0 && c == 0 && m == 0) (.fcospF32 g d a la)
  | 0x18 => req (c == 0 && m == 0) (.fdivF32 g d a b la)
  | 0x19 => req (c == 0 && m == 0) (.fdivF64 g d a b la)
  | 0x1E => if !(b == 0 && c == 0 && fld m 4 13 == 0) then .error .nonZero else named (RndSel.ofCode (fld m 0 3).toNat) (fun r => .frndF32 g d a la r (m.getLsbD 3))
  | 0x1F => if !(b == 0 && c == 0 && fld m 4 13 == 0) then .error .nonZero else named (RndSel.ofCode (fld m 0 3).toNat) (fun r => .frndF64 g d a la r (m.getLsbD 3))
  | 0x20 => req (b == 0 && c == 0 && la == 0 && fld m 2 15 == 0) (.fclass g d a (fld m 0 2))
  | 0x21 => if !(b == 0 && c == 0 && la == 0 && fld m 15 2 == 0) then .error .nonZero else decodeCvt g d a m
  | 0x22 => req (b == 0 && c == 0 && la == 0 && m == 0) (.qblkF4x g d a)
  | 0x23 => req (c == 0 && la == 0 && fld m 1 16 == 0) (.dqblkF4x g d a b (m.getLsbD 0))
  | 0x24 => if c != 0 then .error .nonZero else memForm m fun ty op ord sc x => lgl (op.okFor ty && scopeOk sc ord) (.atom g d a b la ty op ord sc x)
  | 0x25 => memForm m fun ty op ord sc x => lgl ((ty == .i32 || ty == .i64) && op == .add && scopeOk sc ord) (.cas g d a b c la (ty == .i64) ord sc x)
  | 0x26 => if d != 0 then .error .nonZero else memForm m fun ty op ord sc x => barForm c fun bar => lgl (op.okFor ty && op != .exch && redOk sc ord) (.red g a b la ty op ord sc x bar)
  | 0x27 => if c != 0 then .error .nonZero else memForm m fun ty op ord sc x => lgl (ty == .i32 && scopeOk sc ord) (.tatom g d a b la op ord sc x)
  | 0x28 => if d != 0 then .error .nonZero else memForm m fun ty op ord sc x => barForm c fun bar => lgl (ty == .i32 && op != .exch && redOk sc ord) (.tred g a b la op ord sc x bar)
  | 0x29 => if c != 0 then .error .nonZero else memForm m fun ty op ord sc x => lgl (op.okFor ty && scopeOk sc ord) (.vatom g d a b la ty op ord sc x)
  | 0x2A => if !(b == 0 && c == 0) then .error .nonZero else memForm m fun ty op ord sc x => lgl ((ty == .i32 || ty == .i64) && (op == .add || op == .min) && ord == .rlx) (.ldAcq g d a la (ty == .i64) (op == .min) sc x)
  | 0x2B => if !(d == 0 && c == 0 && la == 0) then .error .nonZero else memForm m fun ty op ord sc x => lgl ((ty == .i32 || ty == .i64) && (op == .add || op == .min) && ord == .rlx && sc != .rem) (.stRel g a b (ty == .i64) (op == .min) sc x)
  | 0x2C => if !(d == 0 && a == 0 && b == 0 && c == 0 && la == 0) then .error .nonZero else memForm m fun ty op ord sc x => lgl (ty == .i32 && op == .add && ord == .rlx && sc != .rem && x == 0) (.fence g sc)
  | 0x2D => req (c == 0 && la == 0) (.jal g d (a ++ b ++ m))
  | 0x2E => if !(b == 0 && c == 0 && la == 0 && fld m 1 16 == 0) then .error .nonZero else if m.getLsbD 0 then .ok (.jr g (some d) a) else req (d == 0) (.jr g none a)
  | 0x2F => req (d == 0 && b == 0 && c == 0 && la == 0) (.meetm g a m)
  | 0x30 => if !(a == 0 && b == 0 && c == 0 && la == 0 && fld m 9 8 == 0) then .error .nonZero else lgl (voteOk (fld m 4 2) d (fld m 6 3)) (.vote g (fld m 4 2) d (fld m 6 3) (fld m 0 3) (m.getLsbD 3))
  | 0x31 => req (d == 0 && a == 0 && b == 0 && c == 0 && la == 0 && fld m 16 1 == 0) (.brk g (fld m 0 16))
  | _ => .error .reserved

/-- Format PA (R204, R277, R278, R282). -/
def decodePA (w : Word) : Except DecodeError Instr :=
  let d := fld w 17 6
  let a := fld w 11 6
  let b := fld w 5 6
  let m := fld w 0 5
  match (fld w 23 6).toNat with
  | 0x01 => req (m == 0) (.sadd d a b)
  | 0x02 => req (m == 0) (.ssub d a b)
  | 0x03 => req (m == 0) (.smul d a b)
  | 0x04 => req (m == 0) (.sand d a b)
  | 0x05 => req (m == 0) (.sor d a b)
  | 0x06 => req (m == 0) (.sxor d a b)
  | 0x07 => req (m == 0) (.sshl d a b)
  | 0x08 => req (fld m 1 4 == 0) (.sshr d a b (m.getLsbD 0))
  | 0x09 => req (fld m 1 4 == 0) (.smin d a b (m.getLsbD 0))
  | 0x0A => req (fld m 1 4 == 0) (.smax d a b (m.getLsbD 0))
  | 0x0B => req (fld m 1 4 == 0) (.sadd64 d a b (m.getLsbD 0))
  | 0x0C => req (b == 0 && m == 0) (.smov d a)
  | 0x0D => if fld d 2 4 != 0 then .error .nonZero else named (IntCond.ofCode (fld m 0 3).toNat) (fun k => .scmp (fld d 0 2) a b k (m.getLsbD 3) (m.getLsbD 4))
  | 0x0E => req (fld m 3 2 == 0) (.ssel d (fld m 0 2) (m.getLsbD 2) a b)
  | 0x0F => req (fld m 1 4 == 0 && (b == 0 || (m.getLsbD 0 && a == 29 && fld b 4 2 == 0))) (.sget d (m.getLsbD 0) a (fld b 0 4))
  | 0x10 => req (b == 0 && m == 0) (.sset d a)
  | 0x11 => req (a == 0 && b == 0 && !m.getLsbD 4) (.svote d (fld m 0 3) (m.getLsbD 3))
  | _ => .error .reserved

/-- Format PI and its branch forms (R204, R279-R281). -/
def decodePI (w : Word) : Except DecodeError Instr :=
  let d := fld w 17 6
  let i := fld w 0 17
  let qg := fld w 20 3
  let qn := w.getLsbD 19
  let off := fld w 0 19
  match (fld w 23 6).toNat with
  | 0x00 => .ok (.smovi d i)
  | 0x01 => .ok (.saddi d i)
  | 0x02 => req (fld i 15 2 == 0) (.smovhi d (fld i 0 15))
  | 0x20 => lgl (qgOk qg qn) (.sbra qg qn off)
  | 0x21 => lgl (qgOk qg qn) (.scall qg qn off)
  | 0x22 => if off != 0 then .error .nonZero else lgl (qgOk qg qn) (.sret qg qn)
  | 0x23 => lgl (qgOk qg qn) (.ssleep qg qn off)
  | _ => .error .reserved

/-- Format PE, the opcodes (R204, R272-R274, R286-R303), after `decodePE` has checked the lookahead. -/
def decodePEOp (w : Word) : Except DecodeError Instr :=
  let r := fld w 18 6
  let c := fld w 12 6
  let bar := fld w 6 6
  let la := fld w 2 4
  let f := w.getLsbD 1
  let tok := w.getLsbD 0
  match (fld w 24 5).toNat with
  | 0x00 => req (!f) (.cpy r c bar la tok)
  | 0x01 => .ok (.cpyf r c bar la f tok)
  | 0x02 => req (!f) (.cpyg r c bar la tok)
  | 0x03 => req (!f) (.mma r c bar la tok)
  | 0x04 => req (!f && c == 0) (.mmv r bar la tok)
  | 0x05 => .ok (.accdrain r c bar la f tok)
  | 0x06 => req (!f && c == 0) (.accreduce r bar la tok)
  | 0x07 => req (!f && c == 0) (.splgrid r bar la tok)
  | 0x08 => req (!f && c == 0) (.splload r bar la tok)
  | 0x09 => req (c == 0) (.splmv r bar la f tok)
  | 0x0A => req (!f && c == 0) (.splgrad r bar la tok)
  | 0x0B => req (!f && r == 0 && c == 0) (.splrefine bar la tok)
  | 0x0C => req (!f && !tok && c == 0 && bar == 0 && la == 0) (.item r)
  | 0x0D => req (!f && !tok && c == 0 && bar == 0 && la == 0) (.admitWave r)
  | 0x0E => req (!f && !tok && c == 0 && bar == 0 && la == 0) (.iret r)
  | _ => .error .reserved

/-- Format PW (R204, R109, R265-R270, R279, R283-R285, R292-R293, R304-R312). -/
def decodePW (w w1 : Word) : Except DecodeError Instr :=
  let d := fld w 16 6
  let a := fld w 10 6
  let b := fld w 4 6
  let m := fld w 0 4
  match (fld w 22 7).toNat with
  | 0x00 => req (a == 0 && b == 0 && m == 0) (.smovl d w1)
  | 0x01 => req (b == 0 && fld w1 16 16 == 0) (.rdv d a m (fld w1 0 16))
  | 0x02 => req (d == 0 && fld w1 16 16 == 0) (.wrv a b m (fld w1 0 16))
  | 0x03 => if !(d == 0 && fld m 1 3 == 0) then .error .nonZero else if m.getLsbD 0 then req (w1 == 0) (.barInit a (.reg b)) else req (b == 0 && fld w1 16 16 == 0) (.barInit a (.imm (fld w1 0 16)))
  | 0x04 => if !(d == 0 && b == 0 && w1 == 0 && !m.getLsbD 3) then .error .nonZero else packScope m (fun sc => .barArrive sc a)
  | 0x05 => req (d == 0 && m == 0 && w1 == 0) (.barExpect a b)
  | 0x06 => if !(w1 == 0 && (m.getLsbD 3 || d == 0)) then .error .nonZero else packScope m (fun sc => .barWait sc (if m.getLsbD 3 then some d else none) a b)
  | 0x07 => if !(w1 == 0 && !m.getLsbD 3) then .error .nonZero else packScope m (fun sc => .barTest sc d a b)
  | 0x08 => req (w1 == 0 && fld m 0 3 == 0 && (m.getLsbD 3 || d == 0)) (.stgWait (if m.getLsbD 3 then some d else none) a b)
  | 0x09 => req (d == 0 && m == 0 && w1 == 0) (.stgDone a b)
  | 0x0A => req (d == 0 && a == 0 && b == 0 && m == 0 && w1 == 0) .acquire
  | 0x0B => req (d == 0 && a == 0 && b == 0 && m == 0 && w1 == 0) .release
  | 0x0C => if !(d == 0 && a == 0 && b == 0 && !m.getLsbD 3 && fld w1 2 30 == 0) then .error .nonZero else named (AccKind.ofCode (fld w1 0 2).toNat) (fun k => .accalloc (fld m 0 3) k)
  | 0x0D => req (d == 0 && a == 0 && b == 0 && !m.getLsbD 3 && w1 == 0) (.accfree (fld m 0 3))
  | 0x0E => req (m == 0 && w1 == 0) (.nodeReg d a b)
  | 0x0F => req (d == 0 && m == 0 && w1 == 0) (.nodeDec a b)
  | 0x10 => req (d == 0 && a == 0 && b == 0 && m == 0 && w1 == 0) .nodeDone
  | 0x11 => req (d == 0 && fld w1 24 8 == 0) (.tadvise a b (fld m 0 3) (m.getLsbD 3) (fld w1 0 24))
  | 0x12 => req (d == 0 && fld w1 24 8 == 0) (.tpin a b m (fld w1 0 24))
  | 0x13 => req (d == 0 && m == 0 && fld w1 24 8 == 0) (.tunpin a b (fld w1 0 24))
  | 0x14 => req (m == 0 && fld w1 1 31 == 0) (.tquery d a b (w1.getLsbD 0))
  | 0x15 => req (d == 0 && b == 0 && m == 0 && w1 == 0) (.tdef a)
  | 0x16 => if !(d == 0 && a == 0 && b == 0 && !m.getLsbD 3 && w1 == 0) then .error .nonZero else packScope m (fun sc => .sfence sc)
  | 0x17 => if !(d == 0 && !m.getLsbD 3 && w1 == 0) then .error .nonZero else if !(fld m 0 3 == 1 || fld m 0 3 == 2 || fld m 0 3 == 3) then .error .badField else named (Scope.ofCode (fld m 0 3).toNat) (fun sc => .icinv sc a b)
  | 0x18 => if !(m == 0 && fld w1 16 16 == 0) then .error .nonZero else .ok (sysForm d a b (fld w1 0 16))
  | 0x19 => req (d == 0 && a == 0 && b == 0 && m == 0 && w1 == 0) .rti
  | 0x1A => req (m == 0 && w1 == 0) (.rqget d a b)
  | 0x1B => req (m == 0 && w1 == 0) (.rqput d a b)
  | 0x1C => req (m == 0 && w1 == 0) (.sbget d a b)
  | 0x1D => req (m == 0 && w1 == 0) (.ctxsave d a b)
  | 0x1E => req (m == 0 && w1 == 0) (.ctxrest d a b)
  | _ => .error .reserved

/-- Format LW (R203, R209). -/
def decodeLW (w w1 : Word) : Except DecodeError Instr :=
  if w.getLsbD 0 then .error .nonZero
  else if fld w1 18 3 = 7 ∧ w1.getLsbD 17 = true then .error .badField
  else decodeLWOp w w1 { pg := fld w1 18 3, pn := w1.getLsbD 17 }

/-- Format PE (R204): a lookahead needs a token (R210). -/
def decodePE (w : Word) : Except DecodeError Instr :=
  if w.getLsbD 0 = false ∧ fld w 2 4 ≠ 0 then .error .badField else decodePEOp w

/-- The instruction at word `w`, whose next word is `w1` (R202). -/
def decode (w w1 : Word) : Except DecodeError Instr :=
  match (fld w 29 3).toNat with
  | 0 => decodeLA w w1
  | 1 => decodeLB w
  | 2 => decodeLM w
  | 3 => decodeLW w w1
  | 4 => decodePA w
  | 5 => decodePI w
  | 6 => decodePE w
  | _ => decodePW w w1

/-- Whether an instruction that starts with word `w` has a second word (R202). -/
def hasSecondWord (w : Word) : Bool :=
  match (fld w 29 3).toNat with
  | 0 => fld w 8 8 == 0xFE
  | 3 => true
  | 7 => true
  | _ => false

/-- Four bytes, the lowest address first (R56, R202). -/
def wordOfBytes (a b c d : Byte) : Word := d ++ c ++ b ++ a

/-- Decode from the front of a list of bytes: the instruction and the bytes after it. -/
def decodeBytes : List Byte → Except DecodeError (Instr × List Byte)
  | a :: b :: c :: d :: rest =>
    let w := wordOfBytes a b c d
    if hasSecondWord w then
      match rest with
      | e :: f :: g :: h :: rest' => (decode w (wordOfBytes e f g h)).map (fun i => (i, rest'))
      | _ => .error .short
    else (decode w 0).map (fun i => (i, rest))
  | _ => .error .short

/-- The bytes of a word as memory holds them (R202). -/
def bytesOfWord (w : Word) : List Byte := [fld w 0 8, fld w 8 8, fld w 16 8, fld w 24 8]

/-- The instruction the decoder reads where an instruction's bits are `w`, bit 0 the least significant bit of its first
word and bit 32 that of its second. -/
def decodeTableWord (_nbits w : Nat) : Option Instr :=
  match decodeBytes (bytesOfWord (BitVec.ofNat 32 w) ++ bytesOfWord (BitVec.ofNat 32 (w / 2 ^ 32))) with
  | .ok (i, _) => some i
  | .error _ => none

/-- Word 0 and operand code of the formats, field by field (R203, R204). -/
def srcCode : Src → Nat
  | .v n => n.toNat
  | .s n => 0x80 + n.toNat
  | .small c => 0xC0 + c.toNat
  | .lane => 0xE0
  | .item => 0xE1
  | .tglobal => 0xE2
  | .lit _ => 0xFE
  | .reserved c => c.toNat

def encLA (op : Nat) (d : VReg) (a : Nat) (b : VReg) (x : Bool) : Word :=
  BitVec.ofNat 32 (op * 2 ^ 23 + d.toNat * 2 ^ 16 + a * 2 ^ 8 + b.toNat * 2 + x.toNat)

def wordsLA (op : Nat) (d : VReg) (a : Src) (b : VReg) (x : Bool) : List Word :=
  match a with
  | .lit w => [encLA op d 0xFE b x, w]
  | _ => [encLA op d (srcCode a) b x]

def encLB (op : Nat) (d a : VReg) (i : BitVec 9) : Word :=
  BitVec.ofNat 32 (1 * 2 ^ 29 + op * 2 ^ 23 + d.toNat * 2 ^ 16 + a.toNat * 2 ^ 9 + i.toNat)

def encBr (op : Nat) (pg : BitVec 3) (pn : Bool) (off : BitVec 19) : Word :=
  BitVec.ofNat 32 (1 * 2 ^ 29 + op * 2 ^ 23 + pg.toNat * 2 ^ 20 + pn.toNat * 2 ^ 19 + off.toNat)

def encLM (op : Nat) (t c : VReg) (la : BitVec 4) (x : SReg) : Word :=
  BitVec.ofNat 32 (2 * 2 ^ 29 + op * 2 ^ 24 + t.toNat * 2 ^ 17 + c.toNat * 2 ^ 10 + la.toNat * 2 ^ 6 + x.toNat)

def encLW (op : Nat) (d a b c : VReg) (la : BitVec 4) (g : Guard) (m : Nat) : List Word :=
  [BitVec.ofNat 32 (3 * 2 ^ 29 + op * 2 ^ 22 + d.toNat * 2 ^ 15 + a.toNat * 2 ^ 8 + b.toNat * 2),
   BitVec.ofNat 32 (c.toNat * 2 ^ 25 + la.toNat * 2 ^ 21 + g.pg.toNat * 2 ^ 18 + g.pn.toNat * 2 ^ 17 + m)]

def encM (ty op ord sc : Nat) (x : SReg) : Nat := ty * 2 ^ 15 + op * 2 ^ 11 + ord * 2 ^ 9 + sc * 2 ^ 6 + x.toNat

def encBar (bar : Option SReg) : VReg :=
  match bar with
  | some s => BitVec.ofNat 7 (2 ^ 6 + s.toNat)
  | none => 0

def encPA (op : Nat) (d a b : SReg) (m : Nat) : Word :=
  BitVec.ofNat 32 (4 * 2 ^ 29 + op * 2 ^ 23 + d.toNat * 2 ^ 17 + a.toNat * 2 ^ 11 + b.toNat * 2 ^ 5 + m)

def encPI (op : Nat) (d : SReg) (i : BitVec 17) : Word :=
  BitVec.ofNat 32 (5 * 2 ^ 29 + op * 2 ^ 23 + d.toNat * 2 ^ 17 + i.toNat)

def encPBr (op : Nat) (qg : BitVec 3) (qn : Bool) (off : BitVec 19) : Word :=
  BitVec.ofNat 32 (5 * 2 ^ 29 + op * 2 ^ 23 + qg.toNat * 2 ^ 20 + qn.toNat * 2 ^ 19 + off.toNat)

def encPE (op : Nat) (r c bar : SReg) (la : BitVec 4) (f tok : Bool) : Word :=
  BitVec.ofNat 32 (6 * 2 ^ 29 + op * 2 ^ 24 + r.toNat * 2 ^ 18 + c.toNat * 2 ^ 12 + bar.toNat * 2 ^ 6 +
    la.toNat * 2 ^ 2 + f.toNat * 2 + tok.toNat)

def encPW (op : Nat) (d a b : SReg) (m : Nat) (w1 : Word) : List Word :=
  [BitVec.ofNat 32 (7 * 2 ^ 29 + op * 2 ^ 22 + d.toNat * 2 ^ 16 + a.toNat * 2 ^ 10 + b.toNat * 2 ^ 4 + m), w1]

def encBarInit (a : SReg) (n : CountSrc) : List Word :=
  match n with
  | .imm k => encPW 0x03 0 a 0 0 (k.setWidth 32)
  | .reg b => encPW 0x03 0 a b 1 0

/-- The words of an instruction, by the encoding tables of the spec; a host action or device event has none. -/
def encode : Instr → List Word
  | .addI32 d a b => wordsLA 0x01 d a b false
  | .addI32Sat d a b => wordsLA 0x01 d a b true
  | .subI32 d a b => wordsLA 0x02 d a b false
  | .subI32Sat d a b => wordsLA 0x02 d a b true
  | .mulI32 d a b => wordsLA 0x03 d a b false
  | .mulhiI32 d a b => wordsLA 0x04 d a b false
  | .mulhiN32 d a b => wordsLA 0x05 d a b false
  | .minI32 d a b => wordsLA 0x06 d a b false
  | .maxI32 d a b => wordsLA 0x07 d a b false
  | .minN32 d a b => wordsLA 0x08 d a b false
  | .maxN32 d a b => wordsLA 0x09 d a b false
  | .andB32 d a b => wordsLA 0x0A d a b false
  | .orB32 d a b => wordsLA 0x0B d a b false
  | .xorB32 d a b => wordsLA 0x0C d a b false
  | .andnB32 d a b => wordsLA 0x0D d a b false
  | .shlB32 d a b => wordsLA 0x0E d a b false
  | .shrN32 d a b => wordsLA 0x0F d a b false
  | .shrI32 d a b => wordsLA 0x10 d a b false
  | .rotB32 d a b => wordsLA 0x11 d a b false
  | .popcB32 d a => wordsLA 0x12 d a 0 false
  | .clzB32 d a => wordsLA 0x13 d a 0 false
  | .brevB32 d a => wordsLA 0x14 d a 0 false
  | .lsbB32 d a => wordsLA 0x15 d a 0 false
  | .movB32 d a => wordsLA 0x16 d a 0 false
  | .permB8 d a b => wordsLA 0x17 d a b false
  | .addX2I16 d a b => wordsLA 0x18 d a b false
  | .addX2I16Sat d a b => wordsLA 0x18 d a b true
  | .subX2I16 d a b => wordsLA 0x19 d a b false
  | .subX2I16Sat d a b => wordsLA 0x19 d a b true
  | .minX2I16 d a b => wordsLA 0x1A d a b false
  | .maxX2I16 d a b => wordsLA 0x1B d a b false
  | .dot4I8 d a b => wordsLA 0x1C d a b false
  | .dot4N8 d a b => wordsLA 0x1C d a b true
  | .pullIdx d a b => wordsLA 0x1D d a b false
  | .pullXor d a b => wordsLA 0x1E d a b false
  | .pullBack d a b => wordsLA 0x1F d a b false
  | .pullFwd d a b => wordsLA 0x20 d a b false
  | .faddF32 d a b x => wordsLA 0x21 d a b x
  | .fsubF32 d a b x => wordsLA 0x22 d a b x
  | .fmulF32 d a b x => wordsLA 0x23 d a b x
  | .fminF32 d a b x => wordsLA 0x24 d a b x
  | .fmaxF32 d a b x => wordsLA 0x25 d a b x
  | .fmacF32 d a b x => wordsLA 0x26 d a b x
  | .faddF64 d a b x => wordsLA 0x27 d a b x
  | .fsubF64 d a b x => wordsLA 0x28 d a b x
  | .fmulF64 d a b x => wordsLA 0x29 d a b x
  | .fminF64 d a b x => wordsLA 0x2A d a b x
  | .fmaxF64 d a b x => wordsLA 0x2B d a b x
  | .fmacF64 d a b x => wordsLA 0x2C d a b x
  | .faddX2Bf16 d a b x => wordsLA 0x2D d a b x
  | .fmulX2Bf16 d a b x => wordsLA 0x2E d a b x
  | .fmacX2Bf16 d a b x => wordsLA 0x2F d a b x
  | .faddX2F16 d a b x => wordsLA 0x30 d a b x
  | .fmulX2F16 d a b x => wordsLA 0x31 d a b x
  | .fmacX2F16 d a b x => wordsLA 0x32 d a b x
  | .dot2Bf16 d a b x => wordsLA 0x33 d a b x
  | .nop => [encLA 0x3F 0 0 0 false]
  | .addiI32 d a i => [encLB 0x00 d a i]
  | .muliI32 d a i => [encLB 0x01 d a i]
  | .andiB32 d a i => [encLB 0x02 d a i]
  | .oriB32 d a i => [encLB 0x03 d a i]
  | .xoriB32 d a i => [encLB 0x04 d a i]
  | .shliB32 d a i => [encLB 0x05 d a (i.setWidth 9)]
  | .shriN32 d a i => [encLB 0x06 d a (i.setWidth 9)]
  | .shriI32 d a i => [encLB 0x07 d a (i.setWidth 9)]
  | .moviB32 d i => [encLB 0x08 d 0 i]
  | .bra pg pn off => [encBr 0x20 pg pn off]
  | .meet off => [encBr 0x21 7 false off]
  | .unmeet => [encBr 0x22 0 false 0]
  | .exit pg pn => [encBr 0x23 pg pn 0]
  | .yield => [encBr 0x24 0 false 0]
  | .ldB8 t c la x => [encLM 0x00 t c la x]
  | .ldI8 t c la x => [encLM 0x01 t c la x]
  | .ldB16 t c la x => [encLM 0x02 t c la x]
  | .ldI16 t c la x => [encLM 0x03 t c la x]
  | .ldB32 t c la x => [encLM 0x04 t c la x]
  | .ldB64 t c la x => [encLM 0x05 t c la x]
  | .ldB128 t c la x => [encLM 0x06 t c la x]
  | .stB8 t c la x => [encLM 0x07 t c la x]
  | .stB16 t c la x => [encLM 0x08 t c la x]
  | .stB32 t c la x => [encLM 0x09 t c la x]
  | .stB64 t c la x => [encLM 0x0A t c la x]
  | .stB128 t c la x => [encLM 0x0B t c la x]
  | .tld t c la x => [encLM 0x0C t c la x]
  | .tst t c la x => [encLM 0x0D t c la x]
  | .tstp t c la x => [encLM 0x0E t c la x]
  | .vldB32 t c la x => [encLM 0x0F t c la x]
  | .vldB64 t c la x => [encLM 0x10 t c la x]
  | .vldB128 t c la x => [encLM 0x11 t c la x]
  | .vstB32 t c la x => [encLM 0x12 t c la x]
  | .vstB64 t c la x => [encLM 0x13 t c la x]
  | .vstB128 t c la x => [encLM 0x14 t c la x]
  | .claim c la x => [encLM 0x15 0 c la x]
  | .tclaim c la x => [encLM 0x16 0 c la x]
  | .madI32 g d a b c => encLW 0x00 d a b c 0 g 0
  | .madwI32 g d a b c => encLW 0x01 d a b c 0 g 0
  | .madwN32 g d a b c => encLW 0x02 d a b c 0 g 0
  | .addI64 g d a b => encLW 0x03 d a b 0 0 g 0
  | .subI64 g d a b => encLW 0x04 d a b 0 0 g 0
  | .addcN32 g d a b ci co => encLW 0x05 d a b 0 0 g (ci.toNat + co.toNat * 2 ^ 3)
  | .bfxI32 g d a pos len => encLW 0x06 d a 0 0 0 g (pos.toNat + len.toNat * 2 ^ 5)
  | .bfxN32 g d a pos len => encLW 0x07 d a 0 0 0 g (pos.toNat + len.toNat * 2 ^ 5)
  | .bfiB32 g d a b pos len => encLW 0x08 d a b 0 0 g (pos.toNat + len.toNat * 2 ^ 5)
  | .bitfnB32 g d a b c fn => encLW 0x09 d a b c 0 g fn.toNat
  | .cselB32 g d a b p neg => encLW 0x0A d a b 0 0 g (p.toNat + neg.toNat * 2 ^ 3)
  | .cmpI32 g pd a b cond => encLW 0x0B 0 a b 0 0 g (pd.toNat + cond.code * 2 ^ 3)
  | .cmpN32 g pd a b cond => encLW 0x0C 0 a b 0 0 g (pd.toNat + cond.code * 2 ^ 3)
  | .cmpI64 g pd a b cond => encLW 0x0D 0 a b 0 0 g (pd.toNat + cond.code * 2 ^ 3)
  | .fcmpF32 g pd a b cond => encLW 0x0E 0 a b 0 0 g (pd.toNat + cond.code * 2 ^ 3)
  | .fcmpF64 g pd a b cond => encLW 0x0F 0 a b 0 0 g (pd.toNat + cond.code * 2 ^ 3)
  | .pset g pd pa pb tbl => encLW 0x10 0 0 0 0 0 g (pd.toNat + pa.toNat * 2 ^ 3 + pb.toNat * 2 ^ 6 + tbl.toNat * 2 ^ 9)
  | .ffmaF32 g d a b c np nc => encLW 0x11 d a b c 0 g (np.toNat + nc.toNat * 2)
  | .ffmaF64 g d a b c np nc => encLW 0x12 d a b c 0 g (np.toNat + nc.toNat * 2)
  | .ffmaX2Bf16 g d a b c np nc => encLW 0x13 d a b c 0 g (np.toNat + nc.toNat * 2)
  | .frcpF32 g d a la => encLW 0x14 d a 0 0 la g 0
  | .frsqF32 g d a la => encLW 0x15 d a 0 0 la g 0
  | .fsqrtF32 g d a la => encLW 0x16 d a 0 0 la g 0
  | .fsqrtF64 g d a la => encLW 0x17 d a 0 0 la g 0
  | .fexp2F32 g d a la => encLW 0x1A d a 0 0 la g 0
  | .flog2F32 g d a la => encLW 0x1B d a 0 0 la g 0
  | .fsinpF32 g d a la => encLW 0x1C d a 0 0 la g 0
  | .fcospF32 g d a la => encLW 0x1D d a 0 0 la g 0
  | .fdivF32 g d a b la => encLW 0x18 d a b 0 la g 0
  | .fdivF64 g d a b la => encLW 0x19 d a b 0 la g 0
  | .frndF32 g d a la r exact => encLW 0x1E d a 0 0 la g (r.code + exact.toNat * 2 ^ 3)
  | .frndF64 g d a la r exact => encLW 0x1F d a 0 0 la g (r.code + exact.toNat * 2 ^ 3)
  | .fclass g d a ty => encLW 0x20 d a 0 0 0 g ty.toNat
  | .cvt g d a sl dl rnd src dst => encLW 0x21 d a 0 0 0 g (dst.code + src.code * 2 ^ 4 + rnd.code * 2 ^ 8 + dl.toNat * 2 ^ 11 + sl.toNat * 2 ^ 13)
  | .qblkF4x g d a => encLW 0x22 d a 0 0 0 g 0
  | .dqblkF4x g d a b hi => encLW 0x23 d a b 0 0 g hi.toNat
  | .atom g d a b la ty op ord sc x => encLW 0x24 d a b 0 la g (encM ty.code op.code ord.code sc.code x)
  | .cas g d a b c la wide ord sc x => encLW 0x25 d a b c la g (encM wide.toNat 0 ord.code sc.code x)
  | .red g a b la ty op ord sc x bar => encLW 0x26 0 a b (encBar bar) la g (encM ty.code op.code ord.code sc.code x)
  | .tatom g d a b la op ord sc x => encLW 0x27 d a b 0 la g (encM 0 op.code ord.code sc.code x)
  | .tred g a b la op ord sc x bar => encLW 0x28 0 a b (encBar bar) la g (encM 0 op.code ord.code sc.code x)
  | .vatom g d a b la ty op ord sc x => encLW 0x29 d a b 0 la g (encM ty.code op.code ord.code sc.code x)
  | .ldAcq g d a la wide vault sc x => encLW 0x2A d a 0 0 la g (encM wide.toNat vault.toNat 0 sc.code x)
  | .stRel g a b wide vault sc x => encLW 0x2B 0 a b 0 0 g (encM wide.toNat vault.toNat 0 sc.code x)
  | .fence g sc => encLW 0x2C 0 0 0 0 0 g (encM 0 0 0 sc.code 0)
  | .jal g d off => encLW 0x2D d (fld off 24 7) (fld off 17 7) 0 0 g (fld off 0 17).toNat
  | .jr g link a => encLW 0x2E (link.getD 0) a 0 0 0 g link.isSome.toNat
  | .meetm g a off => encLW 0x2F 0 a 0 0 0 g off.toNat
  | .vote g mode d pd p neg => encLW 0x30 d 0 0 0 0 g (p.toNat + neg.toNat * 2 ^ 3 + mode.toNat * 2 ^ 4 + pd.toNat * 2 ^ 6)
  | .brk g code => encLW 0x31 0 0 0 0 0 g code.toNat
  | .sadd d a b => [encPA 0x01 d a b 0]
  | .ssub d a b => [encPA 0x02 d a b 0]
  | .smul d a b => [encPA 0x03 d a b 0]
  | .sand d a b => [encPA 0x04 d a b 0]
  | .sor d a b => [encPA 0x05 d a b 0]
  | .sxor d a b => [encPA 0x06 d a b 0]
  | .sshl d a b => [encPA 0x07 d a b 0]
  | .sshr d a b m => [encPA 0x08 d a b m.toNat]
  | .smin d a b m => [encPA 0x09 d a b m.toNat]
  | .smax d a b m => [encPA 0x0A d a b m.toNat]
  | .sadd64 d a b m => [encPA 0x0B d a b m.toNat]
  | .smov d a => [encPA 0x0C d a 0 0]
  | .scmp q a b cond uns wide => [encPA 0x0D (q.setWidth 6) a b (cond.code + uns.toNat * 2 ^ 3 + wide.toNat * 2 ^ 4)]
  | .ssel d q neg a b => [encPA 0x0E d a b (q.toNat + neg.toNat * 2 ^ 2)]
  | .sget d cw sel idx => [encPA 0x0F d sel (idx.setWidth 6) cw.toNat]
  | .sset sel a => [encPA 0x10 sel a 0 0]
  | .svote d p neg => [encPA 0x11 d 0 0 (p.toNat + neg.toNat * 2 ^ 3)]
  | .smovi d i => [encPI 0x00 d i]
  | .saddi d i => [encPI 0x01 d i]
  | .smovhi d i => [encPI 0x02 d (i.setWidth 17)]
  | .sbra qg qn off => [encPBr 0x20 qg qn off]
  | .scall qg qn off => [encPBr 0x21 qg qn off]
  | .sret qg qn => [encPBr 0x22 qg qn 0]
  | .ssleep qg qn n => [encPBr 0x23 qg qn n]
  | .cpy r c bar la tok => [encPE 0x00 r c bar la false tok]
  | .cpyf r c bar la b tok => [encPE 0x01 r c bar la b tok]
  | .cpyg r c bar la tok => [encPE 0x02 r c bar la false tok]
  | .mma r c bar la tok => [encPE 0x03 r c bar la false tok]
  | .mmv r bar la tok => [encPE 0x04 r 0 bar la false tok]
  | .accdrain r c bar la zero tok => [encPE 0x05 r c bar la zero tok]
  | .accreduce r bar la tok => [encPE 0x06 r 0 bar la false tok]
  | .splgrid r bar la tok => [encPE 0x07 r 0 bar la false tok]
  | .splload r bar la tok => [encPE 0x08 r 0 bar la false tok]
  | .splmv r bar la dx tok => [encPE 0x09 r 0 bar la dx tok]
  | .splgrad r bar la tok => [encPE 0x0A r 0 bar la false tok]
  | .splrefine bar la tok => [encPE 0x0B 0 0 bar la false tok]
  | .item r => [encPE 0x0C r 0 0 0 false false]
  | .admitWave r => [encPE 0x0D r 0 0 0 false false]
  | .iret r => [encPE 0x0E r 0 0 0 false false]
  | .smovl d i => encPW 0x00 d 0 0 0 i
  | .rdv d a cnt off => encPW 0x01 d a 0 cnt.toNat (off.setWidth 32)
  | .wrv a b cnt off => encPW 0x02 0 a b cnt.toNat (off.setWidth 32)
  | .barInit a n => encBarInit a n
  | .barArrive sc a => encPW 0x04 0 a 0 sc.code 0
  | .barExpect a b => encPW 0x05 0 a b 0 0
  | .barWait sc stat a b => encPW 0x06 (stat.getD 0) a b (sc.code + stat.isSome.toNat * 2 ^ 3) 0
  | .barTest sc d a b => encPW 0x07 d a b sc.code 0
  | .stgWait stat a b => encPW 0x08 (stat.getD 0) a b (stat.isSome.toNat * 2 ^ 3) 0
  | .stgDone a b => encPW 0x09 0 a b 0 0
  | .acquire => encPW 0x0A 0 0 0 0 0
  | .release => encPW 0x0B 0 0 0 0 0
  | .accalloc h kind => encPW 0x0C 0 0 0 h.toNat (BitVec.ofNat 32 kind.code)
  | .accfree h => encPW 0x0D 0 0 0 h.toNat 0
  | .nodeReg d a b => encPW 0x0E d a b 0 0
  | .nodeDec a b => encPW 0x0F 0 a b 0 0
  | .nodeDone => encPW 0x10 0 0 0 0 0
  | .tadvise a b cls unsettle cnt => encPW 0x11 0 a b (cls.toNat + unsettle.toNat * 2 ^ 3) (cnt.setWidth 32)
  | .tpin a b layout cnt => encPW 0x12 0 a b layout.toNat (cnt.setWidth 32)
  | .tunpin a b cnt => encPW 0x13 0 a b 0 (cnt.setWidth 32)
  | .tquery d a b img => encPW 0x14 d a b 0 (BitVec.ofNat 32 img.toNat)
  | .tdef a => encPW 0x15 0 a 0 0 0
  | .sfence sc => encPW 0x16 0 0 0 sc.code 0
  | .icinv sc a b => encPW 0x17 0 a b sc.code 0
  | .sys d a b n => encPW 0x18 d a b 0 (n.setWidth 32)
  | .stage1Invalidate d a b => encPW 0x18 d a b 0 1
  | .stage1Root d a b => encPW 0x18 d a b 0 2
  | .takePageRequest d a b => encPW 0x18 d a b 0 3
  | .reply d a b => encPW 0x18 d a b 0 4
  | .donateRetileFrames d a b => encPW 0x18 d a b 0 5
  | .rti => encPW 0x19 0 0 0 0 0
  | .rqget d a b => encPW 0x1A d a b 0 0
  | .rqput d a b => encPW 0x1B d a b 0 0
  | .sbget d a b => encPW 0x1C d a b 0 0
  | .ctxsave d a b => encPW 0x1D d a b 0 0
  | .ctxrest d a b => encPW 0x1E d a b 0 0
  | .nodeDecrement _ _ _ => []
  | .registration _ _ => []
  | .nodeWindowBadAccess _ _ => []
  | .hostMemWrite _ _ _ => []
  | .hostMemRead _ _ _ => []
  | .hostSnoop _ => []
  | .stage _ => []
  | .commit => []
  | .xlinv _ _ _ => []
  | .frames _ _ _ _ => []
  | .framesTakeBack _ _ _ _ => []
  | .assign _ _ _ => []
  | .token _ => []
  | .cert => []
  | .preq _ _ => []
  | .preply _ _ => []
  | .preempt _ _ => []
  | .resume _ => []
  | .ntailWrite _ => []
  | .nlostClear _ => []
  | .logvalidWrite _ => []
  | .registerWrite _ _ => []
  | .groupDispatch _ => []
  | .reservation _ => []
  | .argumentLoadReply _ _ => []
  | .overflowListRead _ => []
  | .planningInterval => []
  | .energyCorrection => []
  | .scrubTokenDelivery _ _ => []
  | .scrubholdTimeout _ _ => []
  | .joinTimeout _ _ => []
  | .yieldWindowEnd _ _ _ => []
  | .ssleepWake _ _ => []
  | .acquireGrant _ _ => []
  | .queueEntryGrant _ _ => []
  | .laneReply _ _ _ _ => []
  | .fetchReply _ _ => []
  | .walkComplete _ _ _ _ => []
  | .pageRequestEntryGrant _ => []
  | .homeSliceRequest _ _ _ _ => []
  | .hbmReadReply _ => []
  | .atomicPerform _ _ _ _ => []
  | .vaultBankUpdate _ => []
  | .remoteRequest _ => []
  | .promotionRequest _ => []
  | .promotionReply _ => []
  | .patrol _ _ => []
  | .hbmRecalibration _ => []
  | .linkRetrain _ => []
  | .monitorReport _ => []
  | .retileStart _ => []
  | .retileCopyEnd _ => []
  | .retileDirtyPassEnd _ => []
  | .retilePublish _ => []
  | .retileDirtyCopyDone _ => []
  | .retileRelease _ => []
  | .engineCommandStart _ _ => []
  | .kstepWrite _ _ => []
  | .engineCommandCompletion _ _ => []
  | .graceExpiry _ => []
  | .shadowSwapDone _ => []
  | .saveDrainDone _ => []
  | .commitPhase => []
  | .layoutVersionTick => []
  | .revocation _ => []
  | .retirement _ => []
  | .scrub _ => []
  | .scrubDone _ => []
  | .scrubTokenSigned _ => []
  | .coldBoot => []
  | .warmReset => []
  | .firmwareReload => []
  | .refresh _ => []
  | .ralvanPortLoss _ => []
  | .regionTeardown _ _ => []
  | .packAccessReply _ _ => []

/-- The length of an instruction in words (R202). -/
def Instr.words (i : Instr) : Nat := (encode i).length

end Sys2Proof
end

