-- ==== Sys2Proof/Config.lean ====
section
/-! DEFINITION. What every ZX9 fixes (spec/01_device.md R8, R9, spec/07_queues.md R130) and the free values: constants
with no body, so that no proof can learn what they are. -/
namespace Sys2Proof.Config

/-- Enabled cores (R8). -/
def cores : Nat := 160
/-- Clusters of 8 cores (R8). -/
def clusters : Nat := 20
/-- HBM channel groups (R88). -/
def channelGroups : Nat := 32
/-- Pack slots of an issue unit, and issue units of a core (R9). -/
def slotsPerUnit : Nat := 12
def unitsPerCore : Nat := 4
/-- Register blocks of an issue unit (R9). -/
def blocksPerUnit : Nat := 128
/-- Bytes of one vault (R9). -/
def vaultBytes : Nat := 4 * 2 ^ 20
/-- Lines of a slice's memory-side cache, of 256 bytes, and of a core's L1 and instruction caches, of 128 bytes (R85). -/
def sliceLines : Nat := 4096
def l1Lines : Nat := 1536
def icacheLines : Nat := 512
/-- Bytes of local HBM (R84). -/
def hbmBytes : Nat := 384 * 2 ^ 30
/-- Accumulator slots of one matrix engine (R45), words of one slot (128 by 192, R294). -/
def accSlots : Nat := 6
def slotWords : Nat := 128 * 192
/-- Entries of a replay queue and levels of a side buffer (R187, R189). -/
def replayEntries : Nat := 16
def trapLevels : Nat := 4
/-- Entries of a core's buffer pool (R136). -/
def poolEntries : Nat := 1024
/-- Page-request pool of the device, cap and minimum of a function (R141). -/
def pageEntries : Nat := 2048
def pageCap : Nat := 1024
def pageMin : Nat := 32
/-- Signature-table entries of a core (R151). -/
def sigEntries : Nat := 64
/-- Nominal arithmetic clock in MHz (R10). -/
def nominalMHz : Nat := 2700

/-- The approximate functions of R236. -/
inductive Approx where
  | rcp | rsq | exp2 | log2 | sinp | cosp
  deriving DecidableEq, Repr

/-- FREE VALUE (DESIGN CHOICE, log 9): the bits this part returns for an approximate function, before the model limits them to the
bound of R236. -/
opaque approxBits : Approx → Word → Word

/-- FREE VALUE (DESIGN CHOICE, log 7): a fresh word for each value of the state's counter. -/
opaque freeWord : Nat → Word

/-- FREE VALUE (DESIGN CHOICE, log 6): picojoules a core spent up to the n-th reading; rail corrections; measured and predicted power. -/
opaque energyPicojoules : Nat → Nat → Nat
opaque measuredMilliwatt : Nat → Nat
opaque predictedMilliwatt : Nat → Nat → Nat
opaque governorMHz : Nat → Nat → Nat

/-- FREE VALUE (DESIGN CHOICE, log 10): the MP's private key, the secret number of its n-th signature (R6, R174), and the
certificate chain that carries its public key (R166, CERT). -/
opaque tokenKey : Nat
opaque tokenNonce : Nat → Nat
opaque certificateChain : List Byte

/-- FREE VALUE (DESIGN CHOICE, log 1): at the n-th training of a stack (R94), the number of lanes of each pseudo-channel that fail
verification and the number of those trained that cannot be trained; the delays and Vref values a full training finds, and those that
a restored word becomes when its failing lanes are retrained; the spare lanes of a channel; a stack's serial number. -/
opaque failedLanes : Nat → Nat → Nat → Nat
opaque untrainedLanes : Nat → Nat → Nat → Nat
opaque laneValues : Nat → Nat → Word
opaque retrainedValues : Nat → Nat → Word → Word
opaque spareLanes : Nat
opaque stackSerial : Nat → Nat

/-- FREE VALUE (DESIGN CHOICE, log 19): frames of a partition's save area (R162). -/
opaque saveFrames : Nat → Nat

/-- FREE VALUE (DESIGN CHOICE, log 1): the node slots the host gives a partition at its creation (R17): the first, and one past the last. -/
opaque slotRange : Nat → Nat × Nat

end Sys2Proof.Config
end

