-- ==== Sys2Proof/Machine/State.lean ====
section
/-! DEFINITION. The state of the ZX9 as plain data: everything spec/ gives the machine (INVENTORY.md, section State), the
reasons a step can stop, and the state after reset. A `Tab` is a table by key, keys strictly rising; what an unlisted key
reads as is said at each field. -/
namespace Sys2Proof.Machine

/-- A table by key: (key, value) pairs with strictly rising keys. -/
abbrev Tab (α : Type) := List (Nat × α)

/-- Roles (R14), in the order of the node record (R13). -/
inductive Role where
  | gen | cpy | mtx | epi
  deriving DecidableEq, Repr

/-- Privileges (R16). -/
inductive Priv where
  | user | handler | root
  deriving DecidableEq, Repr

/-- Trap classes (R186), in index order. -/
inductive TrapClass where
  | illegal | operand | lookahead | memfault | tensor | align | arith | paired | role | brk | syscall | claimovf | claim
  | engine | ecc | watch
  deriving DecidableEq, Repr

/-- One thread of a pack (R31-R36). `v` lists the registers that are not 0. -/
structure Thread where
  v : Tab Word := []
  p : BitVec 7 := 0
  pc : BitVec 52 := 0
  meet : DWord := 0
  jmask : Word := 0
  srseq : Word := 0
  item : Word := 0xFFFFFFFF
  exited : Bool := false
  miss : Nat := 0
  yield : Nat := 0
  claims : List DWord := []
  admitted : Bool := false
  deriving DecidableEq, Repr

/-- A register name on the scoreboard (R39, R207). -/
inductive RegName where
  | v (n : Nat) | p (n : Nat) | s (n : Nat) | q (n : Nat)
  deriving DecidableEq, Repr

/-- A pending destination: the register, the lanes concerned (all lanes for s and q), and who will write it: a replay
entry, a command, a pack access, or the argument load. -/
structure Pend where
  reg : RegName
  lanes : LaneMask
  owner : Nat
  deriving DecidableEq, Repr

/-- A lookahead window (R210): the long-latency instruction that opened it, the instructions left in it per lane, and
whether the instruction completes when the window ends (DESIGN CHOICE, log 4: one of the function unit, whose latency is open). -/
structure Window where
  owner : Nat
  left : Tab Nat
  retires : Bool := false
  deriving DecidableEq, Repr

/-- A meeting record (R146): address, deadline in TIME (none = no bound, R44), threads named, threads passed. -/
structure Meeting where
  addr : BitVec 52
  deadline : Option Nat
  members : LaneMask
  passed : LaneMask
  deriving DecidableEq, Repr

/-- What a pack waits for (R194 and the waits that are not blocking points). -/
inductive Wait where
  | none
  | barrier (core off : Nat) (phase : Bool)
  | admission
  | acquire
  | sleep (wake : Nat)
  | queue (q : QueueId)
  | parked
  | pageTake
  | drain
  | registers
  | handle (h : BitVec 3) (kind : AccKind)
  | freeing (h : Nat)
  | reduce (id : Nat)
  | context (gid : Nat)
  | token (s : Nat)
  deriving DecidableEq, Repr

/-- How far the access of one lane has come: not translated; sent back to be translated again (R106, R161); translated to physical addresses, each with the attribute
of its leaf (plus 4 for ELIDE, plus 8 for image B of a paired tensor); sent to its home slice and waiting for memory;
performed, with the value that returns; refused, with the page request that serves it and the address a trap would name
(R188, R315). -/
inductive Phase where
  | walk
  | resent
  | ready (pas : List (Nat × Nat))
  | sent (pas : List (Nat × Nat))
  | done (val : List Word)
  | parked (req : Option Nat) (va : Nat)
  deriving DecidableEq, Repr

/-- A lane record of a replay entry (R189): its 8 words, and the progress and the reply of the lane (R192). `seen` counts the pages
of a lane with two whose walk has ended (R314). -/
structure LaneAcc where
  words : List Word
  phase : Phase := .walk
  reply : Option Bool := none
  seen : Nat := 0
  deriving DecidableEq, Repr

/-- A replay entry (R189), which is also the record of an issued, unfinished lane access. `bar` is the captured barrier
address of a reduction (R263); `queued` the lanes that hold an atomic queue entry (R137); `ttb` and `tens` are TTBASE and the
tensor record at issue, which the access keeps when TTBASE changes (R50). -/
structure Entry where
  id : Nat
  state : Nat
  mask : LaneMask
  w0 : Word
  w1 : Word
  pc : BitVec 52
  req : Nat
  lanes : Tab LaneAcc
  priv : Priv
  bar : Word
  queued : LaneMask
  ttb : DWord := 0
  tens : List Byte := []
  deriving DecidableEq, Repr

/-- One level of the side buffer (R188): its words (an unlisted word is 0) and its replay queue (R189). -/
structure Level where
  words : Tab Word
  entries : List Entry
  deriving DecidableEq, Repr

/-- A reply still to come for a pack access (R283): the s-registers it writes. -/
structure Late where
  id : Nat
  s : List (Nat × Word)
  deriving DecidableEq, Repr

/-- The argument load (R15): still to come, done. -/
inductive ArgLoad where
  | pending | done
  deriving DecidableEq, Repr

/-- A page request of a fetch, an argument load, a record read or a pack access (R15, R99, R276, R320): the virtual address,
the request once it has a pool entry, and its reply once it has come (true = unrecoverable). `pc` is the instruction a fetch is
for (R320). -/
structure PackReq where
  addr : Nat
  id : Option Nat
  reply : Option Bool
  pc : BitVec 52 := 0
  fetch : Bool := false
  deriving DecidableEq, Repr

/-- One resident pack (R37-R44, R187-R194). `s` lists the registers that are not 0; `tokens` the token registers whose
completion code nothing has read yet (R119); `soft` and `bad` the lanes and v-registers whose stored word has an error that
its code corrects, or does not (R96, R97). `unyield` says that the last vote ignored yields, so that the threads that issue lose
theirs (R319). -/
structure Pack where
  part : Nat := 0
  group : Nat := 0
  packNo : Nat := 0
  role : Role := .gen
  priv : Priv := .root
  nthreads : Nat := 32
  threads : List Thread := []
  s : Tab Word := []
  q : BitVec 4 := 0
  mode : Word := 0
  fstat : Word := 0
  seed : Word := 0
  jointime : Word := 0
  trapbase : DWord := 0
  pro : Nat := 1
  fullBlocks : Nat := 1
  full : Bool := false
  sb : List Level := []
  replay : List Entry := []
  pend : List Pend := []
  windows : List Window := []
  meets : List Meeting := []
  wait : Wait := .none
  args : ArgLoad := .done
  late : List Late := []
  tokens : List Nat := []
  soft : List (Nat × Nat) := []
  bad : List (Nat × Nat) := []
  req : Option PackReq := none
  filled : Bool := false
  deadline : Nat := 0
  portB : Option (BitVec 52) := none
  lanesB : LaneMask := 0
  unyield : Bool := false
  deriving DecidableEq, Repr

/-- An accumulator handle (R45, R48, R78). `split` holds engine and slot of the four quarters; `acc` is the accumulator type
(R296): 0 FP32, 1 FP64, 2 I32. A freed handle keeps its fields with `bound` clear; `freer` is the pack whose accfree waits for the
commands before it (R293). -/
structure Handle where
  bound : Bool := true
  acc : Nat := 0
  kind : AccKind
  engine : Nat
  slot : Nat
  split : List (Nat × Nat)
  kg : Nat
  kord : Nat
  audit : Nat
  freer : Option Nat := none
  deriving DecidableEq, Repr

/-- A group on a core (R13, R51). An unlisted handle is unbound; `nano` and `nanoPart` are the pJ below 1 µJ that are not yet in its
region's ENERGYUSED and in its partition's aggregate (R183). -/
structure Group where
  part : Nat
  slot : Nat
  index : Nat
  core : Nat
  rcb : DWord
  arg : DWord
  vbase : Nat
  vbytes : Nat
  acc : Nat
  root : Bool
  est : Nat
  placed : Nat
  handles : Tab Handle := []
  loopObj : Option Nat := none
  held : Bool := false
  away : Bool := false
  nano : Nat := 0
  nanoPart : Nat := 0
  deriving DecidableEq, Repr

/-- A K-step in an operand FIFO (R69, R139): the group and handle it was fed for, the command that fed it and its place in
that command's stream, the 64 bytes of each row, for F4X the scale and spare bytes of its blocks, and whether the stored
words have an error that their code corrects, or does not (R96, R97). -/
structure KStep where
  owner : Nat
  handle : Nat
  cmd : Nat
  k : Nat
  rows : List (List Byte)
  scales : List (List (BitVec 16))
  soft : Bool := false
  bad : Bool := false
  deriving DecidableEq, Repr

/-- A matrix engine (R45-R48, R69, R139, R300). Unlisted accumulator words and coefficients are 0. `accSoft`, `accBad`,
`coefSoft` and `coefBad` list the 64-bit words of the accumulators and coefficients whose error is corrected on read, or is
not (R96, R97). -/
structure Engine where
  klo : Word := 0xBF800000
  khi : Word := 0x3F800000
  kg : Nat := 1
  kord : Nat := 3
  kclamp : Nat := 0
  kscale : Word := 0x3F000000
  koog : Word := 0
  acc : Tab Word := []
  coef : Tab (BitVec 16) := []
  fifoA : List KStep := []
  fifoB : List KStep := []
  accSoft : List Nat := []
  accBad : List Nat := []
  coefSoft : List Nat := []
  coefBad : List Nat := []
  deriving DecidableEq, Repr

/-- The state of an engine command (R138, R287). -/
inductive CmdState where
  | queued | running | parked | ready | stopped
  deriving DecidableEq, Repr

/-- How a command signals (R286): at a barrier (core and offset of a vault), in a token register, or not at all. -/
inductive Signal where
  | barrier (core off : Nat)
  | token (s : Nat)
  | nothing
  deriving DecidableEq, Repr

/-- An engine command (R286-R303), captured at issue: its record, its parameter record, its coordinates and the tensor
records it uses (64 bytes each). `engines` are the engines it occupies, `feed` the feed of a copy engine (0 A FIFO, 1 B
FIFO, 2 the rest; R138). `cursor` counts the K-steps, pieces of a copy or words of a buffer done; `upto` is where a cpyf that
has signalled stops when it is issued again (R139; 0 = at its own count); `shadow` holds what it will publish once `staged`
(R125); `tile` holds partial or drained results, or the pages a copy has reported; `bytes` is what its arrival adds (R179);
`fail` the detail of a failure (0 = none, R287); `audit` is the recomputed window of an audited mma (R78). -/
structure Cmd where
  core : Nat
  engines : List Nat
  feed : Nat
  instr : Instr
  record : List Byte
  params : List Byte
  coords : List Word
  tensors : List (List Byte)
  signal : Signal
  packNo : Nat
  group : Nat
  part : Nat
  rcb : DWord
  slotNo : Nat
  priv : Priv
  time : Nat
  handle : Option Handle
  handleNo : Nat
  state : CmdState := .queued
  cursor : Nat := 0
  upto : Nat := 0
  shadow : List Byte := []
  staged : Bool := false
  bytes : Nat := 0
  fail : Nat := 0
  orphan : Bool := false
  tile : List Nat := []
  audited : Bool := false
  audit : List Nat := []
  deriving DecidableEq, Repr

/-- A complete translation (R159). -/
structure Trans where
  part : Nat
  vpn : Nat
  gfn : Nat
  frame : Nat
  rd : Bool
  w : Bool
  x : Bool
  priv : Bool
  attr : Nat
  layout : Nat
  elide : Bool
  tpage : Bool
  leaf : Nat
  deriving DecidableEq, Repr

/-- A walk-cache entry (R159): the partition, the region of the address, the leaf table, and for S1U the regions of
guest-physical space the table was reached through. -/
structure WalkEntry where
  part : Nat
  key : Nat
  table : Nat
  via : List Nat
  deriving DecidableEq, Repr

/-- An instruction-cache line (R85, R320): 32 words, the PRIV bit of its page, and the 16-byte pieces whose parity is wrong
(R96). -/
structure CodeLine where
  words : List Word
  priv : Bool
  odd : List Nat := []
  deriving DecidableEq, Repr

/-- A line of the L1 data cache (R85): its 128-byte block, the 16-byte sectors it holds, by place in the block, and those
whose parity is wrong (R96). -/
structure L1Line where
  block : Nat
  sectors : Tab (List Byte)
  odd : List Nat := []
  deriving DecidableEq, Repr

/-- A loop buffer (R85, R200): the pack slot, the partition and first address (partition times 2^52 plus the address), the
words, the PRIV bit of their pages, whether icinv has removed it, so that only the pass under way may still read it, and the
16-byte pieces whose parity is wrong (R96). -/
structure LoopBuf where
  slot : Nat
  lo : Nat
  words : List Word
  priv : Bool
  dying : Bool
  odd : List Nat := []
  deriving DecidableEq, Repr

/-- An issue unit (R142): the slot that issued last, and its cycle. -/
structure IssueUnit where
  last : Nat := 0
  cycle : Nat := 0
  deriving DecidableEq, Repr

/-- An update on its way to a vault bank (R179), with the barrier's offset. -/
inductive BankOp where
  | arrive (off bytes : Nat) (fault : Bool)
  | expect (off n : Nat)
  deriving DecidableEq, Repr

/-- A core (R9). Unlisted vault bytes read 0; unlisted pack slots are empty. `stalls` holds the packs that wait for a
queue entry, `acquires` those that wait at acquire, in order of their requests, and `allocs` those whose accalloc waits, in the
order they issued (R292). `l1` and `icache` list their lines from the
newest to the oldest. `fed` holds the cpyf commands that have signalled while K-steps of theirs stand in a FIFO (R139). -/
structure Core where
  vault : List Host.Cell := []
  vaultBad : List Nat := []
  vaultSoft : List Nat := []
  bank : List BankOp := []
  eng : Engine := {}
  fed : Tab Cmd := []
  packs : Tab Pack := []
  l1 : List L1Line := []
  icache : List (Nat × CodeLine) := []
  loops : List LoopBuf := []
  tlb : List Trans := []
  units : Tab IssueUnit := []
  stalls : List (QueueId × Nat) := []
  acquires : List Nat := []
  allocs : List Nat := []
  energy : Nat := 0
  energyBase : Nat := 0
  mhz : Nat := 2700
  mhzNext : Nat := 2700
  deriving DecidableEq, Repr

/-- The role shape of a node record (R13). -/
structure Shape where
  packs : Nat
  pro : Nat
  full : Nat
  last : Nat
  deriving DecidableEq, Repr

/-- A live node (R13, R17-R23). -/
structure Node where
  part : Nat
  count : Nat
  ready : Bool
  entry : DWord
  rcb : DWord
  arg : DWord
  groups : Nat
  flags : Nat
  shapes : List Shape
  vbytes : Nat
  acc : Nat
  est : Nat
  succ : List Nat
  overflow : DWord
  tiles : List (Nat × Nat × Nat)
  next : Nat := 0
  ended : Nat := 0
  done : Bool := false
  listing : Bool := false
  readyTime : Nat := 0
  readySrc : Nat := 0
  endSrc : Nat := 0
  die : Nat := 0
  stuck : Nat := 0
  decided : Option Nat := none
  deriving DecidableEq, Repr

/-- A partition record (R162); `ctl` is the word at offset 48. -/
structure PartRec where
  clg : Word := 0
  clm : Word := 0
  cgg : Word := 0
  cgm : Word := 0
  clb : Word := 0
  cgb : Word := 0
  s2root : DWord := 0
  s1root : DWord := 0
  tenant : DWord := 0
  ctl : Word := 0
  res : Word := 0
  save : DWord := 0
  deriving DecidableEq, Repr

/-- What the device keeps about a region beside its RCB bytes (R175, R183, R193): `token` names the two pieces of 64 bytes of
the RCB's software part when a matching token was delivered, `holdLogged` that a hold of 10 ms has been reported, `rate` the
predicted mW, `carry` the pJ below 1 µJ that its ended groups have left. -/
structure Region where
  token : Option (List Nat) := none
  hold : Option Nat := none
  reported : Bool := false
  stopLogged : Bool := false
  torn : Bool := false
  rate : Nat := 0
  holdLogged : Bool := false
  carry : Nat := 0
  deriving DecidableEq, Repr

/-- A pack saved by pre-emption or ctxsave (R195-R199), with the slot it left; `soft` and `bad` are the lanes and v-registers
whose words in the shadow bank have an error that its code corrects, or does not (R96, R97). -/
structure Saved where
  core : Nat
  slot : Nat
  pack : Pack
  soft : List (Nat × Nat) := []
  bad : List (Nat × Nat) := []
  deriving DecidableEq, Repr

/-- The pre-emption of a partition (R195-R197). -/
inductive Preempt where
  | none | grace (deadline : Nat) | stopped | swapped | drained
  deriving DecidableEq, Repr

/-- A guest context switch of one group (R199, R312): whether it has left its core, whether it is being restored, whether
the scheduler has placed it again, the chunks written to its save area, and by number those read back. -/
structure Context where
  gid : Nat
  out : Bool
  restoring : Bool
  placed : Bool
  chunks : List (List Byte) := []
  got : Tab (List Byte) := []
  deriving DecidableEq, Repr

/-- The image of a saved group in the partition's SAVE area (R197): its group, physical address, the bytes that stand for its
registers and tiles, and how many bytes of its vault allocation follow. -/
structure Image where
  gid : Nat
  pa : Nat
  bytes : List Byte
  vbytes : Nat
  deriving DecidableEq, Repr

/-- What the bytes of an image, or of the chunks of a context switch, stand for: the packs of a group and its tiles, as the group stood
then. -/
structure Snapshot where
  gid : Nat
  bytes : List Byte
  group : Group
  packs : List Saved
  eng : Tab Engine
  deriving DecidableEq, Repr

/-- A partition (R49, R162) and what the device keeps for it. An unlisted region has the defaults of `Region`. `saved` holds
the packs taken off their cores; `savedVault` holds by group its vault allocation, `savedBad` the 8-byte words of it that are
uncorrectable (R97), and `savedEng` its engine state: by group × 64 + 4 × handle + place a tile, and at place 63 the core's own
registers and coefficients; `images` are those images that have left the shadow banks for the SAVE area, and `written` what the
images and chunks written so far stand for; `carry` the pJ below 1 µJ that ended groups have left (R183). -/
structure Partition where
  map : PartRec := {}
  ttbase : DWord := 0
  joincap : Word := 0
  qmin : Nat × Nat × Nat := (64, 32, 128)
  qcap : Nat × Nat × Nat := (512, 256, 768)
  slotLo : Nat := 0
  slotHi : Nat := 0
  halted : Bool := false
  energy : Nat := 0
  carry : Nat := 0
  created : Nat := 0
  records : Tab (List Byte) := []
  pool : List Nat := []
  marked : List Nat := []
  token : Option (Nat × List Byte) := none
  staged : Option (DWord × BitVec 256) := none
  preempt : Preempt := .none
  saved : List Saved := []
  savedEng : Tab Engine := []
  savedVault : Tab (List Host.Cell) := []
  savedBad : Tab (List Nat) := []
  images : List Image := []
  written : List Snapshot := []
  contexts : List Context := []
  regions : Tab Region := []
  deriving DecidableEq, Repr

/-- Who waits for a page request (R141, R191, R193, R276, R287, R320). -/
inductive Waiter where
  | lanes (entry : Nat) (mask : LaneMask)
  | pack (group no : Nat)
  | cmd (id : Nat)
  | orphan (n : Nat)
  | idle
  deriving DecidableEq, Repr

/-- A page request (R191); `fn` counts it against a function (0 physical, 1-20 virtual). -/
structure PageReq where
  fn : Nat
  part : Nat
  stage2 : Bool
  access : Nat
  addr : Nat
  page : Nat
  time : Nat
  src : Nat
  taken : Bool := false
  waiter : Waiter
  held : Bool := false
  deriving DecidableEq, Repr

/-- A held reduction of an ended group or exited thread (R193): the entry with the one lane left, and where a named
barrier is. -/
structure Orphan where
  part : Nat
  rcb : DWord
  slotNo : Nat
  core : Nat
  group : Nat
  entry : Entry
  deriving DecidableEq, Repr

/-- A release tag (R120). -/
structure RelTag where
  core : Nat
  scope : Scope
  deriving DecidableEq, Repr

/-- A promotion (R120): the place of the tag (a home slice, or the core of a vault), the core that released, the acquire that
waits for it by entry and lane, whether the place has asked that core, and whether it has replied. -/
structure Promotion where
  slice : Nat
  core : Nat
  entry : Nat
  lane : Nat
  asked : Bool := false
  replied : Bool := false
  deriving DecidableEq, Repr

/-- The elision map of one frame (R93): block codes (an unlisted block has code 0) and segment constants. -/
structure Elision where
  codes : Tab (BitVec 2) := []
  consts : Tab Word := []
  deriving DecidableEq, Repr

/-- A re-tile request or the one under way (R104, R105): the page, the format of its elements, what for, the layout, and its
progress. -/
inductive RetileWhy where
  | monitor | pin | settle
  deriving DecidableEq, Repr

inductive RetileStage where
  | waiting | copying | pass (n : Nat) | scheduled (tpub : Nat) | published
  deriving DecidableEq, Repr

structure Retile where
  part : Nat
  tid : Nat
  page : Nat
  fmt : Nat
  why : RetileWhy
  layout : Nat
  stage : RetileStage := .waiting
  oldFrame : Nat := 0
  newFrame : Nat := 0
  oldLayout : Nat := 0
  leaf : Nat := 0
  dirty : List Nat := []
  deriving DecidableEq, Repr

/-- A monitor record (R103), by page: the key is part, tid and page; 64 bits. -/
structure Monitor where
  part : Nat
  tid : Nat
  page : Nat
  word : DWord
  deriving DecidableEq, Repr

/-- A report on its way to an anchor slice (R102, R104): class 0 XRUN, 1 YRUN, 2 BLOCK, 3 SCAT, with the size class. -/
structure Report where
  part : Nat
  tid : Nat
  page : Nat
  cls : Nat
  size : Nat
  slice : Nat
  deriving DecidableEq, Repr

/-- A byte a replica of a REPL page has not taken yet (R123): what the other die still reads, and the cores that have
written the location since, or read it at the primary, and so read the new value (R115). -/
structure Lag where
  old : Byte
  seen : List Nat
  deriving DecidableEq, Repr

/-- The home slices and memory controllers (R85-R97, R120, R123). `lines` lists the granules in the memory-side caches from the
newest to the oldest, a replica in the mirror slice counted from 2^60 (R87). `promoting` holds the promotions that acquires
wait for (R120); `paused` the channel that recalibrates and when
it ends, and `recals` how many recalibrations have been made (R95); `arrivals` the loads that have reached their slice and wait
for memory, by entry and the lane that names the request, in order; `remoteData`, `remoteError` what the last load or RMW of another device was answered (R29, R97). `mapSoft` and
`mapBad` list 64-bit words of the elision maps whose error is corrected on read, or is not (R96), by 32 times the frame plus
the word (16 words of codes, 8 of constants); `monSoft` and `monBad` monitor records by partition, tid and page. `rcbs` lists
the pieces of 64 bytes of RCBs that have not been written since a matching token was delivered (R175). -/
structure Home where
  bad : List Nat := []
  soft : List Nat := []
  lines : List Nat := []
  hostOwned : List Nat := []
  replicaLag : Tab Lag := []
  elision : Tab Elision := []
  zeroGroups : List (Nat × List Nat) := []
  tags : Tab RelTag := []
  promoting : List Promotion := []
  monitors : List Monitor := []
  reports : List Report := []
  share : Tab Nat := []
  retiles : List Retile := []
  paused : Option (Nat × Nat) := none
  recals : Nat := 0
  arrivals : List (Nat × Nat) := []
  remoteData : List Byte := []
  remoteError : Bool := false
  mapSoft : List Nat := []
  mapBad : List Nat := []
  monSoft : List (Nat × Nat × Nat) := []
  monBad : List (Nat × Nat × Nat) := []
  rcbs : List Nat := []
  deriving DecidableEq, Repr

/-- An entry of the error log (R185). -/
structure LogEntry where
  time : DWord
  seq : DWord
  addr : DWord
  detail : Word
  info : Word
  deriving DecidableEq, Repr

/-- A notification (R167). -/
structure Notice where
  code : Nat
  part : Nat
  time : Nat
  seq : Nat
  detail : List Byte
  deriving DecidableEq, Repr

/-- Why the MP runs a commit (R165). -/
inductive CommitWhy where
  | host | root (part : Nat) (gpa : DWord) | lend | retire
  deriving DecidableEq, Repr

/-- How far a commit has come (R165-R169). -/
inductive CommitStage where
  | waiting | prepare (grace : Nat) | cleared | ticking (t : Nat)
  deriving DecidableEq, Repr

/-- A commit (R165-R169): the staged map, and how far it has come; `nonces` are those of the tenants that take scrubbed units,
by partition (R174). -/
structure Commit where
  why : CommitWhy
  map : List PartRec
  stage : CommitStage := .waiting
  scrubs : List UnitRef := []
  clearing : List UnitRef := []
  scrubbed : List UnitRef := []
  doneTime : Nat := 0
  reduced : List Nat := []
  suspended : List Nat := []
  nonces : List (BitVec 256) := []
  deriving DecidableEq, Repr

/-- The mailbox slot (R166) and what a host read through CXL.mem last returned (R28, R97). -/
structure Mailbox where
  code : Nat := 0
  status : Nat := 0
  value : DWord := 0
  cert : List Byte := []
  readData : List Byte := []
  poison : Bool := false
  deriving DecidableEq, Repr

/-- A watchpoint the host's debugger has armed (R186): the partition, whether it watches instruction addresses or data, the
addresses from `lo` up to `hi`, and whether those are addresses of the vaults. -/
structure Watch where
  part : Nat
  fetch : Bool
  lo : Nat
  hi : Nat
  vault : Bool := false
  deriving DecidableEq, Repr

/-- The MP (R49, R162-R175, R184, R185) and the device registers. Unlisted counters and log slots are 0. `watch` lists the
watchpoints armed through it; spec/ gives no command that arms one. No step writes `envelope`: spec/ does not say when the MP
changes it (R30; DESIGN CHOICE, log 22). `flash` holds by serial number the delays and Vref values of a stack, `delays` by stack
those in use, and `spares` by channel (32 × stack + channel) the spare lanes in use (R94). `takeBacks` are the frames that FRAMES
commands wait for, by partition (R166). -/
structure Mp where
  layoutver : Word := 0
  envelope : Word := 2400000
  ptshadow : DWord := 0
  hmask : List DWord := []
  nodeId : Nat := 0
  serial : BitVec 128 := 0
  enabled : Bool := true
  training : Nat := 0
  trained : Tab Bool := []
  flash : Tab Word := []
  delays : Tab Word := []
  spares : Tab Nat := []
  takeBacks : List (Nat × List Nat) := []
  lastTick : Nat := 0
  staged : Option (List PartRec) := none
  commits : List Commit := []
  retiredClusters : Word := 0
  retiredGroups : Word := 0
  scrubSeq : Nat := 0
  tokens : List (Nat × List Byte) := []
  counters : Tab Nat := []
  log : Tab LogEntry := []
  last : LogEntry := ⟨0, 0, 0, 0, 0⟩
  logvalid : DWord := 0
  lastseq : DWord := 0
  ring : Tab Notice := []
  nhead : Word := 0
  ntail : Word := 0
  nlost : Word := 0
  nstore : List Notice := []
  nseq : Nat := 0
  msix : Nat := 0
  mailbox : Mailbox := {}
  planning : Nat := 0
  measured : Nat := 0
  predicted : Nat := 0
  corrections : Nat := 0
  lostPorts : List Nat := []
  watch : List Watch := []
  deriving DecidableEq, Repr

/-- The scheduler (R17-R23, R131-R133). -/
structure Sched where
  nodes : Tab Node := []
  lastReg : Tab Word := []
  reserved : Tab (Nat × Nat) := []
  deriving DecidableEq, Repr

/-- The model's own fields (DESIGN CHOICE, log 4, log 7): what happens next that the spec leaves open, and counters. `tape` holds the
events to take before anything else; `manual` takes none beside it; `defer` leaves accesses in flight; `elapse` gives the
nanoseconds each step takes (1 when empty); `turn` is the issue unit asked first; `free` counts the free values used. -/
structure Env where
  tape : List Instr := []
  manual : Bool := false
  defer : Bool := false
  elapse : List Nat := []
  turn : Nat := 0
  free : Nat := 0
  fresh : Nat := 0
  deriving DecidableEq, Repr

/-- The machine. `site`, `act`, `ipc`, `pk` are the issue latch: the core and slot of the issuing pack, the threads that
issue, the address of the instruction, and the pack itself while it issues. `mem` is flat memory by 52-bit physical address
(local HBM, host memory with bit 51, other devices), bytes not listed read 0. -/
structure State where
  time : Nat := 0
  stamps : Tab Nat := []
  env : Env := {}
  site : Option (Nat × Nat) := none
  act : LaneMask := 0
  ipc : BitVec 52 := 0
  pk : Pack := {}
  mem : List Host.Cell := []
  home : Home := {}
  cores : Tab Core := []
  clusterTlb : List (Nat × Trans) := []
  s1u : List (Nat × WalkEntry) := []
  s2u : List (Nat × WalkEntry) := []
  groups : Tab Group := []
  cmds : Tab Cmd := []
  sched : Sched := {}
  parts : Tab Partition := []
  pages : Tab PageReq := []
  overflow : List PageReq := []
  orphans : Tab Orphan := []
  mp : Mp := {}
  deriving DecidableEq, Repr

/-- Why a step stops with a fault. -/
inductive Fault where
  /-- Raised by every lane and pack instruction when no pack stands in the issue latch: `step` never runs one so.
  Safe: a state in which this happens is no state of the machine. -/
  | noPack
  deriving DecidableEq, Repr

/-- Why a step is refused. -/
inductive Refusal where
  /-- Raised by an arm of `exec` that has no meaning yet. Safe: nothing is claimed of the instruction. -/
  | notModelled (mnemonic : String)
  deriving DecidableEq, Repr

/-- The default folding masks: bit 17 + i set in HMASKi (R49). -/
def hmaskReset : List DWord :=
  [0x20000, 0x40000, 0x80000, 0x100000, 0x200000, 0x400000, 0x800000, 0x1000000, 0x2000000]

/-- The machine right after reset: every register at the value spec/ states (INVENTORY.md, State, names rule and value;
DESIGN CHOICE, log 1, 3, 5 name the rest); no partition, no node and no pack exist. -/
def State.reset : State := { mp := { hmask := hmaskReset } }

end Sys2Proof.Machine
end

