-- ==== Sys2Proof/Machine/Tables.lean ====
section
/-! DEFINITION. Operations on tables by key, lane masks and little-endian bytes (spec/03_numbers.md R56). -/
namespace Sys2Proof.Machine

/-- The value listed at `k`. -/
def tabFind {α : Type} : Tab α → Nat → Option α
  | [], _ => none
  | (j, x) :: m, k => if j = k then some x else tabFind m k

/-- The value at `k`; an unlisted key reads as `d`. -/
def tabGet {α : Type} (d : α) (m : Tab α) (k : Nat) : α := (tabFind m k).getD d

/-- List `x` at `k`, keys staying in rising order. -/
def tabPut {α : Type} : Tab α → Nat → α → Tab α
  | [], k, x => [(k, x)]
  | (j, y) :: m, k, x =>
    if j = k then (k, x) :: m else if k < j then (k, x) :: (j, y) :: m else (j, y) :: tabPut m k x

/-- Take the entry at `k` out. -/
def tabDel {α : Type} (m : Tab α) (k : Nat) : Tab α := m.filter fun e => decide (e.1 ≠ k)

/-- Write `x` at `k` where unlisted keys read as `d`: the default is never listed. -/
def tabSet {α : Type} [DecidableEq α] (d : α) (m : Tab α) (k : Nat) (x : α) : Tab α :=
  if x = d then tabDel m k else tabPut m k x

/-- Keys strictly rising, each at least `lo`. -/
def tabRising {α : Type} : Tab α → Nat → Bool
  | [], _ => true
  | (j, _) :: m, lo => decide (lo ≤ j) && tabRising m (j + 1)

/-- The canonical form of a table whose unlisted keys read as `d`. -/
def tabWf {α : Type} [DecidableEq α] (d : α) (m : Tab α) : Bool :=
  tabRising m 0 && m.all fun e => decide (e.2 ≠ d)

/-- Change the value at `k`, if one is listed. -/
def tabMod {α : Type} (m : Tab α) (k : Nat) (f : α → α) : Tab α :=
  match tabFind m k with
  | some x => tabPut m k (f x)
  | none => m

/-- The canonical form of a memory: rising addresses, no byte listed that reads 0 anyway. -/
def Memory.wf (m : List Host.Cell) : Bool := tabWf (0 : BitVec 8) m

/-- One byte of a memory. -/
def byteAt (m : List Host.Cell) (a : Nat) : Byte := tabGet 0 m a

/-- Store one byte. -/
def setByte (m : List Host.Cell) (a : Nat) (b : Byte) : List Host.Cell := tabSet 0 m a b

/-- `n` bytes from `a` up. -/
def bytesAt (m : List Host.Cell) (a : Nat) : Nat → List Byte
  | 0 => []
  | n + 1 => byteAt m a :: bytesAt m (a + 1) n

/-- Store bytes from `a` up. -/
def setBytes (m : List Host.Cell) (a : Nat) : List Byte → List Host.Cell
  | [] => m
  | b :: bs => setBytes (setByte m a b) (a + 1) bs

/-- The number little-endian bytes stand for. -/
def natOfBytes : List Byte → Nat
  | [] => 0
  | b :: bs => b.toNat + 256 * natOfBytes bs

/-- `n` little-endian bytes of a number. -/
def bytesOfNat : Nat → Nat → List Byte
  | 0, _ => []
  | n + 1, x => BitVec.ofNat 8 x :: bytesOfNat n (x / 256)

/-- The 32-bit words of little-endian bytes. -/
def wordsOfBytes : List Byte → List Word
  | a :: b :: c :: d :: r => BitVec.ofNat 32 (natOfBytes [a, b, c, d]) :: wordsOfBytes r
  | [] => []
  | r => [BitVec.ofNat 32 (natOfBytes r)]

def bytesOfWords : List Word → List Byte
  | [] => []
  | w :: ws => bytesOfNat 4 w.toNat ++ bytesOfWords ws

/-- Slice of bytes: `n` bytes at offset `o` as a number. -/
def fieldAt (bs : List Byte) (o n : Nat) : Nat := natOfBytes ((bs.drop o).take n)

/-- Whether lane `l` is in the mask. -/
def hasLane (m : LaneMask) (l : Nat) : Bool := m.getLsbD l

/-- The mask of the lanes of 0-31 that satisfy `f`. -/
def maskOf (f : Nat → Bool) : LaneMask :=
  (List.range 32).foldl (fun m l => if f l then m ||| (1#32 <<< l) else m) 0

/-- The lanes of a mask, ascending. -/
def lanesOf (m : LaneMask) : List Nat := (List.range 32).filter (hasLane m)

/-- Insert into an ascending list without repeats. -/
def insertAsc (x : Nat) : List Nat → List Nat
  | [] => [x]
  | y :: r => if x = y then y :: r else if x < y then x :: y :: r else y :: insertAsc x r

/-- The distinct members of a list, ascending. -/
def ascending : List Nat → List Nat
  | [] => []
  | x :: r => insertAsc x (ascending r)

/-- Round up division. -/
def ceilDiv (a b : Nat) : Nat := (a + b - 1) / b

/-- Bits hi down to lo of a number. -/
def bits (x hi lo : Nat) : Nat := x / 2 ^ lo % 2 ^ (hi + 1 - lo)

/-- One bit of a number. -/
def bitOf (x n : Nat) : Bool := x / 2 ^ n % 2 = 1

end Sys2Proof.Machine
end

