-- ==== Sys2Proof/Machine/Num.lean ====
section
/-! DEFINITION. Float formats, exact values and the one rounding (spec/03_numbers.md R55, R61-R67). A finite value is
`± m * 2^e` with `m` a natural number, so that products and sums are exact. -/
namespace Sys2Proof.Machine

/-- A float format (R55): exponent and mantissa bits, bias, and whether it is E4M3 (no infinity, one NaN code). -/
structure Fmt where
  ebits : Nat
  mbits : Nat
  bias : Nat
  e4m3 : Bool := false
  deriving DecidableEq, Repr

def fp64 : Fmt := ⟨11, 52, 1023, false⟩
def fp32 : Fmt := ⟨8, 23, 127, false⟩
def fp16 : Fmt := ⟨5, 10, 15, false⟩
def bf16 : Fmt := ⟨8, 7, 127, false⟩
def e4m3 : Fmt := ⟨4, 3, 7, true⟩
def e5m2 : Fmt := ⟨5, 2, 15, false⟩

/-- Bits of a value of the format. -/
def Fmt.width (f : Fmt) : Nat := 1 + f.ebits + f.mbits

/-- The exponent of the smallest normal value. -/
def Fmt.emin (f : Fmt) : Int := 1 - (f.bias : Int)

/-- Code of the first magnitude beyond the finite ones (R55). -/
def Fmt.top (f : Fmt) : Nat := if f.e4m3 then 0x7F else (2 ^ f.ebits - 1) * 2 ^ f.mbits

/-- The canonical quiet NaN (R63). -/
def Fmt.nan (f : Fmt) : Nat := if f.e4m3 then 0x7F else f.top + 2 ^ (f.mbits - 1)

/-- An exact value, an infinity or a NaN. -/
inductive Num where
  | nan (signalling : Bool)
  | inf (neg : Bool)
  | fin (neg : Bool) (m : Nat) (e : Int)
  deriving DecidableEq, Repr

/-- Rounding attributes (R61), in the codes of MODE.RND (R40). -/
inductive Rnd where
  | rne | rtz | rup | rdn
  deriving DecidableEq, Repr

def Rnd.ofMode (mode : Word) : Rnd :=
  match mode.toNat % 4 with
  | 0 => .rne | 1 => .rtz | 2 => .rup | _ => .rdn

/-! Flags in the bit order of FSTAT (R41). -/

def fInvalid : Word := 1
def fDivzero : Word := 2
def fOverflow : Word := 4
def fUnderflow : Word := 8
def fInexact : Word := 16
def fSparebad : Word := 32
def fJointo : Word := 64

/-- The exact value a bit pattern encodes (R55). -/
def Fmt.decode (f : Fmt) (x : Nat) : Num :=
  let neg := bitOf x (f.ebits + f.mbits)
  let mag := x % 2 ^ (f.ebits + f.mbits)
  let ex := mag / 2 ^ f.mbits
  let m := mag % 2 ^ f.mbits
  if f.e4m3 && mag = 0x7F then .nan false
  else if !f.e4m3 && ex = 2 ^ f.ebits - 1 then
    if m = 0 then .inf neg else .nan (decide (m < 2 ^ (f.mbits - 1)))
  else if ex = 0 then .fin neg m (f.emin - f.mbits)
  else .fin neg (2 ^ f.mbits + m) ((ex : Int) - f.bias - f.mbits)

def Num.isNan : Num → Bool
  | .nan _ => true
  | _ => false

def Num.isSnan : Num → Bool
  | .nan s => s
  | _ => false

/-- A signalling NaN among the operands raises INVALID (R63). -/
def snanFlag (x : Num) : Word := if x.isSnan then fInvalid else 0

def Num.neg : Num → Num
  | .nan s => .nan s
  | .inf n => .inf !n
  | .fin n m e => .fin (!n) m e

def Num.isNeg : Num → Bool
  | .nan _ => false
  | .inf n => n
  | .fin n _ _ => n

def Num.isZero : Num → Bool
  | .fin _ 0 _ => true
  | _ => false

/-- Number of bits of `m`. -/
def bitLen (m : Nat) : Nat := if m = 0 then 0 else Nat.log2 m + 1

/-- Sign bit and magnitude code as a bit pattern. -/
def Fmt.pack (f : Fmt) (neg : Bool) (mag : Nat) : Nat := (if neg then 2 ^ (f.ebits + f.mbits) else 0) + mag

/-- Whether the attribute rounds a discarded part up in magnitude: `half` compares it with one half (0 below, 1 equal, 2
above), `odd` tells the last kept bit. -/
def roundsUp (r : Rnd) (neg : Bool) (half : Nat) (odd : Bool) : Bool :=
  match r with
  | .rne => half = 2 || (half = 1 && odd)
  | .rtz => false
  | .rup => !neg
  | .rdn => neg

/-- `m` divided by 2^d and rounded; whether it was inexact. -/
def roundShift (r : Rnd) (neg : Bool) (m d : Nat) : Nat × Bool :=
  let k := m / 2 ^ d
  let rem := m % 2 ^ d
  if rem = 0 then (k, false)
  else
    let half := if 2 * rem < 2 ^ d then 0 else if 2 * rem = 2 ^ d then 1 else 2
    (if roundsUp r neg half (k % 2 = 1) then k + 1 else k, true)

/-- Exponent of the last kept bit for a value `m * 2^e` (R61, R66). -/
def Fmt.unit (f : Fmt) (m : Nat) (e : Int) : Int := max ((bitLen m : Int) - 1 + e) f.emin - f.mbits

/-- Whether a value is tiny: below the smallest normal before rounding (R61). -/
def Fmt.tiny (f : Fmt) (m : Nat) (e : Int) : Bool := m ≠ 0 && decide ((bitLen m : Int) - 1 + e < f.emin)

/-- Magnitude code of `k * 2^u`, `u` the unit of the value that `k` rounds. -/
def Fmt.code (f : Fmt) (k : Nat) (u : Int) : Nat := (u - (f.emin - f.mbits)).toNat * 2 ^ f.mbits + k

/-- What a result beyond the finite range becomes (R61, R64). -/
def Fmt.overflow (f : Fmt) (r : Rnd) (neg : Bool) : Nat :=
  if f.e4m3 then f.pack neg 0x7E
  else
    let toInf := match r with
      | .rne => true | .rtz => false | .rup => !neg | .rdn => neg
    f.pack neg (if toInf then f.top else f.top - 1)

/-- RoundTo for a finite value (R61, R62, R64). -/
def Fmt.roundFin (f : Fmt) (r : Rnd) (flush neg : Bool) (m : Nat) (e : Int) : Nat × Word :=
  if m = 0 then (f.pack neg 0, 0)
  else if flush && f.tiny m e then (f.pack neg 0, fUnderflow ||| fInexact)
  else
    let u := f.unit m e
    let (k, inexact) := if u ≤ e then (m * 2 ^ (e - u).toNat, false) else roundShift r neg m (u - e).toNat
    let c := f.code k u
    if f.top ≤ c then (f.overflow r neg, fOverflow ||| fInexact)
    else (f.pack neg c, if inexact then (if f.tiny m e then fInexact ||| fUnderflow else fInexact) else 0)

/-- RoundTo (R212): the bits and the flags of rounding a value. Infinity to E4M3 is ±448 with OVERFLOW (R64). -/
def Fmt.round (f : Fmt) (r : Rnd) (flush : Bool) : Num → Nat × Word
  | .nan s => (f.nan, if s then fInvalid else 0)
  | .inf neg => if f.e4m3 then (f.pack neg 0x7E, fOverflow) else (f.pack neg f.top, 0)
  | .fin neg m e => f.roundFin r flush neg m e

/-- A subnormal input reads as zero of its sign under FLUSH (R62). -/
def Fmt.flushIn (f : Fmt) (flush : Bool) : Num → Num
  | .fin neg m e => if flush && f.tiny m e then .fin neg 0 0 else .fin neg m e
  | x => x

/-- The signed integer `± m * 2^(e - lo)`. -/
def scaled (neg : Bool) (m : Nat) (e lo : Int) : Int :=
  let x : Int := ((m * 2 ^ (e - lo).toNat : Nat) : Int)
  if neg then -x else x

/-- Exact sum of two finite values; the zero-sum rule of R231. -/
def addFin (r : Rnd) (n1 : Bool) (m1 : Nat) (e1 : Int) (n2 : Bool) (m2 : Nat) (e2 : Int) : Num :=
  let lo := min e1 e2
  let t := scaled n1 m1 e1 lo + scaled n2 m2 e2 lo
  if t = 0 then .fin (if m1 = 0 && m2 = 0 && n1 = n2 then n1 else r = .rdn) 0 lo
  else .fin (decide (t < 0)) t.natAbs lo

/-- Exact addition (R231): the value and INVALID. -/
def Num.add (r : Rnd) (x y : Num) : Num × Word :=
  match x, y with
  | .fin n1 m1 e1, .fin n2 m2 e2 => (addFin r n1 m1 e1 n2 m2 e2, 0)
  | .inf n1, .inf n2 => if n1 = n2 then (.inf n1, 0) else (.nan false, fInvalid)
  | .inf n, .fin _ _ _ => (.inf n, 0)
  | .fin _ _ _, .inf n => (.inf n, 0)
  | x, y => (.nan false, snanFlag x ||| snanFlag y)

/-- Exact multiplication (R231). -/
def Num.mul (x y : Num) : Num × Word :=
  match x, y with
  | .fin n1 m1 e1, .fin n2 m2 e2 => (.fin (n1 != n2) (m1 * m2) (e1 + e2), 0)
  | .inf n1, .inf n2 => (.inf (n1 != n2), 0)
  | .inf n1, .fin n2 m _ => if m = 0 then (.nan false, fInvalid) else (.inf (n1 != n2), 0)
  | .fin n1 m _, .inf n2 => if m = 0 then (.nan false, fInvalid) else (.inf (n1 != n2), 0)
  | x, y => (.nan false, snanFlag x ||| snanFlag y)

/-- Exact fused multiply-add (R231). -/
def Num.fma (r : Rnd) (x y z : Num) : Num × Word :=
  let (p, f1) := x.mul y
  let (t, f2) := p.add r z
  (t, f1 ||| f2)

/-- Order of two finite values: negative, zero or positive difference. -/
def cmpFin (n1 : Bool) (m1 : Nat) (e1 : Int) (n2 : Bool) (m2 : Nat) (e2 : Int) : Int :=
  let lo := min e1 e2
  scaled n1 m1 e1 lo - scaled n2 m2 e2 lo

/-- Comparison (R228): none when unordered. -/
def Num.cmp (x y : Num) : Option Int :=
  match x, y with
  | .nan _, _ => none
  | _, .nan _ => none
  | .inf a, .inf b => some (if a = b then 0 else if a then -1 else 1)
  | .inf a, .fin _ _ _ => some (if a then -1 else 1)
  | .fin _ _ _, .inf b => some (if b then 1 else -1)
  | .fin n1 m1 e1, .fin n2 m2 e2 => some (cmpFin n1 m1 e1 n2 m2 e2)

/-- A quotient of finite values with at least 64 significant bits, its last bit sticky. -/
def divFin (neg : Bool) (m1 : Nat) (e1 : Int) (m2 : Nat) (e2 : Int) : Num :=
  let s := 66 + bitLen m2
  let q := m1 * 2 ^ s / m2
  let rem := m1 * 2 ^ s % m2
  .fin neg (2 * q + (if rem = 0 then 0 else 1)) (e1 - e2 - s - 1)

/-- Division before rounding (R235). -/
def Num.div (x y : Num) : Num × Word :=
  match x, y with
  | .fin n1 m1 e1, .fin n2 m2 e2 =>
    if m2 = 0 then (if m1 = 0 then (.nan false, fInvalid) else (.inf (n1 != n2), fDivzero))
    else if m1 = 0 then (.fin (n1 != n2) 0 0, 0)
    else (divFin (n1 != n2) m1 e1 m2 e2, 0)
  | .inf _, .inf _ => (.nan false, fInvalid)
  | .inf n1, .fin n2 _ _ => (.inf (n1 != n2), 0)
  | .fin n1 _ _, .inf n2 => (.fin (n1 != n2) 0 0, 0)
  | x, y => (.nan false, snanFlag x ||| snanFlag y)

/-- Integer square root by bits: `k` further result bits, value so far `r`. -/
def sqrtBits (m : Nat) : Nat → Nat → Nat
  | 0, r => r
  | k + 1, r => if (r + 2 ^ k) * (r + 2 ^ k) ≤ m then sqrtBits m k (r + 2 ^ k) else sqrtBits m k r

def natSqrt (m : Nat) : Nat := sqrtBits m (bitLen m / 2 + 1) 0

/-- Square root before rounding (R235): more than 64 significant bits, the last sticky. -/
def Num.sqrt (x : Num) : Num × Word :=
  match x with
  | .nan s => (.nan false, if s then fInvalid else 0)
  | .inf true => (.nan false, fInvalid)
  | .inf false => (.inf false, 0)
  | .fin neg m e =>
    if m = 0 then (.fin neg 0 0, 0)
    else if neg then (.nan false, fInvalid)
    else
      let (m1, e1) := if e % 2 = 0 then (m, e) else (2 * m, e - 1)
      let q := natSqrt (m1 * 2 ^ 136)
      (.fin false (2 * q + (if q * q = m1 * 2 ^ 136 then 0 else 1)) (e1 / 2 - 69), 0)

/-- A finite value rounded to an integer (R237, R64): the integer's magnitude, and whether it was inexact. -/
def roundInt (r : Rnd) (neg : Bool) (m : Nat) (e : Int) : Nat × Bool :=
  if 0 ≤ e then (m * 2 ^ e.toNat, false) else roundShift r neg m (-e).toNat

/-- The random word of R66 for global index `g` and input `n`. -/
def srRound1 (x : Word) : Word :=
  let x := x ^^^ (x >>> 16)
  let x := x * 0x7FEB352D
  let x := x ^^^ (x >>> 15)
  let x := x * 0x846CA68B
  x ^^^ (x >>> 16)

def srBits (seed g n : Word) : Word :=
  srRound1 (srRound1 (srRound1 (seed ^^^ (g * 0x9E3779B1) ^^^ (n * 0x85EBCA77))))

/-- Stochastic rounding of a finite value (R66, R67): `rw` is the random word. -/
def Fmt.srFin (f : Fmt) (flush neg : Bool) (m : Nat) (e : Int) (rw : Word) : Nat × Word :=
  if m = 0 then (f.pack neg 0, 0)
  else if flush && f.tiny m e then (f.pack neg 0, fUnderflow ||| fInexact)
  else
    let u := f.unit m e
    let d := (u - e).toNat
    let beyond := fun (c : Nat) => decide (f.top ≤ c)
    let exact := m % 2 ^ d = 0
    let k := min d 32
    let c := if u ≤ e then f.code (m * 2 ^ (e - u).toNat) u
      else if exact then f.code (m / 2 ^ d) u
      else f.code ((m + rw.toNat % 2 ^ k * 2 ^ (d - k)) / 2 ^ d) u
    let srcOver := beyond (f.code (if u ≤ e then m * 2 ^ (e - u).toNat else m / 2 ^ d) u) ||
      (f.code (m / 2 ^ d) u = f.top - 1 && !(u ≤ e) && !exact)
    let res := if beyond c then f.pack neg (f.top - 1) else f.pack neg c
    let inexact := beyond c || (!(u ≤ e) && !exact)
    (res, (if srcOver then fOverflow else 0) ||| (if inexact then fInexact else 0) |||
      (if inexact && f.tiny m e then fUnderflow else 0))

end Sys2Proof.Machine
end

