-- ==== Sys2Proof/Machine/Flags.lean ====
section
/-! DEFINITION. Float operations on bit patterns, each with the flags it raises in FSTAT order (spec/02_registers.md R40-R42,
spec/03_numbers.md R55-R69, spec/11_lane_instructions.md R228-R242). -/
namespace Sys2Proof.Machine

/-- The bits of a result and the flags raised. -/
abbrev Flagged := Nat × Word

/-- Whether MODE.FLUSH applies to the format (R62). -/
def flushFor (f : Fmt) (mode : Word) : Bool := mode.getLsbD 2 && (f == fp32 || f == fp64)

/-- An operand: decoded, flushed where MODE says so. -/
def operand (f : Fmt) (mode : Word) (x : Nat) : Num := f.flushIn (flushFor f mode) (f.decode x)

/-- Round an exact result and add the flags raised on the way. -/
def finishOp (f : Fmt) (mode : Word) (r : Num × Word) : Flagged :=
  let (b, fl) := f.round (Rnd.ofMode mode) (flushFor f mode) r.1
  (b, fl ||| r.2)

/-- The sign bit flipped when `x` is set (R207). -/
def negBits (f : Fmt) (x : Bool) (a : Nat) : Nat :=
  if x then a ^^^ 2 ^ (f.ebits + f.mbits) else a

def fadd (f : Fmt) (mode : Word) (a b : Nat) : Flagged :=
  finishOp f mode ((operand f mode a).add (Rnd.ofMode mode) (operand f mode b))

def fsub (f : Fmt) (mode : Word) (a b : Nat) : Flagged :=
  finishOp f mode ((operand f mode a).add (Rnd.ofMode mode) (operand f mode b).neg)

def fmul (f : Fmt) (mode : Word) (a b : Nat) : Flagged :=
  finishOp f mode ((operand f mode a).mul (operand f mode b))

def fmac (f : Fmt) (mode : Word) (a b d : Nat) : Flagged :=
  finishOp f mode ((operand f mode a).fma (Rnd.ofMode mode) (operand f mode b) (operand f mode d))

/-- ffma (R234): the product and the addend negated as NEGP and NEGC say. -/
def ffma (f : Fmt) (mode : Word) (np nc : Bool) (a b c : Nat) : Flagged :=
  let x := operand f mode a
  let z := operand f mode c
  finishOp f mode ((if np then x.neg else x).fma (Rnd.ofMode mode) (operand f mode b) (if nc then z.neg else z))

def fdiv (f : Fmt) (mode : Word) (a b : Nat) : Flagged :=
  finishOp f mode ((operand f mode a).div (operand f mode b))

def fsqrt (f : Fmt) (mode : Word) (a : Nat) : Flagged := finishOp f mode (operand f mode a).sqrt

/-- The operand as fmin and fmax return it: flushed to a zero of its sign, or unchanged (R232). -/
def passed (f : Fmt) (mode : Word) (a : Nat) : Nat :=
  match f.decode a with
  | .fin n m e => if flushFor f mode && f.tiny m e then f.pack n 0 else a
  | _ => a

/-- Whether `x` is below `y`, with -0 below +0 (R232). -/
def below (x y : Num) : Bool :=
  match x.cmp y with
  | some d => decide (d < 0) || (d == 0 && x.isNeg && !y.isNeg)
  | none => false

/-- fmin (`hi` false) and fmax (`hi` true) of R232. -/
def fminmax (f : Fmt) (mode : Word) (hi : Bool) (a b : Nat) : Flagged :=
  let x := operand f mode a
  let y := operand f mode b
  let fl := snanFlag x ||| snanFlag y
  if x.isNan then (if y.isNan then f.nan else passed f mode b, fl)
  else if y.isNan then (passed f mode a, fl)
  else if (if hi then below x y else below y x) then (passed f mode b, fl)
  else (passed f mode a, fl)

/-- fcmp (R228): the predicate and INVALID. -/
def fcmp (f : Fmt) (mode : Word) (cond : FltCond) (a b : Nat) : Bool × Word :=
  let x := operand f mode a
  let y := operand f mode b
  let o := x.cmp y
  let anyNan : Word := if x.isNan || y.isNan then fInvalid else 0
  let sig := snanFlag x ||| snanFlag y
  let rel := fun (p : Int → Bool) => match o with | some d => p d | none => false
  match cond with
  | .eq => (rel (· == 0), sig)
  | .ne => (!rel (· == 0), sig)
  | .lt => (rel (decide <| · < 0), anyNan)
  | .le => (rel (decide <| · ≤ 0), anyNan)
  | .gt => (rel (decide <| 0 < ·), anyNan)
  | .ge => (rel (decide <| 0 ≤ ·), anyNan)
  | .un => (o.isNone, sig)
  | .or => (o.isSome, sig)
  | .ltq => (rel (decide <| · < 0), sig)
  | .leq => (rel (decide <| · ≤ 0), sig)
  | .gtq => (rel (decide <| 0 < ·), sig)
  | .geq => (rel (decide <| 0 ≤ ·), sig)

/-- The two 16-bit elements of a word and back (R56). -/
def half (x : Word) (i : Nat) : Nat := x.toNat / 65536 ^ i % 65536
def halves (lo hi : Nat) : Word := BitVec.ofNat 32 (lo % 65536 + 65536 * (hi % 65536))

/-- A packed form: both elements, flags ORed (R233). -/
def packed (op : Nat → Flagged) (op1 : Nat → Flagged) : Word × Word :=
  let (x, f0) := op 0
  let (y, f1) := op1 1
  (halves x y, f0 ||| f1)

def packed2 (op : Nat → Flagged) : Word × Word := packed op op

/-- dot2.bf16 (R233): one rounding to FP32 of vd and two BF16 products. -/
def dot2 (mode : Word) (a b d : Word) : Flagged :=
  let r := Rnd.ofMode mode
  let p := fun i => (bf16.decode (half a i)).mul (bf16.decode (half b i))
  let (s1, f1) := (operand fp32 mode d.toNat).add r (p 0).1
  let (s2, f2) := s1.add r (p 1).1
  finishOp fp32 mode (s2, f1 ||| f2 ||| (p 0).2 ||| (p 1).2)

/-- frnd (R237). -/
def frnd (f : Fmt) (mode : Word) (sel : RndSel) (exact : Bool) (a : Nat) : Flagged :=
  let r := match sel with
    | .rne => Rnd.rne | .rtz => .rtz | .rup => .rup | .rdn => .rdn | .mode => Rnd.ofMode mode
  match operand f mode a with
  | .nan s => (f.nan, if s then fInvalid else 0)
  | .inf n => (f.pack n f.top, 0)
  | .fin n m e =>
    let (k, inexact) := roundInt r n m e
    ((f.roundFin .rne false n k 0).1, if exact && inexact then fInexact else 0)

/-- fclass (R238). -/
def fclassMask (f : Fmt) (a : Nat) : Word :=
  match f.decode a with
  | .nan true => 1
  | .nan false => 2
  | .inf true => 4
  | .inf false => 0x200
  | .fin n m e =>
    if m = 0 then (if n then 0x20 else 0x40)
    else if f.tiny m e then (if n then 0x10 else 0x80)
    else if n then 8 else 0x100

/-! F4X blocks (R58-R60). -/

/-- Twice the magnitude of an element code 0-7 (R59). -/
def f4xMag2 : Nat → Nat
  | 0 => 0 | 1 => 1 | 2 => 2 | 3 => 3 | 4 => 4 | 5 => 6 | 6 => 8 | _ => 12

/-- The value of an element code under a scale byte and a spare byte, and SPAREBAD (R59). -/
def f4xDecode (code scale spare : Nat) : Num × Word :=
  if scale = 0xFF then (.nan false, 0)
  else
    let e : Int := (scale : Int) - 127
    if code = 8 then
      match e4m3.decode spare with
      | .fin n m k => if spare = 0x80 then (.fin false 0 0, 0) else (.fin n m (k + e), 0)
      | _ => (.fin false 0 0, fSparebad)
    else (.fin (decide (8 ≤ code)) (f4xMag2 (code % 8)) (e - 1), 0)

/-- An encoded block: 32 element codes, the scale and the spare byte. -/
structure F4xBlock where
  codes : List Nat
  scale : Nat
  spare : Nat
  deriving DecidableEq, Repr

/-- E2M1 with room above its largest value, so that rounding never meets an infinity code (R60 step 3). -/
def e2m1 : Fmt := ⟨3, 1, 1, false⟩

/-- Absolute difference of two values that are finite. -/
def distance (x y : Num) : Num :=
  match x.add .rne y.neg with
  | (.fin _ m e, _) => .fin false m e
  | (z, _) => z

def Num.lt (x y : Num) : Bool := match x.cmp y with | some d => decide (d < 0) | none => false

/-- The scale exponent of a block whose largest magnitude is `m * 2^k` (R60 step 2). -/
def f4xScale (m : Nat) (k : Int) : Int :=
  if m = 0 then -127
  else
    let l : Int := (bitLen m : Int) - 1 + k
    let e := if cmpFin false m k false 6 (l - 2) ≤ 0 then l - 2 else l - 1
    max (-127) (min 127 e)

def Num.scaleBy (x : Num) (d : Int) : Num :=
  match x with
  | .fin n m e => .fin n m (e + d)
  | x => x

/-- The code of a value rounded to E2M1, and whether it was beyond 6 (R60 step 3). -/
def f4xRound (y : Num) : Nat × Bool :=
  match y with
  | .fin n m e =>
    let c := (e2m1.roundFin .rne false false m e).1
    let mag := min c 7
    (if mag = 0 then 0 else (if n then 8 else 0) + mag, match y.cmp (.fin n 6 0) with
      | some d => if n then decide (d < 0) else decide (0 < d)
      | none => false)
  | _ => (0, false)

/-- The index and value of the largest error, the lowest index on a tie (R60 step 4). -/
def f4xWorst : List (Num × Num) → Option (Num × Num) → Option (Num × Num)
  | [], best => best
  | (y, er) :: r, none => f4xWorst r (some (y, er))
  | (y, er) :: r, some (y0, e0) => f4xWorst r (if e0.lt er then some (y, er) else some (y0, e0))

/-- Encoding a block of 32 values (R60), with the flags a lane encoding raises. A source of -0, which decodes as +0, does not differ
from it for INEXACT, nor a NaN from another (DESIGN CHOICE, log 47). -/
def f4xEncode (xs : List Num) : F4xBlock × Word :=
  let bad := fun (x : Num) => match x with | .fin _ _ _ => false | _ => true
  if xs.any bad then (⟨xs.map fun _ => 0, 0xFF, 0x80⟩, fInvalid ||| (if xs.all (·.isNan) then 0 else fInexact))
  else
    let mag := fun (x : Num) => match x with | .fin _ m e => Num.fin false m e | x => x
    let amax := xs.foldl (fun a x => if a.lt (mag x) then mag x else a) (.fin false 0 0)
    let e := match amax with | .fin _ m k => f4xScale m k | _ => 0
    let ys := xs.map (·.scaleBy (-e))
    let qs := ys.map f4xRound
    let qv := fun (c : Nat) => (f4xDecode (if c = 8 then 0 else c) 127 0x80).1
    let errs := (ys.zip qs).map fun (y, q) => (y, distance y (qv q.1))
    let spare := match f4xWorst errs none with
      | some (y, er) => if er.isZero then 0x80 else (e4m3.round .rne false y).1
      | none => 0x80
    let sv := (f4xDecode 8 127 spare).1
    let codes := (errs.zip qs).map fun ((y, er), q) =>
      if y.isZero then 0 else if (distance y sv).lt er then 8 else q.1
    let beyond := qs.any (·.2)
    let scale := (e + 127).toNat
    let inexact := (xs.zip codes).any fun (x, c) => !(distance x (f4xDecode c scale spare).1).isZero
    (⟨codes, scale, spare⟩, (if beyond then fOverflow else 0) ||| (if inexact then fInexact else 0))

/-- Element byte `k` of a block (R58). -/
def F4xBlock.byte (b : F4xBlock) (k : Nat) : Nat := b.codes.getD (2 * k) 0 + 16 * b.codes.getD (2 * k + 1) 0

/-! Conversions (R239, R240). -/

def tyFmt : NumTy → Option Fmt
  | .f64 => some fp64 | .f32 => some fp32 | .bf16 => some bf16 | .f16 => some fp16 | .e4m3 => some e4m3
  | .e5m2 => some e5m2 | _ => none

/-- Width in bits of an element. -/
def tyWidth : NumTy → Nat
  | .f64 | .i64 | .n64 => 64
  | .f32 | .i32 | .n32 | .f4x => 32
  | .bf16 | .f16 | .i16 => 16
  | .e4m3 | .e5m2 | .i8 | .n8 => 8

def tySigned : NumTy → Bool
  | .i64 | .i32 | .i16 | .i8 => true
  | _ => false

/-- The integer an element of an integer type holds. -/
def intOf (ty : NumTy) (x : Nat) : Int :=
  if tySigned ty && bitOf x (tyWidth ty - 1) then (x : Int) - 2 ^ tyWidth ty else x

def intMin (ty : NumTy) : Int := if tySigned ty then -2 ^ (tyWidth ty - 1) else 0
def intMax (ty : NumTy) : Int := if tySigned ty then 2 ^ (tyWidth ty - 1) - 1 else 2 ^ tyWidth ty - 1

/-- Sat (R212), as bits of the type. -/
def satBits (ty : NumTy) (x : Int) : Nat :=
  ((max (intMin ty) (min (intMax ty) x)) % 2 ^ tyWidth ty).toNat

/-- Float to integer (R64). -/
def toInt (ty : NumTy) (r : Rnd) (x : Num) : Flagged :=
  match x with
  | .nan _ => (0, fInvalid)
  | .inf n => (satBits ty (if n then intMin ty else intMax ty), fInvalid)
  | .fin n m e =>
    let (k, inexact) := roundInt r n m e
    let v : Int := if n then -(k : Int) else k
    if v < intMin ty ∨ intMax ty < v then (satBits ty v, fInvalid)
    else (satBits ty v, if inexact then fInexact else 0)

def cvtRnd (mode : Word) : CvtRnd → Rnd
  | .rne => .rne | .rtz => .rtz | .rup => .rup | .rdn => .rdn | .dyn => Rnd.ofMode mode | .sr => Rnd.ofMode mode

/-- Whether stochastic rounding is allowed between the types (R65). -/
def srAllowed (src dst : NumTy) : Bool :=
  match src, dst with
  | .f64, .f32 => true
  | .f64, .bf16 | .f64, .f16 | .f64, .e4m3 | .f64, .e5m2 => true
  | .f32, .bf16 | .f32, .f16 | .f32, .e4m3 | .f32, .e5m2 => true
  | _, _ => false

/-- Whether a cvt rounds stochastically, and so takes a generator input (R65, R240). -/
def usesSr (mode : Word) (rnd : CvtRnd) (src dst : NumTy) : Bool :=
  rnd == .sr && mode.getLsbD 3 && srAllowed src dst

/-- The exact source value of a cvt, and the flags its decoding raises (R59, R240). -/
def cvtSource (mode : Word) (src : NumTy) (x : Nat) : Num × Word :=
  match src with
  | .f4x => f4xDecode (bits x 27 24) (bits x 15 8) (bits x 23 16)
  | ty =>
    match tyFmt ty with
    | some f => (operand f mode x, 0)
    | none => (.fin (decide (intOf ty x < 0)) (intOf ty x).natAbs 0, 0)

/-- cvt (R240) of the selected element; `rw` is the random word of the element. -/
def cvtElem (mode rw : Word) (rnd : CvtRnd) (src dst : NumTy) (x : Nat) : Flagged :=
  let (v, fl) := cvtSource mode src x
  match tyFmt dst with
  | some f =>
    if usesSr mode rnd src dst then
      match v with
      | .fin n m e =>
        let (b, f1) := f.srFin (flushFor f mode) n m e rw
        (b, f1 ||| fl)
      | v =>
        let (b, f1) := f.round (cvtRnd mode rnd) (flushFor f mode) v
        (b, f1 ||| fl)
    else
      let (b, f1) := f.round (cvtRnd mode rnd) (flushFor f mode) v
      (b, f1 ||| fl)
  | none =>
    if (tyFmt src).isSome || src == NumTy.f4x then
      let (b, f1) := toInt dst (cvtRnd mode rnd) v
      (b, f1 ||| fl)
    else (satBits dst (intOf src x), fl)

/-! Engine arithmetic (R63, R69): RNE, subnormals kept, no flags. -/

def Fmt.rne (f : Fmt) (x : Num) : Nat := (f.round .rne false x).1

/-- Exact sum of the products of a group (R69): a zero sum is +0 unless every product is -0. -/
def groupSum : List Num → Num
  | [] => .fin false 0 0
  | p :: ps => ps.foldl (fun a x => (a.add .rne x).1) p

/-- Add to an accumulator with one RNE rounding, in bits of the format. -/
def accAdd (f : Fmt) (acc : Nat) (g : Nat) : Nat := f.rne ((f.decode acc).add .rne (f.decode g)).1

/-- Engine operations on FP32 bits. -/
def eAdd (a b : Nat) : Nat := fp32.rne ((fp32.decode a).add .rne (fp32.decode b)).1
def eSub (a b : Nat) : Nat := fp32.rne ((fp32.decode a).add .rne (fp32.decode b).neg).1
def eMul (a b : Nat) : Nat := fp32.rne ((fp32.decode a).mul (fp32.decode b)).1
def eDiv (a b : Nat) : Nat := fp32.rne ((fp32.decode a).div (fp32.decode b)).1
def eFma (a b c : Nat) : Nat := fp32.rne ((fp32.decode a).fma .rne (fp32.decode b) (fp32.decode c)).1
def eSqrt (a : Nat) : Nat := fp32.rne (fp32.decode a).sqrt.1

/-- Float atomic arithmetic (R259). -/
def atomFloat (f : Fmt) (op : AtomOp) (old x : Nat) : Nat :=
  match op with
  | .add => f.rne ((f.decode old).add .rne (f.decode x)).1
  | .min => canon (fminmax f 0 false old x).1
  | .max => canon (fminmax f 0 true old x).1
  | _ => x
where
  canon (r : Nat) : Nat := if (f.decode r).isNan then f.nan else r

/-- The result of an atomic operation on `w` bits (R259). -/
def atomInt (w : Nat) (op : AtomOp) (old x : Nat) : Nat :=
  let sg := fun (v : Nat) => if bitOf v (w - 1) then (v : Int) - 2 ^ w else v
  match op with
  | .add => (old + x) % 2 ^ w
  | .min => if sg old ≤ sg x then old else x
  | .max => if sg old ≤ sg x then x else old
  | .minu => min old x
  | .maxu => max old x
  | .and => old &&& x
  | .or => old ||| x
  | .xor => old ^^^ x
  | .exch => x

def atomBytes : AtomTy → Nat
  | .i32 | .f32 => 4
  | .i64 | .f64 => 8

def atomResult (ty : AtomTy) (op : AtomOp) (old x : Nat) : Nat :=
  match ty with
  | .i32 => atomInt 32 op old x
  | .i64 => atomInt 64 op old x
  | .f32 => atomFloat fp32 op old x
  | .f64 => atomFloat fp64 op old x

end Sys2Proof.Machine
end

