-- ==== Sys2Proof/Machine/Approx.lean ====
section
/-! DEFINITION. The function unit (spec/11_lane_instructions.md R236). Between its exact cases a function returns the free
value `Config.approxBits` where that lies within the bound of R236, and else the nearest FP32 value (DESIGN CHOICE, log 9). The bound is
tested against a fixed-point evaluation with 64 fraction bits. -/
namespace Sys2Proof.Machine

/-- Fraction bits of the fixed-point evaluation. -/
def fixBits : Nat := 64

/-- pi and ln 2 with 64 fraction bits. -/
def fixPi : Nat := 57952155664616982739
def fixLn2 : Nat := 12786308645202655660

def fixMul (a b : Int) : Int := a * b / 2 ^ fixBits

/-- Series Σ t·x^i/i! style: `n` further terms, `t` the current term, `i` its index, `step` the index increment. -/
def expTerms (x : Int) : Nat → Nat → Int → Int
  | 0, _, _ => 0
  | n + 1, i, t => t + expTerms x n (i + 1) (fixMul t x / (i + 1 : Nat))

/-- 2^f for a fraction f in [0, 1). -/
def fixExp2 (f : Int) : Int := expTerms (fixMul f fixLn2) 28 0 (2 ^ fixBits)

def sinTerms (x2 : Int) : Nat → Nat → Int → Int
  | 0, _, _ => 0
  | n + 1, i, t => t + sinTerms x2 n (i + 2) (-(fixMul t x2 / ((i + 1) * (i + 2) : Nat)))

/-- sin(π·r) for r in [0, 1/2]. -/
def fixSin (r : Int) : Int :=
  let x := fixMul r fixPi
  sinTerms (fixMul x x) 16 1 x

/-- log2 of y in [1, 2), `y` with 128 fraction bits: `n` result bits by squaring. -/
def log2Bits : Nat → Nat → Nat
  | 0, _ => 0
  | n + 1, y =>
    let y2 := y * y / 2 ^ 128
    if 2 ^ 129 ≤ y2 then 2 ^ n + log2Bits n (y2 / 2) else log2Bits n y2

/-- Fixed-point value (64 fraction bits) of `m * 2^e`, rounded down. -/
def fixOf (m : Nat) (e : Int) : Nat :=
  if 0 ≤ e + fixBits then m * 2 ^ (e + fixBits).toNat else m / 2 ^ (-(e + fixBits)).toNat

/-- A reference value: `± m * 2^e`, near the exact result. -/
structure Ref where
  neg : Bool
  m : Nat
  e : Int

/-- Reduced argument of sin(π·x), x = m * 2^e ≥ 0: r in [0, 1/2] and the sign of the result. -/
def reduceSin (m : Nat) (e : Int) : Int × Bool :=
  let t := fixOf m e % 2 ^ (fixBits + 1)
  let neg := decide (2 ^ fixBits ≤ t)
  let u := t % 2 ^ fixBits
  ((if u ≤ 2 ^ (fixBits - 1) then u else 2 ^ fixBits - u : Nat), neg)

/-- The reference for a function at `± m * 2^e`, m ≠ 0, outside the exact cases. -/
def reference (f : Config.Approx) (neg : Bool) (m : Nat) (e : Int) : Ref :=
  match f with
  | .rcp => ⟨neg, 2 ^ (96 + bitLen m) / m, -(96 + bitLen m : Int) - e⟩
  | .rsq =>
    let (m1, e1) := if e % 2 = 0 then (m, e) else (2 * m, e - 1)
    let s := 100 + bitLen m1
    ⟨false, natSqrt (2 ^ (2 * s) / m1), -(s : Int) - e1 / 2⟩
  | .exp2 =>
    let x : Int := if neg then -((fixOf m e : Nat) : Int) - 1 else fixOf m e
    let n := x / 2 ^ fixBits
    ⟨false, (fixExp2 (x % 2 ^ fixBits)).toNat, n - fixBits⟩
  | .log2 =>
    let l : Int := (bitLen m : Int) - 1
    let y := m * 2 ^ (128 - l.toNat)
    let v : Int := (l + e) * 2 ^ 44 + log2Bits 44 y
    ⟨decide (v < 0), v.natAbs, -44⟩
  | .sinp =>
    let (r, s) := reduceSin m e
    ⟨s != neg, (fixSin r).toNat, -fixBits⟩
  | .cosp =>
    let t := (fixOf m e + 2 ^ (fixBits - 1)) % 2 ^ (fixBits + 1)
    let (r, s) := reduceSin t (-fixBits)
    ⟨s, (fixSin r).toNat, -fixBits⟩

/-- The bound on the absolute error, as `k * 2^x` (R236). -/
def errorBound (f : Config.Approx) (r : Ref) : Nat × Int :=
  match f with
  | .rcp | .rsq => (1, fp32.unit r.m r.e)
  | .exp2 => (2, fp32.unit r.m r.e)
  | .log2 => if (bitLen r.m : Int) + r.e ≤ 0 then (1, -22) else (2, fp32.unit r.m r.e)
  | .sinp | .cosp => (1, -22)

/-- Whether FP32 bits lie within the bound of the reference. -/
def withinBound (f : Config.Approx) (r : Ref) (c : Nat) : Bool :=
  match fp32.decode c with
  | .fin n m e =>
    let (k, x) := errorBound f r
    match distance (.fin n m e) (.fin r.neg r.m r.e) with
    | .fin _ dm de => decide (cmpFin false dm de false k x ≤ 0)
    | _ => false
  | _ => false

/-- `m * 2^e` with m odd. -/
def oddPart : Nat → Nat → Int → Nat × Int
  | 0, m, e => (m, e)
  | k + 1, m, e => if m % 2 = 0 && m ≠ 0 then oddPart k (m / 2) (e + 1) else (m, e)

/-- Named and exact cases of R236 for a finite operand: the exact value, with the flags named. -/
def exactCase (f : Config.Approx) (neg : Bool) (m0 : Nat) (e0 : Int) : Option (Num × Word) :=
  let (m, e) := oddPart 160 m0 e0
  match f with
  | .rcp =>
    if m = 0 then some (.inf neg, fDivzero)
    else if m = 1 && decide (-149 ≤ -e) && decide (-e ≤ 127) then some (.fin neg 1 (-e), 0) else none
  | .rsq =>
    if m = 0 then some (.inf neg, fDivzero)
    else if neg then some (.nan false, fInvalid)
    else if m = 1 && e % 2 = 0 then some (.fin false 1 (-(e / 2)), 0) else none
  | .exp2 =>
    let v : Int := scaled neg m e (min e 0)
    let one : Int := 2 ^ (-(min e 0)).toNat
    if m = 0 then some (.fin false 1 0, 0)
    else if 128 * one ≤ v then some (.inf false, fOverflow ||| fInexact)
    else if v < -149 * one then some (.fin false 0 0, fUnderflow ||| fInexact)
    else if v % one = 0 then some (.fin false 1 (v / one), 0) else none
  | .log2 =>
    if m = 0 then some (.inf true, fDivzero)
    else if neg then some (.nan false, fInvalid)
    else if m = 1 then some (.fin (decide (e < 0)) e.natAbs 0, 0) else none
  | .sinp =>
    if m = 0 || decide (0 ≤ e) then some (.fin neg 0 0, 0)
    else if e = -1 then some (.fin ((m % 4 = 3) != neg) 1 0, 0) else none
  | .cosp =>
    if m = 0 then some (.fin false 1 0, 0)
    else if 0 < e then some (.fin false 1 0, 0)
    else if e = 0 then some (.fin true 1 0, 0)
    else if e = -1 then some (.fin false 0 0, 0) else none

/-- Whether the exact result is tiny (R61). -/
def tinyRef (f : Config.Approx) (m : Nat) (e : Int) (r : Ref) : Bool :=
  match f with
  | .sinp => decide (cmpFin false (m * fixPi) (e - fixBits) false 1 (-126) < 0)
  | .rcp | .rsq | .exp2 => fp32.tiny r.m r.e
  | _ => false

/-- Infinities (R236). -/
def infCase (f : Config.Approx) (neg : Bool) : Num × Word :=
  match f with
  | .rcp => (.fin neg 0 0, 0)
  | .rsq => if neg then (.nan false, fInvalid) else (.fin false 0 0, 0)
  | .exp2 => if neg then (.fin false 0 0, 0) else (.inf false, 0)
  | .log2 => if neg then (.nan false, fInvalid) else (.inf false, 0)
  | .sinp | .cosp => (.nan false, fInvalid)

/-- An approximate function of FP32 bits (R236). -/
def approx (f : Config.Approx) (mode a : Word) : Flagged :=
  let flush := mode.getLsbD 2
  match operand fp32 mode a.toNat with
  | .nan s => (fp32.nan, if s then fInvalid else 0)
  | .inf n =>
    let (x, fl) := infCase f n
    (fp32.rne x, fl)
  | .fin n m e =>
    match exactCase f n m e with
    | some (x, fl) =>
      let (b, f1) := fp32.round .rne flush x
      (b, f1 ||| fl)
    | none =>
      let r := reference f n m e
      let tiny := tinyRef f m e r
      let near := fp32.roundFin .rne false r.neg (2 * r.m + 1) (r.e - 1)
      let c := (Config.approxBits f a).toNat
      let b := if near.2 &&& fOverflow ≠ 0 then near.1 else if withinBound f r c then c else near.1
      let beyond := near.2 &&& fOverflow
      if flush && tiny then (fp32.pack r.neg 0, fUnderflow ||| fInexact)
      else (b, fInexact ||| beyond ||| (if tiny then fUnderflow else 0))

end Sys2Proof.Machine
end

