-- ==== Sys2Proof/Machine/Access.lean ====
section
/-! DEFINITION. Reading and changing the parts of the state, time stamps (spec/09_counters_events.md R176, R177), the error
log (R184, R185) and the notification ring (spec/08_tables.md R167). -/
namespace Sys2Proof.Machine

def State.core (s : State) (c : Nat) : Core := tabGet {} s.cores c

def State.setCore (s : State) (c : Nat) (k : Core) : State := { s with cores := tabPut s.cores c k }

def State.modCore (s : State) (c : Nat) (f : Core → Core) : State := s.setCore c (f (s.core c))

def State.part (s : State) (p : Nat) : Partition := tabGet {} s.parts p

def State.modPart (s : State) (p : Nat) (f : Partition → Partition) : State :=
  { s with parts := tabPut s.parts p (f (s.part p)) }

def State.group (s : State) (g : Nat) : Option Group := tabFind s.groups g

def State.modGroup (s : State) (g : Nat) (f : Group → Group) : State := { s with groups := tabMod s.groups g f }

def State.modCmd (s : State) (i : Nat) (f : Cmd → Cmd) : State := { s with cmds := tabMod s.cmds i f }

def State.packAt (s : State) (c slot : Nat) : Option Pack := tabFind (s.core c).packs slot

def State.setPack (s : State) (c slot : Nat) (p : Pack) : State :=
  s.modCore c fun k => { k with packs := tabPut k.packs slot p }

def State.delPack (s : State) (c slot : Nat) : State :=
  s.modCore c fun k => { k with packs := tabDel k.packs slot }

/-- Change every pack, resident or saved. -/
def State.modPacks (s : State) (g : Pack → Pack) : State :=
  let saved := fun (v : Saved) => { v with pack := g v.pack }
  { s with
    cores := s.cores.map fun (c, k) => (c, { k with packs := k.packs.map fun (sl, p) => (sl, g p) })
    parts := s.parts.map fun (n, x) => (n, { x with saved := x.saved.map saved }) }

/-- Every resident pack with its core and slot. -/
def State.residents (s : State) : List (Nat × Nat × Pack) :=
  s.cores.flatMap fun (c, k) => k.packs.map fun (sl, p) => (c, sl, p)

/-- Every pack, resident or saved. -/
def State.allPacks (s : State) : List Pack :=
  (s.residents.map fun (_, _, p) => p) ++ s.parts.flatMap fun (_, x) => x.saved.map (·.pack)

/-- The issuing pack into its slot. -/
def State.flush (s : State) : State :=
  match s.site with
  | some (c, sl) => s.setPack c sl s.pk
  | none => s

/-- The issuing pack out of its slot again; a pack that has left its slot is no longer in the latch. -/
def State.reload (s : State) : State :=
  match s.site with
  | some (c, sl) =>
    match s.packAt c sl with
    | some p => { s with pk := p }
    | none => { s with site := none }
  | none => s

/-- An operation on the resident packs, the issuing one included. -/
def State.onStore (s : State) (f : State → State) : State := (f s.flush).reload

/-- The core the issuing pack runs on. -/
def State.here (s : State) : Nat :=
  match s.site with
  | some (c, _) => c
  | none => 0

def State.slotHere (s : State) : Nat :=
  match s.site with
  | some (_, sl) => sl
  | none => 0

/-- The die of a core (R8). -/
def dieOf (c : Nat) : Nat := c / 80

/-- A fresh number for groups, commands and entries. -/
def State.freshId (s : State) : Nat × State :=
  (s.env.fresh, { s with env := { s.env with fresh := s.env.fresh + 1 } })

/-- A free value (DESIGN CHOICE, log 7): a fresh index into `Config.freeWord`. -/
def State.freeWord (s : State) : Word × State :=
  (Config.freeWord s.env.free, { s with env := { s.env with free := s.env.free + 1 } })

/-- The TIME source `src` stamps its next event with (R177). -/
def State.stamp (s : State) (src : Nat) : Nat × State :=
  let t := match tabFind s.stamps src with
    | some l => max s.time (l + 1)
    | none => s.time
  (t, { s with stamps := tabPut s.stamps src t })

def lowestClear : Nat → Nat → Nat → Option Nat
  | 0, _, _ => none
  | n + 1, k, x => if bitOf x k then lowestClear n (k + 1) x else some k

/-- The order of events (R5): by TIME, then by source. -/
def LogEntry.before (a b : LogEntry) : Bool :=
  decide (a.time.toNat < b.time.toNat) ||
    (a.time = b.time && decide (a.info.toNat % 4096 < b.info.toNat % 4096))

/-- Put an entry among others in the order of events. -/
def insertEntry (e : LogEntry) : List LogEntry → List LogEntry
  | [] => [e]
  | x :: r => if e.before x then e :: x :: r else x :: insertEntry e r

/-- Slots in use that hold events of the cycle `now`: those stamped at or after it. -/
def Mp.cycleSlots (m : Mp) (now : Nat) : List Nat :=
  (List.range 64).filter fun k => m.logvalid.getLsbD k && now ≤ (tabGet m.last m.log k).time.toNat

/-- An entry that finds no slot is written into LAST, but for one that comes before the entry of the same cycle there (R185). -/
def Mp.putLast (m : Mp) (now : Nat) (e : LogEntry) : Mp :=
  if m.lastseq ≠ 0 && now ≤ m.last.time.toNat && e.before m.last then m else { m with last := e, lastseq := e.seq }

/-- PLACE AN ENTRY in the error log (R185): the events of one cycle take the free slots, lowest first, in (TIME, source) order;
one left over goes to LAST. -/
def Mp.place (m : Mp) (now : Nat) (e : LogEntry) : Mp :=
  let ks := m.cycleSlots now
  let es := insertEntry e (ks.map (tabGet m.last m.log))
  let put := fun (ks : List Nat) (m : Mp) => { m with log := (ks.zip es).foldl (fun l (k, x) => tabPut l k x) m.log }
  match lowestClear 64 0 m.logvalid.toNat with
  | some k => { put (ascending (k :: ks)) m with logvalid := m.logvalid ||| (1#64 <<< k) }
  | none => (put ks m).putLast now (es.getLastD e)

/-- Count an error event and log it (R184, R185); `part` is partition + 1, or 0. -/
def State.logEvent (s : State) (cls src part addr detail : Nat) : State :=
  let (t, s) := s.stamp src
  let seq := tabGet 0 s.mp.counters cls + 1
  let e : LogEntry := ⟨BitVec.ofNat 64 t, BitVec.ofNat 64 seq, BitVec.ofNat 64 (addr % 2 ^ 52), BitVec.ofNat 32 detail,
    BitVec.ofNat 32 (src % 4096 + cls * 4096 + part * 2 ^ 18)⟩
  { s with mp := Mp.place { s.mp with counters := tabPut s.mp.counters cls seq } s.time e }

/-- Put a notification into the ring, which has room (R167). -/
def Mp.append (m : Mp) (n : Notice) : Mp :=
  let m' := { m with ring := tabPut m.ring (m.nhead.toNat % 64) n, nhead := m.nhead + 1 }
  if m.nhead = m.ntail then { m' with msix := m'.msix + 1 } else m'

/-- Append kept notifications while the ring has room (R167). -/
def Mp.drain : Nat → Mp → Mp
  | 0, m => m
  | k + 1, m =>
    match m.nstore with
    | [] => m
    | n :: r => if (m.nhead - m.ntail).toNat < 64 then Mp.drain k { m.append n with nstore := r } else m

/-- Report an event to the host (R167); `part` is partition + 1, or 0. -/
def State.notify (s : State) (code part : Nat) (detail : List Byte) : State :=
  let (t, s) := s.stamp 2048
  let n : Notice := ⟨code, part, t, s.mp.nseq + 1, detail⟩
  let m : Mp := { s.mp with nseq := s.mp.nseq + 1 }
  let m : Mp := if (m.nhead - m.ntail).toNat < 64 && m.nstore.isEmpty then m.append n
    else if m.nstore.length < 1024 then { m with nstore := m.nstore ++ [n] }
    else { m with nlost := if m.nlost = 0xFFFFFFFF then m.nlost else m.nlost + 1 }
  { s with mp := m }

/-- The syndrome of an error (R185, R188): a free value, as the spec gives no code (DESIGN CHOICE, log 7). -/
def State.syndrome (s : State) : Nat × State :=
  let (w, s) := s.freeWord
  (w.toNat, s)

/-! Partition records (R162). -/

def PartRec.valid (r : PartRec) : Bool := r.ctl.getLsbD 0
def PartRec.susp (r : PartRec) : Bool := r.ctl.getLsbD 1
def PartRec.cls (r : PartRec) : Nat := bits r.ctl.toNat 3 2
def PartRec.lendok (r : PartRec) : Bool := r.ctl.getLsbD 4
def PartRec.vf (r : PartRec) : Nat := bits r.ctl.toNat 9 5

/-- Clusters and channel groups a partition has the use of (R162); `lent` are those lent out of its margin. -/
def PartRec.clusters (r : PartRec) : Word := if r.susp then 0 else r.clg ||| r.clm ||| r.clb
def PartRec.groups (r : PartRec) : Word := if r.susp then 0 else r.cgg ||| r.cgm ||| r.cgb

/-- The live map, records 0-19. -/
def State.map (s : State) : List PartRec := (List.range 20).map fun p => (s.part p).map

/-- Whether another valid partition borrows cluster `k` from partition `p`. -/
def State.lentCluster (s : State) (p k : Nat) : Bool :=
  (List.range 20).any fun q => q != p && (s.part q).map.valid && (s.part q).map.clb.getLsbD k

def State.lentGroup (s : State) (p k : Nat) : Bool :=
  (List.range 20).any fun q => q != p && (s.part q).map.valid && (s.part q).map.cgb.getLsbD k

/-- Whether partition `p` has the use of the cluster (R162, R163). -/
def State.ownsCluster (s : State) (p k : Nat) : Bool :=
  let r := (s.part p).map
  r.valid && r.clusters.getLsbD k && !(r.clm.getLsbD k && s.lentCluster p k)

/-- The partition that owns a cluster, or a channel group, plus 1 (R185). -/
def State.clusterOwner (s : State) (k : Nat) : Nat :=
  match (List.range 20).find? fun p => (s.part p).map.valid && !(s.part p).map.susp && ((s.part p).map.clg ||| (s.part p).map.clm).getLsbD k with
  | some p => p + 1
  | none => 0

def State.groupOwner (s : State) (k : Nat) : Nat :=
  match (List.range 20).find? fun p => (s.part p).map.valid && !(s.part p).map.susp && ((s.part p).map.cgg ||| (s.part p).map.cgm).getLsbD k with
  | some p => p + 1
  | none => 0

/-- The partition a function serves (R17): function 0 serves none. -/
def State.partOfFn (s : State) (fn : Nat) : Option Nat :=
  if fn = 0 then none else (List.range 20).find? fun p => (s.part p).map.valid && (s.part p).map.vf == fn

end Sys2Proof.Machine
end

