-- ==== Sys2Proof/Machine/Home.lean ====
section
/-! DEFINITION. Flat memory by physical address: the home slices and memory controllers (spec/04_memories.md R84-R97,
spec/06_ordering.md R120, R123, spec/08_tables.md R173). One coherent store holds every byte (DESIGN CHOICE, log 8). -/
namespace Sys2Proof.Machine

/-- Parity of the bits of `x` below `n`. -/
def parity : Nat → Nat → Bool
  | 0, _ => false
  | n + 1, x => (x % 2 = 1) != parity n (x / 2)

/-- The selector of a local address (R88). -/
def selOf (hm : List DWord) (a : Nat) : Nat :=
  (List.range 9).foldl (fun acc i =>
    acc + (if bitOf a (8 + i) != parity 39 (a &&& ((hm.getD i 0).toNat &&& 0x7FFFFE0000)) then 2 ^ i else 0)) 0

def stackOf (sel : Nat) : Nat := bits sel 2 0
def channelOf (sel : Nat) : Nat := bits sel 8 4
/-- Home slice source number of a selector, and its channel group and controller (R88). -/
def sliceOf (sel : Nat) : Nat := 512 + 8 * stackOf sel + bits sel 8 6
def groupOf (sel : Nat) : Nat := 4 * stackOf sel + bits sel 8 7
def ctlOf (sel : Nat) : Nat := 1024 + sel

/-- Byte address within the pseudo-channel (R88). -/
def pcOffset (a : Nat) : Nat := bits a 38 17 * 256 + bits a 7 0

/-- The kinds of physical address (R84). -/
inductive PaKind where
  | hbm | reserved | host | remote (node : Nat)
  deriving DecidableEq, Repr

def State.paKind (s : State) (a : Nat) : PaKind :=
  if bitOf a 51 then .host
  else if bits a 50 41 = s.mp.nodeId then (if bits a 40 0 < Config.hbmBytes then .hbm else .reserved)
  else .remote (bits a 50 41)

def State.sel (s : State) (a : Nat) : Nat := selOf s.mp.hmask (bits a 40 0)
def State.slice (s : State) (a : Nat) : Nat := sliceOf (s.sel a)

/-- The die of a home slice (R8). -/
def sliceDie (h : Nat) : Nat := if h < 544 then 0 else 1

/-- The home slice at the mirror position on the other die (R87). -/
def mirrorSlice (h : Nat) : Nat := if h < 544 then h + 32 else h - 32

/-- Colour of a frame (R89): bit 16 and the bits any mask covers. -/
def State.colour (s : State) (frame : Nat) : Nat :=
  (frame * 65536) &&& (s.mp.hmask.foldl (fun m h => m ||| (h.toNat &&& 0x7FFFFE0000)) 0x10000)

/-- Whether a granule of the frame lies on the channel group (R88). -/
def State.frameOn (s : State) (f g : Nat) : Bool := (List.range 256).any fun i => groupOf (s.sel (f * 65536 + 256 * i)) = g

/-- The first request to a frame whose zero-pending bit is set (R173): every block of the frame becomes all zero, and the
frame's bits are cleared. -/
def State.materialise (s : State) (a : Nat) : State :=
  let f := a / 65536
  match s.paKind a with
  | .hbm =>
    let pend := s.home.zeroGroups.filter fun (g, seen) => !seen.contains f && s.frameOn f g
    if pend.isEmpty then s else
      let e := tabGet {} s.home.elision f
      let codes := (List.range 512).map fun b => (b, (1 : BitVec 2))
      let mark := fun (x : Nat × List Nat) => if x.2.contains f then x else (x.1, f :: x.2)
      { s with home := { s.home with
          elision := tabPut s.home.elision f { e with codes := codes }
          zeroGroups := s.home.zeroGroups.map mark
          mapSoft := s.home.mapSoft.filter fun w => !(w / 32 = f && w % 32 < 16)
          mapBad := s.home.mapBad.filter fun w => !(w / 32 = f && w % 32 < 16) } }
  | _ => s

/-- Elision code of the 128-byte block of `a` (R93). -/
def State.blockCode (s : State) (a : Nat) : BitVec 2 :=
  match tabFind s.home.elision (a / 65536) with
  | none => 0
  | some e => tabGet 0 e.codes (a % 65536 / 128)

/-- The byte memory holds at `a`, elided blocks included (R93). -/
def State.memByte (s : State) (a : Nat) : Byte :=
  match tabFind s.home.elision (a / 65536) with
  | none => byteAt s.mem a
  | some e =>
    let c := tabGet 0 e.codes (a % 65536 / 128)
    if c = 1 then 0
    else if c = 2 then BitVec.ofNat 8 ((tabGet 0 e.consts (a % 65536 / 4096)).toNat / 256 ^ (a % 4))
    else byteAt s.mem a

def State.memBytes (s : State) (a : Nat) : Nat → List Byte
  | 0 => []
  | n + 1 => s.memByte a :: s.memBytes (a + 1) n

/-- The protected units of 32 bytes that hold `n` bytes at `a` (R96). -/
def units32 (a n : Nat) : List Nat := (List.range ((a + n - 1) / 32 - a / 32 + 1)).map fun i => a / 32 + i

/-- The 64-bit words of the elision map that a request to a block reads: its codes and its segment's constant (R93, R96). -/
def mapWords (a : Nat) : List Nat := [a / 65536 * 32 + a % 65536 / 4096, a / 65536 * 32 + 16 + a % 65536 / 8192]

/-- Whether the map cannot tell what a block holds: the word of its codes is uncorrectable, or that of the constant it equals.
The block then answers as uncorrectable data (R97; DESIGN CHOICE, log 45). -/
def State.mapBroken (s : State) (a : Nat) : Bool :=
  !s.home.mapBad.isEmpty && s.home.elision.any (fun e => e.1 = a / 65536) &&
    (s.home.mapBad.contains ((mapWords a).headD 0) || (s.blockCode a = 2 && s.home.mapBad.contains ((mapWords a).getD 1 0)))

/-- Whether a read of `n` bytes of one block meets uncorrectable data (R93 code 0b11, R97); an elided block is not read. -/
def State.uncorrectable (s : State) (a n : Nat) : Bool :=
  (s.blockCode a = 0 && (units32 a n).any fun u => s.home.bad.contains u) || s.blockCode a = 3 || s.mapBroken a

/-- A request reads the map words of its block: a soft error is corrected and rewritten, and each error is logged in class 9
by the home slice (R96, R184). -/
def State.readMap (s : State) (a : Nat) : State :=
  if (s.home.mapSoft.isEmpty && s.home.mapBad.isEmpty) || (tabFind s.home.elision (a / 65536)).isNone then s
  else
    let note := fun (s : State) (w : Nat) =>
      if s.home.mapSoft.contains w || s.home.mapBad.contains w then
        let (x, s) := s.syndrome
        s.logEvent 9 (s.slice a) (s.groupOwner (groupOf (s.sel a))) a x
      else s
    let s := (mapWords a).foldl note s
    { s with home := { s.home with mapSoft := s.home.mapSoft.filter fun w => !(mapWords a).contains w } }

/-- Log what a read at slice `src` meets: corrected units in class 0, uncorrectable data in class 1 (R96, R97, R184). -/
def State.logReadAt (s : State) (src a n : Nat) : State :=
  let part := s.groupOwner (groupOf (s.sel a))
  let note := fun (s : State) (cls ad : Nat) =>
    let (x, s) := s.syndrome
    s.logEvent cls src part ad x
  let s := (units32 a n).foldl (fun s u => if s.home.soft.contains u then note s 0 (u * 32) else s) s
  if s.uncorrectable a n then note s 1 a else s

def State.logRead (s : State) (a n : Nat) : State := s.logReadAt (s.slice a) a n

/-! The memory-side caches (R85, R87): 4,096 lines of 256 bytes in each slice. They share the one store with HBM, so that
writing a line back changes no byte and no code word (R97; DESIGN CHOICE, log 8). -/

/-- Number of a line: the granule, counted from 2^60 for a replica in the mirror slice (R87). -/
def lineId (mirror : Bool) (a : Nat) : Nat := (if mirror then 2 ^ 60 else 0) + a / 256

/-- The slice that keeps a line. -/
def State.lineSlice (s : State) (x : Nat) : Nat :=
  if 2 ^ 60 ≤ x then mirrorSlice (s.slice ((x - 2 ^ 60) * 256)) else s.slice (x * 256)

/-- The line a full slice writes back for a new one: its oldest (DESIGN CHOICE, log 8). -/
def State.evictedLine (s : State) (x : Nat) : Option Nat :=
  if s.home.lines.length < Config.sliceLines then none
  else
    let same := s.home.lines.filter fun y => s.lineSlice y = s.lineSlice x
    if same.length < Config.sliceLines then none else same.getLast?

/-- What a memory-side cache holds (R85): granules of local HBM, and lines of host memory. -/
def State.cacheable (s : State) (a : Nat) : Bool := s.paKind a == .hbm || s.paKind a == .host

/-- A line enters its slice. A host line is then held for the device until it leaves the cache (R87). -/
def State.allocLine (s : State) (mirror : Bool) (a : Nat) : State :=
  let x := lineId mirror a
  if s.home.lines.contains x || !s.cacheable a then s
  else
    let out := s.evictedLine x
    let h := s.home
    { s with home := { h with
        lines := x :: h.lines.filter fun y => some y ≠ out
        hostOwned := (if bitOf a 51 && !h.hostOwned.contains (a / 256) then [a / 256] else []) ++
          h.hostOwned.filter fun g => some g ≠ out } }

/-- A read of `n` bytes within one granule at its home slice, or at the mirror slice (R87): the bytes, and whether they are
uncorrectable (R85, R93, R97). The granule is then in the memory-side cache. -/
def State.sliceRead (s : State) (mirror : Bool) (a n : Nat) : List Byte × Bool × State :=
  let s := (s.materialise a).readMap a
  let bad := s.uncorrectable a n
  let src := if mirror then mirrorSlice (s.slice a) else s.slice a
  let s := if bad || !s.home.soft.isEmpty then s.logReadAt src a n else s
  (s.memBytes a n, bad, s.allocLine mirror a)

/-- A read at the home slice. -/
def State.homeRead (s : State) (a n : Nat) : List Byte × Bool × State := s.sliceRead false a n

/-- Whether a load of a core reads the mirror slice: a REPL page is answered on the core's own die (R87). -/
def State.mirrored (s : State) (core pa attr : Nat) : Bool :=
  attr % 4 = 1 && core < Config.cores && dieOf core ≠ sliceDie (s.slice pa)

/-- A load of `n` bytes by an agent of a core, or by the MP or the host port: a core's of a REPL page is answered on its own
die (R87), where the old bytes may still stand (R123), but for a core that has seen newer ones (R115). -/
def State.homeLoad (s : State) (core pa attr n : Nat) : List Byte × Bool × State :=
  let mirror := s.mirrored core pa attr
  let (bs, bad, s) := s.sliceRead mirror pa n
  if mirror && !s.home.replicaLag.isEmpty then
    let seen := fun (i : Nat) (b : Byte) => match tabFind s.home.replicaLag (pa + i) with
      | some g => if g.seen.contains core then b else g.old
      | none => b
    (bs.zipIdx.map fun (b, i) => seen i b, bad, s)
  else (bs, bad, s)

/-- The 32 words of a full block all equal (R93). -/
def uniform : List Word → Option Word
  | [] => none
  | w :: r => if r.all (· = w) then some w else none

/-- Bring an elided block into memory before a partial write (R93). A block in code 0b11, which the table treats as 0b00,
becomes 0b00: its bytes that no write has reached read as memory holds them from then on (DESIGN CHOICE, log 42). -/
def State.unelide (s : State) (a : Nat) : State :=
  let f := a / 65536
  match tabFind s.home.elision f with
  | none => s
  | some e =>
    let b := a % 65536 / 128
    let c := tabGet 0 e.codes b
    if c = 0 then s
    else
      let base := f * 65536 + b * 128
      { s with
        mem := if c = 3 then s.mem else setBytes s.mem base (s.memBytes base 128)
        home := { s.home with
          elision := tabPut s.home.elision f { e with codes := tabDel e.codes b }
          bad := if c = 3 then s.home.bad else s.home.bad.filter fun u => u / 4 ≠ base / 128 } }

/-- What an atomic reads at its home slice (R93): an elided block is materialised first, and one in code 0b11 is treated as
0b00; a block whose map is uncorrectable stays as it is. -/
def State.atomicRead (s : State) (a n : Nat) : List Byte × Bool × State :=
  let s := (s.materialise a).readMap a
  (if s.mapBroken a then s else s.unelide a).homeRead a n

/-- What led from `s` to `t` was an access of the host; to its own memory, it takes no line of a memory-side cache (R85, R87). -/
def State.byHost (s : State) (pa : Nat) (t : State) : State :=
  if bitOf pa 51 then { t with home := { t.home with lines := s.home.lines, hostOwned := s.home.hostOwned } } else t

/-- A full-block write of 128 bytes to a frame whose leaf has ELIDE set (R93). -/
def State.elideBlock (s : State) (a : Nat) (bs : List Byte) : State :=
  let f := a / 65536
  let b := a % 65536 / 128
  let seg := a % 65536 / 4096
  let e := tabGet {} s.home.elision f
  let put := fun (e : Elision) => { s with home := { s.home with elision := tabPut s.home.elision f e } }
  match uniform (wordsOfBytes bs) with
  | none => { put { e with codes := tabDel e.codes b } with mem := setBytes s.mem a bs }
  | some w =>
    if w = 0 then put { e with codes := tabPut e.codes b 1 }
    else if tabGet 0 e.consts seg = w || !(e.codes.any fun (k, c) => k * 128 / 4096 = seg && c = 2) then
      put { codes := tabPut e.codes b 2, consts := tabPut e.consts seg w }
    else { put { e with codes := tabDel e.codes b } with mem := setBytes s.mem a bs }

/-- Bytes of a frame being re-tiled that a write touches become dirty, or are written in both frames (R105). -/
def State.retileTouch (s : State) (a : Nat) : State :=
  let seg := a % 65536 / 256
  let touch := fun (r : Retile) =>
    if r.oldFrame = a / 65536 && r.stage != .waiting && r.stage != .published && !r.dirty.contains seg then
      { r with dirty := seg :: r.dirty }
    else r
  if s.home.retiles.isEmpty then s
  else { s with home := { s.home with retiles := s.home.retiles.map touch } }

/-- A write of the listed bytes, all within one 128-byte block, at the home slice: with every byte of the block and ELIDE
set it may be elided; otherwise the block is stored (R93). Whole protected units written are good again (R97); a write at
.dev or .sys clears the granule's release tag (R120). -/
def State.homeWrite (s : State) (elide wide : Bool) (bs : Tab Byte) : State :=
  match bs with
  | [] => s
  | (a0, _) :: _ =>
    let s := (s.materialise a0).readMap a0
    let blk := a0 / 128 * 128
    let s := if bs.length = 128 && elide then s.elideBlock blk (bs.map (·.2))
      else
        let s := s.unelide a0
        { s with mem := bs.foldl (fun m (a, b) => setByte m a b) s.mem }
    let whole := fun u => (List.range 32).all fun i => bs.any fun (a, _) => a = u * 32 + i
    let h := s.home
    let h := if h.bad.isEmpty && h.soft.isEmpty then h
      else { h with bad := h.bad.filter fun u => !whole u, soft := h.soft.filter fun u => !whole u }
    let h := if wide then { h with tags := tabDel h.tags (a0 / 256) } else h
    let h := if h.rcbs.isEmpty then h else { h with rcbs := h.rcbs.filter fun p => !(bs.any fun (a, _) => a / 64 = p) }
    State.retileTouch (State.allocLine { s with home := h } false a0) a0

/-- Bytes in rising order of address, split by 128-byte block. -/
def blocksOf (bs : Tab Byte) : List (Tab Byte) :=
  (bs.foldr (fun (a, b) acc =>
    match acc with
    | ((a', b') :: r) :: t => if a / 128 = a' / 128 then ((a, b) :: (a', b') :: r) :: t else [(a, b)] :: ((a', b') :: r) :: t
    | t => [(a, b)] :: t) [])

/-- A write of bytes at any addresses, block by block. -/
def State.writeBytes (s : State) (elide wide : Bool) (bs : Tab Byte) : State :=
  (blocksOf bs).foldl (fun s b => s.homeWrite elide wide b) s

/-- Consecutive bytes as a table. -/
def spread (a : Nat) : List Byte → Tab Byte
  | [] => []
  | b :: r => (a, b) :: spread (a + 1) r

/-- What readers on the other die may still see of a write to a REPL page (R87, R123): with accesses in flight (DESIGN
CHOICE, log 8), the old bytes stay readable there until a release waits for them; `core` is the writer's. -/
def State.lagReplica (s : State) (core : Nat) (bs : Tab Byte) : State :=
  let put := fun (m : Tab Lag) (a : Nat) =>
    match tabFind m a with
    | some g => tabPut m a { g with seen := core :: g.seen }
    | none => tabPut m a ⟨s.memByte a, [core]⟩
  if s.env.defer then
    { s with home := { s.home with replicaLag := bs.foldl (fun m e => put m e.1) s.home.replicaLag } }
  else s

/-- A core has read bytes at their primary: it no longer reads an older replica of them (R115). -/
def State.seenBy (s : State) (core a n : Nat) : State :=
  if s.home.replicaLag.isEmpty then s
  else
    let see := fun (m : Tab Lag) (i : Nat) => tabMod m (a + i) fun g => { g with seen := core :: g.seen }
    { s with home := { s.home with replicaLag := (List.range n).foldl see s.home.replicaLag } }

/-! Channels that recalibrate (R95). -/

/-- The channel that pauses now. -/
def State.pausedNow (s : State) : Option Nat := s.home.paused.bind fun (c, t) => if s.time < t then some c else none

/-- Whether a local address lies on a channel that pauses. -/
def State.onPaused (s : State) (pa : Nat) : Bool :=
  s.paKind pa == .hbm && s.pausedNow == some (stackOf (s.sel pa) * 32 + channelOf (s.sel pa))

/-- A release at .dev or .sys waits until every replica is up to date (R123). -/
def State.syncReplicas (s : State) : State := { s with home := { s.home with replicaLag := [] } }

/-- A release at .grp or .cl waits for the replicas on its own die (R123): those of granules homed on the other. -/
def State.syncDie (s : State) (die : Nat) : State :=
  if s.home.replicaLag.isEmpty then s
  else { s with home := { s.home with
    replicaLag := s.home.replicaLag.filter fun (a, _) => sliceDie (s.slice a) = die } }

end Sys2Proof.Machine
end

