-- ==== Sys2Proof/Machine/Translate.lean ====
section
/-! DEFINITION. Two-stage translation with its caches (spec/08_tables.md R153-R161). -/
namespace Sys2Proof.Machine

/-- Why an address does not translate: a recoverable page fault of stage 1 or 2 at a GVA or GPA (R158), an unrecoverable
translation with the address of the offending entry (R157), or uncorrectable data in a table (R97). -/
inductive XFault where
  | page (stage2 : Bool) (addr : Nat)
  | bad (entry : Nat)
  | ecc
  deriving DecidableEq, Repr

/-- What an access asks of the leaves (R156). -/
inductive Acc where
  | load | store | rmw | fetch
  deriving DecidableEq, Repr

/-- How an access uses a page: flat, as a page of a boxed tensor (square box or not), or of a linear tensor (R101, R157), whose
record may ask for ELIDE (R99). -/
inductive PageUse where
  | flat
  | boxed (square elide : Bool)
  | linear (elide : Bool)
  deriving DecidableEq, Repr

/-- Whether the record asks for ELIDE in the leaves of its pages (R99). -/
def PageUse.elides : PageUse → Bool
  | .flat => false
  | .boxed _ e => e
  | .linear e => e

/-- Read one table entry. `mbz` holds the bits that must be zero. -/
def State.readEntry (s : State) (hpa mbz : Nat) : State × Except XFault Nat :=
  let (bs, bad, s) := s.homeRead hpa 8
  let e := natOfBytes bs
  if bad then (s, .error .ecc)
  else if e % 2 = 0 then (s, .error (.page false 0))
  else if e &&& mbz ≠ 0 then (s, .error (.bad hpa))
  else (s, .ok e)

/-- Must-be-zero bits of a stage-1 table entry, a stage-1 leaf, a stage-2 table entry and a stage-2 leaf (R154, R155). -/
def mbzTable1 : Nat := 0xFFFF00000000FFFE
def mbzLeaf1 : Nat := 0xFFFF00000000FFE0
def mbzTable2 : Nat := 0xFFF000000000FFFE
def mbzLeaf2 : Nat := 0xFFF000000000F000

/-- A page fault of an entry becomes one of its stage at its address (R158). -/
def atPage (stage2 : Bool) (addr : Nat) : Except XFault Nat → Except XFault Nat
  | .error (.page _ _) => .error (.page stage2 addr)
  | r => r

def cap {α : Type} (n : Nat) (l : List α) : List α := l.take n

/-- Keep the first `n` entries of those that share a place: a die's walk cache, or a set of a cluster's cache (R159). A new
entry stands first, so the oldest of a full one goes (DESIGN CHOICE, log 8). -/
def capAt {α : Type} (place : α → Bool) : Nat → List α → List α
  | _, [] => []
  | 0, x :: l => if place x then capAt place 0 l else x :: capAt place 0 l
  | n + 1, x :: l => if place x then x :: capAt place n l else x :: capAt place (n + 1) l

/-- A new walk-cache entry of a die: 256 of each kind (R159). -/
def addWalk (die : Nat) (e : WalkEntry) (l : List (Nat × WalkEntry)) : List (Nat × WalkEntry) :=
  capAt (·.1 = die) 256 ((die, e) :: l)

/-- A new translation of a cluster's cache: 2,048 entries in 256 sets of 8 (R159), chosen by the low bits of the page (DESIGN
CHOICE, log 8). -/
def addCluster (k : Nat) (t : Trans) (l : List (Nat × Trans)) : List (Nat × Trans) :=
  capAt (fun x => x.1 = k && x.2.vpn % 256 = t.vpn % 256) 8 ((k, t) :: l)

/-- The host-physical address of the stage-2 leaf table of `gpa` (R160). -/
def State.leafTable2 (s : State) (die part gpa : Nat) : State × Except XFault Nat :=
  match s.s2u.find? fun (d, e) => d = die && e.part = part && e.key = gpa / 2 ^ 29 with
  | some (_, e) => (s, .ok e.table)
  | none =>
    let (s, r) := s.readEntry ((s.part part).map.s2root.toNat + 8 * bits gpa 47 42) mbzTable2
    match atPage true gpa r with
    | .error x => (s, .error x)
    | .ok e =>
      let (s, r) := s.readEntry (bits e 51 16 * 65536 + 8 * bits gpa 41 29) mbzTable2
      match atPage true gpa r with
      | .error x => (s, .error x)
      | .ok e =>
        let t := bits e 51 16 * 65536
        ({ s with s2u := addWalk die ⟨part, gpa / 2 ^ 29, t, []⟩ s.s2u }, .ok t)

/-- Conditions under which a stage-2 leaf is unrecoverable whatever the access (R157). -/
def leafBroken (own e : Nat) : Bool :=
  let attr := bits e 5 4
  let host := bitOf e 51
  attr = 3 || (bits e 9 6 ≠ 0 && !bitOf e 11) || (host && attr ≠ 2) || (!host && attr = 2) ||
    (attr = 1 && (bitOf e 11 || bits e 50 41 ≠ own))

/-- The stage-2 leaf of `gpa` and its address. -/
def State.leaf2 (s : State) (die part gpa : Nat) : State × Except XFault (Nat × Nat) :=
  let (s, r) := s.leafTable2 die part gpa
  match r with
  | .error x => (s, .error x)
  | .ok t =>
    let a := t + 8 * bits gpa 28 16
    let (s, r) := s.readEntry a mbzLeaf2
    match atPage true gpa r with
    | .error x => (s, .error x)
    | .ok e => if leafBroken s.mp.nodeId e then (s, .error (.bad a)) else (s, .ok (e, a))

/-- The host-physical address of a guest-physical one, for a stage-1 table (R153). -/
def State.tableAddr (s : State) (die part gpa : Nat) : State × Except XFault Nat :=
  let (s, r) := s.leaf2 die part gpa
  match r with
  | .error (.page _ _) => (s, .error (.page true (gpa / 65536 * 65536)))
  | .error x => (s, .error x)
  | .ok (e, _) => (s, .ok (bits e 51 16 * 65536 + gpa % 65536))

/-- The host-physical address of the stage-1 leaf table of `va` (R160). -/
def State.leafTable1 (s : State) (die part va : Nat) : State × Except XFault Nat :=
  match s.s1u.find? fun (d, e) => d = die && e.part = part && e.key = va / 2 ^ 29 with
  | some (_, e) => (s, .ok e.table)
  | none =>
    let root := (s.part part).map.s1root.toNat
    let (s, r) := s.tableAddr die part (root + 8 * bits va 51 42)
    match r with
    | .error x => (s, .error x)
    | .ok h =>
      let (s, r) := s.readEntry h mbzTable1
      match atPage false va r with
      | .error x => (s, .error x)
      | .ok e1 =>
        let mid := bits e1 47 16 * 65536
        let (s, r) := s.tableAddr die part (mid + 8 * bits va 41 29)
        match r with
        | .error x => (s, .error x)
        | .ok h =>
          let (s, r) := s.readEntry h mbzTable1
          match atPage false va r with
          | .error x => (s, .error x)
          | .ok e2 =>
            let leaf := bits e2 47 16 * 65536
            let (s, r) := s.tableAddr die part leaf
            match r with
            | .error x => (s, .error x)
            | .ok t =>
              let w : WalkEntry := ⟨part, va / 2 ^ 29, t, [root / 65536, mid / 65536, leaf / 65536]⟩
              ({ s with s1u := addWalk die w s.s1u }, .ok t)

/-- A walk (R160): the stage-1 leaf, and the stage-2 leaf of its frame with its address. -/
def State.walk (s : State) (die part va : Nat) : State × Except XFault (Nat × Nat × Nat) :=
  let (s, r) := s.leafTable1 die part va
  match r with
  | .error x => (s, .error x)
  | .ok t =>
    let (s, r) := s.readEntry (t + 8 * bits va 28 16) mbzLeaf1
    match atPage false va r with
    | .error x => (s, .error x)
    | .ok e1 =>
      let (s, r) := s.leaf2 die part (bits e1 47 16 * 65536 + va % 65536)
      match r with
      | .error x => (s, .error x)
      | .ok (e2, a) => (s, .ok (e1, e2, a))

/-- Whether leaf bits RD [1], W [2], X [3] allow the access (R156). -/
def bitsAllow (e : Nat) : Acc → Bool
  | .load => bitOf e 1
  | .store => bitOf e 2
  | .rmw => bitOf e 1 && bitOf e 2
  | .fetch => bitOf e 3

/-- Whether a cached translation allows the access (R156). -/
def Trans.allows (t : Trans) (acc : Acc) (priv : Priv) : Bool :=
  (match acc with
    | .load => t.rd
    | .store => t.w
    | .rmw => t.rd && t.w
    | .fetch => t.x) && (!t.priv || priv != .user)

/-- Whether the use of the page is unrecoverable under its leaf (R101, R157). -/
def Trans.misused (t : Trans) : PageUse → Bool
  | .flat => t.tpage
  | .boxed square _ => !t.tpage || decide (8 < t.layout) || (t.layout = 8 && !square)
  | .linear _ => !t.tpage || t.layout ≠ 15

/-- The combined translation of two leaves (R159). -/
def transOf (part va e1 e2 a : Nat) : Trans :=
  { part := part, vpn := va / 65536, gfn := bits e1 47 16, frame := bits e2 51 16, rd := bitOf e1 1 && bitOf e2 1,
    w := bitOf e1 2 && bitOf e2 2, x := bitOf e1 3 && bitOf e2 3, priv := bitOf e1 4, attr := bits e2 5 4,
    layout := bits e2 9 6, elide := bitOf e2 10, tpage := bitOf e2 11, leaf := a }

/-- The outcome of a completed walk, judged in the order of R158. -/
def judge (part va : Nat) (acc : Acc) (priv : Priv) (use : PageUse) (e1 e2 a : Nat) : Except XFault Trans :=
  let t := transOf part va e1 e2 a
  if t.misused use then .error (.bad a)
  else if !bitsAllow e1 acc || (t.priv && priv == .user) then .error (.page false va)
  else if !bitsAllow e2 acc then .error (.page true (t.gfn * 65536 + va % 65536))
  else .ok t

/-- The MP with the schedulers, and the host port, as users of translation: their sources 2048 and 2049 less 1888. -/
def agentMp : Nat := 160
def agentHost : Nat := 161

/-- Log an unrecoverable translation in class 12 (R157). -/
def State.logXlat (s : State) (core part : Nat) : XFault → State
  | .bad a => s.logEvent 12 (if core < 160 then core else 1888 + core) (part + 1) a 0
  | _ => s

/-- Put a complete translation into the core's and its cluster's cache (R159). -/
def State.fillTrans (s : State) (core : Nat) (t : Trans) : State :=
  let s := s.modCore core fun k => { k with tlb := cap 64 (t :: k.tlb) }
  { s with clusterTlb := addCluster (core / 8) t s.clusterTlb }

/-- A record with ELIDE asks the frame service to set ELIDE in the leaf of a page (R99): it does so at the walk that finds the
bit clear in the leaf of a frame of local HBM (DESIGN CHOICE, log 42). -/
def State.askElide (s : State) (use : PageUse) (t : Trans) : State × Trans :=
  if use.elides && !t.elide && s.paKind (t.frame * 65536) == .hbm then
    let e := natOfBytes (s.memBytes t.leaf 8) ||| 0x400
    (s.homeWrite false true (spread t.leaf (bytesOfNat 8 e)), { t with elide := true })
  else (s, t)

/-- Walk for an access and fill the caches when it succeeds (R159). -/
def State.walkFor (s : State) (core part : Nat) (priv : Priv) (acc : Acc) (use : PageUse) (va : Nat) :
    State × Except XFault Trans :=
  let (s, r) := s.walk (dieOf core) part va
  match r with
  | .error x => (s.logXlat core part x, .error x)
  | .ok (e1, e2, a) =>
    match judge part va acc priv use e1 e2 a with
    | .error x => (s.logXlat core part x, .error x)
    | .ok t =>
      let (s, t) := s.askElide use t
      (s.fillTrans core t, .ok t)

def Trans.hits (part vpn : Nat) (t : Trans) : Bool := t.part = part && t.vpn = vpn

/-- The translation of a page that the core's or its cluster's cache holds (R159). -/
def State.heldTrans (s : State) (core part vpn : Nat) : Option Trans :=
  match (s.core core).tlb.find? (·.hits part vpn) with
  | some t => some t
  | none => (s.clusterTlb.find? fun (c, t) => c = core / 8 && t.hits part vpn).map (·.2)

/-- Take a cached translation out of the core and cluster caches (R159). -/
def State.dropTrans (s : State) (core part vpn : Nat) : State :=
  let s := s.modCore core fun k => { k with tlb := k.tlb.filter fun t => !t.hits part vpn }
  { s with clusterTlb := s.clusterTlb.filter fun (c, t) => !(c = core / 8 && t.hits part vpn) }

/-- The translation of one address for one access (R156-R160). -/
def State.translate (s : State) (core part : Nat) (priv : Priv) (acc : Acc) (use : PageUse) (va : Nat) :
    State × Except XFault Trans :=
  let vpn := va / 65536
  let use1 := fun (s : State) (t : Trans) =>
    if t.misused use then (s.logXlat core part (.bad t.leaf), Except.error (.bad t.leaf))
    else if t.allows acc priv then (s, .ok t)
    else (s.dropTrans core part vpn).walkFor core part priv acc use va
  match (s.core core).tlb.find? (·.hits part vpn) with
  | some t => use1 s t
  | none =>
    match s.clusterTlb.find? fun (c, t) => c = core / 8 && t.hits part vpn with
    | some (_, t) => use1 (s.modCore core fun k => { k with tlb := cap 64 (t :: k.tlb) }) t
    | none => s.walkFor core part priv acc use va

/-- The physical address a translation gives. -/
def Trans.pa (t : Trans) (va : Nat) : Nat := t.frame * 65536 + va % 65536

/-- Remove translations of pages `lo` to `lo + n - 1` (n = 0: all) of a partition, by virtual page (stage 1) or by
guest-physical page (stage 2), from every cache (R161, R320). -/
def State.invalidate (s : State) (part : Nat) (stage2 : Bool) (lo n : Nat) : State :=
  let inside := fun p => n = 0 || (lo ≤ p && p < lo + n)
  let hit := fun (t : Trans) => t.part = part && inside (if stage2 then t.gfn else t.vpn)
  let region := fun k => n = 0 || (lo / 8192 ≤ k && k ≤ (lo + n - 1) / 8192)
  let code := fun (key : Nat) => key / 2 ^ 45 = part && (stage2 || inside (key % 2 ^ 45 / 512))
  let core := fun (k : Core) => { k with
    tlb := k.tlb.filter fun t => !hit t
    icache := k.icache.filter fun (key, _) => !code key
    loops := k.loops.filter fun b => !(b.lo / 2 ^ 52 = part && (stage2 || inside (b.lo % 2 ^ 52 / 65536) ||
      inside ((b.lo % 2 ^ 52 + 255) / 65536))) }
  { s with
    cores := s.cores.map fun (c, k) => (c, core k)
    clusterTlb := s.clusterTlb.filter fun (_, t) => !hit t
    s1u := s.s1u.filter fun (_, e) => !(e.part = part && (if stage2 then n = 0 || e.via.any inside else region e.key))
    s2u := if stage2 then s.s2u.filter fun (_, e) => !(e.part = part && region e.key) else s.s2u }

/-- Drop every cached translation of a partition (R169). -/
def State.dropPartTrans (s : State) (part : Nat) : State := s.invalidate part true 0 0

end Sys2Proof.Machine
end

