-- ==== Sys2Proof/Machine/Tensor.lean ====
section
/-! DEFINITION. Tensor records, the place of an element, access classes, layout-monitor records and the re-tile queues
(spec/05_tensor_memory.md R98-R112). -/
namespace Sys2Proof.Machine

/-- A tensor record (R98) with its fields read out. -/
structure TRec where
  base : Nat
  pairbase : Nat
  fmt : Nat
  rank : Nat
  paired : Bool
  pinned : Bool
  notrack : Bool
  elide : Bool
  shadow : Bool
  winlog : Nat
  dims : List Nat
  scale : Nat
  hint : Nat
  settle : Bool
  deriving DecidableEq, Repr

/-- Element bits by format code (R98, R100). -/
def elemBits : Nat → Nat
  | 0x01 | 0x0D => 64
  | 0x02 | 0x08 | 0x09 => 32
  | 0x03 | 0x04 | 0x0A => 16
  | 0x07 => 4
  | _ => 8

/-- Box height and width by element bits (R100). -/
def boxOf : Nat → Nat × Nat
  | 64 => (64, 128)
  | 32 => (128, 128)
  | 16 => (128, 256)
  | 8 => (256, 256)
  | _ => (256, 512)

def boxLog : Nat → Nat × Nat
  | 64 => (6, 7)
  | 32 => (7, 7)
  | 16 => (7, 8)
  | 8 => (8, 8)
  | _ => (8, 9)

def TRec.linear (r : TRec) : Bool := r.rank = 1 || r.fmt = 0x0E
def TRec.box (r : TRec) : Nat × Nat := boxOf (elemBits r.fmt)
def TRec.dim (r : TRec) (i : Nat) : Nat := if i < r.rank then r.dims.getD i 1 else 1
def TRec.square (r : TRec) : Bool := r.box.1 = r.box.2

/-- Number of boxes: pages of a boxed tensor, 64 KiB runs of a linear one (R101). -/
def TRec.boxes (r : TRec) : Nat :=
  if r.linear then ceilDiv (r.dim 0 * r.dim 1 * r.dim 2 * r.dim 3 * r.dim 4 * elemBits r.fmt) (8 * 65536)
  else ceilDiv (r.dim 1) r.box.1 * ceilDiv (r.dim 0) r.box.2 * r.dim 2 * r.dim 3 * r.dim 4

/-- The record of 64 bytes, if it satisfies R98 and R99. -/
def parseTRec (b : List Byte) : Option TRec :=
  let w := fieldAt b 16 4
  let r : TRec := {
    base := fieldAt b 0 8, pairbase := fieldAt b 8 8, fmt := bits w 7 0, rank := bits w 10 8, paired := bitOf w 11,
    pinned := bitOf w 12, notrack := bitOf w 13, elide := bitOf w 14, shadow := bitOf w 15, winlog := bits w 19 16,
    dims := (List.range 5).map fun i => fieldAt b (20 + 4 * i) 4, scale := fieldAt b 44 8,
    hint := bits (fieldAt b 52 4) 3 0, settle := bitOf (fieldAt b 52 4) 8 }
  let log := fieldAt b 40 4
  let ok :=
    r.base ≠ 0 && r.base % 65536 = 0 && r.base < 2 ^ 52 &&
    (if r.paired then r.pairbase % 65536 = 0 && r.pairbase < 2 ^ 52 else r.pairbase = 0) &&
    1 ≤ r.fmt && r.fmt ≤ 0x0E && 1 ≤ r.rank && r.rank ≤ 5 && r.winlog ≤ 8 && bits w 31 20 = 0 &&
    ((List.range 5).all fun i => if i < r.rank then r.dims.getD i 0 ≠ 0 else r.dims.getD i 0 = 0) &&
    (if r.linear then log = 0 else log = (boxLog (elemBits r.fmt)).1 + 16 * (boxLog (elemBits r.fmt)).2) &&
    (if r.fmt = 7 then r.scale % 2 = 0 else r.scale = 0) &&
    (if r.linear then r.hint = 15 else r.hint ≤ 8) &&
    bits (fieldAt b 52 4) 7 4 = 0 && bits (fieldAt b 52 4) 31 9 = 0 && fieldAt b 56 8 = 0 &&
    (r.fmt ≠ 7 || r.dims.getD 0 0 % 32 = 0) &&
    (!r.paired || r.hint = 0 || r.hint = 3) &&
    r.boxes < 2 ^ 32 && r.base + r.boxes * 65536 ≤ 2 ^ 52 && (!r.paired || r.pairbase + r.boxes * 65536 ≤ 2 ^ 52)
  if ok then some r else none

/-- Interleave the low `n` bits of x (even places) and y (odd places): layout ZORD. -/
def interleave : Nat → Nat → Nat → Nat
  | 0, _, _ => 0
  | n + 1, x, y => x % 2 + 2 * (y % 2) + 4 * interleave n (x / 2) (y / 2)

/-- Order (R101): the element index of (x, y) in a box of h by w. -/
def order (layout h w x y : Nat) : Nat :=
  let tile := fun t => ((y / t) * (w / t) + x / t) * (t * t) + (y % t) * t + x % t
  let tileC := fun t => ((x / t) * (h / t) + y / t) * (t * t) + (x % t) * t + y % t
  match layout with
  | 0 => y * w + x
  | 1 => x * h + y
  | 2 => tile 8
  | 3 => tile 16
  | 4 => tile 32
  | 5 => tileC 8
  | 6 => tileC 16
  | 7 => tileC 32
  | _ => interleave 9 x y

def coord (c : List Nat) (i : Nat) : Nat := c.getD i 0

/-- Whether every coordinate lies within its extent (R101). -/
def TRec.inside (r : TRec) (c : List Nat) : Bool := (List.range r.rank).all fun i => coord c i < r.dim i

/-- The logical index of the LINEAR formula (R101). -/
def TRec.logical (r : TRec) (c : List Nat) : Nat :=
  (((coord c 4 * r.dim 3 + coord c 3) * r.dim 2 + coord c 2) * r.dim 1 + coord c 1) * r.dim 0 + coord c 0

/-- The page of an element (R101). -/
def TRec.page (r : TRec) (c : List Nat) : Nat :=
  if r.linear then r.logical c * elemBits r.fmt / 8 / 65536
  else
    let (h, w) := r.box
    let nbx := ceilDiv (r.dim 0) w
    let nby := ceilDiv (r.dim 1) h
    ((coord c 4 * r.dim 3 + coord c 3) * r.dim 2 + coord c 2) * (nby * nbx) + coord c 1 / h * nbx + coord c 0 / w

/-- Position in the page (R102). -/
def TRec.xy (r : TRec) (c : List Nat) : Nat × Nat := (coord c 0 % r.box.2, coord c 1 % r.box.1)

/-- The byte of an element in its page under a layout; F4X elements share a byte (R101). -/
def TRec.byte (r : TRec) (layout : Nat) (c : List Nat) : Nat :=
  if r.linear then r.logical c * elemBits r.fmt / 8 % 65536
  else
    let (x, y) := r.xy c
    order layout r.box.1 r.box.2 x y * elemBits r.fmt / 8

/-- Whether an F4X element is the high nibble of its byte (R101). -/
def TRec.high (r : TRec) (layout : Nat) (c : List Nat) : Bool :=
  if r.linear then r.logical c % 2 = 1
  else
    let (x, y) := r.xy c
    order layout r.box.1 r.box.2 x y % 2 = 1

/-- Address of the scale byte of an F4X element's block; the spare byte follows (R101). -/
def TRec.scaleAddr (r : TRec) (c : List Nat) : Nat := r.scale + 2 * (r.logical c / 32)

/-- Base of an image (R111). -/
def TRec.image (r : TRec) (b : Bool) : Nat := if b then r.pairbase else r.base

/-- How the pages of the tensor are used (R101, R157). -/
def TRec.use (r : TRec) : PageUse := if r.linear then .linear r.elide else .boxed r.square r.elide

/-! Reading records (R99). -/

/-- Why a record cannot be used: its read faults, it is uncorrectable, or it is invalid. -/
inductive RecFault where
  | xlat (x : XFault) (va : Nat)
  | ecc (va : Nat)
  | invalid
  deriving DecidableEq, Repr

/-- Read `n` bytes within one 128-byte block at a virtual address, as a load. -/
def State.readBlock (s : State) (core part : Nat) (priv : Priv) (va n : Nat) :
    State × Except XFault (List Byte × Bool) :=
  if 2 ^ 52 ≤ va then (s, .error (.bad 0))
  else
    let (s, r) := s.translate core part priv .load .flat va
    match r with
    | .error x => (s, .error x)
    | .ok t =>
      if s.paKind (t.pa va) = .reserved then (s, .error (.bad 0))
      else
        let (bs, bad, s) := s.homeLoad core (t.pa va) t.attr n
        (s, .ok (bs, bad))

/-- The record of a tid, from the partition's cached copy or from the table at TTBASE (R99). -/
def State.tensorRec (s : State) (core part tid : Nat) : State × Except RecFault TRec :=
  let chk := fun (s : State) (b : List Byte) =>
    match (if tid = 0xFFFF then none else parseTRec b) with
    | some r => (s, Except.ok r)
    | none => (s, .error RecFault.invalid)
  if tid = 0xFFFF then (s, .error .invalid)
  else
    match tabFind (s.part part).records tid with
    | some b => chk s b
    | none =>
      let va := (s.part part).ttbase.toNat + 64 * tid
      let (s, r) := s.readBlock core part .root va 64
      match r with
      | .error x => (s, .error (.xlat x va))
      | .ok (b, bad) =>
        if bad then (s, .error (.ecc va))
        else chk (s.modPart part fun p => { p with records := tabPut p.records tid b }) b

/-! Access classes (R102). -/

/-- Number of distinct values, and span. -/
def distinct (l : List Nat) : Nat := l.eraseDups.length
def spanOf (l : List Nat) : Nat := l.foldl max 0 - l.foldl min (l.headD 0) + 1

/-- The class of an access to one page by its distinct positions: none for one element; else 0 XRUN, 1 YRUN, 2 BLOCK, 3
SCAT with the size class 1-3 of a BLOCK (R102). -/
def classify (xy : List (Nat × Nat)) : Option (Nat × Nat) :=
  let p := xy.eraseDups
  let xs := distinct (p.map (·.1))
  let ys := distinct (p.map (·.2))
  let bx := spanOf (p.map (·.1))
  let by' := spanOf (p.map (·.2))
  if p.length ≤ 1 then none
  else if ys = 1 then some (0, 0)
  else if xs = 1 then some (1, 0)
  else if bx ≤ 32 && by' ≤ 32 && bx * by' ≤ 2 * p.length then
    some (2, if max bx by' ≤ 8 then 1 else if max bx by' ≤ 16 then 2 else 3)
  else some (3, 0)

/-! Monitor records (R103, R104). -/

/-- Read and write a field of a monitor record by its bits. -/
def Monitor.get (m : Monitor) (hi lo : Nat) : Nat := bits m.word.toNat hi lo

def Monitor.set (m : Monitor) (hi lo x : Nat) : Monitor :=
  let b := m.word.toNat
  { m with word := BitVec.ofNat 64 (b - bits b hi lo * 2 ^ lo + x % 2 ^ (hi + 1 - lo) * 2 ^ lo) }

def mStable : Nat := 0
def mMoving : Nat := 1
def mSettled : Nat := 2
def mPinned : Nat := 3

def Monitor.state (m : Monitor) : Nat := m.get 10 9
def Monitor.setState (m : Monitor) (x : Nat) : Monitor := m.set 10 9 x
def Monitor.cool (m : Monitor) : Nat := m.get 23 17
def Monitor.flips (m : Monitor) : Nat := m.get 16 13
def Monitor.pinreq (m : Monitor) : Bool := m.get 4 4 = 1
def Monitor.pinl (m : Monitor) : Nat := m.get 8 5

/-- Clear the four counters and RCOUNT (R103, R104). -/
def Monitor.clear (m : Monitor) : Monitor := m.set 63 24 0

/-- What the end of a window clears: BCLS too (R103). -/
def Monitor.endWindow (m : Monitor) : Monitor := m.clear.set 12 11 0

/-- STATE of a page when it is first mapped (R103). -/
def TRec.firstState (r : TRec) : Nat :=
  if r.pinned || r.paired then mPinned else if r.settle then mSettled else mStable

def State.monitor (s : State) (part tid page : Nat) (r : TRec) : Monitor :=
  match s.home.monitors.find? fun m => m.part = part && m.tid = tid && m.page = page with
  | some m => m
  | none => Monitor.setState ⟨part, tid, page, 0⟩ r.firstState

/-- The record of a page is kept from its first use on: what a later record of the tensor says no longer changes its STATE
(R103). It stays while the page is unmapped, and is the page's again when it is mapped again (DESIGN CHOICE, log 47). -/
def State.noteMonitor (s : State) (part tid page : Nat) (r : TRec) : State :=
  if r.linear || s.home.monitors.any fun m => m.part = part && m.tid = tid && m.page = page then s
  else { s with home := { s.home with monitors := s.monitor part tid page r :: s.home.monitors } }

def State.setMonitor (s : State) (m : Monitor) : State :=
  let rest := s.home.monitors.filter fun x => !(x.part = m.part && x.tid = m.tid && x.page = m.page)
  { s with home := { s.home with
      monitors := m :: rest
      monSoft := s.home.monSoft.filter fun k => k ≠ (m.part, m.tid, m.page)
      monBad := s.home.monBad.filter fun k => k ≠ (m.part, m.tid, m.page) } }

/-- The channel group of a frame: that of its base address. -/
def State.frameGroup (s : State) (frame : Nat) : Nat := groupOf (s.sel (frame * 65536))

/-- The anchor slice reads a page's record: a soft error is corrected and rewritten, and each error is logged in class 9 (R96,
R184). An uncorrectable record is used as it stands until it is next written (DESIGN CHOICE, log 45). -/
def State.readMonitor (s : State) (part tid page frame : Nat) : State :=
  let k := (part, tid, page)
  if s.home.monSoft.contains k || s.home.monBad.contains k then
    let (x, s) := s.syndrome
    let s := s.logEvent 9 (s.slice (frame * 65536)) (s.groupOwner (s.frameGroup frame)) (frame * 65536) x
    { s with home := { s.home with monSoft := s.home.monSoft.filter (· ≠ k) } }
  else s

/-- The anchor slice takes up a page's record: it reads it, and keeps it from then on. -/
def State.useMonitor (s : State) (part tid page frame : Nat) (r : TRec) : State :=
  (s.readMonitor part tid page frame).noteMonitor part tid page r

/-- The stack whose re-tile engine serves a frame: that of its anchor slice (R102). -/
def State.stackOfFrame (s : State) (frame : Nat) : Nat := stackOf (s.sel (frame * 65536))

/-- Requests an engine holds (R104: a queue of 128). The one it works on counts, and so do pin and settle requests that wait beyond
the 128 (DESIGN CHOICE, log 47). -/
def State.retileCount (s : State) (stack : Nat) : Nat :=
  (s.home.retiles.filter fun r => s.stackOfFrame r.oldFrame = stack).length

/-- Queue a re-tile; a monitor request that finds the queue full queues nothing (false), a pin or settle request waits at
the end of the queue. -/
def State.queueRetile (s : State) (r : Retile) : State × Bool :=
  if r.why = .monitor && 128 ≤ s.retileCount (s.stackOfFrame r.oldFrame) then (s, false)
  else ({ s with home := { s.home with retiles := s.home.retiles ++ [r] } }, true)

/-- Candidate layout of a window's dominant class (R103). -/
def Monitor.candidate (m : Monitor) (k : Nat) : Option Nat :=
  let dom := fun c => 3 * 2 ^ k ≤ 4 * c
  if dom (m.get 63 56) then some 0
  else if dom (m.get 55 48) then some 1
  else if dom (m.get 47 40) then
    (match m.get 12 11 with
    | 1 => some 2
    | 2 => some 3
    | 3 => some 4
    | _ => none)
  else none

def TRec.window (r : TRec) : Nat := if r.winlog = 0 then 8 else r.winlog

/-- The leaf of a page of a tensor: what a re-tile needs to know of it. -/
structure PageLeaf where
  frame : Nat
  layout : Nat
  leaf : Nat
  deriving DecidableEq, Repr

/-- The end of a window with candidate `cand` (R104). -/
def State.windowEnd (s : State) (r : TRec) (m : Monitor) (cand : Option Nat) (pl : PageLeaf) : State :=
  let c := m.endWindow
  if 0 < m.cool then s.setMonitor (c.set 23 17 (m.cool - 1))
  else
    match cand with
    | some l =>
      if l ≠ pl.layout then
        let (s, ok) := s.queueRetile
          { part := m.part, tid := m.tid, page := m.page, fmt := r.fmt, why := .monitor, layout := l, oldFrame := pl.frame,
            oldLayout := pl.layout, leaf := pl.leaf }
        s.setMonitor (if ok then c.setState mMoving else c)
      else s.setMonitor c
    | none => s.setMonitor c

/-- Apply a report to a page's record (R102, R104). -/
def State.report (s : State) (r : TRec) (part tid page cls size : Nat) (pl : PageLeaf) : State :=
  let s := s.useMonitor part tid page pl.frame r
  let m := s.monitor part tid page r
  if r.linear || r.pinned || r.notrack || r.paired || m.state ≠ mStable then s
  else
    let hi := 63 - 8 * cls
    let m := m.set hi (hi - 7) (min 255 (m.get hi (hi - 7) + 1))
    let m := if m.get 12 11 < size then m.set 12 11 size else m
    let n := m.get 31 24 + 1
    if n < 2 ^ r.window then s.setMonitor (m.set 31 24 n)
    else s.windowEnd r m (m.candidate r.window) pl

/-- tpin of one mapped page (R104). -/
def State.pinPage (s : State) (r : TRec) (part tid page l : Nat) (pl : PageLeaf) : State :=
  let s := s.useMonitor part tid page pl.frame r
  let m := s.monitor part tid page r
  if m.state = mMoving then s.setMonitor ((m.set 4 4 1).set 8 5 l)
  else if l = pl.layout then s.setMonitor ((m.set 4 4 0).setState mPinned)
  else
    let (s, _) := s.queueRetile
      { part := part, tid := tid, page := page, fmt := r.fmt, why := .pin, layout := l, oldFrame := pl.frame, oldLayout := pl.layout,
        leaf := pl.leaf }
    s.setMonitor (((m.set 4 4 1).set 8 5 l).setState mMoving)

/-- tunpin of one mapped page (R104). -/
def State.unpinPage (s : State) (r : TRec) (part tid page : Nat) (pl : PageLeaf) : State :=
  let s := s.useMonitor part tid page pl.frame r
  let m := s.monitor part tid page r
  if m.state = mPinned && !r.pinned && !r.paired then
    s.setMonitor (((m.clear.set 16 13 0).set 23 17 0).setState mStable)
  else if m.state = mMoving then s.setMonitor (m.set 4 4 0)
  else s

/-- tadvise of one mapped page (R104): class 0 XRUN, 1 YRUN, 2-4 BLOCK, 5 NONE. -/
def State.advisePage (s : State) (r : TRec) (part tid page cls : Nat) (unsettle : Bool) (pl : PageLeaf) : State :=
  let s := s.useMonitor part tid page pl.frame r
  let m := s.monitor part tid page r
  let m := if m.state = mSettled && unsettle then ((m.clear.set 16 13 0).set 23 17 0).setState mStable else m
  if m.state ≠ mStable then s
  else
    let cand := match cls with
      | 0 => some 0
      | 1 => some 1
      | 2 => some 2
      | 3 => some 3
      | 4 => some 4
      | _ => none
    s.windowEnd r m cand pl

/-- The publish transition of a page's record (R104). -/
def State.publishRecord (s : State) (m : Monitor) (t : Retile) : State :=
  let next := fun (why : RetileWhy) (l : Nat) =>
    ({ t with
        why := why, layout := l, stage := .waiting, oldFrame := t.newFrame, newFrame := 0, oldLayout := t.layout
        dirty := [] } : Retile)
  let again := fun (s : State) (why : RetileWhy) (l : Nat) => (s.queueRetile (next why l)).1
  let s := s.readMonitor t.part t.tid t.page t.oldFrame
  if m.pinreq then
    if t.layout = m.pinl then s.setMonitor ((m.set 4 4 0).setState mPinned)
    else (again s .pin m.pinl).setMonitor m
  else
    match t.why with
    | .monitor =>
      let f := m.flips + 1
      if f < 8 then
        s.setMonitor (((m.clear.set 16 13 f).set 23 17 (2 ^ min f 6)).setState mStable)
      else if t.layout = 3 then s.setMonitor ((m.clear.set 16 13 8).setState mSettled)
      else (again s .settle 3).setMonitor (m.clear.set 16 13 8)
    | .settle => s.setMonitor (m.setState mSettled)
    | .pin => s.setMonitor ((m.clear.set 23 17 1).setState (if m.flips = 8 then mSettled else mStable))

/-- The abandon transition (R104, R107). -/
def State.abandonRecord (s : State) (m : Monitor) (t : Retile) : State :=
  let again : Retile := { t with why := .pin, layout := m.pinl, stage := .waiting, newFrame := 0, dirty := [] }
  let s := s.readMonitor t.part t.tid t.page t.oldFrame
  if m.pinreq then (s.queueRetile again).1.setMonitor m
  else s.setMonitor ((m.clear.set 23 17 1).setState (if m.flips = 8 then mSettled else mStable))

end Sys2Proof.Machine
end

