-- ==== Sys2Proof/Machine/Pages.lean ====
section
/-! DEFINITION. Vault accesses (spec/04_memories.md R82), barrier objects (spec/09_counters_events.md R178, R179), region
control blocks and their rings (R180-R182), and the page-request pool (spec/07_queues.md R141, R191). -/
namespace Sys2Proof.Machine

/-! Vaults. -/

/-- The core and offset a vault address names for a group of a partition (R82). -/
def State.vaultAddr (s : State) (part grp : Nat) (a : Word) : Option (Nat × Nat) :=
  let x := a.toNat
  let v := bits x 29 22
  let off := bits x 21 0
  if bits x 31 30 ≠ 0 then none
  else if v = 255 then
    match s.group grp with
    | some g => if off < g.vbytes then some (g.core, g.vbase + off) else none
    | none => none
  else if v < 160 && s.ownsCluster part (v / 8) then some (v, off)
  else none

def State.vaultRead (s : State) (c off n : Nat) : List Byte := bytesAt (s.core c).vault off n

/-- Whether 8-byte words of the range are uncorrectable (R96, R97). -/
def State.vaultBroken (s : State) (c off n : Nat) : Bool :=
  let bad := (s.core c).vaultBad
  !bad.isEmpty && (List.range ((off + n - 1) / 8 - off / 8 + 1)).any fun i => bad.contains (off / 8 + i)

def State.vaultWrite (s : State) (c off : Nat) (bs : List Byte) : State :=
  let whole := fun w => off ≤ 8 * w && 8 * w + 8 ≤ off + bs.length
  s.modCore c fun k => { k with
    vault := setBytes k.vault off bs
    vaultBad := k.vaultBad.filter fun w => !whole w }

/-- Stores of `n` bytes by lanes of one access that share an 8-byte word write it in one bank access (R83), and one that
covers the word replaces it (R97). -/
def State.mendVault (s : State) (n : Nat) (at' : List (Nat × Nat)) : State :=
  let whole := fun c w => (List.range 8).all fun i => at'.any fun (k, o) => k = c && o ≤ 8 * w + i && 8 * w + i < o + n
  (at'.map (·.1)).eraseDups.foldl (fun s c =>
    if (s.core c).vaultBad.isEmpty then s
    else s.modCore c fun k => { k with vaultBad := k.vaultBad.filter fun w => !whole c w }) s

/-- Corrected vault words of a range are logged in class 2 and rewritten (R96). -/
def State.correctVault (s : State) (c off n : Nat) : State :=
  let soft := (s.core c).vaultSoft
  let hit := fun w => off / 8 ≤ w && w ≤ (off + n - 1) / 8
  if soft.all fun w => !hit w then s
  else
    let s := (soft.filter hit).foldl (fun s _ =>
      let (x, s) := s.syndrome
      s.logEvent 2 c (s.clusterOwner (c / 8)) 0 x) s
    s.modCore c fun k => { k with vaultSoft := k.vaultSoft.filter fun w => !hit w }

/-- Log an uncorrectable vault word in class 3 (R97, R184). -/
def State.logVault (s : State) (c : Nat) : State :=
  let (x, s) := s.syndrome
  s.logEvent 3 c (s.clusterOwner (c / 8)) 0 x

/-! Barrier objects (R178), read as one 128-bit number. -/

def State.barrier (s : State) (c off : Nat) : Nat := natOfBytes (s.vaultRead c off 16)

/-- Replace bits hi down to lo of a number. -/
def putBits (x hi lo v : Nat) : Nat := x - bits x hi lo * 2 ^ lo + v % 2 ^ (hi + 1 - lo) * 2 ^ lo

def barPhase (b : Nat) : Bool := bitOf b 96
def barPfault (b : Nat) : Bool := bitOf b 98

/-- The phase completes when both counts have reached what is expected (R179). -/
def barComplete (b : Nat) : Nat :=
  if bits b 79 64 ≤ bits b 95 80 && bits b 31 0 ≤ bits b 63 32 then
    let f := bits b 97 97
    let b := putBits (putBits (putBits (putBits b 98 98 f) 97 97 0) 95 80 0) 63 32 0
    putBits (putBits b 31 0 0) 96 96 (if barPhase b then 0 else 1)
  else b

/-- One arrival with `n` bytes; a faulted one adds no bytes (R179). -/
def barArrived (b n : Nat) (fault : Bool) : Nat :=
  let b := putBits b 95 80 (min 65535 (bits b 95 80 + 1))
  let b := if fault then b else putBits b 63 32 (min (2 ^ 32 - 1) (bits b 63 32 + n))
  barComplete (if fault then putBits b 97 97 1 else b)

/-- bar.expect (R268). -/
def barExpected (b n : Nat) : Nat := barComplete (putBits b 31 0 (min (2 ^ 32 - 1) (bits b 31 0 + n)))

/-- The object changed in place: an uncorrectable word stays one (R97). -/
def State.setBarrier (s : State) (c off b : Nat) : State :=
  s.modCore c fun k => { k with vault := setBytes k.vault off (bytesOfNat 16 b) }

/-- A bank applies one update (R179). -/
def State.applyBank (s : State) (c : Nat) (op : BankOp) : State :=
  let off := match op with | .arrive off _ _ | .expect off _ => off
  let s := s.correctVault c off 16
  let s := if s.vaultBroken c off 16 then s.logVault c else s
  match op with
  | .arrive off n f => s.setBarrier c off (barArrived (s.barrier c off) n f)
  | .expect off n => s.setBarrier c off (barExpected (s.barrier c off) n)

/-- Send an update to a bank: applied at once, or queued while accesses stay in flight (DESIGN CHOICE, log 8). -/
def State.toBank (s : State) (c : Nat) (op : BankOp) : State :=
  if s.env.defer then s.modCore c fun k => { k with bank := k.bank ++ [op] } else s.applyBank c op

/-- Apply the updates that have reached a bank before the access that comes now (R179). -/
def State.drainBank (s : State) (c : Nat) : State :=
  let ops := (s.core c).bank
  if ops.isEmpty then s
  else ops.foldl (fun s op => s.applyBank c op) (s.modCore c fun k => { k with bank := [] })

/-! Accesses of the device itself at virtual addresses: by blocks of 128 bytes. -/

/-- Split `n` bytes at `va` at 128-byte boundaries (`k` pieces at most). -/
def pieces : Nat → Nat → Nat → List (Nat × Nat)
  | 0, _, _ => []
  | k + 1, va, n =>
    if n = 0 then []
    else
      let m := min n (128 - va % 128)
      (va, m) :: pieces k (va + m) (n - m)

/-- Read bytes at host-physical addresses: the data, and whether any is uncorrectable. -/
def State.readHpa (s : State) : List (Nat × Nat) → State × List Byte × Bool
  | [] => (s, [], false)
  | (a, n) :: rest =>
    let (bs, bad, s) := s.homeRead a n
    let (s, bs', bad') := s.readHpa rest
    (s, bs ++ bs', bad || bad')

def State.readPieces (s : State) (core part : Nat) (priv : Priv) :
    List (Nat × Nat) → State × Except XFault (List Byte × Bool)
  | [] => (s, .ok ([], false))
  | (va, n) :: r =>
    let (s, x) := s.readBlock core part priv va n
    match x with
    | .error e => (s, .error e)
    | .ok (b, bad) =>
      let (s, y) := s.readPieces core part priv r
      match y with
      | .error e => (s, .error e)
      | .ok (b', bad') => (s, .ok (b ++ b', bad || bad'))

/-- Read `n` bytes at a virtual address; the flag tells uncorrectable data. -/
def State.readVA (s : State) (core part : Nat) (priv : Priv) (va n : Nat) : State × Except XFault (List Byte × Bool) :=
  s.readPieces core part priv (pieces (n / 128 + 2) va n)

/-- Write bytes at a virtual address; pieces whose page refuses the write are dropped. -/
def State.writeVA (s : State) (core part : Nat) (priv : Priv) (va : Nat) (bs : List Byte) : State :=
  (pieces (bs.length / 128 + 2) va bs.length).foldl (fun s p =>
    let (s, r) := s.translate core part priv .store .flat p.1
    match r with
    | .error _ => s
    | .ok t => s.homeWrite t.elide true (spread (t.pa p.1) ((bs.drop (p.1 - va)).take p.2))) s

/-- Whether the page of an address takes a write. -/
def State.takesWrite (s : State) (core part : Nat) (priv : Priv) (va : Nat) : State × Bool :=
  let (s, r) := s.translate core part priv .store .flat va
  (s, match r with | .ok _ => true | .error _ => false)

/-! Region control blocks (R180). -/

structure Rcb where
  parent : Nat
  trapbase : Nat
  energyb : Nat
  powerb : Nat
  vaultb : Nat
  accb : Nat
  maxcl : Nat
  prio : Nat
  inherit : Nat
  scrubreq : Bool
  nonce : List Byte
  tokbuf : Nat
  telebase : Nat
  logbase : Nat
  telelog : Nat
  loglog : Nat
  deriving DecidableEq, Repr

/-- The RCB of 256 bytes, if no reserved field is set and no field is out of range (R180). -/
def parseRcb (b : List Byte) : Option Rcb :=
  let f := fieldAt b
  let r : Rcb := {
    parent := f 0 8, trapbase := f 8 8, energyb := f 16 8, powerb := f 24 4, vaultb := f 28 4, accb := f 32 2,
    maxcl := f 34 1, prio := f 35 1, inherit := f 36 4, scrubreq := bitOf (f 40 4) 0, nonce := (b.drop 48).take 32,
    tokbuf := f 80 8, telebase := f 88 8, logbase := f 96 8, telelog := f 104 2, loglog := f 106 2 }
  let ring := fun l => l = 0 || (4 ≤ l && l ≤ 16)
  let va := fun a => a < 2 ^ 52
  if r.parent % 64 = 0 && r.parent < 2 ^ 52 && r.trapbase % 2048 = 0 && r.trapbase < 2 ^ 52 && 1 ≤ r.maxcl &&
      r.maxcl ≤ 20 && r.prio < 8 && r.inherit < 128 && f 40 4 < 2 && f 44 4 = 0 && ring r.telelog && ring r.loglog &&
      f 108 20 = 0 && r.telebase % 32 = 0 && r.logbase % 32 = 0 && r.tokbuf % 256 = 0 && va r.telebase && va r.logbase &&
      va r.tokbuf && f 128 4 < 128 && f 164 92 = 0 then some r
  else none

/-- Read an RCB as the device reads it, through the partition's translation at ROOT; none when it cannot be used. -/
def State.readRcb (s : State) (core part va : Nat) : State × Option Rcb :=
  if va % 64 ≠ 0 then (s, none)
  else
    let (s, r) := s.readVA core part .root va 256
    match r with
    | .ok (b, false) => (s, parseRcb b)
    | _ => (s, none)

/-- Read a number of the device-written part of an RCB (0 when it cannot be read). -/
def State.rcbField (s : State) (core part va off n : Nat) : State × Nat :=
  let (s, r) := s.readVA core part .root (va + off) n
  match r with
  | .ok (b, false) => (s, natOfBytes b)
  | _ => (s, 0)

def State.setRcbField (s : State) (core part va off n x : Nat) : State :=
  s.writeVA core part .root (va + off) (bytesOfNat n x)

/-- Append an entry to a ring of the region (R181): the head is at offset `headOff`. -/
def State.appendRing (s : State) (core part va headOff base lg : Nat) (e : List Byte) : State :=
  let (s, h) := s.rcbField core part va headOff 8
  let s := if lg = 0 then s else s.writeVA core part .root (base + 32 * (h % 2 ^ lg)) e
  s.setRcbField core part va headOff 8 (h + 1)

/-- Append a region-log entry (R182). -/
def State.regionLog (s : State) (core part va src kind slot cls addr bar : Nat) : State :=
  let (s, r) := s.readRcb core part va
  match r with
  | none => s
  | some r =>
    let (t, s) := s.stamp src
    s.appendRing core part va 152 r.logbase r.loglog
      (bytesOfNat 8 t ++ bytesOfNat 2 src ++ bytesOfNat 2 kind ++ bytesOfNat 2 slot ++ bytesOfNat 2 cls ++
        bytesOfNat 8 addr ++ bytesOfNat 8 bar)

/-! The page-request pool (R141). -/

/-- Minimum of a function (R141). -/
def State.pageMin (s : State) (fn : Nat) : Nat :=
  if fn = 0 then Config.pageMin
  else if (s.partOfFn fn).isSome then Config.pageMin else 0

def State.pageOcc (s : State) (fn : Nat) : Nat := (s.pages.filter fun (_, r) => r.fn = fn).length

/-- Whether a function may take an entry (R136, R141). -/
def State.pageMayTake (s : State) (fn : Nat) : Bool :=
  let owed := ((List.range 21).filter (· ≠ fn)).foldl (fun n f => n + (s.pageMin f - s.pageOcc f)) 0
  s.pageOcc fn < Config.pageCap &&
    (s.pageOcc fn < s.pageMin fn || owed < Config.pageEntries - s.pages.length)

/-- The lowest free entry. -/
def lowestFree : Nat → Nat → Tab PageReq → Nat
  | 0, k, _ => k
  | n + 1, k, m => if (tabFind m k).isNone then k else lowestFree n (k + 1) m

/-- Notify PAGEREQ (R167): a stage-2 request waits and no PAGEREQ entry lies in the ring. -/
def State.notifyPages (s : State) : State :=
  let waiting := (s.pages.filter fun (_, r) => r.stage2 && !r.taken).length
  let m := s.mp
  let open' := (List.range 64).any fun i =>
    i < (m.nhead - m.ntail).toNat &&
      (match tabFind m.ring ((m.ntail.toNat + i) % 64) with | some n => n.code = 0x86 | none => false)
  if waiting = 0 || open' || m.nstore.any (·.code = 0x86) then s
  else s.notify 0x86 0 (bytesOfNat 4 waiting ++ bytesOfNat 36 0)

/-- Request id + 1 of the lowest faulting lane of an entry, or 0 (R189). -/
def lowestRequest (mask : LaneMask) (ls : Tab LaneAcc) : Nat :=
  match ls.find? fun (l, a) => hasLane mask l && (match a.phase with | .parked _ _ => true | _ => false) with
  | some (_, ⟨_, .parked (some id) _, _, _⟩) => id + 1
  | _ => 0

/-- Tell the waiter of a request its pool entry (R189 word 6, R198). -/
def State.tellWaiter (s : State) (r : PageReq) (id : Nat) : State :=
  match r.waiter with
  | .lanes eid mask =>
    let lane := fun (l : Nat) (a : LaneAcc) => match a.phase with
      | .parked none va => if hasLane mask l then { a with phase := .parked (some id) va } else a
      | _ => a
    let ent := fun (e : Entry) =>
      if e.id = eid then
        let ls := e.lanes.map fun (l, a) => (l, lane l a)
        { e with lanes := ls, req := lowestRequest e.mask ls }
      else e
    s.onStore fun s => s.modPacks fun p => { p with replay := p.replay.map ent }
  | .pack gid no =>
    let tell := fun (q : PackReq) => { q with id := some id }
    s.onStore fun s => s.modPacks fun p => if p.group = gid && p.packNo = no then { p with req := p.req.map tell } else p
  | _ => s

/-- Overflow order: by (TIME, source) (R141). -/
def insertReq (r : PageReq) : List PageReq → List PageReq
  | [] => [r]
  | x :: xs => if r.time < x.time || (r.time = x.time && r.src < x.src) then r :: x :: xs else x :: insertReq r xs

/-- Put a request into the pool, or into its function's overflow order (R141, R315). -/
def State.placeRequest (s : State) (r : PageReq) : State :=
  if s.pageMayTake r.fn then
    let id := lowestFree 2048 0 s.pages
    let s := { s with pages := tabPut s.pages id r }
    let s := if r.stage2 then s.notifyPages else s
    s.tellWaiter r id
  else { s with overflow := insertReq r s.overflow }

/-- The lanes of one access that another page refused at the same place joins: they share the request, whose address is
that of the lowest lane (R191, R315). -/
def PageReq.join (q : PageReq) (addr : Nat) : Waiter → PageReq
  | .lanes e m =>
    match q.waiter with
    | .lanes _ n =>
      { q with waiter := .lanes e (n ||| m), addr := if (lanesOf m).headD 32 < (lanesOf n).headD 32 then addr else q.addr }
    | _ => q
  | _ => q

/-- Whether a request already serves the page, stage and access type for the same access (R141). -/
def PageReq.serves (q : PageReq) (stage2 : Bool) (access addr : Nat) (w : Waiter) : Bool :=
  q.stage2 = stage2 && q.access = access && q.page = addr / 65536 &&
    (match q.waiter, w with
      | .lanes e _, .lanes f _ => e = f
      | .orphan m, .orphan n => m = n
      | _, _ => false)

/-- Queue a page request: one per distinct page, stage and access type of an access (R191). -/
def State.requestPage (s : State) (part core : Nat) (stage2 : Bool) (access addr : Nat) (w : Waiter) (held : Bool) :
    State :=
  let same := fun (q : PageReq) => q.serves stage2 access addr w
  if s.pages.any (fun (_, q) => same q) || s.overflow.any same then
    let join := fun (q : PageReq) => if same q then q.join addr w else q
    { s with pages := s.pages.map fun (id, q) => (id, join q), overflow := s.overflow.map join }
  else
  let (t, s) := s.stamp core
  s.placeRequest { fn := (s.part part).map.vf, part := part, stage2 := stage2, access := access, addr := addr,
                   page := addr / 65536, time := t, src := core, waiter := w, held := held }

/-- Give freed entries to waiting requests in order (R141); `n` bounds the requests tried. -/
def State.grantPages (s : State) : Nat → List PageReq → State
  | 0, _ => s
  | _, [] => s
  | n + 1, r :: rest =>
    if s.pageMayTake r.fn then
      (State.placeRequest { s with overflow := s.overflow.erase r } r).grantPages n rest
    else s.grantPages n rest

/-- Free an entry whose reply has been applied. -/
def State.freePage (s : State) (id : Nat) : State :=
  let s := { s with pages := tabDel s.pages id }
  s.grantPages s.overflow.length s.overflow

/-! Page faults of a pack's own accesses (R15, R99, R276, R320). -/

/-- Outcome of a pack-level access: its value, or the pack has parked, or MEMFAULT at an address, or ECC. -/
inductive PackRes (α : Type) where
  | ok (x : α)
  | parked
  | memfault
  | ecc

/-- Whether the instruction being issued has been answered unrecoverable for the page of `va` (R99, R276). -/
def State.answeredBad (s : State) (va : Nat) : Bool :=
  match s.pk.req with
  | some q => q.pc = s.ipc && q.addr / 65536 = va / 65536 && q.reply = some true
  | none => false

/-- The instruction being issued has the page of `va`, or never will: its request is done with. -/
def State.forgetReq (s : State) (va : Nat) : State :=
  match s.pk.req with
  | some q => if q.pc = s.ipc && q.addr / 65536 = va / 65536 then { s with pk := { s.pk with req := none } } else s
  | none => s

/-- The issuing pack waits for the page of `va` (R276). -/
def State.parkPack {α : Type} (s : State) (access va : Nat) (stage2 : Bool) (addr : Nat) : State × PackRes α :=
  if s.answeredBad va then (s.forgetReq va, .memfault)
  else
    let s := { s with pk := { s.pk with req := some ⟨va, none, none, s.ipc, access = 3⟩, wait := .parked } }
    (s.requestPage s.pk.part s.here stage2 access addr (.pack s.pk.group s.pk.packNo) false, .parked)

/-- Turn a translation fault of a pack's own access into its outcome. -/
def State.packFault {α : Type} (s : State) (access va : Nat) : XFault → State × PackRes α
  | .page st2 a => s.parkPack access va st2 a
  | _ => (s, .memfault)

/-- The record of a tid for the instruction being issued: an unrecoverable reply for its page is MEMFAULT (R99). -/
def State.packRecord (s : State) (tid : Nat) : State × Except RecFault TRec :=
  let va := (s.part s.pk.part).ttbase.toNat + 64 * tid
  if s.answeredBad va then (s.forgetReq va, .error (.xlat (.bad 0) va))
  else
    match s.tensorRec s.here s.pk.part tid with
    | (s, .ok r) => (s.forgetReq va, .ok r)
    | x => x

/-- A read by the issuing pack; an unrecoverable reply is MEMFAULT. -/
def State.packRead (s : State) (va n : Nat) : State × PackRes (List Byte) :=
  if 2 ^ 52 < va + n then (s, .memfault)
  else if s.answeredBad va then (s.forgetReq va, .memfault)
  else
    let (s, r) := s.readVA s.here s.pk.part s.pk.priv va n
    match r with
    | .error x => s.packFault 0 va x
    | .ok (b, bad) => if bad then (s, .ecc) else (s.forgetReq va, .ok b)

/-- Whether every page of a write by the issuing pack takes it. -/
def State.packWritable (s : State) (va n : Nat) : State × PackRes Unit :=
  if 2 ^ 52 < va + n then (s, .memfault)
  else if s.answeredBad va || s.answeredBad (va + n - 1) then ((s.forgetReq va).forgetReq (va + n - 1), .memfault)
  else
    let (s, r) := s.translate s.here s.pk.part s.pk.priv .store .flat va
    match r with
    | .error x => s.packFault 1 va x
    | .ok _ =>
      let (s, r) := s.translate s.here s.pk.part s.pk.priv .store .flat (va + n - 1)
      match r with
      | .error x => s.packFault 1 (va + n - 1) x
      | .ok _ => ((s.forgetReq va).forgetReq (va + n - 1), .ok ())

end Sys2Proof.Machine
end

