-- ==== Sys2Proof/Machine/Operands.lean ====
section
/-! DEFINITION. Register access, every operand form (spec/10_encoding.md R206-R209), the registers an instruction names,
and what the opcode map says of it: roles, privilege, pipe class, lookahead (R143, R210, R211). -/
namespace Sys2Proof.Machine

/-! Registers. -/

def Thread.r (t : Thread) (n : Nat) : Word := tabGet 0 t.v n
def Thread.setR (t : Thread) (n : Nat) (x : Word) : Thread := { t with v := tabSet 0 t.v n x }

/-- A pair, low word in the even register (R56). -/
def Thread.r64 (t : Thread) (n : Nat) : DWord := pair (t.r n) (t.r (n + 1))
def Thread.setR64 (t : Thread) (n : Nat) (x : DWord) : Thread :=
  (t.setR n (x.extractLsb' 0 32)).setR (n + 1) (x.extractLsb' 32 32)

/-- Consecutive registers from `n` up. -/
def Thread.setRs (t : Thread) (n : Nat) : List Word → Thread
  | [] => t
  | w :: ws => (t.setR n w).setRs (n + 1) ws

/-- Predicate n; 7 reads as 1 (R229). -/
def Thread.pred (t : Thread) (n : BitVec 3) : Bool := n == 7 || t.p.getLsbD n.toNat
def Thread.setPred (t : Thread) (n : BitVec 3) (b : Bool) : Thread :=
  { t with p := if b then t.p ||| (1#7 <<< n.toNat) else t.p &&& ~~~(1#7 <<< n.toNat) }

/-- The guard of format LW (R209). -/
def Thread.guarded (t : Thread) (g : Guard) : Bool := (g.pg == 7) || (t.p.getLsbD g.pg.toNat != g.pn)

def Thread.meetValid (t : Thread) : Bool := t.meet.getLsbD 63
def Thread.meetAddr (t : Thread) : BitVec 52 := t.meet.extractLsb' 0 52

/-- A thread is held while MEET is valid and its PC is the meeting address (R34). -/
def Thread.held (t : Thread) : Bool := !t.exited && t.meetValid && t.pc == t.meetAddr

def Thread.hasItem (t : Thread) : Bool := t.item != 0xFFFFFFFF

def Pack.sreg (p : Pack) (n : Nat) : Word := tabGet 0 p.s n
def Pack.setS (p : Pack) (n : Nat) (x : Word) : Pack := { p with s := tabSet 0 p.s n x }
def Pack.s64 (p : Pack) (n : Nat) : DWord := pair (p.sreg n) (p.sreg (n + 1))
def Pack.setS64 (p : Pack) (n : Nat) (x : DWord) : Pack :=
  (p.setS n (x.extractLsb' 0 32)).setS (n + 1) (x.extractLsb' 32 32)
def Pack.setSs (p : Pack) (n : Nat) : List Word → Pack
  | [] => p
  | w :: ws => (p.setS n w).setSs (n + 1) ws

def Pack.qpred (p : Pack) (n : Nat) : Bool := p.q.getLsbD n
def Pack.setQ (p : Pack) (n : Nat) (b : Bool) : Pack :=
  { p with q := if b then p.q ||| (1#4 <<< n) else p.q &&& ~~~(1#4 <<< n) }

/-- The condition of the pack branches (R280). -/
def Pack.qtaken (p : Pack) (qg : BitVec 3) (qn : Bool) : Bool := qg == 7 || (p.qpred qg.toNat != qn)

/-- v registers of the current allotment (R32). -/
def Pack.allot (p : Pack) : Nat := 8 * (if p.full then p.fullBlocks else p.pro)

def Pack.thread (p : Pack) (l : Nat) : Thread := p.threads.getD l { exited := true }

/-- Threads that have not exited. -/
def Pack.live (p : Pack) : LaneMask := maskOf fun l => !(p.thread l).exited

/-- Change the threads of a mask. -/
def mapLanes (f : Nat → Thread → Thread) (m : LaneMask) : Nat → List Thread → List Thread
  | _, [] => []
  | l, t :: ts => (if hasLane m l then f l t else t) :: mapLanes f m (l + 1) ts

def Pack.onLanes (p : Pack) (m : LaneMask) (f : Nat → Thread → Thread) : Pack :=
  { p with threads := mapLanes f m 0 p.threads }

def State.onLanes (s : State) (m : LaneMask) (f : Nat → Thread → Thread) : State := { s with pk := s.pk.onLanes m f }

/-- Change a register of the issuing pack. -/
def State.setS (s : State) (n : Nat) (x : Word) : State := { s with pk := s.pk.setS n x }
def State.setS64 (s : State) (n : Nat) (x : DWord) : State := { s with pk := s.pk.setS64 n x }

/-- The group of the issuing pack. -/
def State.myGroup (s : State) : Option Group := s.group s.pk.group

/-- %tglobal (R52). -/
def State.tglobal (s : State) (l : Nat) : Word :=
  let idx := match s.myGroup with | some g => g.index | none => 0
  BitVec.ofNat 32 (idx * 1024 + s.pk.packNo * 32 + l)

/-! Operand a (R206). -/

/-- The integer of code 0xC0 + c (c < 24). -/
def smallInt (c : Nat) : Int := if c < 16 then c else 15 - (c : Int)

/-- The float constant of code 0xD8 + c, as its FP32 value (R206). -/
def smallFloat (c : Nat) : Num :=
  match c with
  | 0 => .fin false 1 (-1) | 1 => .fin false 1 0 | 2 => .fin false 1 1 | 3 => .fin false 1 2
  | 4 => .fin true 1 (-1) | 5 => .fin true 1 0 | 6 => .fin true 1 1 | _ => .fin true 1 2

/-- A constant code as an exact value of a float operation. -/
def smallNum (c : Nat) : Num :=
  if c < 24 then .fin (decide (smallInt c < 0)) (smallInt c).natAbs 0 else smallFloat (c - 24)

/-- Operand a in a 32-bit integer operation. -/
def State.srcInt (s : State) (l : Nat) (t : Thread) : Src → Word
  | .v n => t.r n.toNat
  | .s n => s.pk.sreg n.toNat
  | .small c => BitVec.ofInt 32 (smallInt c.toNat)
  | .lane => BitVec.ofNat 32 l
  | .item => t.item
  | .tglobal => s.tglobal l
  | .lit w => w
  | .reserved _ => 0

/-- Operand a in an FP32 operation, as bits. -/
def State.srcF32 (s : State) (t : Thread) : Src → Nat
  | .v n => (t.r n.toNat).toNat
  | .s n => (s.pk.sreg n.toNat).toNat
  | .small c => fp32.rne (smallNum c.toNat)
  | .lit w => w.toNat
  | _ => 0

/-- Operand a in an FP64 operation, as bits: a pair, a constant, or a literal that gives bits [63:32]. -/
def State.srcF64 (s : State) (t : Thread) : Src → Nat
  | .v n => (t.r64 n.toNat).toNat
  | .s n => (s.pk.s64 n.toNat).toNat
  | .small c => fp64.rne (smallNum c.toNat)
  | .lit w => w.toNat * 2 ^ 32
  | _ => 0

/-- Operand a in a packed form: constants are replicated into both halves. -/
def State.srcX2 (s : State) (f : Fmt) (t : Thread) : Src → Word
  | .v n => t.r n.toNat
  | .s n => s.pk.sreg n.toNat
  | .small c => halves (f.rne (smallNum c.toNat)) (f.rne (smallNum c.toNat))
  | .lit w => w
  | _ => 0

/-! What an instruction names. -/

/-- A run of `n` registers from `base`, which must be a multiple of `align`. -/
structure Span where
  base : Nat
  n : Nat
  align : Nat
  deriving DecidableEq, Repr

structure Uses where
  vr : List Span := []
  vw : List Span := []
  sr : List Span := []
  sw : List Span := []
  pr : List Nat := []
  pw : List Nat := []
  qr : List Nat := []
  qw : List Nat := []
  bad : Bool := false
  deriving DecidableEq, Repr

def one (n : Nat) : Span := ⟨n, 1, 1⟩
def two (n : Nat) : Span := ⟨n, 2, 2⟩
def four (n : Nat) : Span := ⟨n, 4, 4⟩

/-- Registers of an access of `n` bytes. -/
def spanOfBytes (r : Nat) (n : Nat) : Span := if n ≤ 4 then one r else if n = 8 then two r else four r

def srcUses (float wide : Bool) : Src → Uses
  | .v n => { vr := [if wide then two n.toNat else one n.toNat] }
  | .s n => { sr := [if wide then two n.toNat else one n.toNat] }
  | .small c => { bad := !float && decide (24 ≤ c.toNat) }
  | .lit _ => {}
  | .reserved _ => { bad := true }
  | _ => { bad := float }

def Uses.and (a b : Uses) : Uses :=
  ⟨a.vr ++ b.vr, a.vw ++ b.vw, a.sr ++ b.sr, a.sw ++ b.sw, a.pr ++ b.pr, a.pw ++ b.pw, a.qr ++ b.qr, a.qw ++ b.qw,
    a.bad || b.bad⟩

def guardUses (g : Guard) : Uses := { pr := if g.pg = 7 then [] else [g.pg.toNat] }
def predUses (p : BitVec 3) : List Nat := if p = 7 then [] else [p.toNat]

/-- Integer LA form. -/
def laInt (d : VReg) (a : Src) (b : List Span) (readsD : Bool) : Uses :=
  (srcUses false false a).and { vr := b ++ (if readsD then [one d.toNat] else []), vw := [one d.toNat] }

/-- Float LA form, 32-bit or packed. -/
def laFlt (d : VReg) (a : Src) (b : VReg) (readsD : Bool) : Uses :=
  (srcUses true false a).and { vr := one b.toNat :: (if readsD then [one d.toNat] else []), vw := [one d.toNat] }

def laDbl (d : VReg) (a : Src) (b : VReg) (readsD : Bool) : Uses :=
  (srcUses true true a).and { vr := two b.toNat :: (if readsD then [two d.toNat] else []), vw := [two d.toNat] }

def lw (g : Guard) (w r : List Span) : Uses := (guardUses g).and { vw := w, vr := r }

/-- The command's completion: a barrier address is read, a token register is written (R39, R286). -/
def peUses (r bar : SReg) (tok : Bool) : Uses :=
  { sr := one r.toNat :: (if tok then [] else [one bar.toNat]), sw := if tok then [one bar.toNat] else [] }

/-- 64-bit selectors of sget and sset (R51, R53). -/
def sel64 (cw : Bool) (sel : Nat) : Bool := if cw then sel = 4 || sel = 5 || sel = 29 else sel = 6 || sel = 7 || sel = 8

/-- Rank and element bytes of a tensor whose record is cached, for the registers a tensor form names; the tid is the low
half of its register (R255). -/
def State.shapeOf (s : State) (x : SReg) : Nat × Nat :=
  match tabFind (s.part s.pk.part).records ((s.pk.sreg x.toNat).toNat % 65536) with
  | some b =>
    match parseTRec b with
    | some r => (r.rank, elemBits r.fmt / 8)
    | none => (1, 4)
  | none => (1, 4)

/-- Registers of a tensor form: coordinates, then the data register group. -/
def State.tensorUses (s : State) (c : VReg) (x : SReg) (load : Bool) (t : List VReg) : Uses :=
  let (rank, n) := s.shapeOf x
  let data := t.map fun t => spanOfBytes t.toNat n
  { vr := ⟨c.toNat, rank, 1⟩ :: (if load then [] else data), vw := if load then data else [], sr := [one x.toNat] }

def flatLoad (t c : VReg) (x : SReg) (n : Nat) : Uses :=
  { vw := [spanOfBytes t.toNat n], vr := [one c.toNat], sr := [two x.toNat] }
def flatStore (t c : VReg) (x : SReg) (n : Nat) : Uses :=
  { vr := [one c.toNat, spanOfBytes t.toNat n], sr := [two x.toNat] }
def vaultLoad (t c : VReg) (x : SReg) (n : Nat) : Uses :=
  { vw := [spanOfBytes t.toNat n], vr := [one c.toNat], sr := [one x.toNat] }
def vaultStore (t c : VReg) (x : SReg) (n : Nat) : Uses :=
  { vr := [one c.toNat, spanOfBytes t.toNat n], sr := [one x.toNat] }

def ordBase (vault : Bool) (x : SReg) : Span := if vault then one x.toNat else two x.toNat
def barUses (b : Option SReg) : Uses := { sr := match b with | some r => [one r.toNat] | none => [] }
def statUses (d : Option SReg) : Uses := { sw := match d with | some r => [one r.toNat] | none => [] }

/-- The registers an instruction reads and writes. Host actions and device events name none. -/
def State.uses (s : State) : Instr → Uses
  | .addI32 d a b | .addI32Sat d a b | .subI32 d a b | .subI32Sat d a b | .mulI32 d a b | .mulhiI32 d a b
  | .mulhiN32 d a b | .minI32 d a b | .maxI32 d a b | .minN32 d a b | .maxN32 d a b | .andB32 d a b | .orB32 d a b
  | .xorB32 d a b | .andnB32 d a b | .shlB32 d a b | .shrN32 d a b | .shrI32 d a b | .rotB32 d a b
  | .addX2I16 d a b | .addX2I16Sat d a b | .subX2I16 d a b | .subX2I16Sat d a b | .minX2I16 d a b | .maxX2I16 d a b
  | .pullIdx d a b | .pullXor d a b | .pullBack d a b | .pullFwd d a b => laInt d a [one b.toNat] false
  | .popcB32 d a | .clzB32 d a | .brevB32 d a | .lsbB32 d a | .movB32 d a => laInt d a [] false
  | .permB8 d a b => laInt d a [two b.toNat] false
  | .dot4I8 d a b | .dot4N8 d a b => laInt d a [one b.toNat] true
  | .faddF32 d a b _ | .fsubF32 d a b _ | .fmulF32 d a b _ | .fminF32 d a b _ | .fmaxF32 d a b _ | .faddX2Bf16 d a b _
  | .fmulX2Bf16 d a b _ | .faddX2F16 d a b _ | .fmulX2F16 d a b _ => laFlt d a b false
  | .fmacF32 d a b _ | .fmacX2Bf16 d a b _ | .fmacX2F16 d a b _ | .dot2Bf16 d a b _ => laFlt d a b true
  | .faddF64 d a b _ | .fsubF64 d a b _ | .fmulF64 d a b _ | .fminF64 d a b _ | .fmaxF64 d a b _ => laDbl d a b false
  | .fmacF64 d a b _ => laDbl d a b true
  | .addiI32 d a _ | .muliI32 d a _ | .andiB32 d a _ | .oriB32 d a _ | .xoriB32 d a _ | .shliB32 d a _ | .shriN32 d a _
  | .shriI32 d a _ => { vw := [one d.toNat], vr := [one a.toNat] }
  | .moviB32 d _ => { vw := [one d.toNat] }
  | .bra pg _ _ | .exit pg _ => { pr := predUses pg }
  | .ldB8 t c _ x | .ldI8 t c _ x | .ldB16 t c _ x | .ldI16 t c _ x | .ldB32 t c _ x => flatLoad t c x 4
  | .ldB64 t c _ x => flatLoad t c x 8
  | .ldB128 t c _ x => flatLoad t c x 16
  | .stB8 t c _ x | .stB16 t c _ x | .stB32 t c _ x => flatStore t c x 4
  | .stB64 t c _ x => flatStore t c x 8
  | .stB128 t c _ x => flatStore t c x 16
  | .tld t c _ x => s.tensorUses c x true [t]
  | .tst t c _ x | .tstp t c _ x => s.tensorUses c x false [t]
  | .vldB32 t c _ x => vaultLoad t c x 4
  | .vldB64 t c _ x => vaultLoad t c x 8
  | .vldB128 t c _ x => vaultLoad t c x 16
  | .vstB32 t c _ x => vaultStore t c x 4
  | .vstB64 t c _ x => vaultStore t c x 8
  | .vstB128 t c _ x => vaultStore t c x 16
  | .claim c _ x => { vr := [one c.toNat], sr := [two x.toNat] }
  | .tclaim c _ x => s.tensorUses c x false []
  | .madI32 g d a b c => lw g [one d.toNat] [one a.toNat, one b.toNat, one c.toNat]
  | .madwI32 g d a b c | .madwN32 g d a b c => lw g [two d.toNat] [one a.toNat, one b.toNat, two c.toNat]
  | .addI64 g d a b | .subI64 g d a b => lw g [two d.toNat] [two a.toNat, two b.toNat]
  | .addcN32 g d a b ci co =>
    (lw g [one d.toNat] [one a.toNat, one b.toNat]).and { pr := predUses ci, pw := predUses co }
  | .bfxI32 g d a _ _ | .bfxN32 g d a _ _ => lw g [one d.toNat] [one a.toNat]
  | .bfiB32 g d a b _ _ => lw g [one d.toNat] [one a.toNat, one b.toNat]
  | .bitfnB32 g d a b c _ => lw g [one d.toNat] [one a.toNat, one b.toNat, one c.toNat]
  | .cselB32 g d a b p _ => (lw g [one d.toNat] [one a.toNat, one b.toNat]).and { pr := predUses p }
  | .cmpI32 g p a b _ | .cmpN32 g p a b _ | .fcmpF32 g p a b _ =>
    (lw g [] [one a.toNat, one b.toNat]).and { pw := predUses p }
  | .cmpI64 g p a b _ | .fcmpF64 g p a b _ => (lw g [] [two a.toNat, two b.toNat]).and { pw := predUses p }
  | .pset g pd pa pb _ => (lw g [] []).and { pr := predUses pa ++ predUses pb, pw := predUses pd }
  | .ffmaF32 g d a b c _ _ | .ffmaX2Bf16 g d a b c _ _ => lw g [one d.toNat] [one a.toNat, one b.toNat, one c.toNat]
  | .ffmaF64 g d a b c _ _ => lw g [two d.toNat] [two a.toNat, two b.toNat, two c.toNat]
  | .frcpF32 g d a _ | .frsqF32 g d a _ | .fsqrtF32 g d a _ | .fexp2F32 g d a _ | .flog2F32 g d a _
  | .fsinpF32 g d a _ | .fcospF32 g d a _ | .frndF32 g d a _ _ _ => lw g [one d.toNat] [one a.toNat]
  | .fsqrtF64 g d a _ | .frndF64 g d a _ _ _ => lw g [two d.toNat] [two a.toNat]
  | .fdivF32 g d a b _ => lw g [one d.toNat] [one a.toNat, one b.toNat]
  | .fdivF64 g d a b _ => lw g [two d.toNat] [two a.toNat, two b.toNat]
  | .fclass g d a ty => lw g [one d.toNat] [if ty = 1 then two a.toNat else one a.toNat]
  | .cvt g d a _ _ _ src dst =>
    let sp := if tyWidth src = 64 then two a.toNat else one a.toNat
    if tyWidth dst = 64 then lw g [two d.toNat] [sp]
    else lw g [one d.toNat] (if tyWidth dst = 32 then [sp] else [sp, one d.toNat])
  | .qblkF4x g d a => lw g [one d.toNat] [one a.toNat]
  | .dqblkF4x g d a b _ => lw g [one d.toNat] [one a.toNat, one b.toNat]
  | .atom g d a b _ ty _ _ _ x =>
    (lw g [spanOfBytes d.toNat (atomBytes ty)] [one a.toNat, spanOfBytes b.toNat (atomBytes ty)]).and { sr := [two x.toNat] }
  | .vatom g d a b _ ty _ _ _ x =>
    (lw g [spanOfBytes d.toNat (atomBytes ty)] [one a.toNat, spanOfBytes b.toNat (atomBytes ty)]).and { sr := [one x.toNat] }
  | .cas g d a b c _ wide _ _ x =>
    let n := if wide then 8 else 4
    (lw g [spanOfBytes d.toNat n] [one a.toNat, spanOfBytes b.toNat n, spanOfBytes c.toNat n]).and { sr := [two x.toNat] }
  | .red g a b _ ty _ _ _ x bar =>
    ((lw g [] [one a.toNat, spanOfBytes b.toNat (atomBytes ty)]).and { sr := [two x.toNat] }).and (barUses bar)
  | .tatom g d a b _ _ _ _ x =>
    ((guardUses g).and (s.tensorUses a x false [b])).and { vw := [spanOfBytes d.toNat (s.shapeOf x).2] }
  | .tred g a b _ _ _ _ x bar => ((guardUses g).and (s.tensorUses a x false [b])).and (barUses bar)
  | .ldAcq g d a _ wide vault _ x =>
    (lw g [spanOfBytes d.toNat (if wide then 8 else 4)] [one a.toNat]).and { sr := [ordBase vault x] }
  | .stRel g a b wide vault _ x =>
    (lw g [] [one a.toNat, spanOfBytes b.toNat (if wide then 8 else 4)]).and { sr := [ordBase vault x] }
  | .fence g _ => lw g [] []
  | .jal g d _ => lw g [two d.toNat] []
  | .jr g link a => lw g (match link with | some d => [two d.toNat] | none => []) [two a.toNat]
  | .meetm g a _ => lw g [] [one a.toNat]
  | .vote g mode d pd p _ =>
    (lw g (if mode = 0 then [one d.toNat] else []) []).and { pr := predUses p, pw := if mode = 0 then [] else predUses pd }
  | .brk g _ => lw g [] []
  | .sadd d a b | .ssub d a b | .smul d a b | .sand d a b | .sor d a b | .sxor d a b | .sshl d a b | .sshr d a b _
  | .smin d a b _ | .smax d a b _ => { sw := [one d.toNat], sr := [one a.toNat, one b.toNat] }
  | .sadd64 d a b _ => { sw := [two d.toNat], sr := [two a.toNat, two b.toNat] }
  | .smov d a => { sw := [one d.toNat], sr := [one a.toNat] }
  | .scmp q a b _ _ wide =>
    { qw := [q.toNat], sr := if wide then [two a.toNat, two b.toNat] else [one a.toNat, one b.toNat] }
  | .ssel d q _ a b => { sw := [one d.toNat], sr := [one a.toNat, one b.toNat], qr := [q.toNat] }
  | .sget d cw sel _ =>
    { sw := [if sel64 cw sel.toNat then two d.toNat else one d.toNat],
      bad := if cw then decide (29 < sel.toNat) else decide (13 < sel.toNat) }
  | .sset sel a =>
    { sr := [if sel64 true sel.toNat then two a.toNat else one a.toNat], bad := decide (12 < sel.toNat) }
  | .svote d p _ => { sw := [one d.toNat], pr := predUses p }
  | .smovi d _ | .smovl d _ => { sw := [one d.toNat] }
  | .saddi d _ | .smovhi d _ => { sw := [one d.toNat], sr := [one d.toNat] }
  | .sbra qg _ _ | .ssleep qg _ _ => { qr := predUses qg }
  | .scall qg _ _ => { qr := predUses qg, sw := [two 62] }
  | .sret qg _ => { qr := predUses qg, sr := [two 62] }
  | .cpy r _ bar _ tok | .cpyf r _ bar _ _ tok | .cpyg r _ bar _ tok | .accdrain r _ bar _ _ tok => peUses r bar tok
  | .mma r c bar _ tok => (peUses r bar tok).and { sr := [⟨c.toNat, 2, 1⟩] }
  | .mmv r bar _ tok | .accreduce r bar _ tok | .splgrid r bar _ tok | .splload r bar _ tok | .splmv r bar _ _ tok
  | .splgrad r bar _ tok => peUses r bar tok
  | .splrefine bar _ tok => { sr := if tok then [] else [one bar.toNat], sw := if tok then [one bar.toNat] else [] }
  | .item r => { sr := [one r.toNat], pw := [6] }
  | .admitWave r => { sr := [one r.toNat], pw := [5] }
  | .iret r => { sr := [one r.toNat] }
  | .rdv d a cnt _ => { sw := [⟨d.toNat, cnt.toNat + 1, 1⟩], sr := [one a.toNat] }
  | .wrv a b cnt _ => { sr := [one a.toNat, ⟨b.toNat, cnt.toNat + 1, 1⟩] }
  | .barInit a n => { sr := one a.toNat :: (match n with | .imm _ => [] | .reg b => [one b.toNat]) }
  | .barArrive _ a => { sr := [one a.toNat] }
  | .barExpect a b => { sr := [one a.toNat, one b.toNat] }
  | .barWait _ d a b => { sr := [one a.toNat, one b.toNat], sw := (statUses d).sw }
  | .barTest _ d a b => { sr := [one a.toNat, one b.toNat], sw := [one d.toNat] }
  | .stgWait d a b => { sr := [one a.toNat, one b.toNat], sw := (statUses d).sw }
  | .stgDone a b => { sr := [one a.toNat, one b.toNat], sw := [one b.toNat] }
  | .nodeReg d a b => { sr := [two a.toNat, one b.toNat], sw := [one d.toNat] }
  | .nodeDec a b => { sr := [one a.toNat, one b.toNat] }
  | .tadvise a b cls _ _ => { sr := [one a.toNat, one b.toNat], bad := decide (5 < cls.toNat) }
  | .tpin a b layout _ => { sr := [one a.toNat, one b.toNat], bad := decide (8 < layout.toNat) }
  | .tunpin a b _ => { sr := [one a.toNat, one b.toNat] }
  | .tquery d a b _ => { sr := [one a.toNat, one b.toNat], sw := [one d.toNat] }
  | .tdef a => { sr := [one a.toNat] }
  | .icinv _ a b => { sr := [two a.toNat, one b.toNat] }
  | .sys _ _ _ _ => {}
  | .stage1Invalidate d a b => if s.pk.priv = .root then { sw := [one d.toNat], sr := [two a.toNat, one b.toNat] } else {}
  | .stage1Root d a _ => if s.pk.priv = .root then { sw := [one d.toNat], sr := [two a.toNat] } else {}
  | .takePageRequest d _ b => if s.pk.priv = .root then { sw := [one d.toNat], sr := [one b.toNat] } else {}
  | .reply d a b => if s.pk.priv = .root then { sw := [one d.toNat], sr := [one a.toNat, one b.toNat] } else {}
  | .donateRetileFrames d a b => if s.pk.priv = .root then { sw := [one d.toNat], sr := [two a.toNat, one b.toNat] } else {}
  | .rqget d a b | .sbget d a b => { sw := [one d.toNat], sr := [one a.toNat, one b.toNat] }
  | .rqput d a b => { sr := [one d.toNat, one a.toNat, one b.toNat] }
  | .ctxsave d a b | .ctxrest d a b => { sw := [one d.toNat], sr := [two a.toNat, two b.toNat] }
  | _ => {}

/-- Pipe classes (R143). -/
inductive Pipe where
  | int | flt | sfu | mem | ctl | uniform | none
  deriving DecidableEq, Repr

/-- The pipe class of an instruction; `none` for host actions and device events. -/
def pipeOf : Instr → Pipe
  | .addI32 .. | .addI32Sat .. | .subI32 .. | .subI32Sat .. | .mulI32 .. | .mulhiI32 .. | .mulhiN32 .. | .minI32 ..
  | .maxI32 .. | .minN32 .. | .maxN32 .. | .andB32 .. | .orB32 .. | .xorB32 .. | .andnB32 .. | .shlB32 .. | .shrN32 ..
  | .shrI32 .. | .rotB32 .. | .popcB32 .. | .clzB32 .. | .brevB32 .. | .lsbB32 .. | .movB32 .. | .permB8 ..
  | .addX2I16 .. | .addX2I16Sat .. | .subX2I16 .. | .subX2I16Sat .. | .minX2I16 .. | .maxX2I16 .. | .dot4I8 ..
  | .dot4N8 .. | .pullIdx .. | .pullXor .. | .pullBack .. | .pullFwd .. | .nop | .addiI32 .. | .muliI32 ..
  | .andiB32 .. | .oriB32 .. | .xoriB32 .. | .shliB32 .. | .shriN32 .. | .shriI32 .. | .moviB32 .. | .madI32 ..
  | .madwI32 .. | .madwN32 .. | .addI64 .. | .subI64 .. | .addcN32 .. | .bfxI32 .. | .bfxN32 .. | .bfiB32 ..
  | .bitfnB32 .. | .cselB32 .. | .cmpI32 .. | .cmpN32 .. | .cmpI64 .. | .pset .. => .int
  | .faddF32 .. | .fsubF32 .. | .fmulF32 .. | .fminF32 .. | .fmaxF32 .. | .fmacF32 .. | .faddF64 .. | .fsubF64 ..
  | .fmulF64 .. | .fminF64 .. | .fmaxF64 .. | .fmacF64 .. | .faddX2Bf16 .. | .fmulX2Bf16 .. | .fmacX2Bf16 ..
  | .faddX2F16 .. | .fmulX2F16 .. | .fmacX2F16 .. | .dot2Bf16 .. | .fcmpF32 .. | .fcmpF64 .. | .ffmaF32 ..
  | .ffmaF64 .. | .ffmaX2Bf16 .. | .fclass .. => .flt
  | .frcpF32 .. | .frsqF32 .. | .fsqrtF32 .. | .fsqrtF64 .. | .fdivF32 .. | .fdivF64 .. | .fexp2F32 .. | .flog2F32 ..
  | .fsinpF32 .. | .fcospF32 .. | .frndF32 .. | .frndF64 .. | .cvt .. | .qblkF4x .. | .dqblkF4x .. => .sfu
  | .ldB8 .. | .ldI8 .. | .ldB16 .. | .ldI16 .. | .ldB32 .. | .ldB64 .. | .ldB128 .. | .stB8 .. | .stB16 .. | .stB32 ..
  | .stB64 .. | .stB128 .. | .tld .. | .tst .. | .tstp .. | .vldB32 .. | .vldB64 .. | .vldB128 .. | .vstB32 ..
  | .vstB64 .. | .vstB128 .. | .claim .. | .tclaim .. | .atom .. | .cas .. | .red .. | .tatom .. | .tred .. | .vatom ..
  | .ldAcq .. | .stRel .. | .fence .. => .mem
  | .bra .. | .meet .. | .unmeet | .exit .. | .yield | .jal .. | .jr .. | .meetm .. | .vote .. | .brk .. => .ctl
  | .sadd .. | .ssub .. | .smul .. | .sand .. | .sor .. | .sxor .. | .sshl .. | .sshr .. | .smin .. | .smax ..
  | .sadd64 .. | .smov .. | .scmp .. | .ssel .. | .sget .. | .sset .. | .svote .. | .smovi .. | .saddi .. | .smovhi ..
  | .sbra .. | .scall .. | .sret .. | .ssleep .. | .cpy .. | .cpyf .. | .cpyg .. | .mma .. | .mmv .. | .accdrain ..
  | .accreduce .. | .splgrid .. | .splload .. | .splmv .. | .splgrad .. | .splrefine .. | .item .. | .admitWave .. | .iret ..
  | .smovl .. | .rdv .. | .wrv .. | .barInit .. | .barArrive .. | .barExpect .. | .barWait .. | .barTest .. | .stgWait ..
  | .stgDone .. | .acquire | .release | .accalloc .. | .accfree .. | .nodeReg .. | .nodeDec .. | .nodeDone | .tadvise ..
  | .tpin .. | .tunpin .. | .tquery .. | .tdef .. | .sfence .. | .icinv .. | .sys .. | .stage1Invalidate ..
  | .stage1Root .. | .takePageRequest .. | .reply .. | .donateRetileFrames .. | .rti | .rqget .. | .rqput .. | .sbget ..
  | .ctxsave .. | .ctxrest .. => .uniform
  | _ => .none

/-- Roles that may execute an instruction (R211). -/
def roleAllows (i : Instr) (r : Role) : Bool :=
  match i with
  | .nop | .bra .. | .exit .. | .yield | .jal .. | .jr .. | .brk .. => true
  | .cpy .. | .cpyf .. | .cpyg .. => r == .gen || r == .cpy
  | .mma .. | .mmv .. | .accreduce .. | .splgrid .. | .splload .. | .splmv .. | .splgrad .. | .splrefine ..
  | .accalloc .. | .accfree .. => r == .mtx
  | .accdrain .. => r == .epi
  | .item .. | .admitWave .. | .iret .. => r == .gen || r == .epi
  | i => pipeOf i == .uniform || r == .gen || r == .epi

/-- Whether privilege and side-buffer level allow an instruction (R211). -/
def privAllows (i : Instr) (p : Priv) (level : Nat) : Bool :=
  match i with
  | .tdef .. | .ctxsave .. | .ctxrest .. => p == .root
  | .rti | .rqget .. | .rqput .. | .sbget .. => p != .user && level != 0
  | _ => true

/-- Whether a control-word access is beyond the pack's privilege, or the word has no such access (R49, R53). -/
def wordRefused (i : Instr) (p : Priv) : Bool :=
  match i with
  | .sget _ true sel idx =>
    p != .root && (sel == 5 || (decide (7 ≤ sel.toNat) && decide (sel.toNat ≤ 12)) || sel == 28 || sel == 29) ||
      sel == 29 && decide (8 < idx.toNat)
  | .sset sel _ => (sel == 4 && p == .user) || (decide (5 ≤ sel.toNat) && p != .root)
  | _ => false

/-- The lookahead count of a long-latency instruction (R210); none for any other. -/
def lookahead : Instr → Option Nat
  | .ldB8 _ _ l _ | .ldI8 _ _ l _ | .ldB16 _ _ l _ | .ldI16 _ _ l _ | .ldB32 _ _ l _ | .ldB64 _ _ l _ | .ldB128 _ _ l _
  | .stB8 _ _ l _ | .stB16 _ _ l _ | .stB32 _ _ l _ | .stB64 _ _ l _ | .stB128 _ _ l _ | .tld _ _ l _ | .tst _ _ l _
  | .tstp _ _ l _ | .vldB32 _ _ l _ | .vldB64 _ _ l _ | .vldB128 _ _ l _ | .vstB32 _ _ l _ | .vstB64 _ _ l _
  | .vstB128 _ _ l _ => some l.toNat
  | .claim _ l _ | .tclaim _ l _ => some l.toNat
  | .frcpF32 _ _ _ l | .frsqF32 _ _ _ l | .fsqrtF32 _ _ _ l | .fsqrtF64 _ _ _ l | .fexp2F32 _ _ _ l
  | .flog2F32 _ _ _ l | .fsinpF32 _ _ _ l | .fcospF32 _ _ _ l => some l.toNat
  | .fdivF32 _ _ _ _ l | .fdivF64 _ _ _ _ l => some l.toNat
  | .frndF32 _ _ _ l _ _ | .frndF64 _ _ _ l _ _ => some l.toNat
  | .atom _ _ _ _ l _ _ _ _ _ | .vatom _ _ _ _ l _ _ _ _ _ => some l.toNat
  | .cas _ _ _ _ _ l _ _ _ _ => some l.toNat
  | .red _ _ _ l _ _ _ _ _ _ => some l.toNat
  | .tatom _ _ _ _ l _ _ _ _ | .tred _ _ _ l _ _ _ _ _ => some l.toNat
  | .ldAcq _ _ _ l _ _ _ _ => some l.toNat
  | .cpy _ _ _ l tok | .cpyg _ _ _ l tok | .mma _ _ _ l tok => if tok then some l.toNat else none
  | .cpyf _ _ _ l _ tok | .accdrain _ _ _ l _ tok => if tok then some l.toNat else none
  | .mmv _ _ l tok | .accreduce _ _ l tok | .splgrid _ _ l tok | .splload _ _ l tok | .splgrad _ _ l tok =>
    if tok then some l.toNat else none
  | .splmv _ _ l _ tok => if tok then some l.toNat else none
  | .splrefine _ l tok => if tok then some l.toNat else none
  | _ => none

/-- Instructions that read registers of other threads (R220). -/
def crossLane : Instr → Bool
  | .pullIdx .. | .pullXor .. | .pullBack .. | .pullFwd .. | .vote .. | .qblkF4x .. => true
  | _ => false

/-! Lane memory instructions (R250-R263). -/

inductive Space where
  | flat | vault | tensor
  deriving DecidableEq, Repr

inductive MemOp where
  | load (signed : Bool)
  | store
  | both
  | rmw (op : AtomOp)
  | cas
  deriving DecidableEq, Repr

/-- What a lane memory instruction does: `size` in bytes (0: the tensor's element), the registers, the ordering; `scope` is
the scope of an atomic or an ordered store, whatever its order (R120, R259). -/
structure Access where
  space : Space
  op : MemOp
  size : Nat
  ty : AtomTy := .i32
  dst : Option Nat := none
  base : Nat
  off : Nat
  data : List Nat := []
  plain : Bool := true
  acq : Option Scope := none
  rel : Option Scope := none
  scope : Option Scope := none
  bar : Option Nat := none
  queued : Bool := false
  deriving DecidableEq, Repr

def acqOf (ord : MemOrd) (sc : Scope) : Option Scope := if ord == .acq || ord == .acqrel then some sc else none
def relOf (ord : MemOrd) (sc : Scope) : Option Scope :=
  if ord == .rel || ord == .acqrel then some (if sc == .rem then .dev else sc) else none

def ld (sp : Space) (n : Nat) (sg : Bool) (t c : VReg) (x : SReg) : Access :=
  { space := sp, op := .load sg, size := n, dst := some t.toNat, base := x.toNat, off := c.toNat }

def st (sp : Space) (n : Nat) (t c : VReg) (x : SReg) : Access :=
  { space := sp, op := .store, size := n, base := x.toNat, off := c.toNat, data := [t.toNat] }

/-- The access of a lane memory instruction. -/
def accessOf : Instr → Option Access
  | .ldB8 t c _ x => some (ld .flat 1 false t c x)
  | .ldI8 t c _ x => some (ld .flat 1 true t c x)
  | .ldB16 t c _ x => some (ld .flat 2 false t c x)
  | .ldI16 t c _ x => some (ld .flat 2 true t c x)
  | .ldB32 t c _ x => some (ld .flat 4 false t c x)
  | .ldB64 t c _ x => some (ld .flat 8 false t c x)
  | .ldB128 t c _ x => some (ld .flat 16 false t c x)
  | .stB8 t c _ x => some (st .flat 1 t c x)
  | .stB16 t c _ x => some (st .flat 2 t c x)
  | .stB32 t c _ x => some (st .flat 4 t c x)
  | .stB64 t c _ x => some (st .flat 8 t c x)
  | .stB128 t c _ x => some (st .flat 16 t c x)
  | .tld t c _ x => some (ld .tensor 0 false t c x)
  | .tst t c _ x => some (st .tensor 0 t c x)
  | .tstp t c _ x => some { st .tensor 0 t c x with op := .both }
  | .vldB32 t c _ x => some (ld .vault 4 false t c x)
  | .vldB64 t c _ x => some (ld .vault 8 false t c x)
  | .vldB128 t c _ x => some (ld .vault 16 false t c x)
  | .vstB32 t c _ x => some (st .vault 4 t c x)
  | .vstB64 t c _ x => some (st .vault 8 t c x)
  | .vstB128 t c _ x => some (st .vault 16 t c x)
  | .atom _ d a b _ ty op ord sc x =>
    some { space := .flat, op := .rmw op, size := atomBytes ty, ty := ty, dst := some d.toNat, base := x.toNat,
           off := a.toNat, data := [b.toNat], plain := false, acq := acqOf ord sc, rel := relOf ord sc,
           scope := some sc, queued := true }
  | .vatom _ d a b _ ty op ord sc x =>
    some { space := .vault, op := .rmw op, size := atomBytes ty, ty := ty, dst := some d.toNat, base := x.toNat,
           off := a.toNat, data := [b.toNat], plain := false, acq := acqOf ord sc, rel := relOf ord sc,
           scope := some sc }
  | .cas _ d a b c _ wide ord sc x =>
    some { space := .flat, op := .cas, size := if wide then 8 else 4, dst := some d.toNat, base := x.toNat,
           off := a.toNat, data := [b.toNat, c.toNat], plain := false, acq := acqOf ord sc, rel := relOf ord sc,
           scope := some sc,
           queued := true }
  | .red _ a b _ ty op ord sc x bar =>
    some { space := .flat, op := .rmw op, size := atomBytes ty, ty := ty, base := x.toNat, off := a.toNat,
           data := [b.toNat], plain := false, rel := relOf ord sc,
           scope := some sc, bar := bar.map (·.toNat), queued := true }
  | .tatom _ d a b _ op ord sc x =>
    some { space := .tensor, op := .rmw op, size := 0, dst := some d.toNat, base := x.toNat, off := a.toNat,
           data := [b.toNat], plain := false, acq := acqOf ord sc, rel := relOf ord sc,
           scope := some sc, queued := true }
  | .tred _ a b _ op ord sc x bar =>
    some { space := .tensor, op := .rmw op, size := 0, base := x.toNat, off := a.toNat, data := [b.toNat],
           plain := false, rel := relOf ord sc,
           scope := some sc, bar := bar.map (·.toNat), queued := true }
  | .ldAcq _ d a _ wide vault sc x =>
    some { space := if vault then .vault else .flat, op := .load false, size := if wide then 8 else 4,
           dst := some d.toNat, base := x.toNat, off := a.toNat, plain := false, acq := some sc }
  | .stRel _ a b wide vault sc x =>
    some { space := if vault then .vault else .flat, op := .store, size := if wide then 8 else 4, base := x.toNat,
           off := a.toNat, data := [b.toNat], plain := false, rel := some sc, scope := some sc }
  | _ => none

/-- The instruction and access captured in a replay entry (R189, R190). -/
def Entry.access (e : Entry) : Option Access :=
  match decode e.w0 e.w1 with
  | .ok i => accessOf i
  | _ => none

end Sys2Proof.Machine
end

