-- ==== Sys2Proof/Machine/Lanes.lean ====
section
/-! DEFINITION. The accesses of lanes: capture at issue, the checks of spec/12_memory_instructions.md R251, translation,
performance at the L1, home slice or vault bank (R252, spec/04_memories.md R85-R93), and replies (R250). The records are
the replay entries of spec/09_counters_events.md R189, so that re-injection runs the same steps. -/
namespace Sys2Proof.Machine

/-- A check of R251 that a lane failed: its step, class and address (R188), and for a recoverable fault the stage, the address
the request names and the page. -/
structure LaneFail where
  lane : Nat
  step : Nat
  cls : TrapClass
  addr : Nat
  page : Option (Bool × Nat × Nat) := none
  deriving DecidableEq, Repr

/-- Whose access it is: the core, the partition and group, and who waits for a page request of a set of lanes. -/
structure Site where
  core : Nat
  part : Nat
  group : Nat
  entry : Nat
  orphan : Option Nat := none
  deriving DecidableEq, Repr

def Site.waiter (x : Site) (m : LaneMask) : Waiter :=
  match x.orphan with
  | some n => .orphan n
  | none => .lanes x.entry m

/-! Capture (R189, R250). -/

def padWords (n : Nat) (l : List Word) : List Word := (l ++ List.replicate n 0).take n

/-- Words one data register group of the access takes. -/
def dataWords (n : Nat) : Nat := max 1 (n / 4)

/-- The captured operand words. -/
def captureData (t : Thread) (n : Nat) (regs : List Nat) : List Word :=
  regs.flatMap fun r => (List.range (dataWords n)).map fun i => t.r (r + i)

/-- The lane record of a thread (R189). -/
def State.capture (s : State) (a : Access) (rank n : Nat) (t : Thread) : List Word :=
  match a.space with
  | .flat =>
    let x := s.pk.s64 a.base + (t.r a.off).zeroExtend 64
    [x.extractLsb' 0 32, x.extractLsb' 32 32] ++ padWords 6 (captureData t n a.data)
  | .vault => [s.pk.sreg a.base + t.r a.off, 0] ++ padWords 6 (captureData t n a.data)
  | .tensor =>
    padWords 5 ((List.range rank).map fun i => t.r (a.off + i)) ++ padWords 2 (captureData t n a.data) ++
      [s.pk.sreg a.base &&& 0xFFFF]

def wordAt (ws : List Word) (i : Nat) : Word := ws.getD i 0
def flatAddr (ws : List Word) : Nat := (pair (wordAt ws 0) (wordAt ws 1)).toNat

/-- Operand `k` of `n` bytes as a number; tensor operands lie in words 5 and 6. -/
def operandOf (a : Access) (ws : List Word) (n k : Nat) : Nat :=
  let first := (match a.space with | .tensor => 5 | _ => 2) + k * dataWords n
  natOfBytes ((bytesOfWords ((ws.drop first).take (dataWords n))).take n)

/-- Coordinates; those at or beyond the rank are 0 (R101). -/
def coordsOf (r : TRec) (ws : List Word) : List Nat :=
  (List.range 5).map fun i => if i < r.rank then (wordAt ws i).toNat else 0

/-! Steps 2 to 4 of R251. -/

/-- Bytes of one lane's access. -/
def accessBytes (a : Access) (r : Option TRec) : Nat :=
  if a.size ≠ 0 then a.size
  else match r with
    | some r => elemBits r.fmt / 8
    | none => 4

/-- The type of a tensor RMW by format (R262). -/
def tensorAtom (fmt : Nat) : Option AtomTy :=
  match fmt with
  | 0x08 | 0x09 => some .i32
  | 0x02 => some .f32
  | 0x0D => some .i64
  | 0x01 => some .f64
  | _ => none

/-- The type an RMW works on. -/
def accessTy (a : Access) (r : Option TRec) : AtomTy :=
  match r with
  | some r => (tensorAtom r.fmt).getD .i32
  | none => a.ty

/-- Whether the record rules the operation out (R262). -/
def recordRefuses (a : Access) (r : TRec) : Bool :=
  match a.op with
  | .rmw op =>
    match tensorAtom r.fmt with
    | some ty => !op.okFor ty
    | none => true
  | _ => false

/-- The barrier of a reduction: a misaligned or invalid address fails the lane (R263). -/
def State.barFails (s : State) (x : Site) (e : Entry) (a : Access) (l : Nat) : Option LaneFail :=
  match a.bar with
  | none => none
  | some _ =>
    if (s.vaultAddr x.part x.group e.bar).isNone then some ⟨l, 3, .memfault, e.bar.toNat, none⟩
    else if e.bar.toNat % 16 ≠ 0 then some ⟨l, 4, .align, e.bar.toNat, none⟩
    else none

/-- Steps 3 and 4 of R251 for one lane. -/
def State.addressFails (s : State) (x : Site) (e : Entry) (a : Access) (r : Option TRec) (l : Nat) (ws : List Word) :
    Option LaneFail :=
  let n := accessBytes a r
  match s.barFails x e a l with
  | some f => some f
  | none =>
    match a.space with
    | .flat =>
      let va := flatAddr ws
      if 2 ^ 52 ≤ va then some ⟨l, 3, .memfault, va, none⟩
      else if va % n ≠ 0 then some ⟨l, 4, .align, va, none⟩
      else none
    | .vault =>
      let va := wordAt ws 0
      match s.vaultAddr x.part x.group va with
      | none => some ⟨l, 3, .memfault, va.toNat, none⟩
      | some _ => if va.toNat % n ≠ 0 then some ⟨l, 4, .align, va.toNat, none⟩ else none
    | .tensor =>
      match r with
      | none => some ⟨l, 2, .tensor, 0, none⟩
      | some r =>
        if r.fmt = 7 || !r.inside (coordsOf r ws) then some ⟨l, 3, .tensor, 0, none⟩ else none

/-! Step 5 of R251: translation. -/

/-- The image a lane uses: image B for the lanes of a YRUN load of a paired tensor (R111). -/
def imageB (a : Access) (r : TRec) (group : List (List Nat)) : Bool :=
  match a.op with
  | .load _ => r.paired && (classify (group.map r.xy)).map (·.1) == some 1
  | _ => false

/-- The virtual addresses a lane's access translates: the byte of a flat or linear access, the first byte of the page of a
boxed one (R315); both images of a tstp to a paired tensor (R256). -/
def accessVAs (a : Access) (r : Option TRec) (b : Bool) (ws : List Word) : List Nat :=
  match a.space, r with
  | .flat, _ => [flatAddr ws]
  | .tensor, some r =>
    let c := coordsOf r ws
    let at' := fun (img : Bool) => r.image img + r.page c * 65536 + (if r.linear then r.byte 15 c else 0)
    match a.op with
    | .both => if r.paired then [at' false, at' true] else [at' false]
    | _ => [at' b]
  | _, _ => []

/-- What the access asks of a leaf, and its access type in a page request (R156, R191). -/
def accessAsk (a : Access) : Acc × Nat :=
  match a.space, a.op with
  | .tensor, .load _ => (.load, 4)
  | .tensor, .store => (.store, 5)
  | .tensor, .both => (.rmw, 5)
  | _, .load _ => (.load, 0)
  | _, .store | _, .both => (.store, 1)
  | _, _ => (.rmw, 2)

def accessUse (r : Option TRec) : PageUse := match r with | some r => r.use | none => .flat

/-- Insert a page with the lanes that touch it, pages ascending. -/
def addPage (va : Nat) (l : Nat) : List (Nat × Nat × LaneMask) → List (Nat × Nat × LaneMask)
  | [] => [(va / 65536, va, 1#32 <<< l)]
  | (p, v, m) :: r =>
    if va / 65536 = p then (p, v, m ||| (1#32 <<< l)) :: r
    else if va / 65536 < p then (va / 65536, va, 1#32 <<< l) :: (p, v, m) :: r
    else (p, v, m) :: addPage va l r

/-- The pages of some lanes ascending, each with the address of its lowest lane. -/
def pagesOf (vas : List (Nat × List Nat)) : List (Nat × Nat × LaneMask) :=
  vas.foldl (fun ps (l, as) => as.foldl (fun ps va => addPage va l ps) ps) []

/-- Walk the pages of one access in ascending order (R314); a page fault queues its request before the next walk. -/
def State.walkPages (s : State) (x : Site) (priv : Priv) (acc : Acc) (code : Nat) (use : PageUse) :
    List (Nat × Nat × LaneMask) → State × List (Nat × Except XFault Trans)
  | [] => (s, [])
  | (p, va, m) :: rest =>
    let (s, r) := s.translate x.core x.part priv acc use va
    let s := match r with
      | .error (.page st2 a) => s.requestPage x.part x.core st2 code a (x.waiter m) x.orphan.isSome
      | _ => s
    let (s, rs) := s.walkPages x priv acc code use rest
    (s, (p, r) :: rs)

/-- The outcome of one lane's pages: physical addresses, or the failure. -/
def State.laneWalk (s : State) (a : Access) (r : Option TRec) (l : Nat) (ws : List Word)
    (walked : List (Nat × Except XFault Trans)) : List Nat → Except LaneFail (List (Nat × Nat))
  | [] => .ok []
  | va :: rest =>
    match walked.find? fun (p, _) => p = va / 65536 with
    | none => .error ⟨l, 5, .memfault, va, none⟩
    | some (_, .error (.page st2 ad)) => .error ⟨l, 5, .memfault, va, some (st2, ad, va / 65536)⟩
    | some (_, .error _) => .error ⟨l, 5, .memfault, va, none⟩
    | some (_, .ok t) =>
      let pa := match a.space, r with
        | .tensor, some r => t.frame * 65536 + (if r.linear then va % 65536 else r.byte t.layout (coordsOf r ws))
        | _, _ => t.pa va
      if s.paKind pa = .reserved then .error ⟨l, 5, .memfault, va / 65536 * 65536 + pa % 65536, none⟩
      else
        let img := match r with | some r => r.paired && va / 65536 = r.pairbase / 65536 + r.page (coordsOf r ws) | none => false
        match s.laneWalk a r l ws walked rest with
        | .error f => .error f
        | .ok ps => .ok ((pa, t.attr + (if t.elide then 4 else 0) + (if img then 8 else 0)) :: ps)

/-! Step 6 of R251. -/

/-- Granule keys of a lane's write (R149, R275). -/
def keysOf (a : Access) (r : Option TRec) (ws : List Word) : List DWord :=
  let n := accessBytes a r
  let key := match a.space, r with
    | .tensor, some r =>
      2 ^ 63 + (wordAt ws 7).toNat % 65536 * 2 ^ 47 + r.logical (coordsOf r ws) * n / 4 % 2 ^ 47
    | _, _ => flatAddr ws / 4 % 2 ^ 50
  (List.range (max 1 (n / 4))).map fun i => BitVec.ofNat 64 (key + i)

def writes (a : Access) : Bool := match a.op with | .load _ => false | _ => true

/-- PAIRED and CLAIM (R112, R275). `pas` gives the byte of the element in its page. A lane that is re-injected is checked under MODE
as it then stands, as a replay entry keeps none (R189; DESIGN CHOICE, log 47). -/
def laneForbidden (pk : Pack) (a : Access) (r : Option TRec) (l : Nat) (ws : List Word) (pas : List (Nat × Nat)) :
    Option LaneFail :=
  let t := pk.thread l
  let va := match a.space, r with
    | .tensor, some r => r.image false + r.page (coordsOf r ws) * 65536 + (pas.headD (0, 0)).1 % 65536
    | _, _ => flatAddr ws
  let pairedBad := match r, a.op with
    | some r, .store => r.paired
    | some r, .rmw _ => r.paired
    | _, _ => false
  if pairedBad then some ⟨l, 6, .paired, va, none⟩
  else if pk.mode.getLsbD 8 && t.admitted && writes a && a.space != .vault &&
      !((keysOf a r ws).all fun k => t.claims.contains k) then some ⟨l, 6, .claim, va, none⟩
  else none

/-! Admission: steps 3 to 6 for the lanes of an entry that are still to be walked. -/

def LaneAcc.walking (a : LaneAcc) : Bool := match a.phase with | .walk | .resent => true | _ => false

/-- Whether the lane was sent back by a publish or an invalidation, which sends no new report (R106). -/
def LaneAcc.sentBack (a : LaneAcc) : Bool := match a.phase with | .resent => true | _ => false

/-- Reports of a tensor access, one per page and class (R102). -/
def State.reportPages (s : State) (x : Site) (r : TRec) (tid : Nat) (ok : List (Nat × List Word))
    (walked : List (Nat × Except XFault Trans)) : State :=
  let pages := (ok.map fun (_, ws) => r.page (coordsOf r ws)).eraseDups
  pages.foldl (fun s p =>
    let here := ok.filter fun (_, ws) => r.page (coordsOf r ws) = p
    match classify (here.map fun (_, ws) => r.xy (coordsOf r ws)) with
    | none => s.noteMonitor x.part tid p r
    | some (cls, size) =>
      match walked.find? fun (q, _) => q = r.base / 65536 + p || (r.paired && q = r.pairbase / 65536 + p) with
      | some (_, .ok t) =>
        let s := s.noteMonitor x.part tid p r
        if s.env.defer then
          { s with home := { s.home with
              reports := s.home.reports ++ [⟨x.part, tid, p, cls, size, s.slice (t.frame * 65536)⟩] } }
        else s.report r x.part tid p cls size ⟨t.frame, t.layout, t.leaf⟩
      | _ => s) s

/-- Steps 3 to 6 of R251 for lanes of a mask: those that pass become ready with their physical addresses. -/
def State.admitLanes (s : State) (x : Site) (pk : Pack) (e : Entry) (a : Access) (r : Option TRec) (m : LaneMask) :
    State × Entry × List LaneFail :=
  let todo := e.lanes.filter fun (l, w) => hasLane (e.mask &&& m) l && w.walking
  let fails3 := todo.filterMap fun (l, w) => s.addressFails x e a r l w.words
  let ok3 := todo.filter fun (l, _) => !(fails3.any (·.lane = l))
  let sameGroup := fun (r : TRec) (ws : List Word) =>
    (ok3.filter fun (_, w) => r.page (coordsOf r w.words) = r.page (coordsOf r ws)).map fun (_, w) => coordsOf r w.words
  let img := fun (ws : List Word) => match r with | some r => imageB a r (sameGroup r ws) | none => false
  let vas := ok3.map fun (l, w) => (l, accessVAs a r (img w.words) w.words)
  let (acc, code) := accessAsk a
  let (s, walked) := s.walkPages x e.priv acc code (accessUse r) (pagesOf vas)
  let res := ok3.map fun (l, w) => (l, w, s.laneWalk a r l w.words walked (accessVAs a r (img w.words) w.words))
  let fails5 := res.filterMap fun (_, _, o) => match o with | .error f => some f | .ok _ => none
  let ok5 := res.filterMap fun (l, w, o) => match o with | .ok ps => some (l, w, ps) | .error _ => none
  let fails6 := ok5.filterMap fun (l, w, ps) => laneForbidden pk a r l w.words ps
  let s := match r with
    | some r => s.reportPages x r ((todo.headD (0, { words := [] })).2.words.getD 7 0).toNat
        ((ok5.filter fun (_, w, _) => !w.sentBack).map fun (l, w, _) => (l, w.words)) walked
    | none => s
  let step := fun (l : Nat) (w : LaneAcc) =>
    match ok5.find? fun (k, _) => k = l with
    | some (_, _, ps) => if fails6.any (·.lane = l) then w else { w with phase := .ready ps }
    | none => w
  (s, { e with lanes := e.lanes.map fun (l, w) => (l, step l w) }, fails3 ++ fails5 ++ fails6)

/-! Step 7 of R251: performing. -/

/-- Sectors of an L1 request (R92): the run of `size` bytes in block `b` that covers the touched offsets lo to hi. -/
def requestSpan (lo hi : Nat) : Nat × Nat :=
  let size := if lo / 16 = hi / 16 then 16 else if lo / 32 = hi / 32 then 32 else if lo / 64 = hi / 64 then 64 else 128
  (lo / size * size, size)

/-- A sector of the L1: 16 bytes at 16 times its number (R85). -/
def Core.sector (k : Core) (sec : Nat) : Option (List Byte) :=
  match k.l1.find? fun ln => ln.block = sec / 8 with
  | some ln => tabFind ln.sectors (sec % 8)
  | none => none

/-- Log an error of a core's own storage: parity (class 8), or the register file (classes 4 and 5) (R96, R97, R184). -/
def State.logCore (s : State) (cls core : Nat) : State :=
  let (x, s) := s.syndrome
  s.logEvent cls core (s.clusterOwner (core / 8)) 0 x

/-- Sectors a load looks up whose parity is wrong are discarded, to be fetched again; each counts as corrected (R96). -/
def State.dropOdd (s : State) (core : Nat) (secs : List Nat) : State :=
  let hit := fun (ln : L1Line) (i : Nat) => ln.odd.contains i && secs.contains (8 * ln.block + i)
  let n := ((s.core core).l1.map fun ln => (ln.odd.filter (hit ln)).length).sum
  if n = 0 then s
  else
    ((List.range n).foldl (fun s _ => s.logCore 8 core) s).modCore core fun k => { k with
      l1 := k.l1.map fun ln => { ln with
        sectors := ln.sectors.filter fun (i, _) => !hit ln i
        odd := ln.odd.filter fun i => !hit ln i } }

/-- Bytes of `n` at `pa` from the L1 sectors. -/
def State.l1Read (s : State) (core pa n : Nat) : Option (List Byte) :=
  ((s.core core).sector (pa / 16)).map fun bs => (bs.drop (pa % 16)).take n

/-- Fill sectors of a block that are absent; a new line replaces the oldest of a full cache (R86; DESIGN CHOICE, log 8). -/
def Core.fill (k : Core) (b : Nat) (new : Tab (List Byte)) : Core :=
  let add := fun (m : Tab (List Byte)) (x : Nat × List Byte) => if (tabFind m x.1).isSome then m else tabPut m x.1 x.2
  if k.l1.any (·.block = b) then
    { k with l1 := k.l1.map fun ln => if ln.block = b then { ln with sectors := new.foldl add ln.sectors } else ln }
  else { k with l1 := cap Config.l1Lines ({ block := b, sectors := new } :: k.l1) }

/-- Sectors already present take new bytes of their core, which it stored or read past the L1 (R85, R115). -/
def State.l1Update (s : State) (core : Nat) (bs : Tab Byte) : State :=
  let put := fun (ln : L1Line) =>
    { ln with sectors := bs.foldl (fun m (a, b) =>
        if a / 128 = ln.block then tabMod m (a % 128 / 16) (fun sec => sec.set (a % 16) b) else m) ln.sectors }
  if bs.all fun (a, _) => ((s.core core).sector (a / 16)).isNone then s
  else s.modCore core fun k => { k with l1 := k.l1.map put }

/-- One request of the coalescer for loads of `n` bytes within block `b` (R92), each a physical address with its attribute:
the bytes at each address, none where they are uncorrectable. `plain` flat loads that find every sector in the L1 send
none, and fill the sectors of their request (R85, R86). -/
def State.loadRequest (s : State) (core : Nat) (plain : Bool) (n b : Nat) (here : List (Nat × Nat)) :
    State × List (Nat × Option (List Byte)) :=
  let at' := here.map (·.1)
  let s := if plain then s.dropOdd core (at'.map (· / 16)) else s
  let cached := fun pa => if plain then s.l1Read core pa n else none
  if at'.all fun pa => (cached pa).isSome then (s, at'.map fun pa => (pa, cached pa))
  else
    let offs := at'.map (· % 128)
    let (o, z) := requestSpan (offs.foldl min 127) (offs.foldl (fun m p => max m (p + n - 1)) 0)
    let a := b * 128 + o
    let (bs, bad, s) := s.homeLoad core a (here.headD (0, 0)).2 z
    let secs := (List.range (z / 16)).filter fun i => !s.uncorrectable (a + 16 * i) 16
    let s := if plain then
        s.modCore core fun k => k.fill b (secs.map fun i => (o / 16 + i, (bs.drop (16 * i)).take 16))
      else if bad then s.l1Update core (secs.flatMap fun i => spread (a + 16 * i) ((bs.drop (16 * i)).take 16))
      else s.l1Update core (spread a bs)
    (s, at'.map fun pa => (pa,
      match cached pa with
      | some v => some v
      | none => if s.uncorrectable pa n then none else some ((bs.drop (pa - a)).take n)))

/-- The requests of some loads, by 128-byte block, ascending (R92). -/
def State.loadAll (s : State) (core : Nat) (plain : Bool) (n : Nat) (pas : List (Nat × Nat)) :
    State × List (Nat × Option (List Byte)) :=
  (ascending (pas.map fun (pa, _) => pa / 128)).foldl (fun (s, vs) b =>
    let (s, v) := s.loadRequest core plain n b (pas.filter fun (pa, _) => pa / 128 = b)
    (s, vs ++ v)) (s, [])

/-- Whether a release scope is narrower than .dev, and so leaves a tag (R120). -/
def narrow (sc : Option Scope) : Bool :=
  match sc with
  | some .pack | some .grp | some .cl => true
  | _ => false

/-- Whether a scope is .dev or wider; .rem acts at .dev (R120). -/
def wideRel (sc : Option Scope) : Bool :=
  match sc with
  | some .dev | some .sys | some .rem => true
  | _ => false

/-- Tag key of a vault granule; flat granules use their number (R120). -/
def vaultTag (c off : Nat) : Nat := 2 ^ 48 + c * 16384 + off / 256

/-- The slice, or the core of the vault, where a tag lies. -/
def State.tagPlace (s : State) (key : Nat) : Nat := if 2 ^ 48 ≤ key then (key - 2 ^ 48) / 16384 else s.slice (key * 256)

/-- Whether a scope that core `a` released at leaves out an agent of core `b` (R113). -/
def scopeExcludes (sc : Scope) (a b : Nat) : Bool :=
  match sc with
  | .pack | .grp => a ≠ b
  | .cl => a / 8 ≠ b / 8
  | _ => false

/-- The place of a granule's tag and the core it names, where that core must be asked before an acquire at .rem of core `c`
completes (R120). -/
def State.promotionAt (s : State) (c key : Nat) : Option (Nat × Nat) :=
  match tabFind s.home.tags key with
  | some t => if scopeExcludes t.scope t.core c then some (s.tagPlace key, t.core) else none
  | none => none

/-- The scope an access at a physical address has: .sys at another device (R84, R128). -/
def State.scopeAt (s : State) (pa : Nat) (sc : Option Scope) : Option Scope :=
  match s.paKind pa with
  | .remote _ => sc.map fun _ => .sys
  | _ => sc

/-- The tag of a granule after a write (R120): a release narrower than .dev leaves one, a write at .dev or .sys clears it. -/
def State.tagRelease (s : State) (core key : Nat) (rel scope : Option Scope) : State :=
  match rel with
  | some sc =>
    if narrow (some sc) then { s with home := { s.home with tags := tabPut s.home.tags key ⟨core, sc⟩ } }
    else { s with home := { s.home with tags := tabDel s.home.tags key } }
  | none => if wideRel scope then { s with home := { s.home with tags := tabDel s.home.tags key } } else s

/-- A release of a core at a scope waits for the replicas: all of them, or those on its own die (R123). -/
def State.releaseAt (s : State) (core : Nat) (sc : Option Scope) : State :=
  match sc with
  | some .dev | some .sys => s.syncReplicas
  | some .grp | some .cl => s.syncDie (dieOf core)
  | _ => s

/-- An acquire wider than .grp empties the core's L1 before it completes (R86). -/
def State.acquireL1 (s : State) (core : Nat) (sc : Option Scope) : State :=
  match sc with
  | some .cl | some .dev | some .sys | some .rem => s.modCore core fun k => { k with l1 := [] }
  | _ => s

/-- What an ordered access of another device's memory does beside (R128): it acquires and releases at .sys. -/
def State.orderRemote (s : State) (core pa : Nat) (acq rel : Option Scope) : State :=
  match s.paKind pa with
  | .remote _ => (s.acquireL1 core (acq.map fun _ => .sys)).releaseAt core (rel.map fun _ => .sys)
  | _ => s

/-- Perform stores of some lanes, block by block; later lanes of the list win (R252). Each store is a physical address
with its attribute and bytes. -/
def State.performStores (s : State) (core : Nat) (rel scope : Option Scope) (st : List (Nat × Nat × List Byte)) : State :=
  let blocks := ascending (st.map fun (pa, _) => pa / 128)
  blocks.foldl (fun s b =>
    let here := st.filter fun (pa, _) => pa / 128 = b
    let bs := here.foldl (fun m (pa, _, d) => (spread pa d).foldl (fun m (a, x) => tabPut m a x) m) ([] : Tab Byte)
    let (pa0, attr, _) := here.headD (0, 0, [])
    let s := if attr % 4 = 1 then s.lagReplica core bs else s
    let sc := s.scopeAt pa0 scope
    let s := (s.homeWrite (bitOf attr 2) (wideRel sc) bs).l1Update core bs
    let s := here.foldl (fun s (pa, _) => s.tagRelease core (pa / 256) (s.scopeAt pa0 rel) sc) s
    s.orderRemote core pa0 none rel) s

/-- The widened registers of a load of `n` bytes (R253, R255). -/
def widen (signed : Bool) (bs : List Byte) : List Word :=
  let n := bs.length
  let x := natOfBytes bs
  if n < 4 then [if signed && bitOf x (8 * n - 1) then BitVec.ofInt 32 ((x : Int) - 2 ^ (8 * n)) else BitVec.ofNat 32 x]
  else wordsOfBytes bs

/-- Whether a tensor format is widened with its sign (R255). -/
def loadSigned (a : Access) (r : Option TRec) : Bool :=
  match r with
  | some r => r.fmt = 0x0A || r.fmt = 0x0B
  | none => match a.op with | .load sg => sg | _ => false

/-- The value an RMW stores, if it stores one (R259, R261). -/
def rmwNew (a : Access) (r : Option TRec) (ws : List Word) (n old : Nat) : Option Nat :=
  match a.op with
  | .rmw op => some (atomResult (accessTy a r) op old (operandOf a ws n 0))
  | .cas => if old = operandOf a ws n 0 then some (operandOf a ws n 1) else none
  | _ => none

/-- An arrival at a barrier, released by a core at a scope: the granule of the object keeps the tag of it (R120, R179). -/
def State.arriveAt (s : State) (core : Nat) (sc : Scope) (at' : Nat × Nat) (n : Nat) (fault : Bool) : State :=
  (s.toBank at'.1 (.arrive at'.2 n fault)).tagRelease core (vaultTag at'.1 at'.2) (some sc) (some sc)

/-- A barrier arrival of a reduction (R263, R127). -/
def State.arrive (s : State) (core part grp : Nat) (bar : Word) (fault : Bool) : State :=
  match s.vaultAddr part grp bar with
  | some at' => s.arriveAt core .dev at' 0 fault
  | none => s

/-- One lane at the vault bank. -/
def State.performVault (s : State) (x : Site) (a : Access) (ws : List Word) : State × Option (List Word) :=
  match s.vaultAddr x.part x.group (wordAt ws 0) with
  | none => (s, none)
  | some (c, off) =>
    let n := a.size
    let s := (s.drainBank c).correctVault c off n
    let old := s.vaultRead c off n
    let put := fun (s : State) (v : Nat) =>
      (s.vaultWrite c off (bytesOfNat n v)).tagRelease x.core (vaultTag c off) a.rel a.scope
    match a.op with
    | .store => (put s (operandOf a ws n 0), some [])
    | .load sg => if s.vaultBroken c off n then (s.logVault c, none) else (s, some (widen sg old))
    | _ =>
      if s.vaultBroken c off n then (s.logVault c, none)
      else
        match rmwNew a none ws n (natOfBytes old) with
        | some v => (put s v, some (wordsOfBytes old))
        | none => (s, some (wordsOfBytes old))

/-- One RMW at the home slice (R121). The arrival of a reduction is a release at .dev, after its update (R127). -/
def State.performRmw (s : State) (x : Site) (e : Entry) (a : Access) (r : Option TRec) (ws : List Word)
    (pa attr : Nat) : State × Option (List Word) :=
  let n := accessBytes a r
  let (old, bad, s) := s.atomicRead pa n
  if bad then (s, none)
  else
    let s := (s.seenBy x.core pa n).l1Update x.core (spread pa old)
    let s := match rmwNew a r ws n (natOfBytes old) with
      | some v => s.performStores x.core a.rel a.scope [(pa, attr, bytesOfNat n v)]
      | none => s
    let s := s.orderRemote x.core pa a.acq none
    let s := match a.bar with
      | some _ => s.syncReplicas.arrive x.core x.part x.group e.bar false
      | none => s
    (s, some (wordsOfBytes old))

/-- Perform one lane at a vault bank, or the RMW of one at its home slice: none is uncorrectable data. -/
def State.performOne (s : State) (x : Site) (e : Entry) (a : Access) (r : Option TRec) (ws : List Word)
    (pas : List (Nat × Nat)) : State × Option (List Word) :=
  if a.space == .vault then s.performVault x a ws
  else
    match pas with
    | (pa, attr) :: _ => s.performRmw x e a r ws pa attr
    | [] => (s, some [])

/-- Lanes of an entry that are ready (or, for a load sent to memory, waiting), with their physical addresses. -/
def readyLanes (e : Entry) (m : LaneMask) : List (Nat × LaneAcc × List (Nat × Nat)) :=
  e.lanes.filterMap fun (l, w) =>
    if hasLane m l && hasLane e.mask l then
      match w.phase with
      | .ready ps | .sent ps => some (l, w, ps)
      | _ => none
    else none

def setPhase (lanes : Tab LaneAcc) (l : Nat) (p : Phase) : Tab LaneAcc := tabMod lanes l fun w => { w with phase := p }

/-- The trap address of a performed lane: the flat or vault address, or the element's byte (R188). -/
def laneVA (a : Access) (r : Option TRec) (ws : List Word) (pas : List (Nat × Nat)) : Nat :=
  match a.space, r with
  | .flat, _ => flatAddr ws
  | .vault, _ => (wordAt ws 0).toNat
  | .tensor, some r =>
    let (pa, attr) := pas.headD (0, 0)
    r.image (bitOf attr 3) + r.page (coordsOf r ws) * 65536 + pa % 65536
  | .tensor, none => 0

/-- Perform lanes one by one, ascending: vault accesses and RMWs. -/
def State.performEach (s : State) (x : Site) (e : Entry) (a : Access) (r : Option TRec) :
    List (Nat × LaneAcc × List (Nat × Nat)) → Tab LaneAcc → State × Tab LaneAcc × List LaneFail
  | [], lanes => (s, lanes, [])
  | (l, w, ps) :: rest, lanes =>
    let (s, v) := s.performOne x e a r w.words ps
    match v with
    | some v => s.performEach x e a r rest (setPhase lanes l (.done v))
    | none =>
      let (s, lanes, fs) := s.performEach x e a r rest (setPhase lanes l .walk)
      (s, lanes, ⟨l, 7, .ecc, laneVA a r w.words ps, none⟩ :: fs)

/-- The key of the granule a lane's access touches (R120). -/
def State.tagKey (s : State) (x : Site) (a : Access) (ws : List Word) (pas : List (Nat × Nat)) : Nat :=
  match a.space with
  | .vault => match s.vaultAddr x.part x.group (wordAt ws 0) with
    | some (c, off) => vaultTag c off
    | none => 0
  | _ => (pas.headD (0, 0)).1 / 256

/-- Lanes that acquire at .rem ask, as they perform, for the promotions they then wait for (R120). -/
def State.asks (s : State) (x : Site) (e : Entry) (a : Access) (todo : List (Nat × LaneAcc × List (Nat × Nat))) : State :=
  match a.acq with
  | some .rem =>
    let ask := fun ((l, w, ps) : Nat × LaneAcc × List (Nat × Nat)) =>
      (s.promotionAt x.core (s.tagKey x a w.words ps)).map fun (h, c) =>
        ({ slice := h, core := c, entry := e.id, lane := l } : Promotion)
    { s with home := { s.home with promoting := s.home.promoting ++ todo.filterMap ask } }
  | _ => s

/-- Promotions of an entry that are still to come are made at once, as a part of it that does not stay in flight: all writes before
the tagged releases have performed, and the replicas follow (R120, R123). -/
def State.promoteNow (s : State) (id : Nat) : State :=
  if s.home.promoting.any (·.entry = id) then
    State.syncReplicas { s with home := { s.home with promoting := s.home.promoting.filter (·.entry ≠ id) } }
  else s

/-- Perform the ready lanes of a mask. -/
def State.performLanes (s : State) (x : Site) (e : Entry) (a : Access) (r : Option TRec) (m : LaneMask) :
    State × Entry × List LaneFail :=
  let todo := readyLanes e m
  let s := s.asks x e a todo
  let n := accessBytes a r
  match a.space, a.op with
  | .vault, op =>
    let (s, lanes, fs) := s.performEach x e a r todo e.lanes
    let s := match op with
      | .store => s.mendVault n (todo.filterMap fun (_, w, _) => s.vaultAddr x.part x.group (wordAt w.words 0))
      | _ => s
    (s, { e with lanes := lanes }, fs)
  | _, .store | _, .both =>
    let st := todo.flatMap fun (_, w, ps) =>
      ps.map fun (pa, attr) => (pa, attr, bytesOfNat n (operandOf a w.words n 0))
    let s := s.performStores x.core a.rel a.scope st
    (s, { e with lanes := todo.foldl (fun m (l, _) => setPhase m l (.done [])) e.lanes }, [])
  | _, .load _ =>
    let at' := fun (ps : List (Nat × Nat)) => ps.headD (0, 0)
    let (s, vals) := s.loadAll x.core (a.plain && a.space == .flat) n (todo.map fun (_, _, ps) => at' ps)
    let s := todo.foldl (fun s (_, _, ps) => s.orderRemote x.core (at' ps).1 a.acq none) s
    let val := fun (ps : List (Nat × Nat)) => (vals.find? fun (pa, _) => pa = (at' ps).1).bind (·.2)
    let lane := fun (m : Tab LaneAcc) (l : Nat) (ps : List (Nat × Nat)) => match val ps with
      | some bs => setPhase m l (.done (widen (loadSigned a r) bs))
      | none => setPhase m l .walk
    let bad := todo.filter fun (_, _, ps) => (val ps).isNone
    (s, { e with lanes := todo.foldl (fun m (l, _, ps) => lane m l ps) e.lanes },
      bad.map fun (l, w, ps) => ⟨l, 7, .ecc, laneVA a r w.words ps, none⟩)
  | _, _ =>
    let (s, lanes, fs) := s.performEach x e a r todo e.lanes
    (s, { e with lanes := lanes }, fs)

/-- The vault lanes of an entry need no translation: they are ready once they pass steps 3 and 4. -/
def vaultReady (e : Entry) (fails : List LaneFail) : Entry :=
  { e with lanes := e.lanes.map fun (l, w) =>
      (l, if hasLane e.mask l && w.walking && !(fails.any (·.lane = l)) then { w with phase := .ready [] } else w) }

/-- The tensor id an entry's lanes hold (R189). -/
def Entry.tid (e : Entry) : Nat := ((e.lanes.headD (0, { words := [] })).2.words.getD 7 0).toNat % 65536

/-- The record an entry's access uses, if it is a tensor access: through the cache (R99), or as it was at issue if TTBASE has
changed since (R50). -/
def State.entryRec (s : State) (x : Site) (e : Entry) (a : Access) : State × Option (Except RecFault TRec) :=
  match a.space with
  | .tensor =>
    if e.ttb ≠ (s.part x.part).ttbase && !e.tens.isEmpty then
      (s, some (match parseTRec e.tens with | some r => .ok r | none => .error .invalid))
    else
      let (s, r) := s.tensorRec x.core x.part e.tid
      (s, some r)
  | _ => (s, none)

/-- Failure of every unfinished lane at step 2 of R251. -/
def recordFails (e : Entry) (f : RecFault) : List LaneFail :=
  let all := fun (c : TrapClass) (ad : Nat) (p : Option (Bool × Nat × Nat)) =>
    (lanesOf e.mask).map fun l => (⟨l, 2, c, ad, p⟩ : LaneFail)
  match f with
  | .invalid => all .tensor 0 none
  | .ecc va => all .ecc va none
  | .xlat (.page st2 a) va => all .memfault va (some (st2, a, va / 65536))
  | .xlat _ va => all .memfault va none

/-- Steps 2 to 6 for lanes of an entry. -/
def State.admitEntry (s : State) (x : Site) (pk : Pack) (e : Entry) (a : Access) (m : LaneMask) :
    State × Entry × List LaneFail :=
  let (s, r) := s.entryRec x e a
  match r with
  | some (.error f) =>
    let s := match f with
      | .xlat (.page st2 ad) _ => s.requestPage x.part x.core st2 0 ad (x.waiter e.mask) x.orphan.isSome
      | _ => s
    (s, e, recordFails e f)
  | some (.ok r) => if recordRefuses a r then (s, e, recordFails e .invalid) else s.admitLanes x pk e a (some r) m
  | none => s.admitLanes x pk e a none m

/-- The record of an admitted tensor entry. -/
def State.cachedRec (s : State) (x : Site) (e : Entry) (a : Access) : Option TRec :=
  match s.entryRec x e a with
  | (_, some (.ok r)) => some r
  | _ => none

/-- Whether the instruction publishes its lanes at one cut (R99): a write of a SHADOW tensor. -/
def oneCut (a : Access) (r : Option TRec) : Bool := writes a && (match r with | some r => r.shadow | none => false)

/-- Lanes of an instruction with one cut wait, as a page is missing for some of them (R99, R191): they run again with those. -/
def holdBack (e : Entry) : Entry :=
  { e with lanes := e.lanes.map fun (l, w) => (l, match w.phase with | .ready _ => { w with phase := .walk } | _ => w) }

/-- Steps 2 to 7 for an entry: every lane finishes, fails, or waits for a page. -/
def State.runEntry (s : State) (x : Site) (pk : Pack) (e : Entry) : State × Entry × List LaneFail :=
  match e.access with
  | none => (s, e, [])
  | some a =>
    let (s, e, f1) := s.admitEntry x pk e a e.mask
    let e := if a.space == .vault then vaultReady e f1 else e
    let r := s.cachedRec x e a
    if oneCut a r && f1.any (·.page.isSome) && f1.all (·.page.isSome) then (s, holdBack e, f1)
    else
      let (s, e, f2) := s.performLanes x e a r e.mask
      (s, e, f1 ++ f2)

/-- Whether an access is a reduction, which retires once it is in its queue (R263). -/
def Access.isRed (a : Access) : Bool :=
  match a.op with
  | .rmw _ => a.dst.isNone
  | _ => false

/-! Replies: a lane's value reaches its register, and the lane leaves the entry (R250). -/

def doneLanes (e : Entry) : LaneMask :=
  (e.lanes.filter fun (l, w) => hasLane e.mask l && (match w.phase with | .done _ => true | _ => false)).foldl
    (fun m (l, _) => m ||| (1#32 <<< l)) 0

def doneValue (e : Entry) (l : Nat) : List Word :=
  match tabFind e.lanes l with
  | some ⟨_, .done v, _, _⟩ => v
  | _ => []

/-- Take the pending marks of an owner off. -/
def Pack.unpend (p : Pack) (owner : Nat) : Pack := { p with pend := p.pend.filter (·.owner ≠ owner) }

/-- The destination of an access stays pending until every active lane has returned or has entered the replay queue (R250). -/
def Pack.unpendDone (p : Pack) (e : Entry) : Pack :=
  if e.lanes.all fun (l, w) => !hasLane e.mask l || (match w.phase with | .parked _ _ => true | _ => false) then p.unpend e.id else p

/-- An entry is DONE once no lane is left (R189). -/
def Entry.drop (e : Entry) (m : LaneMask) : Entry :=
  let k := e.mask &&& ~~~m
  { e with mask := k, state := if k = 0 then 0 else e.state, queued := e.queued &&& ~~~m }

/-- Registers of some lanes are good again, as an instruction has written them (R97): `f` says which a lane has written. -/
def Pack.mend (p : Pack) (m : LaneMask) (f : Nat → Nat → Bool) : Pack :=
  { p with
      soft := p.soft.filter fun (l, r) => !(hasLane m l && f l r)
      bad := p.bad.filter fun (l, r) => !(hasLane m l && f l r) }

/-- Write the values of the done lanes of `m` to the pack, but for exited threads (R246); the entry keeps the other lanes. -/
def deliver (pk : Pack) (e : Entry) (m : LaneMask) : Pack × Entry :=
  let d := doneLanes e &&& m
  let pk := match e.access with
    | some a =>
      match a.dst with
      | some r => (pk.onLanes (d &&& pk.live) fun l t => t.setRs r (doneValue e l)).mend (d &&& pk.live) fun l q =>
          decide (r ≤ q) && decide (q < r + (doneValue e l).length)
      | none => pk
    | none => pk
  (pk.unpendDone (e.drop d), e.drop d)

/-- The site of the issuing pack's entry. -/
def State.siteOf (s : State) (e : Entry) : Site := ⟨s.here, s.pk.part, s.pk.group, e.id, none⟩

/-- Lanes that failed, and those among them whose failure is a page fault. -/
def failMask (fs : List LaneFail) : LaneMask := fs.foldl (fun m f => m ||| (1#32 <<< f.lane)) 0
def pageFails (fs : List LaneFail) : List LaneFail := fs.filter fun f => f.page.isSome
def hardFails (fs : List LaneFail) : List LaneFail := fs.filter fun f => f.page.isNone

/-- The trap of failed lanes: the class of the earliest step, and its lanes (R251). -/
def worstFail (fs : List LaneFail) : Option (TrapClass × LaneMask × Nat) :=
  match hardFails fs with
  | [] => none
  | f :: rest =>
    let step := rest.foldl (fun n g => min n g.step) f.step
    let at' := (f :: rest).filter (·.step = step)
    match at' with
    | [] => none
    | g :: _ =>
      let low := at'.foldl (fun b h => if h.lane < b.lane then h else b) g
      some (low.cls, failMask (at'.filter (·.cls = low.cls)), low.addr)

/-- The request queued for a lane of an entry (R191). -/
def requestOf (pages : Tab PageReq) (id l : Nat) : Option Nat :=
  (pages.find? fun (_, q) =>
    match q.waiter with
    | .lanes i m => decide (i = id) && hasLane m l
    | _ => false).map (·.1)

def parkLane (pages : Tab PageReq) (id l va : Nat) (w : LaneAcc) : LaneAcc :=
  { w with phase := .parked (requestOf pages id l) va, reply := none }

/-- The parked lanes of an entry, with the request each waits for; the entry becomes FAULT_PENDING (R191, R315). -/
def markParked (pages : Tab PageReq) (e : Entry) (fs : List LaneFail) : Entry :=
  let ps := pageFails fs
  let lanes := ps.foldl (fun m f => tabMod m f.lane (parkLane pages e.id f.lane f.addr)) e.lanes
  if ps.isEmpty then e else { e with lanes := lanes, state := 2, req := lowestRequest e.mask lanes }

end Sys2Proof.Machine
end

