-- ==== Sys2Proof/Machine/Ops.lean ====
section
/-! DEFINITION. The shared operations of every instruction: the checks made at issue (spec/10_encoding.md R207-R211), the
lookahead windows (R210), the meeting holds (spec/07_queues.md R146), TAKING A TRAP (spec/09_counters_events.md R187,
R188) and the return from one (R190), and the combinators lane instructions are written with
(spec/11_lane_instructions.md R219, spec/02_registers.md R42). -/
namespace Sys2Proof.Machine

/-- What an instruction answers. -/
abbrev Out := Host.Outcome State Fault Refusal

def Thread.advance (t : Thread) (n : Nat) : Thread := { t with pc := t.pc + BitVec.ofNat 52 n }

/-- Move threads past an instruction of `n` bytes. -/
def State.advance (s : State) (m : LaneMask) (n : Nat) : State := s.onLanes m fun _ t => t.advance n

/-! Taking a trap. -/

/-- Index of a class; its vector offset is 0x80 times that (R186). -/
def TrapClass.index : TrapClass → Nat
  | .illegal => 0 | .operand => 1 | .lookahead => 2 | .memfault => 3 | .tensor => 4 | .align => 5 | .arith => 6
  | .paired => 7 | .role => 8 | .brk => 9 | .syscall => 10 | .claimovf => 11 | .claim => 12 | .engine => 13
  | .ecc => 14 | .watch => 15

def Priv.code : Priv → Nat
  | .user => 0 | .handler => 1 | .root => 2

def Priv.ofCode : Nat → Priv
  | 0 => .user | 1 => .handler | _ => .root

/-- A trap to take: its class, LMASK, ADDR, DETAIL and the PC of the instruction that raised it. -/
structure Raise where
  cls : TrapClass
  lanes : LaneMask
  addr : Nat := 0
  detail : Nat := 0
  pc : BitVec 52
  deriving DecidableEq, Repr

/-- Halt every pack of the issuing pack's partition (R187): error-log class 15, which names no physical address (R185), and
HALT to the host (R167). -/
def State.haltPartition (s : State) (c : TrapClass) : State :=
  let p := s.pk.part
  let src := s.here
  let s := s.modPart p fun x => { x with halted := true }
  let s := s.logEvent 15 src (p + 1) 0 c.index
  s.notify 0x82 (p + 1) (bytesOfNat 8 (tabGet 0 s.mp.counters 15) ++ bytesOfNat 2 src ++ bytesOfNat 2 c.index ++
    bytesOfNat 28 0)

/-- Listed words of a level, from word `i` up; a word 0 is not listed. -/
def wordTab : Nat → List Word → Tab Word
  | _, [] => []
  | i, w :: ws => if w = 0 then wordTab (i + 1) ws else (i, w) :: wordTab (i + 1) ws

def loWord (x : DWord) : Word := x.extractLsb' 0 32
def hiWord (x : DWord) : Word := x.extractLsb' 32 32

/-- The words of a side-buffer level (R188); word 7 is computed from the queue when it is read. -/
def levelWords (p : Pack) (t : Raise) (region : DWord) : List Word :=
  let addr := BitVec.ofNat 64 t.addr
  let th := (List.range 32).map p.thread
  [BitVec.ofNat 32 (t.cls.index + 16 * p.priv.code), t.lanes, loWord (t.pc.zeroExtend 64), hiWord (t.pc.zeroExtend 64),
    loWord addr, hiWord addr, BitVec.ofNat 32 t.detail, 0] ++
  ((List.range 8).map fun i => p.sreg (56 + i)) ++
  (th.flatMap fun x => [loWord (x.pc.zeroExtend 64), hiWord (x.pc.zeroExtend 64)]) ++
  (th.flatMap fun x => [loWord x.meet, hiWord x.meet]) ++
  (th.map (·.jmask)) ++ [loWord region, hiWord region]

def Thread.enterTrap (t : Thread) (base : DWord) (c : TrapClass) : Thread :=
  if t.exited then t
  else { t with pc := base.extractLsb' 0 52 + BitVec.ofNat 52 (0x80 * c.index), meet := t.meet &&& ~~~(1#64 <<< 63) }

/-- Entries of instructions that have all finished leave; beside an unfinished one a DONE entry keeps its position (R189). -/
def tidyEntries (l : List Entry) : List Entry := if l.all (·.mask == 0) then [] else l

/-- The owners whose pending marks a trap ends: the entries, and the instructions of the function unit, which have finished
(R187, R189). -/
def Pack.trapOwners (p : Pack) : List Nat := p.replay.map (·.id) ++ (p.windows.filter (·.retires)).map (·.owner)

/-- The pack after trap entry (R187): the level saves s56-s63 and each thread's PC (as the caller left it), MEET and JMASK;
the entries become the level's replay queue; every live thread goes to the handler. -/
def Pack.enterTrap (p : Pack) (t : Raise) (region base : DWord) (root : Bool) : Pack :=
  let lv : Level := ⟨wordTab 0 (levelWords p t region), tidyEntries p.replay⟩
  let p' : Pack := { p with
    sb := p.sb ++ [lv]
    threads := p.threads.map fun x => x.enterTrap base t.cls
    priv := if root then .root else .handler
    replay := [], windows := [], wait := .none, portB := none, req := none
    pend := p.pend.filter fun q => !p.trapOwners.contains q.owner }
  (p'.setS 56 (BitVec.ofNat 32 (0x80 * t.cls.index))).setS 57 (BitVec.ofNat 32 p.sb.length)

def Level.word (l : Level) (i : Nat) : Word := if i = 7 then BitVec.ofNat 32 l.entries.length else tabGet 0 l.words i
def Level.word64 (l : Level) (i : Nat) : DWord := pair (l.word i) (l.word (i + 1))

/-- The TRAPBASE of an RCB as it takes effect: with INHERIT[6] its parent's (R12), in a chain of at most `n` parents (DESIGN
CHOICE, log 12); none where an RCB of the chain cannot be read. -/
def State.baseOf : Nat → State → Rcb → State × Option Nat
  | 0, s, _ => (s, none)
  | n + 1, s, r =>
    if r.parent ≠ 0 && bitOf r.inherit 6 then
      let (s, p) := s.readRcb s.here s.pk.part r.parent
      match p with
      | none => (s, none)
      | some p => State.baseOf n s p
    else (s, some r.trapbase)

/-- The region that handles the next trap (R187): its RCB address, TRAPBASE, and whether it is ROOT's; none when the trap
cannot be delivered. -/
def State.trapRegion (s : State) : State × Option (DWord × DWord × Bool) :=
  match s.pk.sb.getLast? with
  | none =>
    match s.myGroup with
    | some g => (s, some (g.rcb, s.pk.trapbase, g.root))
    | none => (s, none)
  | some lv =>
    let (s, r) := s.readRcb s.here s.pk.part (lv.word64 176).toNat
    match r with
    | none => (s, none)
    | some r =>
      let (s, h) := s.readRcb s.here s.pk.part r.parent
      match h with
      | none => (s, none)
      | some h =>
        let (s, b) := State.baseOf 64 s h
        (s, b.map fun b => (BitVec.ofNat 64 r.parent, BitVec.ofNat 64 b, h.parent = 0))

/-- Lanes of an entry that must wait for one left unfinished before them (R114). -/
def heldByEarlier (before : List Entry) (e : Entry) : LaneMask :=
  maskOf fun l => hasLane e.mask l && before.any fun f => hasLane f.mask l

/-- Whether a lane may still run where it stands: it has not faulted. -/
def LaneAcc.canRun (w : LaneAcc) (faulted : Bool) : Bool :=
  match w.phase with
  | .parked _ _ => false
  | .walk | .resent => !faulted
  | _ => true

/-- The lanes of an entry that can finish now: those that have not faulted and that no unfinished entry of `before` holds back
(R114); all or none where the instruction publishes at one cut (R99). -/
def State.openLanes (s : State) (before : List Entry) (e : Entry) (a : Access) : LaneMask :=
  let m := maskOf fun l => hasLane e.mask l && (match tabFind e.lanes l with
    | some w => w.canRun (e.state = 2)
    | none => false)
  let m := m &&& ~~~heldByEarlier before e
  if oneCut a (s.cachedRec (s.siteOf e) e a) && m ≠ e.mask then 0 else m

/-- RUN LANES OF AN ENTRY in the order its access has: the promotions of an acquire at .rem are made (R120), an acquire empties
the L1 (R86), and a release waits for the replicas (R119, R123). The entry keeps its other lanes. -/
def State.runOrdered (s : State) (x : Site) (e : Entry) (a : Access) (m : LaneMask) : State × Entry × List LaneFail :=
  let (s, e', fs) := s.runEntry x s.pk { e with mask := e.mask &&& m }
  (((s.promoteNow e.id).acquireL1 x.core a.acq).releaseAt x.core a.rel,
    { e' with mask := e'.mask ||| (e.mask &&& ~~~m) }, fs)

/-- Finish the accesses still in flight: lanes perform and reply; a lane that faults, or that an earlier entry holds back, stays
in the queue. -/
def State.finishEntries (s : State) : List Entry → State
  | [] => s
  | e :: rest =>
    match e.access with
    | none => State.finishEntries { s with pk := { s.pk with replay := s.pk.replay ++ [e] } } rest
    | some a =>
      let m := s.openLanes s.pk.replay e a
      if m = 0 then State.finishEntries { s with pk := { s.pk with replay := s.pk.replay ++ [e] } } rest
      else
        let (s, e, fs) := s.runOrdered (s.siteOf e) e a m
        let (pk, e) := deliver s.pk e m
        let e := markParked s.pages e fs
        let e := if e.mask = 0 || fs.isEmpty then e else { e with state := 2 }
        State.finishEntries { s with pk := { pk with replay := pk.replay ++ [e] } } rest

/-- The entries before one finish. -/
def State.finishBefore (s : State) (id : Nat) : State :=
  let es := s.pk.replay
  let s := State.finishEntries { s with pk := { s.pk with replay := [] } } (es.takeWhile (·.id ≠ id))
  { s with pk := { s.pk with replay := s.pk.replay ++ es.dropWhile (·.id ≠ id) } }

/-- Replies to pack accesses reach their registers (R283). -/
def Pack.takeLate (p : Pack) (l : Late) : Pack :=
  { (l.s.foldl (fun (p : Pack) (r, w) => p.setS r w) p).unpend l.id with late := p.late.filter (·.id ≠ l.id) }

def Pack.takeAllLate (p : Pack) : Pack := p.late.foldl (·.takeLate ·) p

/-- Before a trap the pack's accesses finish. -/
def State.settleEntries (s : State) : State :=
  let s := if s.pk.late.isEmpty then s else { s with pk := s.pk.takeAllLate }
  if s.pk.replay.isEmpty then s
  else State.finishEntries { s with pk := { s.pk with replay := [] } } s.pk.replay

/-- The slot of a core waits for no queue entry and no handle any more (R136, R292). -/
def Core.dropWaits (k : Core) (slot : Nat) : Core :=
  { k with stalls := k.stalls.filter fun (_, sl) => sl ≠ slot, allocs := k.allocs.filter (· ≠ slot) }

/-- A pack that traps no longer waits for a queue entry or a handle (R136, R292). -/
def State.dropStalls (s : State) : State :=
  if (s.core s.here).stalls.isEmpty && (s.core s.here).allocs.isEmpty then s
  else
    let me := s.slotHere
    s.modCore s.here (·.dropWaits me)

/-- TAKE A TRAP (R187). The caller has set each thread's PC to where it resumes. At ROOT, with four levels in use, or when
the handler's region cannot be read, the partition halts instead. -/
def State.trap (s : State) (t : Raise) : State :=
  let s := s.settleEntries.dropStalls
  if s.pk.priv == .root || s.pk.sb.length = Config.trapLevels then s.haltPartition t.cls
  else
    let (s, h) := s.trapRegion
    match h with
    | none => s.haltPartition t.cls
    | some (region, base, root) => { s with pk := s.pk.enterTrap t region base root }

/-- A trap of the instruction being issued. -/
def State.raise (s : State) (c : TrapClass) (lanes : LaneMask) (addr detail : Nat) : State :=
  s.trap ⟨c, lanes, addr, detail, s.ipc⟩

/-- A trap of a pack instruction names every live thread (R276). -/
def State.raisePack (s : State) (c : TrapClass) (addr detail : Nat) : State := s.raise c s.pk.live addr detail

/-- An ECC trap of a pack instruction; DETAIL is the syndrome (R188). -/
def State.raiseEcc (s : State) (addr : Nat) : State :=
  let (x, s) := s.syndrome
  s.raisePack .ecc addr x

/-- The bits of a saved PC and of a saved MEET that are not reserved (R4, R31, R33). -/
def pcBits : DWord := 0x000FFFFFFFFFFFFC
def meetBits : DWord := 0x800FFFFFFFFFFFFC

/-- An eviction or a forced stop ends every window (R210), and so does a return from a trap; what the function unit still owes
completes. -/
def Pack.closeWindows (p : Pack) : Pack :=
  let owed := (p.windows.filter (·.retires)).map (·.owner)
  { p with windows := [], pend := p.pend.filter fun q => !owed.contains q.owner }

/-- RETURN FROM A TRAP (R190, step 1): restore from the last level, which is freed. -/
def Pack.leaveTrap (p : Pack) : Pack :=
  match p.sb.getLast? with
  | none => p
  | some lv =>
    let p := p.closeWindows
    let back := fun (l : Nat) (t : Thread) =>
      { t with
          pc := (lv.word64 (16 + 2 * l) &&& pcBits).extractLsb' 0 52
          meet := lv.word64 (80 + 2 * l) &&& meetBits
          jmask := lv.word (144 + l) }
    let p' : Pack := { p with
      sb := p.sb.dropLast, priv := Priv.ofCode (bits (lv.word 0).toNat 5 4)
      threads := mapLanes back 0xFFFFFFFF 0 p.threads
      portB := none }
    p'.setSs 56 ((List.range 8).map fun i => lv.word (8 + i))

/-- A word of a side-buffer level as a write leaves it: reserved bits of the PCs and MEETs stay 0 (R4, R31, R33). -/
def levelMask (i : Nat) (w : Word) : Word :=
  if 16 ≤ i && i < 80 then w &&& (if i % 2 = 0 then loWord pcBits else hiWord pcBits)
  else if 80 ≤ i && i < 144 then w &&& (if i % 2 = 0 then loWord meetBits else hiWord meetBits)
  else w

/-! Meeting holds (R34, R44, R146). -/

def Pack.heldAt (p : Pack) (a : BitVec 52) : LaneMask := maskOf fun l => (p.thread l).held && (p.thread l).pc == a

def orMasks (l : List LaneMask) : LaneMask := l.foldl (· ||| ·) 0

def Thread.clearMeet (t : Thread) : Thread := { t with meet := t.meet &&& ~~~(1#64 <<< 63) }

/-- Threads a held thread waits for at `a`. -/
def Pack.namedAt (p : Pack) (a : BitVec 52) : LaneMask :=
  orMasks ((lanesOf (p.heldAt a)).map fun l => (p.thread l).jmask ||| (1#32 <<< l))

def putMeeting (m : List Meeting) (r : Meeting) : List Meeting :=
  let rest := m.filter (·.addr != r.addr)
  if r.members = 0 then rest else rest ++ [r]

/-- Holds at one address: the first hold starts the record and its deadline; every held thread whose JMASK is all held,
exited or passed is released with V cleared. Each held thread is judged by its own JMASK, and one that a join releases counts as
passed for the record's other threads (DESIGN CHOICE, log 18). -/
def Pack.settleAt (now : Nat) (bound : Option Nat) (p : Pack) (a : BitVec 52) : Pack :=
  let held := p.heldAt a
  let r := (p.meets.find? (·.addr == a)).getD ⟨a, bound.map (now + ·), 0, 0⟩
  let ok := held ||| ~~~p.live ||| r.passed
  let rel := maskOf fun l => hasLane held l && ((p.thread l).jmask &&& ~~~ok) == 0
  let p' := p.onLanes rel fun _ t => t.clearMeet
  let members := (r.members ||| (p.namedAt a &&& ~~~r.passed)) &&& ~~~rel &&& p.live
  { p' with meets := putMeeting p.meets { r with members := members, passed := r.passed ||| rel } }

/-- Addresses at which threads are held. -/
def Pack.heldAddrs (p : Pack) : List (BitVec 52) := ((p.threads.filter (·.held)).map (·.pc)).eraseDups

/-- Apply R146 at every address; records all of whose threads are released or exited end. -/
def Pack.settleMeets (now : Nat) (bound : Option Nat) (p : Pack) : Pack :=
  let p := p.heldAddrs.foldl (fun p a => p.settleAt now bound a) p
  { p with meets := p.meets.filter fun r => r.members &&& p.live != 0 }

/-- The bound on holds that applies (R44). -/
def State.joinBound (s : State) : Option Nat :=
  let j := s.pk.jointime.toNat
  let c := (s.part s.pk.part).joincap.toNat
  if j = 0 then (if c = 0 then none else some c) else if c = 0 then some j else some (min j c)

/-- The deadline of the record at `a` has come (R146): its held threads are released and JOINTO is set. -/
def Pack.timeoutAt (p : Pack) (r : Meeting) : Pack :=
  let held := p.heldAt r.addr
  let passed := r.passed ||| p.namedAt r.addr
  let p' := p.onLanes held fun _ t => t.clearMeet
  let r' : Meeting := { r with members := (r.members ||| p.namedAt r.addr) &&& ~~~held &&& p.live, passed := passed }
  { p' with meets := putMeeting p.meets r', fstat := p.fstat ||| fJointo }

/-- Whether a record of the pack is due. -/
def Pack.meetingDue (p : Pack) (now : Nat) : Option Meeting :=
  p.meets.find? fun r => (match r.deadline with | some d => decide (d ≤ now) | none => false) && p.heldAt r.addr != 0

/-! Checks at issue (R205-R211). -/

inductive Check where
  | ok
  | wait
  | trap (c : TrapClass) (lanes : LaneMask)
  deriving DecidableEq, Repr

def spanBad (limit : Nat) (x : Span) : Bool := x.base % x.align ≠ 0 || decide (limit < x.base + x.n)

/-- OPERAND at issue (R206, R208, R53). -/
def State.operandBad (s : State) (i : Instr) : Bool :=
  let u := s.uses i
  u.bad || (u.vr ++ u.vw).any (spanBad s.pk.allot) || (u.sr ++ u.sw).any (spanBad 64) || wordRefused i s.pk.priv

def spanNames (f : Nat → RegName) (l : List Span) : List RegName :=
  l.flatMap fun x => (List.range x.n).map fun k => f (x.base + k)

/-- Every register an instruction reads or writes. -/
def Uses.names (u : Uses) : List RegName :=
  spanNames .v (u.vr ++ u.vw) ++ spanNames .s (u.sr ++ u.sw) ++ (u.pr ++ u.pw).map .p ++ (u.qr ++ u.qw).map .q

/-- Registers a cross-lane instruction reads in other threads (R220). -/
def Uses.sources (u : Uses) : List RegName := spanNames .v u.vr ++ u.pr.map .p

/-- Instructions left in the window of an owner, for a lane. -/
def Pack.windowLeft (p : Pack) (owner l : Nat) : Nat :=
  match p.windows.find? (·.owner = owner) with
  | some w => tabGet 0 w.left l
  | none => 0

/-- Whether a pending mark concerns lane `l` of an instruction. -/
def Pend.touches (q : Pend) (i : Instr) (u : Uses) (l : Nat) : Bool :=
  u.names.contains q.reg &&
    (match q.reg with
      | .v _ | .p _ => hasLane q.lanes l || (crossLane i && u.sources.contains q.reg)
      | .s _ | .q _ => true)

/-- Threads that violate an open window (R210); a pack instruction concerns them all. -/
def State.lookaheadLanes (s : State) (i : Instr) : LaneMask :=
  if s.pk.windows.isEmpty then 0
  else
    let u := s.uses i
    let m := maskOf fun l => hasLane s.act l && s.pk.pend.any fun q => 0 < s.pk.windowLeft q.owner l && q.touches i u l
    if pipeOf i == .uniform && m ≠ 0 then s.act else m

/-- Whether a mark is owed by the function unit, whose instruction completes whenever something waits for it (DESIGN CHOICE, log 4). -/
def Pack.retiring (p : Pack) (q : Pend) : Bool := p.windows.any fun w => w.retires && w.owner = q.owner

/-- Whether a register the instruction names is pending outside a window (R39, R207). -/
def State.mustWait (s : State) (i : Instr) : Bool :=
  if s.pk.pend.isEmpty then false
  else
    let u := s.uses i
    (lanesOf s.act).any fun l => s.pk.pend.any fun q =>
      s.pk.windowLeft q.owner l = 0 && q.touches i u l && !s.pk.retiring q

/-- Instructions of the function unit whose marks the instruction names outside their windows complete, which ends those windows
(R210; DESIGN CHOICE, log 4). -/
def State.retireNamed (s : State) (i : Instr) : State :=
  if s.pk.windows.all (!·.retires) then s
  else
    let u := s.uses i
    let hit := fun (q : Pend) => s.pk.retiring q &&
      (lanesOf s.act).any fun l => s.pk.windowLeft q.owner l = 0 && q.touches i u l
    let done := (s.pk.pend.filter hit).map (·.owner)
    { s with pk := { s.pk with
      windows := s.pk.windows.filter fun w => !done.contains w.owner
      pend := s.pk.pend.filter fun q => !done.contains q.owner } }

/-! Watchpoints (R186). -/

/-- Bytes an instruction names: in a vault or in flat memory, the first address, how many. -/
structure Touched where
  vault : Bool
  addr : Nat
  n : Nat
  deriving DecidableEq, Repr

/-- Whether the guard of an instruction of format LW is true in a thread; the other formats have none (R209). -/
def guardHolds (i : Instr) (t : Thread) : Bool :=
  match encode i with
  | [w0, w1] =>
    let g := bits w1.toNat 20 18
    if bits w0.toNat 31 29 = 3 && g ≠ 7 then t.p.getLsbD g != w1.getLsbD 17 else true
  | _ => true

/-- The threads that issue and whose guard is true. -/
def State.guarded (s : State) (i : Instr) : LaneMask := maskOf fun l => hasLane s.act l && guardHolds i (s.pk.thread l)

/-- The bytes of the element a lane accesses: under the layout of its page, where that is mapped. -/
def State.elementBytes (s : State) (a : Access) (r : TRec) (t : Thread) : List Touched :=
  let c := (List.range 5).map fun i => if i < r.rank then (t.r (a.off + i)).toNat else 0
  let va := r.base + r.page c * 65536
  match (s.translate s.here s.pk.part s.pk.priv .load r.use va).2 with
  | .ok x => [⟨false, va + r.byte (if r.linear then 15 else x.layout) c, accessBytes a (some r)⟩]
  | .error _ => []

/-- The bytes a lane of an access names, those of a reduction's barrier among them. -/
def State.laneBytes (s : State) (a : Access) (t : Thread) : List Touched :=
  let bar := match a.bar with | some b => [⟨true, (s.pk.sreg b).toNat, 16⟩] | none => []
  (match a.space with
    | .flat => [⟨false, (s.pk.s64 a.base + (t.r a.off).zeroExtend 64).toNat, a.size⟩]
    | .vault => [⟨true, (s.pk.sreg a.base + t.r a.off).toNat, a.size⟩]
    | .tensor => match (s.tensorRec s.here s.pk.part ((s.pk.sreg a.base).toNat % 65536)).2 with
      | .ok r => s.elementBytes a r t
      | .error _ => []) ++ bar

/-- The bytes a pack instruction names: vault words, barriers, stage rings, a command's record, a save area. -/
def State.packBytes (s : State) (i : Instr) : List Touched :=
  let vault := fun (r : SReg) (off n : Nat) => [(⟨true, (s.pk.sreg r.toNat).toNat + off, n⟩ : Touched)]
  let stage := fun (b : SReg) => 32 * bits (s.pk.sreg b.toNat).toNat 3 0
  match i with
  | .barInit a _ | .barArrive _ a | .barExpect a _ | .barWait _ _ a _ | .barTest _ _ a _ => vault a 0 16
  | .stgWait _ a b | .stgDone a b => vault a (stage b) 32
  | .rdv _ a n off | .wrv a _ n off => vault a off.toNat (4 * (n.toNat + 1))
  | .takePageRequest _ _ b => vault b 0 32
  | .ctxsave _ a _ | .ctxrest _ a _ => [⟨false, (s.pk.s64 a.toNat).toNat, 64⟩]
  | _ => []

/-- The bytes the instruction names in a lane. -/
def State.namedBytes (s : State) (i : Instr) (l : Nat) : List Touched :=
  match accessOf i with
  | some a => s.laneBytes a (s.pk.thread l)
  | none => s.packBytes i

/-- The address of a lane that an armed watchpoint names: that of the instruction, or the first of the bytes it accesses (R186). -/
def State.watchedAt (s : State) (i : Instr) (l : Nat) : Option Nat :=
  s.mp.watch.findSome? fun w =>
    if w.part ≠ s.pk.part then none
    else if w.fetch then (if w.lo ≤ s.ipc.toNat && s.ipc.toNat < w.hi then some s.ipc.toNat else none)
    else ((s.namedBytes i l).find? fun x => x.vault = w.vault && x.addr < w.hi && w.lo < x.addr + x.n).map (·.addr)

/-- Threads a watchpoint stops (R186; DESIGN CHOICE, log 22: before the instruction has any effect). A thread whose guard is false
makes no access (R209). -/
def State.watchLanes (s : State) (i : Instr) : LaneMask :=
  if s.mp.watch.isEmpty then 0
  else
    let m := maskOf fun l => hasLane (s.guarded i) l && (s.watchedAt i l).isSome
    if pipeOf i == .uniform && m ≠ 0 then s.act else m

/-- ADDR of a trap at issue: the watched address of the lowest trapping lane, else 0 (R188). -/
def State.checkAddr (s : State) (i : Instr) (c : TrapClass) (m : LaneMask) : Nat :=
  if c == .watch then ((s.watchedAt i ((lanesOf m).headD 0)).getD 0) else 0

/-- The checks of R211 in their order, then the scoreboard and the watchpoints. -/
def State.check (s : State) (i : Instr) : Check :=
  if !i.wf || !privAllows i s.pk.priv s.pk.sb.length then .trap .illegal s.act
  else if !roleAllows i s.pk.role then .trap .role s.act
  else if s.operandBad i then .trap .operand s.act
  else if s.lookaheadLanes i ≠ 0 then .trap .lookahead (s.lookaheadLanes i)
  else if s.mustWait i then .wait
  else if s.watchLanes i ≠ 0 then .trap .watch (s.watchLanes i)
  else .ok

/-! Windows. -/

/-- Count one issued instruction in the windows that were open before it; a window ends when every lane has used it up, or
when its instruction has completed. One of the function unit completes when a lane has used its window up, or has exited
(DESIGN CHOICE, log 4). -/
def Pack.tickWindows (p : Pack) (old : List Window) (act : LaneMask) : Pack :=
  if p.windows.isEmpty then p
  else
    let tick := fun (w : Window) =>
      if old.any (·.owner = w.owner) then
        { w with left := w.left.map fun (l, n) => (l, if hasLane act l then n - 1 else n) }
      else w
    let usedUp := fun (w : Window) => w.left.all fun (_, n) => n = 0
    let due := fun (w : Window) => w.retires && w.left.any fun (l, n) => n = 0 || (p.thread l).exited
    let ws := p.windows.map tick
    let ended := (ws.filter due).map (·.owner)
    { p with
        windows := ws.filter fun w => !usedUp w && !due w && p.pend.any (·.owner = w.owner)
        pend := p.pend.filter fun q => !(ended.contains q.owner) }

/-- Open a window of `n` instructions for the lanes of `m`. -/
def Pack.openWindow (p : Pack) (owner n : Nat) (m : LaneMask) (retires : Bool) : Pack :=
  if n = 0 || m = 0 then p
  else { p with windows := p.windows ++ [⟨owner, (lanesOf m).map fun l => (l, n), retires⟩] }

/-- Mark registers pending for an owner. -/
def Pack.addPend (p : Pack) (regs : List RegName) (m : LaneMask) (owner : Nat) : Pack :=
  { p with pend := p.pend ++ regs.map fun r => ⟨r, m, owner⟩ }

/-! Issue. -/

/-- Whether the pack still runs in the latch as it did before: no trap, no halt, no end of the pack. -/
def sameRun (s t : State) : Bool :=
  t.site == s.site && t.pk.sb.length == s.pk.sb.length && (t.part t.pk.part).halted == (s.part s.pk.part).halted

/-- Whether the instruction at `pc` did not issue after all: the pack waits, and its threads still stand there. -/
def State.stalled (s : State) (pc : BitVec 52) (act : LaneMask) : Bool :=
  s.pk.wait != .none && (lanesOf act).any fun l => (s.pk.thread l).pc == pc

/-- After an instruction: windows and holds. -/
def State.settle (s t : State) : State :=
  if t.site.isNone then t
  else
    let p := if sameRun s t && !t.stalled s.ipc s.act then t.pk.tickWindows s.pk.windows s.act else t.pk
    { t with pk := p.settleMeets t.time t.joinBound }

/-- The trap just taken is the one of an earlier check (R251): its class, lanes, ADDR and DETAIL stand in the level, and its vector is
taken. What the later check left in the level's replay queue stays. -/
def Pack.reclass (p : Pack) (c : TrapClass) (m : LaneMask) (addr detail : Nat) : Pack :=
  match p.sb.getLast? with
  | none => p
  | some lv =>
    let w := (lv.word 0).toNat
    let ad := BitVec.ofNat 64 addr
    let put := fun (t : Tab Word) (x : Nat × Word) => tabSet 0 t x.1 x.2
    let words := [(0, BitVec.ofNat 32 (w - bits w 3 0 + c.index)), (1, m), (4, loWord ad), (5, hiWord ad),
      (6, BitVec.ofNat 32 detail)].foldl put lv.words
    let go := fun (t : Thread) =>
      if t.exited then t
      else { t with pc := t.pc - BitVec.ofNat 52 (0x80 * bits w 3 0) + BitVec.ofNat 52 (0x80 * c.index) }
    Pack.setS { p with sb := p.sb.dropLast ++ [{ lv with words := words }], threads := p.threads.map go } 56
      (BitVec.ofNat 32 (0x80 * c.index))

/-- Threads of `m` trap at issue and do not execute the instruction; the other issuing threads do (R187, R210). Where a later check
makes some of those trap too, the trap is still the one of the earlier check (R251); where it cannot be delivered, it halts the
partition first. -/
def State.raiseSome (s : State) (c : TrapClass) (m : LaneMask) (addr detail : Nat) (body : State → State) : State :=
  let rest := s.act &&& ~~~m
  if rest = 0 then s.raise c m addr detail
  else
    let t := body { s with act := rest }
    if sameRun s t then t.raise c m addr detail
    else if (t.part s.pk.part).halted then s.raise c m addr detail
    else if t.site == s.site && t.pk.sb.length = s.pk.sb.length + 1 then { t with pk := t.pk.reclass c m addr detail }
    else t

/-- Whether a register lies in one of some spans. -/
def inSpans (xs : List Span) (r : Nat) : Bool := xs.any fun x => x.base ≤ r && r < x.base + x.n

/-- Registers of some lanes among a list of lane and register pairs. -/
def amongRegs (l : List (Nat × Nat)) (m : LaneMask) (xs : List Span) : List (Nat × Nat) :=
  l.filter fun (k, r) => hasLane m k && inSpans xs r

/-- The threads of `m` that have executed an instruction which led from `s` to `t`: not those that wait, nor those that it made
trap. -/
def executed (s t : State) (m : LaneMask) : LaneMask :=
  if t.site != s.site || t.stalled s.ipc m then 0
  else if t.pk.sb.length = s.pk.sb.length then m
  else if t.pk.sb.length = s.pk.sb.length + 1 then m &&& ~~~(t.pk.sb.getLastD ⟨[], []⟩).word 1
  else 0

/-- An instruction runs, and the registers that it has written are good again (R97); those of an access become so as their values
return (`deliver`). -/
def State.writeFile (s : State) (i : Instr) (body : State → State) : State :=
  let t := body s
  if (accessOf i).isSome then t
  else
    let vw := (s.uses i).vw
    { t with pk := t.pk.mend (executed s t (s.guarded i)) fun _ r => inSpans vw r }

/-- READ THE REGISTER FILE for an instruction (R96, R97): corrected words are logged in class 4 and rewritten; a lane that reads
an uncorrectable one, logged in class 5, takes ECC and does not execute. A thread whose guard is false reads nothing (R209). -/
def State.readFile (s : State) (i : Instr) (body : State → State) : State :=
  if s.pk.soft.isEmpty && s.pk.bad.isEmpty then body s
  else
    let vr := (s.uses i).vr
    let run := s.guarded i
    let from' := if crossLane i then s.pk.live else run
    let fixed := amongRegs s.pk.soft from' vr
    let hit := amongRegs s.pk.bad from' vr
    let s := hit.foldl (fun s _ => s.logCore 5 s.here) (fixed.foldl (fun s _ => s.logCore 4 s.here) s)
    let m := if crossLane i && !hit.isEmpty then run else maskOf fun l => hasLane run l && hit.any (·.1 = l)
    let s : State := { s with pk := { s.pk with soft := s.pk.soft.filter fun x => !fixed.contains x } }
    if m = 0 then s.writeFile i body
    else
      let (x, s) := s.syndrome
      s.raiseSome .ecc m 0 x (·.writeFile i body)

/-- The first read of a completion code acquires at .dev (R119), which empties the L1 (R86). -/
def State.readTokens (s : State) (i : Instr) : State :=
  if s.pk.tokens.isEmpty then s
  else
    let u := s.uses i
    let hit := fun (l : List Span) (t : Nat) => l.any fun x => x.base ≤ t && t < x.base + x.n
    let s' := if s.pk.tokens.any (hit u.sr) then s.acquireL1 s.here (some .dev) else s
    { s' with pk := { s'.pk with tokens := s.pk.tokens.filter fun t => !hit (u.sr ++ u.sw) t } }

/-- ISSUE an instruction from the latch: the checks, then its body, then windows and holds. -/
def issue (i : Instr) (body : State → State) (s : State) : Out :=
  match s.site with
  | none => .fault .noPack
  | some _ =>
    match s.check i with
    | .ok => .next (s.settle (((s.retireNamed i).readTokens i).readFile i body))
    | .wait => .next s
    | .trap c m => .next (s.raiseSome c m (s.checkAddr i c m) 0 fun s => ((s.retireNamed i).readTokens i).readFile i body)

/-! Combinators of lane instructions. -/

/-- Bytes of an LA form: a literal word follows the instruction (R206). -/
def srcBytes : Src → Nat
  | .lit _ => 8
  | _ => 4

def always (_ : Thread) : Bool := true

/-- Issuing threads whose guard holds (R209, R219). -/
def State.active (s : State) (g : Thread → Bool) : LaneMask := maskOf fun l => hasLane s.act l && g (s.pk.thread l)

/-- A lane instruction without flags: each active thread computes, every issuing thread advances. -/
def State.eachLane (s : State) (n : Nat) (g : Thread → Bool) (f : Nat → Thread → Thread) : State :=
  s.onLanes s.act fun l t => ((if g t then f l t else t).advance n)

/-- Flags whose trap MODE enables (R40, R42): INVALID, DIVZERO, OVERFLOW and UNDERFLOW. -/
def enabledFlags (mode : Word) : Word := (mode >>> 4) &&& 0xF

/-- ARITH after an instruction (R42): flags are set, and lanes that raised an enabled exception trap. -/
def State.afterFlags (s : State) (all : Word) (bad : LaneMask) (detail : Word) : State :=
  let s := { s with pk := { s.pk with fstat := s.pk.fstat ||| all } }
  if bad = 0 then s else s.raise .arith bad 0 (detail.toNat % 32)

def orWords (l : List Word) : Word := l.foldl (· ||| ·) 0

/-- A lane instruction that raises flags: `f` gives the thread after it and its flags. A lane that raised an enabled
exception neither writes nor advances (R42, R219). -/
def State.flagLanes (s : State) (n : Nat) (g : Thread → Bool) (f : Nat → Thread → Thread × Word) : State :=
  let m := s.active g
  let fl := fun l => (f l (s.pk.thread l)).2
  let bad := maskOf fun l => hasLane m l && (fl l &&& enabledFlags s.pk.mode) != 0
  let s' := s.onLanes s.act fun l t =>
    if hasLane bad l then t else (if g t then (f l t).1 else t).advance n
  s'.afterFlags (orWords ((lanesOf m).map fl)) bad (orWords ((lanesOf bad).map fl))

end Sys2Proof.Machine
end

