-- ==== Sys2Proof/Machine/Issue.lean ====
section
/-! DEFINITION. Instruction fetch (spec/10_encoding.md R202, R320, spec/04_memories.md R85), the vote in a pack and the
choice of a pack (spec/07_queues.md R142-R144, R319), and the issue latch. -/
namespace Sys2Proof.Machine

/-! The latch. -/

/-- A pack into the latch. -/
def State.load (s : State) (core slot : Nat) : State :=
  match s.packAt core slot with
  | some p => { s with site := some (core, slot), pk := p }
  | none => { s with site := none }

/-- The latch back into the core, empty. -/
def State.unload (s : State) : State := { s.flush with site := none }

/-- An operation on one resident pack through the latch; nothing happens when the slot is empty. -/
def State.onPack (s : State) (core slot : Nat) (f : State → State) : State :=
  let s := s.unload
  match s.packAt core slot with
  | some _ => (f (s.load core slot)).unload
  | none => s

/-! Fetch. -/

/-- Outcome of fetching one word: the word, a recoverable fault, a trap, or a fill still to come. -/
inductive Fetched where
  | word (w : Word)
  | page (stage2 : Bool) (addr : Nat)
  | trap (c : TrapClass)
  | late
  deriving DecidableEq, Repr

/-- Key of an instruction-cache line: partition and 128-byte block. -/
def lineKey (part pc : Nat) : Nat := part * 2 ^ 45 + pc / 128

/-- A line of the instruction cache; a new one replaces the oldest of a full cache (R85; DESIGN CHOICE, log 8). -/
def findLine (ic : List (Nat × CodeLine)) (key : Nat) : Option CodeLine := (ic.find? (·.1 = key)).map (·.2)
def dropLine (ic : List (Nat × CodeLine)) (key : Nat) : List (Nat × CodeLine) := ic.filter (·.1 ≠ key)
def putLine (ic : List (Nat × CodeLine)) (key : Nat) (ln : CodeLine) : List (Nat × CodeLine) :=
  cap Config.icacheLines ((key, ln) :: dropLine ic key)

def loopWord (b : LoopBuf) (slot part pc : Nat) (priv : Priv) : Option Word :=
  let a := part * 2 ^ 52 + pc
  if b.slot = slot && b.lo ≤ a && !(b.priv && priv == .user) then b.words[(a - b.lo) / 4]? else none

/-- Read a word from memory, filling the line when all of it is good (R85, R97). -/
def State.fetchMiss (s : State) (core part : Nat) (priv : Priv) (pc : Nat) : State × Fetched :=
  let (s, r) := s.translate core part priv .fetch .flat pc
  match r with
  | .error (.page st2 a) => (s, .page st2 a)
  | .error _ => (s, .trap .memfault)
  | .ok t =>
    let pa := t.pa pc
    let base := pa / 128 * 128
    if s.paKind pa = .reserved then (s, .trap .memfault)
    else if s.uncorrectable base 128 then
      let (bs, bad, s) := s.homeLoad core pa t.attr 4
      (s, if bad then .trap .ecc else .word (BitVec.ofNat 32 (natOfBytes bs)))
    else
      let (bs, _, s) := s.homeLoad core base t.attr 128
      let ws := wordsOfBytes bs
      let line : CodeLine := { words := ws, priv := t.priv }
      (s.modCore core fun k => { k with icache := putLine k.icache (lineKey part pc) line },
        .word (ws.getD (pc % 128 / 4) 0))

/-- A loop buffer or instruction-cache line whose parity is wrong at the word to be fetched is discarded, and counted as
corrected (R96). -/
def State.dropOddCode (s : State) (core slot part pc : Nat) : State :=
  let a := part * 2 ^ 52 + pc
  let loopOdd := fun (b : LoopBuf) => b.slot = slot && b.lo ≤ a && b.odd.contains ((a - b.lo) / 16)
  let key := lineKey part pc
  let lineOdd := fun (x : Nat × CodeLine) => x.1 = key && x.2.odd.contains (pc % 128 / 16)
  let k := s.core core
  let n := (k.loops.filter loopOdd).length + (k.icache.filter lineOdd).length
  if n = 0 then s
  else ((List.range n).foldl (fun s _ => s.logCore 8 core) s).modCore core fun k => { k with
    loops := k.loops.filter fun b => !loopOdd b
    icache := k.icache.filter fun x => !lineOdd x }

/-- Fetch one word for a pack (R320): loop buffer, instruction cache, memory. `fill` says whether a miss may be filled now. -/
def State.fetchWord (s : State) (core slot part : Nat) (priv : Priv) (fill : Bool) (pc : Nat) : State × Fetched :=
  let s := s.dropOddCode core slot part pc
  match ((s.core core).loops.filterMap fun b => loopWord b slot part pc priv).head? with
  | some w => (s, .word w)
  | none =>
    match findLine (s.core core).icache (lineKey part pc) with
    | some ln =>
      if ln.priv && priv == .user then
        State.fetchMiss (s.modCore core fun k => { k with icache := dropLine k.icache (lineKey part pc) }) core part priv pc
      else (s, .word (ln.words.getD (pc % 128 / 4) 0))
    | none => if fill then s.fetchMiss core part priv pc else (s, .late)

/-- Outcome of fetching an instruction: its words, or what the first word that fails met, with its address. -/
inductive FetchedInstr where
  | words (w0 w1 : Word)
  | fails (f : Fetched) (va : Nat)
  deriving DecidableEq, Repr

/-- The address after `n` more bytes; the PC has 52 bits. -/
def pcPlus (pc : BitVec 52) (n : Nat) : Nat := (pc + BitVec.ofNat 52 n).toNat

/-- Fetch an instruction: a second word is fetched with the first (R202). -/
def State.fetchInstr (s : State) (core slot : Nat) (p : Pack) (fill : Bool) (pc : BitVec 52) : State × FetchedInstr :=
  let (s, f) := s.fetchWord core slot p.part p.priv fill pc.toNat
  match f with
  | .word w =>
    if hasSecondWord w then
      let (s, g) := s.fetchWord core slot p.part p.priv fill (pcPlus pc 4)
      match g with
      | .word w1 => (s, .words w w1)
      | g => (s, .fails g (pcPlus pc 4))
    else (s, .words w 0)
  | f => (s, .fails f pc.toNat)

/-! The vote (R143, R144, R319). -/

/-- Program counters of the threads of a mask, ascending, each once. -/
def Pack.pcs (p : Pack) (m : LaneMask) : List (BitVec 52) :=
  (ascending ((lanesOf m).map fun l => (p.thread l).pc.toNat)).map (BitVec.ofNat 52)

def Pack.threadsAt (p : Pack) (m : LaneMask) (pc : BitVec 52) : LaneMask := maskOf fun l => hasLane m l && (p.thread l).pc == pc

/-- What stands at a PC: the instruction, a word that is none, of a lane or of a pack format, or a failed fetch (each issues, R202),
or nothing yet. -/
inductive AtPc where
  | instr (i : Instr)
  | packWord
  | fails
  | late
  deriving DecidableEq, Repr

def State.peek (s : State) (core slot : Nat) (p : Pack) (pc : BitVec 52) : AtPc :=
  match (s.fetchInstr core slot p (!s.env.defer || p.filled) pc).2 with
  | .words w0 w1 =>
    match decode w0 w1 with
    | .ok i => .instr i
    | .error _ => if w0.getLsbD 31 then .packWord else .fails
  | .fails .late _ => .late
  | .fails _ _ => .fails

def AtPc.pipe : AtPc → Pipe
  | .instr i => pipeOf i
  | .packWord => .uniform
  | _ => .none

/-- Pack instructions and failed fetches issue alone (R143). -/
def AtPc.alone (x : AtPc) : Bool := x.pipe == .uniform || x.pipe == .none

/-- Threads of the latch's pack that wait for no register and at no pack instruction, PC by PC (R144). A word of a pack format that
is no instruction issues as a pack instruction does (R276). -/
def State.readyAt (s : State) (core slot : Nat) (free : LaneMask) (pc : BitVec 52) : LaneMask × AtPc :=
  let x := s.peek core slot s.pk pc
  let here := s.pk.threadsAt free pc
  match x with
  | .late => (0, x)
  | .fails => (here, x)
  | .packWord => (if here = s.pk.live then here else 0, x)
  | .instr i =>
    if pipeOf i == .uniform then
      (if here = s.pk.live && !State.mustWait { s with act := here } i then here else 0, x)
    else (maskOf fun l => hasLane here l && !State.mustWait { s with act := 1#32 <<< l } i, x)

/-- The outcome of a vote: the PC and threads of port A, the PC of port B, the eligible threads, and whether yields are
ignored. -/
structure Vote where
  pcA : BitVec 52
  lanesA : LaneMask
  pcB : Option (BitVec 52)
  eligible : LaneMask
  unyield : Bool
  deriving DecidableEq, Repr

/-- Threads excluded by yield: inside their window and not at a pack instruction (R143, R247). -/
def Pack.yielding (p : Pack) (m : LaneMask) : LaneMask := maskOf fun l => hasLane m l && (p.thread l).yield ≠ 0

/-- The starving thread with the largest miss count, ties to the lowest PC. -/
def Pack.starving (p : Pack) (m : LaneMask) : Option (BitVec 52) :=
  ((lanesOf m).foldl (fun (b : Option (Nat × BitVec 52)) l =>
    let t := p.thread l
    if t.miss < 32 then b
    else match b with
      | none => some (t.miss, t.pc)
      | some (n, pc) =>
        if n < t.miss || (n = t.miss && decide (t.pc.toNat < pc.toNat)) then some (t.miss, t.pc) else b) none).map (·.2)

/-- The vote of the pack in the latch; none when no thread is eligible. -/
def State.vote (s : State) (core slot : Nat) : Option Vote :=
  let p := s.pk
  let free := maskOf fun l => !(p.thread l).exited && !(p.thread l).held
  let at' := (p.pcs free).map fun pc => (pc, s.readyAt core slot free pc)
  let e0 := orMasks (at'.map fun (_, m, _) => m)
  let out := orMasks (at'.map fun (_, m, x) => if x.pipe == .uniform then 0 else p.yielding m)
  let unyield := e0 ≠ 0 && (e0 &&& ~~~out) = 0
  let e := if unyield then e0 else e0 &&& ~~~out
  let pcs := p.pcs e
  let first := match p.starving e with
    | some pc => some pc
    | none => pcs.head?
  match first with
  | none => none
  | some pc =>
    let what := fun (a : BitVec 52) => ((at'.find? fun (b, _) => b == a).map fun (_, _, x) => x).getD .late
    let second := match (pcs.filter (· != pc)).head? with
      | some b => if (what pc).alone || (what b).alone || (what b).pipe == (what pc).pipe then none else some b
      | none => none
    some ⟨pc, p.threadsAt e pc, second, e, unyield⟩

/-- Instructions issued and unfinished (R189). -/
def Pack.outstanding (p : Pack) : Nat := (p.replay.filter (·.mask != 0)).length

/-- An entry that still walks holds the pack, unless it is a reduction (R263, DESIGN CHOICE, log 8). -/
def Pack.walking (p : Pack) : Bool :=
  p.replay.any fun e => (e.lanes.any fun (l, w) => hasLane e.mask l && w.walking) &&
    (match e.access with | some a => !a.isRed | none => true)

/-- Whether every access the pack issued has performed. -/
def Pack.drained (p : Pack) : Bool := p.replay.all fun e => e.mask == 0

/-- Whether a register above the prologue allotment is pending (R285). -/
def Pack.upperPending (p : Pack) : Bool :=
  p.pend.any fun q => !p.retiring q && match q.reg with | .v n => decide (8 * p.pro ≤ n) | _ => false

/-- Whether the pack has an atomic instruction some of whose lanes have no entry yet (R137). -/
def Pack.entering (p : Pack) : Bool :=
  p.replay.any fun e => match e.access with | some a => a.queued && e.queued &&& e.mask != e.mask && e.state = 1 | none => false

/-! Slots (R45, R292). -/

/-- Engine and slot pairs a bound handle occupies. -/
def Handle.places (h : Handle) : List (Nat × Nat) :=
  if !h.bound then []
  else
    match h.kind with
    | .single => [(h.engine, h.slot)]
    | .split => h.split
    | .splgrad => (List.range 4).map fun i => (h.engine, h.slot + i)

/-- Slots of an engine in use. -/
def State.slotsUsed (s : State) (e : Nat) : List Nat :=
  s.groups.flatMap fun (_, g) => if g.away then []
    else (g.handles.flatMap fun (_, h) => h.places).filterMap fun (c, sl) => if c = e then some sl else none

def State.slotsFree (s : State) (e : Nat) : List Nat :=
  (List.range Config.accSlots).filter fun i => !(s.slotsUsed e).contains i

/-- Insert an engine by its number of free slots, most first, ties to the lower core. -/
def insertRoom (x : Nat × Nat) : List (Nat × Nat) → List (Nat × Nat)
  | [] => [x]
  | y :: r => if y.2 < x.2 then x :: y :: r else y :: insertRoom x r

/-- Engines of the cluster with a free slot in the preference of R292: the core's own first. -/
def State.enginePref (s : State) (core : Nat) : List Nat :=
  let room := fun e => (s.slotsFree e).length
  let others := ((List.range 8).map (core / 8 * 8 + ·)).filter (· ≠ core)
  let order := (others.map fun e => (e, room e)).foldl (fun l x => insertRoom x l) []
  (core :: order.map (·.1)).filter fun e => 0 < room e

/-- Where a handle of a kind would be bound, or none while that is impossible (R292). -/
def State.placeHandle (s : State) (core : Nat) : AccKind → Option (List (Nat × Nat))
  | .single =>
    match s.enginePref core with
    | e :: _ => some [(e, (s.slotsFree e).headD 0)]
    | [] => none
  | .split =>
    let es := (s.enginePref core).take 4
    if es.length = 4 then some (es.map fun e => (e, (s.slotsFree e).headD 0)) else none
  | .splgrad =>
    let free := s.slotsFree core
    ((List.range 3).find? fun i => (List.range 4).all fun k => free.contains (i + k)).map fun i =>
      (List.range 4).map fun k => (core, i + k)

/-- Whether the pack in a slot may try its accalloc, of handle `h` of group `gid`: those issued before it on the core come first where
they name the same handle, or could be bound now (R292). -/
def State.allocTurn (s : State) (c sl gid : Nat) (h : BitVec 3) : Bool :=
  ((s.core c).allocs.takeWhile (· ≠ sl)).all fun x => match s.packAt c x with
    | some q => match q.wait with
      | .handle g k => !(q.group = gid && g = h) && (s.placeHandle c k).isNone
      | _ => true
    | none => true

/-- Handle `h` of a group, if it is bound; an accfree may wait for it. -/
def State.heldHandle (s : State) (gid h : Nat) : Option Handle :=
  match s.group gid with
  | some g => (tabFind g.handles h).filter (·.bound)
  | none => none

/-- Handle `h` of a group as a command finds it: bound, and not named by an accfree issued before (R293). -/
def State.boundHandle (s : State) (gid h : Nat) : Option Handle := (s.heldHandle gid h).filter (·.freer.isNone)

/-- Slots a handle of a kind takes (R292). -/
def slotCount : AccKind → Nat
  | .single => 1 | .split => 4 | .splgrad => 4

def Group.slotsHeld (g : Group) : Nat := (g.handles.map fun (_, h) => h.places.length).sum

/-- Whether an accalloc raises ENGINE: the handle is bound, or the slots would exceed those the node record grants (R292). -/
def State.allocFails (s : State) (gid : Nat) (h : BitVec 3) (k : AccKind) : Bool :=
  (s.heldHandle gid h.toNat).isSome || (match s.group gid with | some g => g.acc < g.slotsHeld + slotCount k | none => true)

/-- Whether a waiting accalloc of a pack may be tried: it is its turn, and it can be bound, or raises ENGINE. -/
def State.allocDue (s : State) (p : Pack) (h : BitVec 3) (k : AccKind) : Bool :=
  match s.group p.group with
  | some g =>
    let sl := (((s.core g.core).packs.find? fun (_, q) => q.group = p.group && q.packNo = p.packNo).map (·.1)).getD 0
    s.allocTurn g.core sl p.group h && (s.allocFails p.group h k || (s.placeHandle g.core k).isSome)
  | none => true

/-- Whether what a waiting pack waits for has come, so that its instruction issues again; a barrier's phase, a page request
to take, and the waits that are tried again each time (R269, R270, R292, R293, R309, R312). -/
def State.waitOver (s : State) (p : Pack) : Bool :=
  match p.wait with
  | .none => true
  | .barrier c off ph => barPhase (s.barrier c off) == ph
  | .pageTake => s.pages.any fun (_, r) => r.part = p.part && !r.stage2 && !r.taken
  | .handle h k => s.allocDue p h k
  | .context gid => match (s.part p.part).contexts.find? (·.gid = gid) with
    | some x => if x.restoring then x.placed else s.residents.all fun (_, _, q) => q.group ≠ gid
    | none => true
  | .drain => p.drained
  | .registers => !p.upperPending
  | .freeing h => !(s.cmds.any fun (_, k) => k.group = p.group && k.handleNo = h && k.handle.isSome)
  | _ => false

/-- Whether a restore of the group is under way, which has not reached its total (R199). -/
def State.restoring (s : State) (part gid : Nat) : Bool :=
  (s.part part).contexts.any fun x => x.gid = gid && x.restoring

/-- Whether the pack may issue at all (R137, R142, R187, R191, R195): not while an entry is FAULT_PENDING, nor while a lane of an atomic
has no queue entry. -/
def State.mayIssue (s : State) (p : Pack) : Bool :=
  !s.restoring p.part p.group && p.replay.all (·.state ≠ 2) && !p.entering &&
  s.waitOver p && p.req.all (·.reply.isSome) && !p.walking && p.outstanding < 16 &&
    !(s.part p.part).halted && (s.group p.group).isSome

/-- The vote of a resident pack. -/
def State.voteOf (s : State) (core slot : Nat) : Option Vote :=
  match s.packAt core slot with
  | some p => if s.mayIssue p then State.vote { s with site := some (core, slot), pk := p } core slot else none
  | none => none

/-- Whether the pack in the latch waits for a fetch: a word at the PC of one of its threads is still to come. -/
def State.fetchLate (s : State) (core slot : Nat) : Bool :=
  s.env.defer && !s.pk.filled && s.mayIssue s.pk &&
    (s.pk.pcs (maskOf fun l => !(s.pk.thread l).exited && !(s.pk.thread l).held)).any fun pc => s.peek core slot s.pk pc == .late

/-! The choice of a pack (R142). -/

def Role.rank : Role → Nat
  | .mtx => 0 | .cpy => 1 | .epi => 2 | .gen => 3

/-- A candidate: its slot, deadline, role and vote. -/
structure Cand where
  slot : Nat
  deadline : Nat
  role : Role
  vote : Vote
  deriving DecidableEq, Repr

/-- Place in the rotation that starts after the slot that issued last. -/
def rotation (last slot : Nat) : Nat := (slot % 12 + 11 - last % 12) % 12

def better (key : Cand → Nat) (last : Nat) (a b : Cand) : Bool :=
  decide (key a < key b) || (key a = key b && decide (rotation last a.slot < rotation last b.slot))

def bestCand (key : Cand → Nat) (last : Nat) : List Cand → Option Cand
  | [] => none
  | c :: rest =>
    match bestCand key last rest with
    | none => some c
    | some d => some (if better key last d c then d else c)

def chooseCand (u : IssueUnit) (cs : List Cand) : Option Cand :=
  let due := cs.any fun c =>
    decide (c.deadline + 1 ≤ (cs.filter fun d => decide (d.deadline ≤ c.deadline)).length + u.cycle)
  bestCand (if due then (·.deadline) else fun c => c.role.rank) u.last cs

def State.unitOf (s : State) (core unit : Nat) : IssueUnit := tabGet {} (s.core core).units unit

/-- The candidates of a unit, deadlines filled in for packs that have become eligible (R142). -/
def State.candidates (s : State) (core unit : Nat) : List Cand :=
  let cy := (s.unitOf core unit).cycle
  (s.core core).packs.filterMap fun (sl, p) =>
    if sl / 12 = unit then
      match s.voteOf core sl with
      | some v => some ⟨sl, if p.deadline = 0 then cy + 11 else p.deadline, p.role, v⟩
      | none => none
    else none

/-- Issue units that have packs, in the order they are asked. -/
def State.unitsFrom (s : State) : List (Nat × Nat) :=
  let all := s.cores.flatMap fun (c, k) => (ascending (k.packs.map fun (sl, _) => sl / 12)).map fun u => (c, u)
  (all.filter fun (c, u) => decide (s.env.turn ≤ c * 4 + u)) ++ all.filter fun (c, u) => decide (c * 4 + u < s.env.turn)

/-- The next issue slot: unit, candidates, choice. -/
def State.nextSlot (s : State) : List (Nat × Nat) → Option (Nat × Nat × List Cand × Cand)
  | [] => none
  | (c, u) :: rest =>
    let cs := s.candidates c u
    match chooseCand (s.unitOf c u) cs with
    | some k => some (c, u, cs, k)
    | none => s.nextSlot rest

/-- Book-keeping of an issue slot: cycle, rotation and deadlines of the unit; miss counts and yield windows of the pack. Every
eligible thread counts a miss, and one that issues starts again from 0 (`Pack.issued`). A unit's cycle counts the slots in which it
issues, so that a pack which is not eligible in one of them gets a new deadline when it is again (DESIGN CHOICE, log 4). -/
def State.takeSlot (s : State) (core unit : Nat) (cs : List Cand) (k : Cand) : State :=
  let cy := (s.unitOf core unit).cycle
  let v := k.vote
  let atB := fun (p : Pack) => match v.pcB with | some b => p.threadsAt v.eligible b | none => 0
  let thread := fun (l : Nat) (t : Thread) =>
    { t with
        miss := if hasLane v.eligible l then t.miss + 1 else t.miss
        yield := if 1 < t.yield then t.yield - 1 else t.yield }
  let pack := fun (sl : Nat) (p : Pack) =>
    if sl = k.slot then
      { p with
          deadline := cy + 11, threads := mapLanes thread 0xFFFFFFFF 0 p.threads
          portB := v.pcB, lanesB := atB p, unyield := v.unyield }
    else if sl / 12 = unit then
      { p with deadline := match cs.find? (·.slot = sl) with | some c => c.deadline | none => 0 }
    else p
  let s := s.modCore core fun c => { c with
    packs := c.packs.map fun (sl, p) => (sl, pack sl p)
    units := tabPut c.units unit ⟨k.slot, cy + 1⟩ }
  { s with env := { s.env with turn := (core * 4 + unit + 1) % 640 } }

/-! Starting an instruction. -/

/-- What a step runs. -/
inductive Start where
  | run (i : Instr)
  | stop
  deriving DecidableEq, Repr

/-- A fetch that failed, at its turn to issue (R320): TRAPPC is the PC, where the threads resume, ADDR the address of the word. -/
def State.fetchFails (s : State) (f : Fetched) (va : Nat) : State :=
  match f with
  | .page st2 a =>
    let (s, r) := s.parkPack (α := Unit) 3 va st2 a
    match r with
    | .memfault => s.trap ⟨.memfault, s.act, va, 0, s.ipc⟩
    | _ => s
  | .trap .ecc =>
    let (x, s) := s.syndrome
    s.trap ⟨.ecc, s.act, va, x, s.ipc⟩
  | .trap c => s.trap ⟨c, s.act, va, 0, s.ipc⟩
  | _ => s

/-- Threads at `pc` of the latch's pack issue what stands there: an instruction to run, or the trap or park of a word that
is none. -/
def State.begin (s : State) (core slot : Nat) (lanes : LaneMask) (pc : BitVec 52) : State × Start :=
  let s : State := { s with act := lanes, ipc := pc, pk := { s.pk with wait := .none } }
  let (s, f) := s.fetchInstr core slot s.pk (!s.env.defer || s.pk.filled) pc
  let s : State := { s with pk := { s.pk with filled := false } }
  match f with
  | .words w0 w1 =>
    match decode w0 w1 with
    | .ok i => (s, .run i)
    | .error _ => (s.raise .illegal lanes 0 0, .stop)
  | .fails f va => (s.fetchFails f va, .stop)

/-! Loop buffers (R85, R200). -/

/-- Words of a loop body from the instruction cache, when all its lines are there. -/
def loopWords (ic : List (Nat × CodeLine)) (part : Nat) : Nat → Nat → List Word × Bool
  | 0, _ => ([], false)
  | n + 1, pc =>
    match findLine ic (lineKey part pc) with
    | some ln =>
      let (ws, pr) := loopWords ic part n (pc + 4)
      (ln.words.getD (pc % 128 / 4) 0 :: ws, pr || ln.priv)
    | none => ([], false)

/-- After a taken backward branch a body of at most 64 words is captured for its unit; after it, or a taken call or return, a
buffer that icinv has removed is gone. `dest` is where the branch went. -/
def State.noteBranch (s : State) (core slot part : Nat) (i : Instr) (pc dest : BitVec 52) : State :=
  let back := decide (dest.toNat ≤ pc.toNat)
  let n := (pc.toNat - dest.toNat) / 4 + i.words
  let ends := match i with
    | .jal .. | .jr .. | .scall .. | .sret .. => true
    | _ => false
  let branch := match i with
    | .bra .. | .sbra .. => back
    | _ => false
  if branch || ends then
    s.modCore core fun k =>
      let live := k.loops.filter fun b => !(b.dying && b.slot = slot)
      let ws := loopWords k.icache part n dest.toNat
      if branch && n ≤ 64 && ws.1.length = n then
        { k with loops := (live.filter fun b => b.slot / 12 ≠ slot / 12) ++
            [{ slot := slot, lo := part * 2 ^ 52 + dest.toNat, words := ws.1, priv := ws.2, dying := false }] }
      else { k with loops := live }
  else s

/-- Threads that have issued: their miss counts start again (R144), and where the vote ignored yields theirs end (R319), but for one
that this instruction has just begun. -/
def Pack.issued (p : Pack) (m : LaneMask) : Pack :=
  let go := fun (_ : Nat) (t : Thread) =>
    let t := if t.miss = 0 then t else { t with miss := 0 }
    if p.unyield && t.yield ≠ 65 then { t with yield := 0 } else t
  p.onLanes m go

/-- Whether a call or a return is taken by a thread (R244, R280), also when its target is the next instruction. -/
def Pack.transfers (p : Pack) (i : Instr) (l : Nat) : Bool :=
  match i with
  | .jal .. | .jr .. => guardHolds i (p.thread l)
  | .scall qg qn _ | .sret qg qn => p.qtaken qg qn
  | _ => false

/-- Where threads of `act` went that did not go on to the next instruction, or came to it by a call or a return; the lowest address,
if there is one (R200). -/
def Pack.wentTo (p : Pack) (i : Instr) (pc : BitVec 52) (act : LaneMask) : Option (BitVec 52) :=
  let next := pc + BitVec.ofNat 52 (4 * i.words)
  match p.pcs (maskOf fun l => hasLane act l && !(p.thread l).exited &&
    ((p.thread l).pc != next || p.transfers i l)) with
  | a :: _ => some a
  | [] => none

/-- After an instruction: the latch goes back, and taken branches are noted. -/
def State.finish (s : State) (core slot : Nat) (i : Instr) (pc : BitVec 52) (act : LaneMask) : State :=
  if s.site.isNone then s.unload
  else
    let part := s.pk.part
    let stall := s.stalled pc act
    let dest := s.pk.wentTo i pc act
    let s : State := if stall then s else { s with pk := s.pk.issued act }
    match dest with
    | some d => if stall then s.unload else s.unload.noteBranch core slot part i pc d
    | none => s.unload

end Sys2Proof.Machine
end

