-- ==== Sys2Proof/Machine/Loops.lean ====
section
/-! DEFINITION. Reserving loops: the loop object, waves and conflicts (spec/07_queues.md R147-R152, R317) and the
instructions item, admit and iret (spec/12_memory_instructions.md R272-R274). Also the combinators of pack instructions
(spec/13_pack_instructions.md R276). -/
namespace Sys2Proof.Machine

/-! Pack instructions. -/

/-- Every live thread moves to the next PC (R276). -/
def State.next (s : State) (n : Nat) : State := s.advance s.pk.live n

/-- Every live thread to one PC. -/
def State.jump (s : State) (pc : BitVec 52) : State := s.onLanes s.pk.live fun _ t => { t with pc := pc }

/-- A pack instruction of `n` bytes whose effect never traps or waits. -/
def packForm (i : Instr) (n : Nat) (f : State → State) (s : State) : Out := issue i (fun s => (f s).next n) s

/-- A release waits until every access the pack issued has performed (R119). -/
def State.drained (s : State) : Bool := s.pk.drained

/-- Block the issuing pack; its threads stay at the instruction. -/
def State.block (s : State) (w : Wait) : State := { s with pk := { s.pk with wait := w } }

/-! The loop object (R147). -/

/-- A field of `n` bytes at offset `o` of the object at core and offset `at'`. -/
def State.loopField (s : State) (at' : Nat × Nat) (o n : Nat) : Nat := natOfBytes (s.vaultRead at'.1 (at'.2 + o) n)

def State.setLoopField (s : State) (at' : Nat × Nat) (o n x : Nat) : State :=
  s.vaultWrite at'.1 (at'.2 + o) (bytesOfNat n x)

def State.setOpen (s : State) (at' : Nat × Nat) (b : Bool) : State :=
  let f := s.loopField at' 20 4
  s.setLoopField at' 20 4 (f - f % 2 + (if b then 1 else 0))

/-- An access to a loop object: corrected words are rewritten and logged, uncorrectable ones logged (R96, R97). -/
def State.touchLoop (s : State) (at' : Nat × Nat) : State :=
  let s := s.correctVault at'.1 at'.2 24
  if s.vaultBroken at'.1 at'.2 24 then s.logVault at'.1 else s

/-- Where the loop object of a group is. -/
def State.loopAt (s : State) (gid : Nat) : Option (Nat × Nat) :=
  match s.group gid with
  | some g =>
    match g.loopObj with
    | some a => s.vaultAddr g.part gid (BitVec.ofNat 32 a)
    | none => none
  | none => none

/-! Waves (R150, R151). -/

def hash0 (k : DWord) : Nat := k.toNat % 256
def hash1 (k : DWord) : Nat := (k.toNat / 256 ^^^ k.toNat) % 256

/-- Whether key `k` meets both of its bits in the signature of `c`. -/
def inSignature (k : DWord) (c : List DWord) : Bool :=
  (c.any fun x => hash0 x = hash0 k || hash1 x = hash0 k) && c.any fun x => hash0 x = hash1 k || hash1 x = hash1 k

/-- Whether two items' claims conflict (R150). -/
def conflict (a b : List DWord) : Bool :=
  if a.length ≤ 4 && b.length ≤ 4 then a.any b.contains
  else a.any (inSignature · b) || b.any (inSignature · a)

/-- The items admitted to a wave of at most `free` items, in ascending index. -/
def formWave (free : Nat) : List (Nat × List DWord) → List (Nat × List DWord) → List Nat
  | [], w => w.map (·.1)
  | (i, c) :: rest, w =>
    if free ≤ w.length then w.map (·.1)
    else if w.any fun (_, d) => conflict c d then formWave free rest w
    else formWave free rest (w ++ [(i, c)])

/-- Insert by index. -/
def insertItem (x : Nat × List DWord) : List (Nat × List DWord) → List (Nat × List DWord)
  | [] => [x]
  | y :: r => if x.1 ≤ y.1 then x :: y :: r else y :: insertItem x r

def Thread.pendingItem (t : Thread) : Bool := !t.exited && t.hasItem && !t.admitted

def Pack.hasPending (p : Pack) : Bool := p.threads.any (·.pendingItem)

/-- Admitted items on a core: entries of its signature table in use (R151). -/
def State.signatures (s : State) (core : Nat) : Nat :=
  ((s.core core).packs.map fun (_, p) => (p.threads.filter fun t => !t.exited && t.admitted).length).sum

/-- A waiting admit completes: p5 in every live thread, the PC moves on (R273). -/
def Pack.completeAdmit (p : Pack) (w : List Nat) : Pack :=
  let f := fun (t : Thread) =>
    if t.exited then t
    else
      let inW := t.hasItem && w.contains t.item.toNat
      ({ t with admitted := t.admitted || inW }.setPred 5 inW).advance 4
  { p with threads := p.threads.map f, wait := .none }

/-- Whether a pack is the one that issues, in its slot. -/
def State.issues (s : State) (p : Pack) : Bool := s.site.isSome && p.group = s.pk.group && p.packNo = s.pk.packNo

/-- Form a wave of group `gid` if the conditions of R150 hold; the issuing pack is in its slot. The admit of another pack counts in
its windows as it completes (R210). -/
def State.tryWaveStored (s : State) (gid : Nat) : State :=
  match s.loopAt gid, s.group gid with
  | some at', some g =>
    let packs := s.allPacks.filter fun p => p.group = gid
    let waiting := packs.filter fun p => p.wait == .admission
    let free := Config.sigEntries - s.signatures g.core
    let s := if waiting.isEmpty then s else s.touchLoop at'
    let openNow := s.loopField at' 20 4 % 2 = 1
    if waiting.isEmpty || openNow || free = 0 || packs.any fun p => p.hasPending && p.wait != .admission then s
    else
      let items := (waiting.flatMap fun p => (p.threads.filter (·.pendingItem)).map fun t =>
        (t.item.toNat, t.claims)).foldl (fun l x => insertItem x l) []
      let w := formWave free items []
      let s := s.setLoopField at' 8 4 ((s.loopField at' 8 4 + 1) % 2 ^ 32)
      let s := (s.setLoopField at' 16 2 w.length).setOpen at' true
      let s := s.acquireL1 g.core (some .dev)
      let done := fun (p : Pack) => if s.issues p then p.completeAdmit w else (p.completeAdmit w).tickWindows p.windows p.live
      s.modPacks fun p => if p.group = gid && p.wait == .admission then done p else p
  | _, _ => s

def State.tryWave (s : State) (gid : Nat) : State := s.onStore fun s => s.tryWaveStored gid

/-- Entries of a core's signature table have come free: the groups on it that wait try again (R151), the oldest first (DESIGN
CHOICE, log 18). -/
def State.tryWaves (s : State) (core : Nat) : State :=
  s.onStore fun s => (s.groups.filter fun (_, g) => g.core = core && !g.away).foldl (fun s (gid, _) => s.tryWaveStored gid) s

/-- Items leave the loop object: `n` items, `k` of them admitted (R152); `drop` counts them as dropped. -/
def State.leaveLoop (s : State) (gid n k : Nat) (drop : Bool) : State :=
  match s.loopAt gid with
  | none => s
  | some at' =>
    let s := s.touchLoop at'
    let s := s.setLoopField at' 12 4 (s.loopField at' 12 4 - n)
    let w := s.loopField at' 16 2 - k
    let s := s.setLoopField at' 16 2 w
    let s := if drop then s.setLoopField at' 18 2 (min 0xFFFF (s.loopField at' 18 2 + n)) else s
    if k ≠ 0 && w = 0 then s.setOpen at' false else s

/-! item, admit, iret (R272-R274). -/

/-- The checks of R272 on the loop object; binds it for the group. -/
def State.withLoop (s : State) (r : SReg) (f : State → Nat × Nat → State) : State :=
  let a := s.pk.sreg r.toNat
  let bound := match s.myGroup with | some g => g.loopObj | none => none
  if a.toNat % 64 ≠ 0 then s.raisePack .align a.toNat 0
  else
    match s.vaultAddr s.pk.part s.pk.group a with
    | none => s.raisePack .memfault a.toNat 0
    | some at' =>
      let s := s.correctVault at'.1 at'.2 24
      if bound.isSome && bound ≠ some a.toNat then s.raisePack .operand 0 0
      else if s.vaultBroken at'.1 at'.2 24 then (s.logVault at'.1).raiseEcc a.toNat
      else f (s.modGroup s.pk.group fun g => { g with loopObj := some a.toNat }) at'

/-- Hand out indexes to the threads of a list in lane order (R148): NEXT, the threads, and how many were handed out. -/
def handOut (count : Nat) : Nat → List Thread → Nat × List Thread
  | nx, [] => (nx, [])
  | nx, t :: ts =>
    if t.exited then
      let (n, r) := handOut count nx ts
      (n, t :: r)
    else if t.hasItem then
      let (n, r) := handOut count nx ts
      (n, t.setPred 6 true :: r)
    else if nx < count then
      let (n, r) := handOut count (nx + 1) ts
      (n, { t with item := BitVec.ofNat 32 nx, admitted := false, claims := [] }.setPred 6 true :: r)
    else
      let (n, r) := handOut count nx ts
      (n, { t with item := 0xFFFFFFFF }.setPred 6 false :: r)

/-- item (R148, R272). -/
def execItem (r : SReg) (s : State) : Out :=
  issue (.item r) (fun s => s.withLoop r fun s at' =>
    let nx := s.loopField at' 0 4
    let (n, ts) := handOut (s.loopField at' 4 4) nx s.pk.threads
    let s := s.setLoopField at' 0 4 n
    let s := s.setLoopField at' 12 4 ((s.loopField at' 12 4 + (n - nx)) % 2 ^ 32)
    State.next { s with pk := { s.pk with threads := ts } } 4) s

/-- admit (R150, R273). -/
def execAdmitWave (r : SReg) (s : State) : Out :=
  issue (.admitWave r) (fun s =>
    if s.pk.threads.any fun t => !t.exited && t.admitted then s.raisePack .operand 0 0
    else s.withLoop r fun s _ =>
      if s.pk.hasPending then (s.block .admission).tryWave s.pk.group
      else (s.acquireL1 s.here (some .dev)).next 4) s

/-- Retire a thread's admitted item (R152). -/
def Thread.retireItem (t : Thread) : Thread :=
  if t.exited || !t.admitted then t
  else { t with item := 0xFFFFFFFF, admitted := false, claims := [] }.setPred 5 false

/-- iret (R152, R274): waits until the pack's accesses have performed. -/
def execIret (r : SReg) (s : State) : Out :=
  issue (.iret r) (fun s =>
    if !s.drained then s.block .drain
    else s.withLoop r fun s _ =>
      let k := (s.pk.threads.filter fun t => !t.exited && t.admitted).length
      let s := s.leaveLoop s.pk.group k k false
      let s : State := { s with pk := { s.pk with threads := s.pk.threads.map (·.retireItem) } }
      (s.syncReplicas.next 4).tryWaves s.here) s

end Sys2Proof.Machine
end

