-- ==== Sys2Proof/Machine/Groups.lean ====
section
/-! DEFINITION. Nodes and groups: registration and decrements (spec/01_device.md R17-R23), region limits (R12, R26,
spec/08_tables.md R175, spec/09_counters_events.md R180, R183), placement (R21, spec/07_queues.md R131-R135), the end of
groups and nodes (R22). -/
namespace Sys2Proof.Machine

/-! Region control blocks as they take effect (R12). -/

/-- The smaller of two limits where 0 is no limit, and whether the first was beyond the second. -/
def clampLimit (child parent : Nat) : Nat × Bool :=
  if parent = 0 then (child, false)
  else if child = 0 || parent < child then (parent, true)
  else (child, false)

def clampNum (child parent : Nat) : Nat × Bool := if parent < child then (parent, true) else (child, false)

/-- A child RCB under its effective parent: the RCB in effect, and its clamped fields in INHERIT bit order (R12). -/
def underParent (r p : Rcb) : Rcb × Nat :=
  let inh := fun k => bitOf r.inherit k
  let f := fun k (x : Nat × Bool) (up : Nat) => if inh k then (up, false) else x
  let e := f 0 (clampLimit r.energyb p.energyb) p.energyb
  let w := f 1 (clampLimit r.powerb p.powerb) p.powerb
  let v := f 2 (clampLimit r.vaultb p.vaultb) p.vaultb
  let a := f 3 (clampLimit r.accb p.accb) p.accb
  let c := f 4 (clampNum r.maxcl p.maxcl) p.maxcl
  let q := f 5 (clampNum r.prio p.prio) p.prio
  let bit := fun (x : Nat × Bool) k => if x.2 then 2 ^ k else 0
  ({ r with
      energyb := e.1, powerb := w.1, vaultb := v.1, accb := a.1, maxcl := c.1, prio := q.1
      trapbase := if inh 6 then p.trapbase else r.trapbase },
    bit e 0 + bit w 1 + bit v 2 + bit a 3 + bit c 4 + bit q 5)

/-- Record a clamp in the child's STATUS and, when it is new, in its region log (R12, R180, R182). -/
def State.noteClamp (s : State) (part va clamp : Nat) : State :=
  if clamp = 0 then s
  else
    let (s, st) := s.rcbField agentMp part va 128 4
    if clamp &&& st = clamp then s
    else (s.setRcbField agentMp part va 128 4 (st ||| clamp)).regionLog agentMp part va 2048 2 0xFFFF 0 va 0

/-- The RCB at `va` as it takes effect, its chain of parents at most `n` long (DESIGN CHOICE, log 12). -/
def State.effective : Nat → State → Nat → Nat → State × Option Rcb
  | 0, s, _, _ => (s, none)
  | n + 1, s, part, va =>
    let (s, r) := s.readRcb agentMp part va
    match r with
    | none => (s, none)
    | some r =>
      if r.parent = 0 then (s, some r)
      else
        let (s, p) := State.effective n s part r.parent
        match p with
        | none => (s, none)
        | some p =>
          let (e, clamp) := underParent r p
          (s.noteClamp part va clamp, some e)

def State.region (s : State) (part va : Nat) : Region := tabGet {} (s.part part).regions va

def State.modRegion (s : State) (part va : Nat) (f : Region → Region) : State :=
  s.modPart part fun p => { p with regions := tabSet {} p.regions va (f (s.region part va)) }

/-- The RCB for an admission decision: one that fails is logged once in class 14 (R180). -/
def State.admissionRcb (s : State) (part va : Nat) : State × Option Rcb :=
  let (s, r) := s.effective 64 part va
  match r with
  | none =>
    if (s.region part va).reported then (s, none)
    else ((s.modRegion part va fun g => { g with reported := true }).logEvent 14 2048 (part + 1) 0 va, none)
  | some r => (s.modRegion part va fun g => { g with reported := false }, some r)

/-! Units and the map. -/

/-- The partition that holds a unit of a map, the one that borrows it, and the tenant that uses it. `own` and `lent` pick
the unit's bits out of a record. -/
def unitHeld (own lent : PartRec → Bool) (m : List PartRec) : Nat × Nat × DWord :=
  let live := fun (f : PartRec → Bool) (r : PartRec) => r.valid && !r.susp && f r
  let o := m.findIdx (live own)
  let b := m.findIdx (live lent)
  (o, b, (m.getD (if b < m.length then b else o) {}).tenant)

def clusterHeld (m : List PartRec) (k : Nat) : Nat × Nat × DWord :=
  unitHeld (fun r => (r.clg ||| r.clm).getLsbD k) (fun r => r.clb.getLsbD k) m

def groupHeld (m : List PartRec) (k : Nat) : Nat × Nat × DWord :=
  unitHeld (fun r => (r.cgg ||| r.cgm).getLsbD k) (fun r => r.cgb.getLsbD k) m

/-- The commit under way (R165). -/
def State.commitNow (s : State) : Option Commit :=
  match s.mp.commits.head? with
  | some c => if c.stage == .waiting then none else some c
  | none => none

/-- Whether placement on a cluster is stopped for a partition by the commit under way (R168). -/
def State.frozen (s : State) (p k : Nat) : Bool :=
  match s.commitNow with
  | some c => c.map.getD p {} != (s.part p).map && clusterHeld c.map k != clusterHeld s.map k
  | none => false

/-- Whether groups of partition `p` may be placed on the core. -/
def State.mayPlace (s : State) (p c : Nat) : Bool :=
  c < Config.cores && s.ownsCluster p (c / 8) && !s.frozen p (c / 8) && !s.mp.retiredClusters.getLsbD (c / 8)

/-! Resources of a core (R21). -/

def Pack.blocks (p : Pack) : Nat := if p.full then p.fullBlocks else p.pro

def State.unitPacks (s : State) (c u : Nat) : List Pack :=
  (s.core c).packs.filterMap fun (sl, p) => if sl / 12 = u then some p else none

def State.freeBlocks (s : State) (c u : Nat) : Nat := 128 - ((s.unitPacks c u).map (·.blocks)).sum

/-- Groups that hold resources of a core. -/
def State.groupsOn (s : State) (c : Nat) : List Group :=
  s.groups.filterMap fun (_, g) => if g.core = c && !g.away then some g else none

/-- The lowest free run of `n` vault bytes of a core. An allocation is one run of consecutive bytes: bytes that are free in pieces do
not hold it (DESIGN CHOICE, log 47). -/
def State.vaultGap (s : State) (c n : Nat) : Option Nat :=
  let used := (s.groupsOn c).map fun g => (g.vbase, g.vbytes)
  let starts := ascending (0 :: used.map fun (b, k) => b + k)
  starts.find? fun a => a + n ≤ Config.vaultBytes && used.all fun (b, k) => a + n ≤ b || b + k ≤ a || k = 0 || n = 0

/-- Accumulator slots promised in a cluster. -/
def State.accHeld (s : State) (k : Nat) : Nat :=
  (s.groups.filterMap fun (_, g) => if g.core / 8 = k && !g.away then some g.acc else none).sum

/-- A pack to place: its role, blocks, threads and number. -/
structure ToPlace where
  role : Role
  no : Nat
  pro : Nat
  full : Nat
  threads : Nat
  deriving DecidableEq, Repr

def roleOf : Nat → Role
  | 0 => .gen | 1 => .cpy | 2 => .mtx | _ => .epi

/-- The packs of a group in the order of R52. -/
def packsOf (sh : List Shape) : List ToPlace :=
  let one := fun (k : Nat) (x : Shape) => (List.range x.packs).map fun i =>
    (⟨roleOf k, 0, x.pro, x.full, if i + 1 = x.packs && x.last ≠ 0 then x.last else 32⟩ : ToPlace)
  let all := (sh.zipIdx.map fun (x, k) => one k x).flatten
  all.zipIdx.map fun (p, i) => { p with no := i }

/-- A unit during placement: free slots, free blocks, and full blocks of the group's packs placed on it. -/
structure UnitRoom where
  slots : List Nat
  blocks : Nat
  full : Nat
  deriving DecidableEq, Repr

def State.unitRoom (s : State) (c u : Nat) : UnitRoom :=
  ⟨(List.range 12).filterMap fun i => if (s.packAt c (12 * u + i)).isNone then some (12 * u + i) else none, s.freeBlocks c u, 0⟩

def UnitRoom.takes (r : UnitRoom) (p : ToPlace) : Bool :=
  !r.slots.isEmpty && decide (p.pro ≤ r.blocks) && decide (r.full + p.full ≤ 128)

/-- The unit with the most free blocks that takes the pack, ties to the lower number. -/
def bestUnit (us : List UnitRoom) (p : ToPlace) : Option Nat :=
  (us.zipIdx.foldl (fun (b : Option (Nat × Nat)) (r, i) =>
    if r.takes p then
      match b with
      | some (n, _) => if n < r.blocks then some (r.blocks, i) else b
      | none => some (r.blocks, i)
    else b) none).map (·.2)

/-- Place packs one at a time (R21): the slot of each. -/
def placePacks : List UnitRoom → List ToPlace → Option (List (Nat × ToPlace))
  | _, [] => some []
  | us, p :: rest =>
    match bestUnit us p with
    | none => none
    | some i =>
      let r := us.getD i ⟨[], 0, 0⟩
      match r.slots with
      | [] => none
      | sl :: more => (placePacks (us.set i ⟨more, r.blocks - p.pro, r.full + p.full⟩) rest).map ((sl, p) :: ·)

/-- Where a node's group would stand on a core: its slots and vault base. -/
def State.planOn (s : State) (n : Node) (c : Nat) : Option (List (Nat × ToPlace) × Nat) :=
  match placePacks ((List.range 4).map (s.unitRoom c)) (packsOf n.shapes), s.vaultGap c n.vbytes with
  | some ps, some b => if s.accHeld (c / 8) + n.acc ≤ 48 then some (ps, b) else none
  | _, _ => none

/-- Conditions of R21 on the core alone that fail for a node (R132). -/
def State.lacking (s : State) (n : Node) (c : Nat) : Nat :=
  (if (placePacks ((List.range 4).map (s.unitRoom c)) (packsOf n.shapes)).isNone then 1 else 0) +
    (if (s.vaultGap c n.vbytes).isNone then 1 else 0) + (if s.accHeld (c / 8) + n.acc ≤ 48 then 0 else 1)

/-! Region admission. -/

/-- Groups of a region. -/
def State.regionGroups (s : State) (part va : Nat) : List Group :=
  s.groups.filterMap fun (_, g) => if g.part = part && g.rcb.toNat = va then some g else none

/-- Predicted mW of a group: its estimate in nJ per 10 µs, or the region's history, which is free (R26, DESIGN CHOICE, log 6). -/
def State.predictedRate (s : State) (n : Node) : Nat :=
  if n.est = 0 then Config.predictedMilliwatt s.mp.planning (n.part * 2 ^ 52 + n.rcb.toNat) else ceilDiv n.est 10

/-- Energy admission of R26 for `k` groups of a node. -/
def State.energyAllows (s : State) (r : Rcb) (n : Node) (k used : Nat) : Bool :=
  let w := k * s.predictedRate n
  (r.powerb = 0 || (s.region n.part n.rcb.toNat).rate + w ≤ r.powerb) && s.mp.predicted + w ≤ s.mp.envelope.toNat &&
    (r.energyb = 0 || used < r.energyb)

/-- Budgets of the region for `k` groups of a node in a cluster (R180). -/
def State.budgetAllows (s : State) (r : Rcb) (n : Node) (k cluster : Nat) : Bool :=
  let gs := s.regionGroups n.part n.rcb.toNat
  (r.vaultb = 0 || (gs.map (·.vbytes)).sum + k * n.vbytes ≤ r.vaultb) &&
    (r.accb = 0 || (gs.map (·.acc)).sum + k * n.acc ≤ r.accb) &&
    (ascending (cluster :: gs.map (·.core / 8))).length ≤ r.maxcl

/-- Whether the partition's latest token meets the three conditions of R175. -/
def State.tokenMatches (s : State) (part : Nat) (r : Rcb) : Bool :=
  match (s.part part).token with
  | some (_, b) => (b.drop 64).take 32 == r.nonce && fieldAt b 6 2 = part &&
      fieldAt b 16 8 = (s.part part).map.tenant.toNat
  | none => false

/-- The pieces of 64 bytes that hold the software part of an RCB, to tell whether it has been written (R175). -/
def State.rcbPieces (s : State) (part va : Nat) : State × List Nat :=
  let piece := fun (s : State) (va : Nat) =>
    match s.translate agentMp part .root .load .flat va with
    | (s, .ok t) => (s, [t.pa va / 64])
    | (s, .error _) => (s, [])
  let (s, a) := piece s va
  let (s, b) := piece s (va + 64)
  (s, a ++ b)

/-- The hold of R175: whether a group of the region may be admitted as far as scrub tokens go. -/
def State.scrubHeld (s : State) (part va : Nat) (r : Rcb) : State × Bool :=
  if !r.scrubreq then (s, false)
  else
    let (s, ps) := s.rcbPieces part va
    if (s.region part va).token = some ps && ps.all s.home.rcbs.contains then (s, false)
    else
      match (s.region part va).hold with
      | some _ => (s, true)
      | none =>
        let s := s.modRegion part va fun g => { g with hold := some s.time, holdLogged := false, token := none }
        let (s, st) := s.rcbField agentMp part va 128 4
        (s.setRcbField agentMp part va 128 4 (st ||| 64), true)

/-! Placing. -/

/-- The owner number of the pending marks of an argument load. -/
def argOwner : Nat := 2 ^ 40

def newPack (n : Node) (gid : Nat) (root : Bool) (trapbase : Nat) (p : ToPlace) : Pack :=
  { part := n.part, group := gid, packNo := p.no, role := p.role, priv := if root then .root else .user
    nthreads := p.threads, trapbase := BitVec.ofNat 64 trapbase, pro := p.pro, fullBlocks := p.full, args := .pending
    threads := (List.range 32).map fun l => { pc := n.entry.extractLsb' 0 52, exited := decide (p.threads ≤ l) }
    pend := (List.range 16).map fun k => ⟨.s k, 0xFFFFFFFF, argOwner⟩ }

/-- Start a node's next group on a core (R15, R16, R21, R23). -/
def State.startGroup (s : State) (slot : Nat) (n : Node) (r : Rcb) (c : Nat) (ps : List (Nat × ToPlace)) (base : Nat) :
    State :=
  let (gid, s) := s.freshId
  let g : Group := {
    part := n.part, slot := slot, index := n.next, core := c, rcb := n.rcb, arg := n.arg, vbase := base
    vbytes := n.vbytes, acc := n.acc, root := r.parent = 0, est := n.est, placed := gid }
  let w := s.predictedRate n
  let s := { s with
    groups := tabPut s.groups gid g
    mp := { s.mp with predicted := s.mp.predicted + w }
    sched := { s.sched with nodes := tabPut s.sched.nodes slot { n with next := n.next + 1, stuck := 0 } } }
  let s := s.modRegion n.part n.rcb.toNat fun x => { x with rate := x.rate + w }
  let s := ps.foldl (fun s (sl, p) => s.setPack c sl (newPack n gid (r.parent = 0) r.trapbase p)) s
  s.acquireL1 c (some .sys)

/-- Groups of one run of the node (R132). -/
def Node.runSize (n : Node) : Nat := if bitOf n.flags 0 then 2 ^ (bits n.flags 2 1 + 1) else 1

/-- Whether another node's reservation bars a core: targets below 160 are cores, above them clusters (R132). -/
def State.reservedFor (s : State) (slot c : Nat) : Bool :=
  s.sched.reserved.all fun (_, sl, t) => sl = slot || (t ≠ c && t ≠ 160 + c / 8)

/-- The core or cluster a node has reserved. -/
def State.reservation (s : State) (slot : Nat) : Option Nat :=
  (s.sched.reserved.find? fun (_, sl, _) => sl = slot).map fun (_, _, t) => t

/-- Cores of a die that may take a group of the node, ascending. -/
def State.coresFor (s : State) (die slot : Nat) (n : Node) : List Nat :=
  ((List.range 80).map (die * 80 + ·)).filter fun c =>
    s.mayPlace n.part c && s.reservedFor slot c &&
      (match s.reservation slot with | some t => t = c || t = 160 + c / 8 | none => true)

/-- Place `k` groups on distinct cores of a list. -/
def State.placeRun (s : State) (slot : Nat) (r : Rcb) : Nat → List Nat → State × Bool
  | 0, _ => (s, true)
  | _, [] => (s, false)
  | k + 1, c :: rest =>
    match tabFind s.sched.nodes slot with
    | none => (s, false)
    | some n =>
      match s.planOn n c with
      | some (ps, b) => (s.startGroup slot n r c ps b).placeRun slot r k rest
      | none => s.placeRun slot r (k + 1) rest

/-- Try clusters of a die in turn for a run (R132); the first that takes all of it. -/
def State.placeIn (s : State) (slot : Nat) (n : Node) (r : Rcb) (cs : List Nat) : List Nat → Option State
  | [] => none
  | k :: rest =>
    let here := cs.filter (· / 8 = k)
    if s.budgetAllows r n n.runSize k then
      match s.placeRun slot r n.runSize here with
      | (t, true) => some t
      | _ => s.placeIn slot n r cs rest
    else s.placeIn slot n r cs rest

/-- What came of trying to place a node's next group. -/
inductive Placed where
  | yes
  | no
  | energy
  deriving DecidableEq, Repr

/-- Try to place the next group or run of a node on a die; one that fits and waits for energy alone is told apart (R132). -/
def State.tryPlace (s : State) (die slot : Nat) (n : Node) : State × Placed :=
  let va := n.rcb.toNat
  if (s.part n.part).halted || (s.part n.part).preempt != .none then (s, .no)
  else
    let (s, r) := s.admissionRcb n.part va
    match r with
    | none => (s, .no)
    | some r =>
      let (s, held) := s.scrubHeld n.part va r
      let (s, used) := s.rcbField agentMp n.part va 136 8
      if held || (s.region n.part va).torn then (s, .no)
      else
        let cs := s.coresFor die slot n
        match s.placeIn slot n r cs (ascending (cs.map (· / 8))) with
        | some t =>
          if s.energyAllows r n n.runSize used then
            ({ t with sched := { t.sched with reserved := t.sched.reserved.filter fun (_, sl, _) => sl ≠ slot } }, .yes)
          else (s, .energy)
        | none => (s, .no)

/-! The ready pools (R131). -/

def Node.waiting (n : Node) : Bool := n.ready && !n.done && n.next < n.groups

/-- Effective priority of a node in its pool. That of a node whose RCB cannot be used counts from 0: the spec gives it none
(DESIGN CHOICE, log 46). -/
def State.nodePrio (s : State) (n : Node) : State × Nat :=
  let (s, r) := s.effective 64 n.part n.rcb.toNat
  let p := match r with | some r => r.prio | none => 0
  (s, min 7 (p + min 2 ((s.time - n.readyTime) / 1000000)))

/-- Keys of R131: priority, TIME, source, slot. -/
structure PoolKey where
  prio : Nat
  time : Nat
  src : Nat
  slot : Nat
  deriving DecidableEq, Repr

def PoolKey.before (a b : PoolKey) : Bool :=
  if a.prio ≠ b.prio then b.prio < a.prio
  else if a.time ≠ b.time then a.time < b.time
  else if a.src ≠ b.src then a.src < b.src
  else a.slot < b.slot

def insertPool (k : PoolKey) : List PoolKey → List PoolKey
  | [] => [k]
  | x :: r => if k.before x then k :: x :: r else x :: insertPool k r

/-- A die's pool in its order; groups of a region that is torn down no longer wait (R175). -/
def State.poolOf (s : State) (die : Nat) : State × List Nat :=
  let (s, ks) := s.sched.nodes.foldl (fun (s, ks) (slot, n) =>
    if n.waiting && n.die = die && !(s.region n.part n.rcb.toNat).torn then
      let (s, p) := s.nodePrio n
      (s, insertPool ⟨p, n.readyTime, n.readySrc, slot⟩ ks)
    else (s, ks)) (s, [])
  (s, ks.map (·.slot))

/-- Walk a pool for a die: each node's next group or run is placed if it can be (R132). A walk that steals leaves out reserved
nodes and takes the first alone (R133). Whether anything was placed. -/
def State.walkPool (s : State) (die : Nat) (steal : Bool) : List Nat → State × Bool
  | [] => (s, false)
  | slot :: rest =>
    match tabFind s.sched.nodes slot with
    | none => s.walkPool die steal rest
    | some n =>
      if steal && (s.reservation slot).isSome then s.walkPool die steal rest
      else
        match s.tryPlace die slot n with
        | (s, .yes) => if steal then (s, true) else ((s.walkPool die steal rest).1, true)
        | (s, _) => s.walkPool die steal rest

/-- Nodes behind the first of their pool begin anew to wait for a reservation (R132). -/
def State.unstick (s : State) : List Nat → State
  | [] => s
  | slot :: rest => State.unstick { s with sched := { s.sched with nodes := tabMod s.sched.nodes slot fun n => { n with stuck := 0 } } } rest

/-- One walk of a die: its own pool, then the other die's (R132, R133). -/
def State.walkDie (s : State) (die : Nat) : State × Bool :=
  let (s, own) := s.poolOf die
  match (s.unstick own.tail).walkPool die false own with
  | (s, true) => (s, true)
  | (s, false) =>
    let (s, other) := s.poolOf (1 - die)
    s.walkPool die true other

/-! Decrements and completion (R19-R22). -/

def srcHost : Nat := 2049
def srcMp : Nat := 2048

/-- A decrement on its way: slot, amount, source, and partition + 1 of the agent. -/
structure Dec where
  slot : Nat
  amount : Nat
  src : Nat
  part : Nat
  deriving DecidableEq, Repr

def State.setNode (s : State) (slot : Nat) (n : Node) : State :=
  { s with sched := { s.sched with nodes := tabPut s.sched.nodes slot n } }

/-- Free a completed node's slot once its list has been read and no group of it runs. -/
def State.tryFree (s : State) (slot : Nat) : State :=
  match tabFind s.sched.nodes slot with
  | some n =>
    if n.done && !n.listing && n.next ≤ n.ended then
      { s with sched := { s.sched with
          nodes := tabDel s.sched.nodes slot, reserved := s.sched.reserved.filter fun (_, sl, _) => sl ≠ slot } }
    else s
  | none => s

/-- Completion of a node (R22, R23): a release at .dev, then the inline successors; the overflow list follows. -/
def State.completeNode (s : State) (slot src : Nat) : State × List Dec :=
  match tabFind s.sched.nodes slot with
  | none => (s, [])
  | some n =>
    if n.done then (s, [])
    else
      let s := s.syncReplicas.setNode slot { n with done := true, listing := n.overflow != 0, endSrc := src }
      (s.tryFree slot, n.succ.map fun x => ⟨x, 1, src, n.part + 1⟩)

def srcDie (src : Nat) : Nat := if src < 160 then dieOf src else 0

/-- The die of the anchor slice of a node's first declared box (R20 step 2). A box at or beyond the tensor's box count names
no page, and step 3 applies (DESIGN CHOICE, log 46). -/
def State.tileDie (s : State) (n : Node) : State × Option Nat :=
  match n.tiles.find? fun (tid, _, _) => tid ≠ 0xFFFF with
  | none => (s, none)
  | some (tid, box, _) =>
    let (s, r) := s.tensorRec agentMp n.part tid
    match r with
    | .error _ => (s, none)
    | .ok r =>
      if r.boxes ≤ box then (s, none)
      else
        let (s, t) := s.translate agentMp n.part .root .load r.use (r.base + box * 65536)
        match t with
        | .error _ => (s, none)
        | .ok t => (s, some (sliceDie (s.slice (t.frame * 65536))))

/-- A node becomes ready (R20); with no groups it completes at once. -/
def State.makeReady (s : State) (slot src : Nat) : State × List Dec :=
  match tabFind s.sched.nodes slot with
  | none => (s, [])
  | some n =>
    let (s, d) := if bitOf n.flags 3 then (s, some (bits n.flags 4 4)) else s.tileDie n
    let n := { n with ready := true, count := 0, readyTime := s.time, readySrc := src, die := d.getD (srcDie src) }
    let s := s.setNode slot n
    if n.groups = 0 then s.completeNode slot src else (s, [])

/-- Apply one decrement (R19). The entry of a discarded or underflowing one carries the slot as DETAIL, and the source of the
decrement (DESIGN CHOICE, log 47). -/
def State.applyDec (s : State) (d : Dec) : State × List Dec :=
  if d.amount = 0 then (s, [])
  else
    match tabFind s.sched.nodes d.slot with
    | none => (s.logEvent 11 d.src d.part 0 d.slot, [])
    | some n =>
      if n.ready then (s.logEvent 11 d.src d.part 0 d.slot, [])
      else if d.amount < n.count then (s.setNode d.slot { n with count := n.count - d.amount }, [])
      else
        let s := if n.count < d.amount then s.logEvent 11 d.src d.part 0 d.slot else s
        s.makeReady d.slot d.src

/-- Apply decrements in their order, and those of the nodes they complete. -/
def State.applyDecs : Nat → State → List Dec → State
  | 0, s, _ => s
  | _, s, [] => s
  | n + 1, s, d :: rest =>
    let (s, more) := s.applyDec d
    State.applyDecs n s (rest ++ more)

/-- Every node can complete once, with at most 6 inline successors: enough rounds for all decrements. -/
def State.decrement (s : State) (ds : List Dec) : State :=
  State.applyDecs (ds.length + 7 * s.sched.nodes.length) s ds

/-! The end of packs and groups (R22, R246). -/

/-- A 255-relative barrier address made absolute (R82): a reduction outlives the group's allocation (R22, R193). -/
def Group.absolute (g : Group) (a : Word) : Word :=
  if bits a.toNat 29 22 = 255 then BitVec.ofNat 32 (g.core * 2 ^ 22 + g.vbase + bits a.toNat 21 0) else a

/-- Packs of a group that are resident or saved and have live threads. -/
def State.livePacks (s : State) (gid : Nat) : Bool :=
  s.allPacks.any fun p => p.group = gid && p.live != 0

/-- Whole µJ for a region: they go to ENERGYUSED, and at ENERGYB the region log gets ENERGYSTOP once (R183). -/
def State.chargeRegion (s : State) (part va slot uj : Nat) : State :=
  if uj = 0 then s
  else
    let (s, used) := s.rcbField agentMp part va 136 8
    let s := s.setRcbField agentMp part va 136 8 (used + uj)
    let (s, r) := s.effective 64 part va
    match r with
    | some r =>
      if r.energyb ≠ 0 && r.energyb ≤ used + uj && !(s.region part va).stopLogged then
        (s.modRegion part va fun x => { x with stopLogged := true }).regionLog agentMp part va 2048 3 slot 0 0 0
      else s
    | none => s

/-- Charge a group's region: whole µJ go to ENERGYUSED, the remainder stays with the group, which takes along what ended groups
have left there (R183). -/
def State.chargeUsed (s : State) (gid pj : Nat) : State :=
  match s.group gid with
  | none => s
  | some g =>
    let va := g.rcb.toNat
    let n := g.nano + (s.region g.part va).carry + pj
    let s := (s.modGroup gid fun g => { g with nano := n % 1000000 }).modRegion g.part va fun x => { x with carry := 0 }
    s.chargeRegion g.part va g.slot (n / 1000000)

/-- Charge the aggregate of a group's partition in the same way. -/
def State.chargeTotal (s : State) (gid pj : Nat) : State :=
  match s.group gid with
  | none => s
  | some g =>
    let n := g.nanoPart + (s.part g.part).carry + pj
    (s.modGroup gid fun g => { g with nanoPart := n % 1000000 }).modPart g.part fun p => { p with
      energy := p.energy + n / 1000000, carry := 0 }

/-- What a group has spent (R183). -/
def State.chargeGroup (s : State) (gid pj : Nat) : State := (s.chargeUsed gid pj).chargeTotal gid pj

/-- The remainder below 1 µJ of a group that ends goes to another group of its region, and of its partition; without one the region
and the partition keep it for the next (R183). -/
def State.carryOver (s : State) (g : Group) : State :=
  let s := match s.groups.find? fun (_, x) => x.part = g.part && x.rcb = g.rcb with
    | some (k, _) => s.chargeUsed k g.nano
    | none => if g.nano = 0 then s else s.modRegion g.part g.rcb.toNat fun x => { x with carry := x.carry + g.nano }
  match s.groups.find? fun (_, x) => x.part = g.part with
  | some (k, _) => s.chargeTotal k g.nanoPart
  | none => if g.nanoPart = 0 then s else s.modPart g.part fun p => { p with carry := p.carry + g.nanoPart }

/-- A group ends when its packs have exited and its commands have completed (R22). The issuing pack is in its slot. -/
def State.tryEndGroupStored (s : State) (gid : Nat) : State :=
  match s.group gid with
  | none => s
  | some g =>
    if s.livePacks gid || (s.cmds.any fun (_, c) => c.group = gid && !c.orphan) then s
    else
      let fix := fun (e : Entry) => { e with bar := g.absolute e.bar }
      let s := s.modPacks fun p => if p.group = gid then { p with replay := p.replay.map fix } else p
      let s := State.carryOver { s with groups := tabDel s.groups gid } g
      match tabFind s.sched.nodes g.slot with
      | none => s
      | some n =>
        let s := s.setNode g.slot { n with ended := n.ended + 1 }
        if n.ended + 1 = n.groups && !n.done then
          let (s, ds) := s.completeNode g.slot g.core
          s.decrement ds
        else s.tryFree g.slot

def State.tryEndGroup (s : State) (gid : Nat) : State := s.onStore (·.tryEndGroupStored gid)

/-- Take a pack whose threads have all exited out of its slot once its accesses have performed. -/
def State.reapPack (s : State) (core slot : Nat) : State :=
  match s.packAt core slot with
  | none => s
  | some p => if p.live = 0 && p.outstanding = 0 then s.delPack core slot else s

def isDrain : Instr → Bool
  | .accdrain .. => true
  | _ => false

/-- Drains of an exited pack that wait for a page are held for their region (R193). -/
def State.orphanDrains (s : State) (gid packNo : Nat) : State :=
  let mine := fun (c : Cmd) => isDrain c.instr && c.state == .parked && c.group = gid && c.packNo = packNo
  if s.cmds.any fun (_, c) => mine c then
    let held := fun (q : PageReq) => match q.waiter with
      | .cmd id => match tabFind s.cmds id with
        | some c => if mine c then { q with held := true } else q
        | none => q
      | _ => q
    { s with
      cmds := s.cmds.map fun (id, c) => (id, if mine c then { c with orphan := true } else c)
      pages := s.pages.map fun (k, q) => (k, held q)
      overflow := s.overflow.map held }
  else s

/-- After threads of the issuing pack have exited: the pack and its group may end. -/
def State.afterExit (s : State) : State :=
  if s.pk.live != 0 then s
  else
    let gid := s.pk.group
    let s := s.orphanDrains gid s.pk.packNo
    s.onStore fun t => (t.tryEndGroupStored gid).reapPack s.here s.slotHere

/-! Registration (R13, R17, R18). -/

def shapeOk (x : Shape) : Bool :=
  decide (x.packs ≤ 32) && decide (x.last ≤ 32) && (x.packs = 0 || (1 ≤ x.pro && x.pro ≤ x.full && x.full ≤ 16))

/-- A node record of 128 bytes, if it breaks no limit of R13. -/
def parseNode (part : Nat) (b : List Byte) : Option Node :=
  let f := fieldAt b
  let shapes := (List.range 4).map fun k =>
    (⟨f (32 + 4 * k) 1, f (33 + 4 * k) 1, f (34 + 4 * k) 1, f (35 + 4 * k) 1⟩ : Shape)
  let packs := (shapes.map (·.packs)).sum
  let nsucc := f 54 1
  let n : Node := {
    part := part, count := f 28 2, ready := false, entry := BitVec.ofNat 64 (f 0 8), rcb := BitVec.ofNat 64 (f 8 8)
    arg := BitVec.ofNat 64 (f 16 8), groups := f 24 4, flags := f 30 2, shapes := shapes, vbytes := f 48 4, acc := f 52 2
    est := f 56 4, succ := (List.range nsucc).map fun i => f (64 + 2 * i) 2, overflow := BitVec.ofNat 64 (f 80 8)
    tiles := (List.range 4).map fun i => (f (88 + 10 * i) 2, f (90 + 10 * i) 4, f (94 + 10 * i) 4) }
  let va := fun a => a < 2 ^ 52
  if f 0 8 % 4 = 0 && va (f 0 8) && f 8 8 % 64 = 0 && f 8 8 ≠ 0 && va (f 8 8) && f 16 8 % 64 = 0 && va (f 16 8) &&
      n.groups < 2 ^ 24 && n.flags < 32 && bits n.flags 2 1 ≠ 3 && shapes.all shapeOk && 1 ≤ packs && packs ≤ 32 &&
      n.vbytes % 256 = 0 && n.vbytes ≤ Config.vaultBytes && n.acc ≤ 48 && nsucc ≤ 6 && f 55 1 = 0 && f 60 4 = 0 &&
      f 76 4 = 0 && f 80 8 % 8 = 0 && va (f 80 8) && n.groups % n.runSize = 0 then some n
  else none

/-- Who registers: a window of the host, or a core at a privilege. -/
inductive Registrar where
  | host (fn : Nat)
  | core (c : Nat) (priv : Priv)
  deriving DecidableEq, Repr

def Registrar.src : Registrar → Nat
  | .host _ => 2049
  | .core c _ => c

def Registrar.agent : Registrar → Nat
  | .host _ => agentMp
  | .core c _ => c

/-- The RCB check of a registration by node.reg (R16, R304). -/
def State.registerRcb (s : State) (who : Registrar) (part : Nat) (n : Node) : State × Bool :=
  match who with
  | .host _ => (s, true)
  | .core c priv =>
    let (s, r) := s.readVA c part .root n.rcb.toNat 256
    match r with
    | .ok (b, false) => (s, priv == .root || fieldAt b 0 8 ≠ 0)
    | _ => (s, false)

/-- The partition field of a registration's error-log entry (R185): 0 for the physical function's own window. -/
def Registrar.partField (part : Nat) : Registrar → Nat
  | .host 0 => 0
  | _ => part + 1

/-- Register a node (R18): whether it is accepted. The error-log entry of a rejected registration carries the MP's source (R176),
and the slot as DETAIL (DESIGN CHOICE, log 47). -/
def State.register (s : State) (who : Registrar) (part slot va : Nat) (inRange : Bool) : State × Bool :=
  let reject := fun (s : State) => (s.logEvent 11 srcMp (who.partField part) 0 slot, false)
  if !inRange || (tabFind s.sched.nodes slot).isSome then reject s
  else
    let (s, r) := s.readVA who.agent part .root va 128
    match r with
    | .ok (b, false) =>
      match parseNode part b with
      | none => reject s
      | some n =>
        let (s, ok) := s.registerRcb who part n
        if !ok then reject s
        else
          let s := s.setNode slot n
          if n.count = 0 then
            let (s, ds) := s.makeReady slot who.src
            (s.decrement ds, true)
          else (s, true)
    | _ => reject s

/-- Whether a slot lies in a partition's range (R17). -/
def State.ownsSlot (s : State) (part slot : Nat) : Bool := (s.part part).slotLo ≤ slot && slot < (s.part part).slotHi

end Sys2Proof.Machine
end

