-- ==== Sys2Proof/Machine/Uniform.lean ====
section
/-! DEFINITION. Uniform arithmetic, constants, pack branches, sleep, special registers and control words, vault words, and
acquire and release (spec/13_pack_instructions.md R277-R285, spec/02_registers.md R43-R53). -/
namespace Sys2Proof.Machine

/-! Uniform arithmetic (R277, R278). -/

/-- A PA form: sd from two s registers. -/
def uniForm (i : Instr) (d a b : SReg) (f : Word → Word → Word) (s : State) : Out :=
  packForm i 4 (fun s => s.setS d.toNat (f (s.pk.sreg a.toNat) (s.pk.sreg b.toNat))) s

/-- sadd (R277). -/
def execSadd (d a b : SReg) (s : State) : Out := uniForm (.sadd d a b) d a b (· + ·) s
/-- ssub (R277). -/
def execSsub (d a b : SReg) (s : State) : Out := uniForm (.ssub d a b) d a b (· - ·) s
/-- smul (R277). -/
def execSmul (d a b : SReg) (s : State) : Out := uniForm (.smul d a b) d a b (· * ·) s
/-- sand (R277). -/
def execSand (d a b : SReg) (s : State) : Out := uniForm (.sand d a b) d a b (· &&& ·) s
/-- sor (R277). -/
def execSor (d a b : SReg) (s : State) : Out := uniForm (.sor d a b) d a b (· ||| ·) s
/-- sxor (R277). -/
def execSxor (d a b : SReg) (s : State) : Out := uniForm (.sxor d a b) d a b (· ^^^ ·) s
/-- sshl (R277): the count is sb[4:0]. -/
def execSshl (d a b : SReg) (s : State) : Out := uniForm (.sshl d a b) d a b (fun x y => x <<< (y.toNat % 32)) s

/-- sshr and sshr.i32 (R277). -/
def execSshr (d a b : SReg) (m : Bool) (s : State) : Out :=
  uniForm (.sshr d a b m) d a b (fun x y => if m then x.sshiftRight (y.toNat % 32) else x >>> (y.toNat % 32)) s

/-- smin and smin.n32 (R277). -/
def execSmin (d a b : SReg) (m : Bool) (s : State) : Out :=
  uniForm (.smin d a b m) d a b (fun x y => if (if m then x.ult y else x.slt y) then x else y) s

/-- smax and smax.n32 (R277). -/
def execSmax (d a b : SReg) (m : Bool) (s : State) : Out :=
  uniForm (.smax d a b m) d a b (fun x y => if (if m then y.ult x else y.slt x) then x else y) s

/-- sadd64 and sadd64.sub (R277). -/
def execSadd64 (d a b : SReg) (m : Bool) (s : State) : Out :=
  packForm (.sadd64 d a b m) 4 (fun s =>
    let x := s.pk.s64 a.toNat
    let y := s.pk.s64 b.toNat
    s.setS64 d.toNat (if m then x - y else x + y)) s

/-- smov (R277). -/
def execSmov (d a : SReg) (s : State) : Out :=
  packForm (.smov d a) 4 (fun s => s.setS d.toNat (s.pk.sreg a.toNat)) s

/-- Comparison of two 64-bit numbers, or of 32-bit ones extended (R278). -/
def uniCond (cond : IntCond) (x y : Int) : Bool :=
  match cond with
  | .eq => decide (x = y) | .ne => decide (x ≠ y) | .lt => decide (x < y) | .le => decide (x ≤ y)
  | .gt => decide (y < x) | .ge => decide (y ≤ x)

/-- scmp (R278). -/
def execScmp (q : BitVec 2) (a b : SReg) (cond : IntCond) (uns wide : Bool) (s : State) : Out :=
  packForm (.scmp q a b cond uns wide) 4 (fun s =>
    let v := fun (r : SReg) =>
      if wide then (if uns then ((s.pk.s64 r.toNat).toNat : Int) else (s.pk.s64 r.toNat).toInt)
      else if uns then ((s.pk.sreg r.toNat).toNat : Int) else (s.pk.sreg r.toNat).toInt
    { s with pk := s.pk.setQ q.toNat (uniCond cond (v a) (v b)) }) s

/-- ssel (R278). -/
def execSsel (d : SReg) (q : BitVec 2) (neg : Bool) (a b : SReg) (s : State) : Out :=
  packForm (.ssel d q neg a b) 4 (fun s =>
    s.setS d.toNat (if s.pk.qpred q.toNat != neg then s.pk.sreg a.toNat else s.pk.sreg b.toNat)) s

/-- svote (R278). -/
def execSvote (d : SReg) (p : BitVec 3) (neg : Bool) (s : State) : Out :=
  packForm (.svote d p neg) 4 (fun s =>
    s.setS d.toNat (maskOf fun l => hasLane s.pk.live l && ((s.pk.thread l).pred p != neg))) s

/-! Constants (R279). -/

/-- smovi (R279). -/
def execSmovi (d : SReg) (i : BitVec 17) (s : State) : Out :=
  packForm (.smovi d i) 4 (fun s => s.setS d.toNat (i.signExtend 32)) s

/-- saddi (R279). -/
def execSaddi (d : SReg) (i : BitVec 17) (s : State) : Out :=
  packForm (.saddi d i) 4 (fun s => s.setS d.toNat (s.pk.sreg d.toNat + i.signExtend 32)) s

/-- smovhi (R279): bits [31:17]. -/
def execSmovhi (d : SReg) (i : BitVec 15) (s : State) : Out :=
  packForm (.smovhi d i) 4 (fun s => s.setS d.toNat (i ++ (s.pk.sreg d.toNat).extractLsb' 0 17)) s

/-- smovl (R279). -/
def execSmovl (d : SReg) (i : Word) (s : State) : Out := packForm (.smovl d i) 8 (fun s => s.setS d.toNat i) s

/-! Branches and sleep (R280, R281). -/

def uniRel (pc : BitVec 52) (off : BitVec 19) : BitVec 52 := pc + 4 + off.signExtend 52 * 4

/-- sbra (R280). -/
def execSbra (qg : BitVec 3) (qn : Bool) (off : BitVec 19) (s : State) : Out :=
  issue (.sbra qg qn off) (fun s => if s.pk.qtaken qg qn then s.jump (uniRel s.ipc off) else s.next 4) s

/-- scall (R280): the link goes to s62:s63. -/
def execScall (qg : BitVec 3) (qn : Bool) (off : BitVec 19) (s : State) : Out :=
  issue (.scall qg qn off) (fun s =>
    if s.pk.qtaken qg qn then (s.setS64 62 ((s.ipc + 4).zeroExtend 64)).jump (uniRel s.ipc off) else s.next 4) s

/-- sret (R280): ALIGN is tested before MEMFAULT. -/
def execSret (qg : BitVec 3) (qn : Bool) (s : State) : Out :=
  issue (.sret qg qn) (fun s =>
    let t := s.pk.s64 62
    if !s.pk.qtaken qg qn then s.next 4
    else if t.extractLsb' 0 2 ≠ 0 then s.raisePack .align t.toNat 0
    else if t.extractLsb' 52 12 ≠ 0 then s.raisePack .memfault t.toNat 0
    else s.jump (t.extractLsb' 0 52)) s

/-- ssleep (R281): the wait begins with the TIME of issue; SSLEEP_WAKE moves the pack on. -/
def execSsleep (qg : BitVec 3) (qn : Bool) (n : BitVec 19) (s : State) : Out :=
  issue (.ssleep qg qn n) (fun s =>
    if s.pk.qtaken qg qn && n ≠ 0 then s.block (.sleep (s.time + n.toNat)) else s.next 4) s

/-! Special registers and control words (R47, R49-R53, R282). -/

/-- HDESC of a handle (R45). -/
def Handle.desc (h : Handle) : Word :=
  let sm := match h.kind with
    | .split => (h.split.zipIdx.map fun ((c, _), i) => c % 8 * 16 ^ i).sum
    | _ => 0
  BitVec.ofNat 32 ((if h.bound then 2 ^ 31 else 0) + h.kind.code * 2 ^ 29 + h.engine * 2 ^ 21 + h.slot * 2 ^ 16 + sm)

/-- Energy the core and the issuing group have spent by now (R25, R183): the core counter is a free value that never
falls. -/
def State.meterCore (s : State) (c : Nat) : State × Nat :=
  let (n, s) := (s.env.free, { s with env := { s.env with free := s.env.free + 1 } })
  let d := Config.energyPicojoules c n
  (s.modCore c fun k => { k with energy := (k.energy + d) % 2 ^ 64 }, d)

/-- A reading of a core's energy: the energy goes to the groups on the core in turn, here to the first (DESIGN CHOICE, log 6). -/
def State.meter (s : State) (c : Nat) : State :=
  let (s, d) := s.meterCore c
  match s.groups.find? fun (_, g) => g.core = c && !g.away with
  | some (gid, _) => s.chargeGroup gid d
  | none => s

/-- The value of a special-register selector (R51), as a pair for the 64-bit ones. -/
def State.special (s : State) (sel : Nat) : DWord :=
  let g := s.myGroup
  let n := fun (x : Nat) => BitVec.ofNat 64 x
  match sel with
  | 0 => n s.slotHere
  | 1 => n (match g with | some g => g.index | none => 0)
  | 2 => n (match g with | some g => g.slot | none => 0)
  | 3 => n s.here
  | 4 => n (s.here / 8)
  | 5 => n (dieOf s.here)
  | 6 => match g with | some g => g.rcb | none => 0
  | 7 => n s.time
  | 8 => n ((s.core s.here).energy - (s.core s.here).energyBase)
  | 9 => n (match s.pk.role with | .gen => 0 | .cpy => 1 | .mtx => 2 | .epi => 3)
  | 10 => n s.pk.nthreads
  | 11 => n s.pk.part
  | 12 => s.mp.layoutver.zeroExtend 64
  | _ => n (match s.loopAt s.pk.group with | some a => s.loopField a 8 4 | none => 0)

/-- The value of a control-word selector (R53). -/
def State.control (s : State) (sel idx : Nat) : DWord :=
  let p := s.part s.pk.part
  let e := (s.core s.here).eng
  let n := fun (x : Nat) => BitVec.ofNat 64 x
  let w := fun (x : Word) => x.zeroExtend 64
  match sel with
  | 0 => w s.pk.mode
  | 1 => w s.pk.fstat
  | 2 => w s.pk.seed
  | 3 => w s.pk.jointime
  | 4 => s.pk.trapbase
  | 5 => p.ttbase
  | 6 => w p.joincap
  | 7 => n p.qmin.1
  | 8 => n p.qmin.2.1
  | 9 => n p.qmin.2.2
  | 10 => n p.qcap.1
  | 11 => n p.qcap.2.1
  | 12 => n p.qcap.2.2
  | 13 => w e.klo
  | 14 => w e.khi
  | 15 => n e.kg
  | 16 => n e.kord
  | 17 => n e.kclamp
  | 18 => w e.kscale
  | 19 => w e.koog
  | 28 => w s.mp.envelope
  | 29 => s.mp.hmask.getD idx 0
  | k => match s.myGroup with
    | some g => match tabFind g.handles (k - 20) with | some h => w h.desc | none => 0
    | none => 0

/-- sget of MODE, FSTAT and JOINTIME waits until the pack's lane instructions have retired (R43). -/
def waitsRetired (cw : Bool) (sel : Nat) : Bool := cw && (sel = 0 || sel = 1 || sel = 3)

/-- sget (R51, R53, R282). %wave of a group without a loop object is a free value (DESIGN CHOICE, log 7). -/
def execSget (d : SReg) (cw : Bool) (sel : BitVec 6) (idx : BitVec 4) (s : State) : Out :=
  issue (.sget d cw sel idx) (fun s =>
    if waitsRetired cw sel.toNat && !s.drained then s.block .drain
    else
      let s := if !cw && sel = 8 then s.meter s.here else s
      let (x, s) : DWord × State :=
        if cw then (s.control sel.toNat idx.toNat, s)
        else if sel = 13 && (s.loopAt s.pk.group).isNone then
          let (w, s) := s.freeWord
          (w.zeroExtend 64, s)
        else (s.special sel.toNat, s)
      (if sel64 cw sel.toNat then s.setS64 d.toNat x else s.setS d.toNat (x.extractLsb' 0 32)).next 4) s

/-- Whether QMIN and QCAP keep R50. -/
def queuesOk (mn mx : Nat × Nat × Nat) : Bool :=
  mn.1 ≤ mx.1 && mn.2.1 ≤ mx.2.1 && mn.2.2 ≤ mx.2.2 && mx.1 ≤ 1024 && mx.2.1 ≤ 1024 && mx.2.2 ≤ 1024 &&
    mn.1 + mn.2.1 + mn.2.2 ≤ 1024

/-- Component k of a triple replaced. -/
def putThird (t : Nat × Nat × Nat) (k x : Nat) : Nat × Nat × Nat :=
  match k with
  | 0 => (x, t.2)
  | 1 => (t.1, x, t.2.2)
  | _ => (t.1, t.2.1, x)

/-- Write a control word; reserved bits are ignored (R4, R40, R41, R49). None is OPERAND of R50. -/
def State.setControl (s : State) (sel : Nat) (w : Word) (x : DWord) : Option State :=
  let mod := fun (f : Pack → Pack) => some { s with pk := f s.pk }
  let part := fun (f : Partition → Partition) => some (s.modPart s.pk.part f)
  let p := s.part s.pk.part
  match sel with
  | 0 => mod fun k => { k with mode := w &&& 0x1FF }
  | 1 => mod fun k => { k with fstat := w &&& 0x7F }
  | 2 => mod fun k => { k with seed := w }
  | 3 => mod fun k => { k with jointime := w }
  | 4 => mod fun k => { k with trapbase := x &&& 0xFFFFFFFFFF800 }
  | 5 => part fun q => { q with ttbase := x &&& 0xFFFFFFFFFFFC0, records := [] }
  | 6 => part fun q => { q with joincap := w }
  | 7 | 8 | 9 =>
    let mn := putThird p.qmin (sel - 7) (w.toNat % 1024)
    if queuesOk mn p.qcap then part fun q => { q with qmin := mn } else none
  | _ =>
    let mx := putThird p.qcap (sel - 10) (w.toNat % 2048)
    if queuesOk p.qmin mx then part fun q => { q with qcap := mx } else none

/-- sset (R49, R50, R53, R282). -/
def execSset (sel : BitVec 6) (a : SReg) (s : State) : Out :=
  issue (.sset sel a) (fun s =>
    if waitsRetired true sel.toNat && !s.drained then s.block .drain
    else
      match s.setControl sel.toNat (s.pk.sreg a.toNat) (s.pk.s64 a.toNat) with
      | some s => s.next 4
      | none => s.raisePack .operand 0 0) s

/-! Vault words (R283). -/

/-- The checks of a pack access to the vault: alignment, then the address. -/
def State.withVault (s : State) (a : Word) (align : Nat) (f : State → Nat × Nat → State) : State :=
  if a.toNat % align ≠ 0 then s.raisePack .align a.toNat 0
  else
    match s.vaultAddr s.pk.part s.pk.group a with
    | none => s.raisePack .memfault a.toNat 0
    | some at' => f ((s.drainBank at'.1).correctVault at'.1 at'.2 align) at'

/-- Answer `n` words and predicates now, or leave them pending until the bank replies (R283, DESIGN CHOICE, log 8). -/
def State.answer (s : State) (regs : List (Nat × Word)) : State :=
  let put := fun (p : Pack) => regs.foldl (fun p (r, w) => p.setS r w) p
  if s.env.defer then
    let (id, s) := s.freshId
    let p := s.pk.addPend (regs.map fun (r, _) => .s r) 0xFFFFFFFF id
    { s with pk := { p with late := p.late ++ [⟨id, regs⟩] } }
  else { s with pk := put s.pk }

/-- Whether each of `n` words from `a` up is a vault address. -/
def State.vaultRun (s : State) (a : Word) (n : Nat) : Option Word :=
  ((List.range n).map fun k => a + BitVec.ofNat 32 (4 * k)).find? fun x => (s.vaultAddr s.pk.part s.pk.group x).isNone

/-- rdv (R283). -/
def execRdv (d a : SReg) (cnt : BitVec 4) (off : BitVec 16) (s : State) : Out :=
  issue (.rdv d a cnt off) (fun s =>
    let va := s.pk.sreg a.toNat + off.zeroExtend 32
    let n := cnt.toNat + 1
    s.withVault va 4 fun s _ =>
      match s.vaultRun va n with
      | some bad => s.raisePack .memfault bad.toNat 0
      | none =>
        let s := (List.range n).foldl (fun s k =>
          match s.vaultAddr s.pk.part s.pk.group (va + BitVec.ofNat 32 (4 * k)) with
          | some (c, o) => s.correctVault c o 4
          | none => s) s
        let word := fun k => match s.vaultAddr s.pk.part s.pk.group (va + BitVec.ofNat 32 (4 * k)) with
          | some (c, o) => (BitVec.ofNat 32 (natOfBytes (s.vaultRead c o 4)), s.vaultBroken c o 4, c)
          | none => (0, false, 0)
        let ws := (List.range n).map word
        match ws.find? (·.2.1) with
        | some (_, _, c) => (s.logVault c).raiseEcc va.toNat
        | none => (s.answer (ws.zipIdx.map fun ((w, _, _), k) => (d.toNat + k, w))).next 8) s

/-- wrv (R283). -/
def execWrv (a b : SReg) (cnt : BitVec 4) (off : BitVec 16) (s : State) : Out :=
  issue (.wrv a b cnt off) (fun s =>
    let va := s.pk.sreg a.toNat + off.zeroExtend 32
    let n := cnt.toNat + 1
    s.withVault va 4 fun s _ =>
      match s.vaultRun va n with
      | some bad => s.raisePack .memfault bad.toNat 0
      | none =>
        let places := (List.range n).filterMap fun k => s.vaultAddr s.pk.part s.pk.group (va + BitVec.ofNat 32 (4 * k))
        let s := places.zipIdx.foldl (fun s ((c, o), k) => s.vaultWrite c o (bytesOfNat 4 (s.pk.sreg (b.toNat + k)).toNat)) s
        (s.mendVault 4 places).next 8) s

/-! Allotment (R32, R134, R135, R284, R285). -/

/-- Registers from `lo` up read as zero. -/
def Thread.dropRegs (t : Thread) (lo : Nat) : Thread := { t with v := t.v.filter fun (r, _) => decide (r < lo) }

/-- The pack takes its full allotment; newly granted registers read as zero. -/
def Pack.takeFull (p : Pack) : Pack :=
  { p with full := true, threads := p.threads.map fun t => t.dropRegs (8 * p.pro) }

/-- The order of acquires on a unit: the group placed first, then the slot (R135). A group that comes back after a pre-emption keeps
the place of its first placement (DESIGN CHOICE, log 47). -/
def State.acquireAge (s : State) (p : Pack) : Nat := match s.group p.group with | some g => g.placed | none => 0

/-- Whether energy admission allows the pack's group for the current interval (R26, R135). -/
def State.acquireEnergy (s : State) (p : Pack) : State × Bool :=
  match s.group p.group with
  | none => (s, true)
  | some g =>
    let (s, r) := s.effective 64 g.part g.rcb.toNat
    let (s, used) := s.rcbField agentMp g.part g.rcb.toNat 136 8
    match r with
    | some r =>
      (s, (r.powerb = 0 || (s.region g.part g.rcb.toNat).rate ≤ r.powerb) && s.mp.predicted ≤ s.mp.envelope.toNat &&
        (r.energyb = 0 || used < r.energyb))
    | none => (s, false)

/-- Blocks that an acquire of the pack still needs. -/
def Pack.needs (p : Pack) : Nat := p.fullBlocks - p.pro

/-- Insert a waiting pack by age and slot. -/
def insertAge (x : Nat × Nat × Pack) : List (Nat × Nat × Pack) → List (Nat × Nat × Pack)
  | [] => [x]
  | y :: r => if x.1 < y.1 || (x.1 = y.1 && x.2.1 < y.2.1) then x :: y :: r else y :: insertAge x r

/-- Packs of a unit that wait at acquire, in the order of R135: age, slot, pack. -/
def State.acquiring (s : State) (c u : Nat) : List (Nat × Nat × Pack) :=
  ((s.core c).packs.filterMap fun (sl, p) =>
    if sl / 12 = u && p.wait == .acquire then some (s.acquireAge p, sl, p) else none).foldl (fun l x => insertAge x l) []

/-- The slot that is granted next: the first waiting pack for which blocks are free beyond what every waiting acquire of
an older group still needs, and whose group energy admission allows; of one group only its first waiting slot. -/
def State.grantee (s : State) (c u : Nat) : List (Nat × Nat × Pack) → State × Option Nat
  | [] => (s, none)
  | (age, sl, p) :: rest =>
    let earlier := (s.acquiring c u).any fun (a, t, _) => a = age && decide (t < sl)
    let older := ((s.acquiring c u).filter fun (a, _, _) => a < age).map fun (_, _, q) => q.needs
    if !earlier && p.needs + older.sum ≤ s.freeBlocks c u then
      let (s, ok) := s.acquireEnergy p
      if ok then (s, some sl) else s.grantee c u rest
    else s.grantee c u rest

/-- Grant one waiting acquire of a unit; its pack moves past the instruction, which counts in the open windows (R210). The packs
are in their slots. -/
def State.grantAcquire (s : State) (c u : Nat) : State :=
  let (s, g) := s.grantee c u (s.acquiring c u)
  match g with
  | none => s
  | some sl =>
    match s.packAt c sl with
    | none => s
    | some p =>
      let q := { p.takeFull.tickWindows p.windows p.live with wait := .none }
      s.setPack c sl (q.onLanes q.live fun _ t => t.advance 8)

/-- acquire (R284): it waits in the unit's queue and is granted from there (R135). -/
def execAcquire (s : State) : Out :=
  issue .acquire (fun s =>
    if s.pk.full || s.pk.fullBlocks ≤ s.pk.pro then s.next 8
    else (s.block .acquire).onStore fun t => t.grantAcquire s.here (s.slotHere / 12)) s

/-- release (R285). -/
def execRelease (s : State) : Out :=
  issue .release (fun s =>
    if !s.pk.full then s.next 8
    else if s.pk.upperPending then s.block .registers
    else
      let lo := 8 * s.pk.pro
      State.next { s with pk := { s.pk with full := false, threads := s.pk.threads.map fun t => t.dropRegs lo } } 8) s

end Sys2Proof.Machine
end

