-- ==== Sys2Proof/Machine/Barriers.lean ====
section
/-! DEFINITION. Barrier objects and stage rings (spec/12_memory_instructions.md R266-R270, spec/07_queues.md R140,
spec/09_counters_events.md R178, R179). -/
namespace Sys2Proof.Machine

/-- A read of a barrier object by the issuing pack: uncorrectable data is ECC (R97). -/
def State.readBarrier (s : State) (a : Nat) (at' : Nat × Nat) (f : State → Nat → State) : State :=
  if s.vaultBroken at'.1 at'.2 16 then (s.logVault at'.1).raiseEcc a else f s (s.barrier at'.1 at'.2)

/-- The count of bar.init (R267). -/
def State.countOf (s : State) : CountSrc → Nat
  | .imm n => n.toNat
  | .reg b => (s.pk.sreg b.toNat).toNat % 65536

/-- bar.init (R267): a plain write of the 16 bytes. -/
def execBarInit (a : SReg) (n : CountSrc) (s : State) : Out :=
  issue (.barInit a n) (fun s =>
    if s.countOf n = 0 then s.raisePack .operand 0 0
    else s.withVault (s.pk.sreg a.toNat) 16 fun s at' =>
      (s.vaultWrite at'.1 at'.2 (bytesOfNat 16 (s.countOf n * 2 ^ 64))).next 8) s

/-- Wait until earlier accesses have performed, then act as a release at the scope (R119, R123). -/
def State.withRelease (s : State) (sc : Scope) (f : State → State) : State :=
  if !s.drained then s.block .drain else f (s.releaseAt s.here (some sc))

/-- bar.arrive (R268). -/
def execBarArrive (sc : Scope) (a : SReg) (s : State) : Out :=
  issue (.barArrive sc a) (fun s => s.withVault (s.pk.sreg a.toNat) 16 fun s at' => s.withRelease sc fun s =>
    (s.arriveAt s.here sc at' 0 false).next 8) s

/-- bar.expect (R268). -/
def execBarExpect (a b : SReg) (s : State) : Out :=
  issue (.barExpect a b) (fun s => s.withVault (s.pk.sreg a.toNat) 16 fun s at' =>
    (s.toBank at'.1 (.expect at'.2 (s.pk.sreg b.toNat).toNat)).next 8) s

/-- Status of a satisfied wait (R269). -/
def waitStatus (b : Nat) : Word := BitVec.ofNat 32 ((if barPfault b then 2 else 0) + (if barPhase b then 1 else 0))

/-- A wait at a barrier for the phase bit `ph` (R269, R270): acquire at the scope, status, the next instruction; or the pack
blocks. -/
def State.awaitPhase (s : State) (a : Nat) (at' : Nat × Nat) (ph : Bool) (sc : Scope) (stat : Option SReg) : State :=
  s.readBarrier a at' fun s b =>
    if barPhase b = ph then
      let s := s.acquireL1 s.here (some sc)
      (match stat with
        | some d => s.setS d.toNat (waitStatus b)
        | none => s).next 8
    else s.block (.barrier at'.1 at'.2 ph)

/-- bar.wait (R269): until PHASE differs from sb[0]. -/
def execBarWait (sc : Scope) (stat : Option SReg) (a b : SReg) (s : State) : Out :=
  issue (.barWait sc stat a b) (fun s =>
    let va := s.pk.sreg a.toNat
    s.withVault va 16 fun s at' => s.awaitPhase va.toNat at' (!(s.pk.sreg b.toNat).getLsbD 0) sc stat) s

/-- The word bar.test writes (R269). -/
def testStatus (b : Nat) (done : Bool) : Word :=
  BitVec.ofNat 32 (bits b 95 80 * 65536 + (if barPhase b then 8 else 0) + (if bitOf b 97 then 4 else 0) +
    (if barPfault b then 2 else 0) + (if done then 1 else 0))

/-- bar.test (R269): an acquire when DONE. -/
def execBarTest (sc : Scope) (d a b : SReg) (s : State) : Out :=
  issue (.barTest sc d a b) (fun s =>
    let va := s.pk.sreg a.toNat
    s.withVault va 16 fun s at' => s.readBarrier va.toNat at' fun s o =>
      let done := barPhase o != (s.pk.sreg b.toNat).getLsbD 0
      let s := if done then s.acquireL1 s.here (some sc) else s
      (s.answer [(d.toNat, testStatus o done)]).next 8) s

/-! Stage rings (R140, R270). -/

/-- Whether a cursor breaks R140. -/
def cursorBad (c : Word) : Bool := bits c.toNat 31 10 ≠ 0 || bits c.toNat 7 4 = 0 || bits c.toNat 7 4 < bits c.toNat 3 0

def cursorSide (c : Word) : Bool := c.getLsbD 9
def cursorPhase (c : Word) : Bool := c.getLsbD 8

/-- The cursor after its stage (R140). -/
def cursorNext (c : Word) : Word :=
  if bits c.toNat 3 0 = bits c.toNat 7 4 then (c &&& 0xFFFFFFF0) ^^^ 0x100 else c + 1

/-- The vault address of the full (or empty) barrier of the cursor's stage. -/
def stageAddr (base c : Word) (empty : Bool) : Word :=
  base + BitVec.ofNat 32 (32 * bits c.toNat 3 0 + (if empty then 16 else 0))

/-- Checks of a ring instruction: the cursor, then the base, then the barrier's address. -/
def State.withStage (s : State) (a b : SReg) (empty : Word → Bool) (f : State → Word → Nat × Nat → State) : State :=
  let base := s.pk.sreg a.toNat
  let c := s.pk.sreg b.toNat
  let va := stageAddr base c (empty c)
  if cursorBad c then s.raisePack .operand 0 0
  else if base.toNat % 32 ≠ 0 then s.raisePack .align base.toNat 0
  else s.withVault va 16 fun s at' => f s va at'

/-- stg.wait (R140, R270): the other side's barrier. -/
def execStgWait (stat : Option SReg) (a b : SReg) (s : State) : Out :=
  issue (.stgWait stat a b) (fun s => s.withStage a b (fun c => !cursorSide c) fun s va at' =>
    let c := s.pk.sreg b.toNat
    s.awaitPhase va.toNat at' (cursorPhase c != cursorSide c) .grp stat) s

/-- stg.done (R140, R270): arrive at this side's barrier, then advance the cursor. -/
def execStgDone (a b : SReg) (s : State) : Out :=
  issue (.stgDone a b) (fun s => s.withStage a b cursorSide fun s _ at' => s.withRelease .grp fun s =>
    ((s.arriveAt s.here .grp at' 0 false).setS b.toNat (cursorNext (s.pk.sreg b.toNat))).next 8) s

end Sys2Proof.Machine
end

