-- ==== Sys2Proof/Machine/Memory.lean ====
section
/-! DEFINITION. Lane memory instructions: issue, queue entries, faults, parking and re-injection, claims and fences
(spec/12_memory_instructions.md R250-R264, R271, spec/07_queues.md R136, R137, spec/09_counters_events.md R187-R192). -/
namespace Sys2Proof.Machine

/-! Queue entries (R136, R137). -/

def QueueId.index : QueueId → Nat
  | .cpy => 0 | .tile => 1 | .atom => 2

def third (t : Nat × Nat × Nat) : QueueId → Nat
  | .cpy => t.1 | .tile => t.2.1 | .atom => t.2.2

def cmdQueue : Instr → QueueId
  | .cpy .. | .cpyf .. | .cpyg .. => .cpy
  | _ => .tile

/-- Lanes that hold atomic queue entries in a pack, the levels of its side buffer left out. -/
def Pack.queuedLanes (p : Pack) : Nat := (p.replay.map fun e => (lanesOf (e.queued &&& e.mask)).length).sum

/-- Occupancy of a core's queue; a command that has stopped has left it (R197). -/
def State.occ (s : State) (c : Nat) (q : QueueId) : Nat :=
  match q with
  | .atom => ((s.core c).packs.map fun (_, p) => p.queuedLanes).sum +
      (match s.site with | some (d, sl) => if d = c then s.pk.queuedLanes - (match s.packAt c sl with | some p => p.queuedLanes | none => 0) else 0 | none => 0)
  | q => (s.cmds.filter fun (_, k) => k.core = c && cmdQueue k.instr = q && k.state != .stopped).length

/-- Whether a queue of a core may take one more entry (R136). -/
def State.mayTake (s : State) (c part : Nat) (q : QueueId) : Bool :=
  let p := s.part part
  let o := s.occ c
  let free := Config.poolEntries - (o .cpy + o .tile + o .atom)
  let owed := ([QueueId.cpy, .tile, .atom].filter (· ≠ q)).map fun x => third p.qmin x - o x
  o q < third p.qcap q && (o q < third p.qmin q || owed.sum < free)

/-- Whether an earlier stalled request of a core keeps one of queue `q` from an entry (R136): it is of the same queue, or both would
take an entry beyond their minima, which they share. -/
def State.comesFirst (s : State) (c part : Nat) (q : QueueId) (r : QueueId × Nat) : Bool :=
  let shared := fun (part : Nat) (x : QueueId) => third (s.part part).qmin x ≤ s.occ c x
  r.1 = q || (shared part q && (match s.packAt c r.2 with
    | some p => shared p.part r.1 && s.occ c r.1 < third (s.part p.part).qcap r.1
    | none => false))

/-- Whether a request of the pack in the latch is granted now: entries are granted in the order in which stalled requests were made
(R136). -/
def State.granted (s : State) (q : QueueId) : Bool :=
  ((s.core s.here).stalls.takeWhile (· ≠ (q, s.slotHere))).all (fun r => !s.comesFirst s.here s.pk.part q r) &&
    s.mayTake s.here s.pk.part q

def State.unstall (s : State) (q : QueueId) : State :=
  if (s.core s.here).stalls.isEmpty then s
  else
    let me := s.slotHere
    s.modCore s.here fun k => { k with stalls := k.stalls.filter fun (x, sl) => !(x = q && sl = me) }

/-- Stall the issuing pack on a full queue (R136, R194); one that already waits for something goes on waiting for that. -/
def State.stall (s : State) (q : QueueId) : State :=
  let me := s.slotHere
  let s := s.modCore s.here fun k =>
    { k with stalls := if k.stalls.contains (q, me) then k.stalls else k.stalls ++ [(q, me)] }
  if s.pk.wait == .none then s.block (.queue q) else s

/-! Entries in the latch. -/

/-- One more lane of a partly entered atomic instruction takes its entry (R137); whether all lanes have one. -/
def Pack.enterNext (p : Pack) : Pack × Bool :=
  match p.replay.find? fun e => (match e.access with | some a => a.queued && e.queued != e.mask | none => false) with
  | none => (p, true)
  | some e =>
    let l := (lanesOf (e.mask &&& ~~~e.queued)).headD 0
    let e := { e with queued := e.queued ||| (1#32 <<< l) }
    ({ p with replay := p.replay.map fun x => if x.id = e.id then e else x }, e.queued == e.mask)

/-- Replace an entry where it stands, or append that of a new instruction, before which the finished ones leave; a DONE entry
keeps its position beside unfinished ones (R189). -/
def Pack.putEntry (p : Pack) (e : Entry) : Pack :=
  if p.replay.any (·.id = e.id) then { p with replay := tidyEntries (p.replay.map fun x => if x.id = e.id then e else x) }
  else if e.mask = 0 then p
  else { p with replay := p.replay.filter (·.mask != 0) ++ [e] }

/-- Lanes whose performing ends them: all, or while accesses stay in flight those that return nothing (DESIGN CHOICE, log 8). -/
def State.endsAtOnce (s : State) (a : Access) : Bool := !s.env.defer || a.dst.isNone

/-- Before the trap of an access in flight the accesses before it finish, and its lanes that passed every check complete
(R187, R251). -/
def State.finishRest (s : State) (a : Access) (e : Entry) (fs : List LaneFail) : State × Entry × List LaneFail :=
  let s := State.finishBefore { s with pk := s.pk.putEntry e } e.id
  let m := s.openLanes (s.pk.replay.takeWhile (·.id ≠ e.id)) { e with mask := e.mask &&& ~~~failMask fs, state := 1 } a
  let (s, e', fs') := s.runOrdered (s.siteOf e) e a m
  let (pk, e') := deliver s.pk e' m
  ({ s with pk := { pk with replay := pk.replay.map fun x => if x.id = e.id then e' else x } }, e', fs ++ fs')

/-- The pack parks (R191); one at a blocking point keeps what it waits for there. -/
def State.park (s : State) : State := if s.pk.wait == .none then s.block .parked else s

/-- What the failures of an access lead to: a trap of the earliest step's class (R187, R251), or the pack parks (R191). -/
def State.conclude (s : State) (a : Access) (e : Entry) (fs : List LaneFail) : State :=
  let (pk, e) := if s.endsAtOnce a then deliver s.pk e e.mask else (s.pk, e)
  let (s, e, fs) := if s.env.defer && !(hardFails fs).isEmpty then State.finishRest { s with pk := pk } a e fs
    else ({ s with pk := pk }, e, fs)
  let e := markParked s.pages e fs
  match worstFail fs with
  | none =>
    let s := { s with pk := s.pk.putEntry e }
    if fs.isEmpty then s else s.park
  | some (c, m, ad) =>
    let (x, s) := if c = .ecc then s.syndrome else (0, s)
    State.trap { s with pk := (s.pk.unpend e.id).putEntry { e with state := 2 } } ⟨c, m, ad, x, e.pc⟩

/-- Run an entry of the latch's pack: steps 2 to 7, then its outcome. -/
def State.runAccess (s : State) (e : Entry) : State :=
  match e.access with
  | none => s
  | some a =>
    let (s, e, fs) := s.runOrdered (s.siteOf e) e a e.mask
    s.conclude a e fs

/-- Give the lanes of an atomic entries in ascending order while the queue takes them (R137). -/
def State.enterQueue (s : State) (e : Entry) : List Nat → Entry
  | [] => e
  | l :: rest =>
    if State.mayTake { s with pk := s.pk.putEntry e } s.here s.pk.part .atom then
      s.enterQueue { e with queued := e.queued ||| (1#32 <<< l) } rest
    else e

/-! Re-injection (R190, R192, R198). -/

/-- A lane that faulted as it is run again; the other lanes of an entry go on as they are (R192). -/
def LaneAcc.again (w : LaneAcc) : LaneAcc :=
  match w.phase with
  | .parked _ _ => { w with phase := .walk, reply := none, seen := 0 }
  | _ => w

/-- Lanes answered unrecoverable, as failures with the address a trap names (R188, R315). -/
def lostLanes (e : Entry) : List LaneFail :=
  e.lanes.filterMap fun (l, w) =>
    match w.phase, w.reply with
    | .parked _ va, some true => if hasLane e.mask l then some ⟨l, 5, .memfault, va, none⟩ else none
    | _, _ => none

/-- Registers an access returns into. -/
def dstNames (a : Access) (n : Nat) : List RegName :=
  match a.dst with
  | some r => (List.range (dataWords n)).map fun k => .v (r + k)
  | none => []

/-- Bytes one lane of an entry moves. -/
def State.entryBytes (s : State) (e : Entry) (a : Access) : Nat := accessBytes a (s.cachedRec (s.siteOf e) e a)

/-- An entry goes in flight, or goes on in it (DESIGN CHOICE, log 8): an atomic asks for its queue entries (R137). -/
def State.takeOff (s : State) (a : Access) (e : Entry) : State :=
  let e := if a.queued && s.granted .atom then s.enterQueue e (lanesOf (e.mask &&& ~~~e.queued)) else e
  let s := { s with pk := s.pk.putEntry e }
  if a.queued && e.queued &&& e.mask ≠ e.mask then s.stall .atom else s

/-- A re-injected entry goes back in flight behind those before it (R114, R190); its destination is pending again (R250). A vault
access, which performs at once, finishes those before it. -/
def State.flyAgain (s : State) (a : Access) (e : Entry) : State :=
  if a.space == .vault then
    let s := State.finishBefore { s with pk := s.pk.putEntry e } e.id
    s.runAccess e
  else
    let pk := if s.pk.pend.any (·.owner = e.id) then s.pk
      else s.pk.addPend (dstNames a (s.entryBytes e a)) e.mask e.id
    State.takeOff { s with pk := pk } a e

/-- What re-injected accesses see (R316): the L1 keeps nothing older than the replies, and the replicas are up to date. -/
def State.afterReplies (s : State) : State := (s.acquireL1 s.here (some .sys)).syncReplicas

/-- Re-inject one entry. Lanes answered unrecoverable fail with MEMFAULT, the others run, or go back in flight. -/
def State.reinject (s : State) (id : Nat) : State :=
  match s.pk.replay.find? (·.id = id) with
  | none => s
  | some e =>
    match e.access with
    | none => s
    | some a =>
      let s := s.afterReplies
      let lost := lostLanes e
      let bad := failMask lost
      let lanes := e.lanes.map fun (l, w) => (l, if hasLane e.mask l then w.again else w)
      let e : Entry := { e with lanes := lanes, state := 1, req := 0 }
      if s.env.defer then (if bad = 0 then s.flyAgain a e else s.conclude a e lost)
      else
        let (s, e1, fs) := s.runOrdered (s.siteOf e) e a (e.mask &&& ~~~bad)
        s.conclude a e1 (lost ++ fs)

/-- Entries that have faulted, FAULT_PENDING (R189). -/
def Pack.faulted (p : Pack) : List Nat := (p.replay.filter (·.state = 2)).map (·.id)

/-- Re-inject entries in queue order, until one faults or traps. -/
def State.reinjectAll (s : State) (level : Nat) : List Nat → State
  | [] => s
  | id :: rest =>
    if s.pk.sb.length ≠ level || s.site.isNone then s
    else
      let t := s.reinject id
      if t.pk.faulted.contains id || t.pk.entering then t else t.reinjectAll level rest

/-- Whether every faulted lane of the pack has its reply. -/
def Pack.answered (p : Pack) : Bool :=
  p.req.all (·.reply.isSome) && p.replay.all fun e => e.lanes.all fun (l, w) =>
    !hasLane e.mask l || (match w.phase with | .parked _ _ => w.reply.isSome | _ => true)

/-- Whether a request serves lanes of an entry. -/
def PageReq.names (q : PageReq) (id : Nat) : Bool :=
  match q.waiter with
  | .lanes e _ => e = id
  | _ => false

/-- Whether a request of the pack's entries still waits for its reply. -/
def State.awaited (s : State) (p : Pack) : Bool :=
  p.replay.any fun e => (s.pages.any fun (_, q) => q.names e.id) || s.overflow.any (·.names e.id)

/-- A fetch whose page is answered unrecoverable (R320): the threads at its PC trap MEMFAULT, with the VA of the word in ADDR. -/
def State.fetchLost (s : State) : State :=
  match s.pk.req with
  | some q =>
    let m := s.pk.threadsAt (maskOf fun l => !(s.pk.thread l).exited && !(s.pk.thread l).held) q.pc
    if !q.fetch || q.reply ≠ some true || s.site.isNone || !s.pk.faulted.isEmpty then s
    else if m = 0 then { s with pk := { s.pk with req := none } }
    else s.trap ⟨.memfault, m, q.addr, 0, q.pc⟩
  | none => s

/-- A parked pack wakes once everything is answered (R192): it re-injects its faulted entries, and one at a blocking point
waits there again; the pack is in the latch. -/
def State.wake (s : State) : State :=
  if (s.pk.wait == .parked || !s.pk.faulted.isEmpty || s.pk.req.isSome) && s.pk.answered && !s.awaited s.pk then
    let s : State := { s with pk := { s.pk with
      wait := if s.pk.wait == .parked then .none else s.pk.wait
      req := s.pk.req.filter (·.reply == some true) } }
    (s.reinjectAll s.pk.sb.length s.pk.faulted).fetchLost
  else s

/-- The request of lanes that are not to wait again is withdrawn. -/
def PageReq.forget (q : PageReq) (id : Nat) (m : LaneMask) : Option PageReq :=
  match q.waiter with
  | .lanes e k => if e = id && k &&& m != 0 then
      (if k &&& ~~~m = 0 then none else some { q with waiter := .lanes e (k &&& ~~~m) }) else some q
  | _ => some q

def State.forgetLanes (s : State) (id : Nat) (m : LaneMask) : State :=
  { s with
    pages := s.pages.filterMap fun (k, q) => (q.forget id m).map fun q => (k, q)
    overflow := s.overflow.filterMap fun q => q.forget id m }

/-- On restore an entry is issued again for its lanes (R198): one answered unrecoverable traps only if its page still refuses
it; one without a reply waits for the request that is still queued; an atomic asks for its queue entries again (R194). -/
def State.reissue (s : State) (id : Nat) : State :=
  match s.pk.replay.find? (·.id = id) with
  | none => s
  | some e =>
    match e.access with
    | none => s
    | some a =>
      let s := s.afterReplies
      let lost := failMask (lostLanes e)
      let lanes := e.lanes.map fun (l, w) => (l, if hasLane e.mask l then w.again else w)
      let e0 : Entry := { e with lanes := lanes, state := 1, req := 0 }
      let e0 := if a.queued && s.granted .atom then s.enterQueue { e0 with queued := 0 } (lanesOf e0.mask) else e0
      if a.queued && e0.queued ≠ e0.mask then State.stall { s with pk := s.pk.putEntry e0 } .atom
      else
      let (s, e1, fs) := s.runOrdered (s.siteOf e) e0 a e0.mask
      let fs := fs.map fun f => if hasLane lost f.lane && f.step = 5 then { f with page := none } else f
      let s := s.forgetLanes id (failMask (fs.filter fun f => hasLane lost f.lane && f.step = 5))
      s.conclude a e1 fs

/-- Issue the entries of a restored pack again, in queue order, until one faults, traps, or stalls on the full queue (R194); the
later ones follow when the pack wakes. -/
def State.reissueAll (s : State) (level : Nat) : List Nat → State
  | [] => s
  | id :: rest =>
    if s.pk.sb.length ≠ level || s.site.isNone then s
    else
      let t := s.reissue id
      if t.pk.faulted.contains id || t.pk.entering then t else t.reissueAll level rest

/-! Issue of an access. -/

/-- Make the entry of an instruction: operands are captured (R189, R250). -/
def State.newEntry (s : State) (i : Instr) (a : Access) (m : LaneMask) (rank n id : Nat) : Entry :=
  let ws := encode i
  { id := id, state := 1, mask := m, w0 := ws.getD 0 0, w1 := ws.getD 1 0, pc := s.ipc, req := 0
    lanes := (lanesOf m).map fun l => (l, { words := s.capture a rank n (s.pk.thread l) })
    priv := s.pk.priv, bar := match a.bar with | some r => s.pk.sreg r | none => 0, queued := 0
    ttb := (s.part s.pk.part).ttbase
    tens := match a.space with
      | .tensor => tabGet [] (s.part s.pk.part).records ((s.pk.sreg a.base).toNat % 65536)
      | _ => [] }

/-- Accesses stay in flight (DESIGN CHOICE, log 8): the entry waits for its walks; vault accesses perform at once. -/
def State.leaveInFlight (s : State) (i : Instr) (a : Access) (e : Entry) (n : Nat) : State :=
  let pk := s.pk.addPend (dstNames a n) e.mask e.id
  let pk := pk.openWindow e.id ((lookahead i).getD 0) (if a.dst.isSome then e.mask else 0) false
  let s := { s with pk := pk }
  if a.space == .vault then State.runAccess s e else s.takeOff a e

/-- Issue an access of the active lanes `m`, whose element has `n` bytes; every issuing thread advances. -/
def State.startAccess (s : State) (i : Instr) (a : Access) (m : LaneMask) (rank n bytes : Nat) : State :=
  if a.queued && !s.granted .atom then s.stall .atom
  else
    let s := if a.queued then s.unstall .atom else s
    let (id, s) := s.freshId
    let e := s.newEntry i a m rank n id
    let s := s.advance s.act bytes
    if s.env.defer then s.leaveInFlight i a e n else s.runAccess e

/-- The failure of a tensor record at step 2 of R251: every active lane enters the replay queue. -/
def State.recordTrap (s : State) (i : Instr) (a : Access) (m : LaneMask) (bytes : Nat) (f : RecFault) : State :=
  let (id, s) := s.freshId
  let e := s.newEntry i a m 5 4 id
  (s.advance s.act bytes).conclude a e (recordFails e f)

/-- Whether the access waits for those in flight before it: a release for all of them (R119), and a vault access, which
performs at once, for an acquire (R114, R119). -/
def State.mustDrain (s : State) (a : Access) : Bool :=
  !s.drained && (a.rel.isSome || (a.space == .vault && s.pk.replay.any fun e => e.mask != 0 &&
    (match e.access with | some b => b.acq.isSome | none => false)))

/-- A lane memory instruction of `bytes` bytes (R250, R251): it waits for the accesses it must follow; a tensor access reads
its record first (R99), and then the checks of its registers are complete. -/
def State.laneAccess (s : State) (i : Instr) (a : Access) (g : Thread → Bool) (bytes : Nat) : State :=
  let m := s.active g
  if m = 0 then s.advance s.act bytes
  else if s.mustDrain a then s.block .drain
  else
    match a.space with
    | .tensor =>
      let tid := (s.pk.sreg a.base).toNat % 65536
      let (s, r) := s.packRecord tid
      match r with
      | .error (.xlat (.page st2 ad) va) =>
        let (s, p) := s.parkPack (α := Unit) 0 va st2 ad
        match p with
        | .memfault => s.recordTrap i a m bytes (.xlat (.bad 0) va)
        | _ => s
      | .error f => s.recordTrap i a m bytes f
      | .ok r =>
        let go := fun (s : State) =>
          let m := s.active g
          if m = 0 then s.advance s.act bytes
          else if recordRefuses a r then s.recordTrap i a m bytes .invalid
          else s.startAccess i a m r.rank (accessBytes a (some r)) bytes
        match s.check i with
        | .ok => go s
        | .wait => s.block .drain
        | .trap c ls => s.raiseSome c ls (s.checkAddr i c ls) 0 go
    | _ => s.startAccess i a m 0 a.size bytes

/-- The meaning of a lane memory instruction. -/
def memForm (i : Instr) (g : Thread → Bool) (bytes : Nat) (s : State) : Out :=
  issue i (fun s => match accessOf i with
    | some a => s.laneAccess i a g bytes
    | none => s) s

/-! LM forms (R253-R256). -/

/-- ldB8 (R253). -/
def execLdB8 (t c : VReg) (la : BitVec 4) (x : SReg) (s : State) : Out :=
  memForm (.ldB8 t c la x) always 4 s

/-- ldI8 (R253). -/
def execLdI8 (t c : VReg) (la : BitVec 4) (x : SReg) (s : State) : Out :=
  memForm (.ldI8 t c la x) always 4 s

/-- ldB16 (R253). -/
def execLdB16 (t c : VReg) (la : BitVec 4) (x : SReg) (s : State) : Out :=
  memForm (.ldB16 t c la x) always 4 s

/-- ldI16 (R253). -/
def execLdI16 (t c : VReg) (la : BitVec 4) (x : SReg) (s : State) : Out :=
  memForm (.ldI16 t c la x) always 4 s

/-- ldB32 (R253). -/
def execLdB32 (t c : VReg) (la : BitVec 4) (x : SReg) (s : State) : Out :=
  memForm (.ldB32 t c la x) always 4 s

/-- ldB64 (R253). -/
def execLdB64 (t c : VReg) (la : BitVec 4) (x : SReg) (s : State) : Out :=
  memForm (.ldB64 t c la x) always 4 s

/-- ldB128 (R253). -/
def execLdB128 (t c : VReg) (la : BitVec 4) (x : SReg) (s : State) : Out :=
  memForm (.ldB128 t c la x) always 4 s

/-- stB8 (R253). -/
def execStB8 (t c : VReg) (la : BitVec 4) (x : SReg) (s : State) : Out :=
  memForm (.stB8 t c la x) always 4 s

/-- stB16 (R253). -/
def execStB16 (t c : VReg) (la : BitVec 4) (x : SReg) (s : State) : Out :=
  memForm (.stB16 t c la x) always 4 s

/-- stB32 (R253). -/
def execStB32 (t c : VReg) (la : BitVec 4) (x : SReg) (s : State) : Out :=
  memForm (.stB32 t c la x) always 4 s

/-- stB64 (R253). -/
def execStB64 (t c : VReg) (la : BitVec 4) (x : SReg) (s : State) : Out :=
  memForm (.stB64 t c la x) always 4 s

/-- stB128 (R253). -/
def execStB128 (t c : VReg) (la : BitVec 4) (x : SReg) (s : State) : Out :=
  memForm (.stB128 t c la x) always 4 s

/-- tld (R255). -/
def execTld (t c : VReg) (la : BitVec 4) (x : SReg) (s : State) : Out :=
  memForm (.tld t c la x) always 4 s

/-- tst (R255). -/
def execTst (t c : VReg) (la : BitVec 4) (x : SReg) (s : State) : Out :=
  memForm (.tst t c la x) always 4 s

/-- tstp (R256). -/
def execTstp (t c : VReg) (la : BitVec 4) (x : SReg) (s : State) : Out :=
  memForm (.tstp t c la x) always 4 s

/-- vldB32 (R254). -/
def execVldB32 (t c : VReg) (la : BitVec 4) (x : SReg) (s : State) : Out :=
  memForm (.vldB32 t c la x) always 4 s

/-- vldB64 (R254). -/
def execVldB64 (t c : VReg) (la : BitVec 4) (x : SReg) (s : State) : Out :=
  memForm (.vldB64 t c la x) always 4 s

/-- vldB128 (R254). -/
def execVldB128 (t c : VReg) (la : BitVec 4) (x : SReg) (s : State) : Out :=
  memForm (.vldB128 t c la x) always 4 s

/-- vstB32 (R254). -/
def execVstB32 (t c : VReg) (la : BitVec 4) (x : SReg) (s : State) : Out :=
  memForm (.vstB32 t c la x) always 4 s

/-- vstB64 (R254). -/
def execVstB64 (t c : VReg) (la : BitVec 4) (x : SReg) (s : State) : Out :=
  memForm (.vstB64 t c la x) always 4 s

/-- vstB128 (R254). -/
def execVstB128 (t c : VReg) (la : BitVec 4) (x : SReg) (s : State) : Out :=
  memForm (.vstB128 t c la x) always 4 s

/-- atom (R259, R260). -/
def execAtom (g : Guard) (d a b : VReg) (la : BitVec 4) (ty : AtomTy) (op : AtomOp) (ord : MemOrd) (sc : Scope) (x : SReg) (s : State) : Out :=
  memForm (.atom g d a b la ty op ord sc x) (·.guarded g) 8 s

/-- cas (R261). -/
def execCas (g : Guard) (d a b c : VReg) (la : BitVec 4) (wide : Bool) (ord : MemOrd) (sc : Scope) (x : SReg) (s : State) : Out :=
  memForm (.cas g d a b c la wide ord sc x) (·.guarded g) 8 s

/-- red (R263). -/
def execRed (g : Guard) (a b : VReg) (la : BitVec 4) (ty : AtomTy) (op : AtomOp) (ord : MemOrd) (sc : Scope) (x : SReg) (bar : Option SReg) (s : State) : Out :=
  memForm (.red g a b la ty op ord sc x bar) (·.guarded g) 8 s

/-- tatom (R262). -/
def execTatom (g : Guard) (d a b : VReg) (la : BitVec 4) (op : AtomOp) (ord : MemOrd) (sc : Scope) (x : SReg) (s : State) : Out :=
  memForm (.tatom g d a b la op ord sc x) (·.guarded g) 8 s

/-- tred (R262, R263). -/
def execTred (g : Guard) (a b : VReg) (la : BitVec 4) (op : AtomOp) (ord : MemOrd) (sc : Scope) (x : SReg) (bar : Option SReg) (s : State) : Out :=
  memForm (.tred g a b la op ord sc x bar) (·.guarded g) 8 s

/-- vatom (R259, R260). -/
def execVatom (g : Guard) (d a b : VReg) (la : BitVec 4) (ty : AtomTy) (op : AtomOp) (ord : MemOrd) (sc : Scope) (x : SReg) (s : State) : Out :=
  memForm (.vatom g d a b la ty op ord sc x) (·.guarded g) 8 s

/-- ldAcq (R258). -/
def execLdAcq (g : Guard) (d a : VReg) (la : BitVec 4) (wide vault : Bool) (sc : Scope) (x : SReg) (s : State) : Out :=
  memForm (.ldAcq g d a la wide vault sc x) (·.guarded g) 8 s

/-- stRel (R258). -/
def execStRel (g : Guard) (a b : VReg) (wide vault : Bool) (sc : Scope) (x : SReg) (s : State) : Out :=
  memForm (.stRel g a b wide vault sc x) (·.guarded g) 8 s

/-! Claims (R149, R271). -/

/-- A claim's failure in a lane, by the order of R271. -/
structure ClaimFail where
  lane : Nat
  step : Nat
  cls : TrapClass
  addr : Nat
  deriving DecidableEq, Repr

/-- The failure of a thread to add a key, if any. -/
def claimFail (t : Thread) (l : Nat) (k : DWord) (addr : Nat) : Option ClaimFail :=
  if !t.hasItem || t.admitted then some ⟨l, 3, .claim, addr⟩
  else if !t.claims.contains k && 64 ≤ t.claims.length then some ⟨l, 4, .claimovf, addr⟩
  else none

def Thread.addClaim (t : Thread) (k : DWord) : Thread :=
  if t.claims.contains k then t else { t with claims := t.claims ++ [k] }

/-- Add keys: `key` gives the key of a lane, or its failure. Lanes that fail stay at the instruction and trap together. -/
def State.claimLanes (s : State) (key : Nat → Except ClaimFail (DWord × Nat)) : State :=
  let fail := fun l => match key l with
    | .error f => some f
    | .ok (k, ad) => claimFail (s.pk.thread l) l k ad
  let fs := (lanesOf s.act).filterMap fail
  let bad := maskOf fun l => fs.any (·.lane = l)
  let s' := s.onLanes (s.act &&& ~~~bad) fun l t => match key l with
    | .ok (k, _) => (t.addClaim k).advance 4
    | .error _ => t
  match fs with
  | [] => s'
  | f :: rest =>
    let w := rest.foldl (fun (b : ClaimFail) g => if g.step < b.step then g else b) f
    s'.raise w.cls bad f.addr 0

/-- claim (R271): the flat key. -/
def execClaim (c : VReg) (la : BitVec 4) (x : SReg) (s : State) : Out :=
  issue (.claim c la x) (fun s => s.claimLanes fun l =>
    let a := (s.pk.s64 x.toNat + ((s.pk.thread l).r c.toNat).zeroExtend 64).toNat
    if 2 ^ 52 ≤ a then .error ⟨l, 2, .memfault, a⟩ else .ok (BitVec.ofNat 64 (a / 4 % 2 ^ 50), a)) s

/-- The key of a tensor element (R149). -/
def tensorKey (tid : Nat) (r : TRec) (c : List Nat) : DWord :=
  BitVec.ofNat 64 (2 ^ 63 + tid * 2 ^ 47 + r.logical c * (elemBits r.fmt / 8) / 4 % 2 ^ 47)

/-- Add the key of the element each lane names. -/
def State.tclaimLanes (s : State) (c : VReg) (tid : Nat) (r : TRec) : State :=
  s.claimLanes fun l =>
    let cs := (List.range 5).map fun i => if i < r.rank then ((s.pk.thread l).r (c.toNat + i)).toNat else 0
    if r.fmt = 7 || !r.inside cs then .error ⟨l, 2, .tensor, 0⟩ else .ok (tensorKey tid r cs, 0)

/-- tclaim (R271): the record, then the coordinates, then the key. -/
def execTclaim (c : VReg) (la : BitVec 4) (x : SReg) (s : State) : Out :=
  issue (.tclaim c la x) (fun s =>
    let tid := (s.pk.sreg x.toNat).toNat % 65536
    let (s, r) := s.packRecord tid
    match r with
    | .error (.xlat (.page st2 ad) va) =>
      let (s, p) := s.parkPack (α := Unit) 0 va st2 ad
      (match p with
      | .memfault => s.raise .memfault s.act va 0
      | _ => s)
    | .error (.xlat _ va) => s.raise .memfault s.act va 0
    | .error (.ecc va) =>
      let (w, s) := s.syndrome
      s.raise .ecc s.act va w
    | .error .invalid => s.raise .tensor s.act 0 0
    | .ok r =>
      match s.check (.tclaim c la x) with
      | .wait => s.block .drain
      | .trap k ls => s.raiseSome k ls (s.checkAddr (.tclaim c la x) k ls) 0 (·.tclaimLanes c tid r)
      | .ok => s.tclaimLanes c tid r) s

/-! Fences (R264, R265). -/

/-- A fence of the pack at a scope: both an acquire and a release (R122). -/
def State.fenceAt (s : State) (sc : Scope) : State := (s.acquireL1 s.here (some sc)).releaseAt s.here (some sc)

/-- fence (R264): it waits until the accesses before it have performed. -/
def execFence (g : Guard) (sc : Scope) (s : State) : Out :=
  issue (.fence g sc) (fun s =>
    if s.active (·.guarded g) = 0 then s.advance s.act 8
    else if !s.drained then s.block .drain
    else (s.fenceAt sc).advance s.act 8) s

/-- sfence (R265). -/
def execSfence (sc : Scope) (s : State) : Out :=
  issue (.sfence sc) (fun s => if !s.drained then s.block .drain else (s.fenceAt sc).next 8) s

end Sys2Proof.Machine
end

