-- ==== Sys2Proof/Machine/Nodes.lean ====
section
/-! DEFINITION. Graph nodes from packs (spec/13_pack_instructions.md R304-R306) and from the host's node windows
(spec/01_device.md R17-R19). -/
namespace Sys2Proof.Machine

/-- node.reg (R304): a release at .dev, then the registration of R18; the answer is {accepted, slot}. -/
def execNodeReg (d a b : SReg) (s : State) : Out :=
  issue (.nodeReg d a b) (fun s =>
    let va := (s.pk.s64 a.toNat).toNat
    let slot := (s.pk.sreg b.toNat).toNat % 65536
    if va % 128 ≠ 0 then s.raisePack .align va 0
    else s.withRelease .dev fun s =>
      let part := s.pk.part
      let (s, ok) := s.register (.core s.here s.pk.priv) part slot va (s.ownsSlot part slot)
      (s.answer [(d.toNat, BitVec.ofNat 32 (slot + if ok then 65536 else 0))]).next 8) s

/-- node.dec (R305): a release at .dev, then the decrement of R19. -/
def execNodeDec (a b : SReg) (s : State) : Out :=
  issue (.nodeDec a b) (fun s =>
    let slot := (s.pk.sreg a.toNat).toNat % 65536
    s.withRelease .dev fun s =>
      let part := s.pk.part
      (s.decrement [⟨slot, (s.pk.sreg b.toNat).toNat, s.here, part + 1⟩]).next 8) s

/-- node.done (R306): the issuing group's node completes now (R22). -/
def execNodeDone (s : State) : Out :=
  issue .nodeDone (fun s => s.withRelease .dev fun s =>
    let s := match s.myGroup with
      | some g =>
        let (s, ds) := s.completeNode g.slot s.here
        s.decrement ds
      | none => s
    s.next 8) s

end Sys2Proof.Machine
end

