-- ==== Sys2Proof/Machine/TensorCtl.lean ====
section
/-! DEFINITION. Tensor records and layouts under software control (spec/05_tensor_memory.md R99, R109, R110,
spec/13_pack_instructions.md R307) and instruction-cache invalidation (R308, spec/09_counters_events.md R200). -/
namespace Sys2Proof.Machine

/-- tdef (R307): a release at .dev, then every cached copy of the record is dropped. -/
def execTdef (a : SReg) (s : State) : Out :=
  issue (.tdef a) (fun s => s.withRelease .dev fun s =>
    let tid := (s.pk.sreg a.toNat).toNat % 65536
    (s.modPart s.pk.part fun p => { p with records := tabDel p.records tid }).next 8) s

/-- Whether core `c` lies in the scope of an icinv of core `h` (R308). -/
def codeScope (sc : Scope) (h c : Nat) : Bool :=
  match sc with
  | .grp => c = h
  | .cl => c / 8 = h / 8
  | _ => true

/-- Remove lines `lo` to `hi` of a partition from a core; loop buffers that hold any of them end with their pass (R200). -/
def Core.dropCode (k : Core) (part lo hi : Nat) : Core :=
  let line := fun (key : Nat) => key / 2 ^ 45 = part && decide (lo ≤ key % 2 ^ 45) && decide (key % 2 ^ 45 ≤ hi)
  let loop := fun (b : LoopBuf) => b.lo / 2 ^ 52 = part && decide (b.lo % 2 ^ 52 / 128 ≤ hi) &&
    decide (lo ≤ (b.lo % 2 ^ 52 + 4 * b.words.length - 1) / 128)
  { k with
      icache := k.icache.filter fun (key, _) => !line key
      loops := k.loops.map fun b => if loop b then { b with dying := true } else b }

/-- icinv (R308). -/
def execIcinv (sc : Scope) (a b : SReg) (s : State) : Out :=
  issue (.icinv sc a b) (fun s =>
    let va := (s.pk.s64 a.toNat).toNat
    let n := (s.pk.sreg b.toNat).toNat
    let drop := fun (c : Nat) (k : Core) =>
      if codeScope sc s.here c then k.dropCode s.pk.part (va / 128) ((va + n - 1) / 128) else k
    let s : State := if n = 0 then s else { s with cores := s.cores.map fun (c, k) => (c, drop c k) }
    s.next 8) s

/-- A pack instruction that works on a tensor reads its record first (R99): faults park the pack or trap. -/
def State.withRecord (s : State) (tid : Nat) (f : State → TRec → State) : State :=
  let (s, r) := s.packRecord tid
  match r with
  | .error (.xlat (.page st2 ad) va) =>
    let (s, p) := s.parkPack (α := Unit) 0 va st2 ad
    match p with
    | .memfault => s.raisePack .memfault va 0
    | _ => s
  | .error (.xlat _ va) => s.raisePack .memfault va 0
  | .error (.ecc va) => s.raiseEcc va
  | .error .invalid => s.raisePack .tensor 0 0
  | .ok r => f s r

/-- The leaf of a mapped page of a tensor, cached or walked to, whatever access it allows; none when the page is not mapped
(R110). A page whose leaf or walk is unrecoverable is skipped as one that is not mapped, and is logged in class 12 (DESIGN
CHOICE, log 47). -/
def State.mappedPage (s : State) (r : TRec) (page : Nat) : State × Option PageLeaf :=
  let part := s.pk.part
  let va := r.base + page * 65536
  let take := fun (s : State) (t : Trans) =>
    if t.misused r.use then (s.logXlat s.here part (.bad t.leaf), none) else (s, some (PageLeaf.mk t.frame t.layout t.leaf))
  match s.heldTrans s.here part (va / 65536) with
  | some t => take s t
  | none =>
    match s.walk (dieOf s.here) part va with
    | (s, .error x) => (s.logXlat s.here part x, none)
    | (s, .ok (e1, e2, a)) =>
      let t := transOf part va e1 e2 a
      if t.misused r.use then take s t
      else
        let (s, t) := s.askElide r.use t
        take (s.fillTrans s.here t) t

/-- Act on each mapped page of a range (R110). -/
def State.eachPage (s : State) (r : TRec) (f : State → Nat → PageLeaf → State) (lo : Nat) : Nat → State
  | 0 => s
  | n + 1 =>
    let (s, pl) := s.mappedPage r lo
    let s := match pl with
      | some pl => f s lo pl
      | none => s
    s.eachPage r f (lo + 1) n

/-- The checks of R110 and the pages of tpin, tunpin and tadvise. `bad` is the check of tpin on the layout. -/
def State.layoutForm (s : State) (a b : SReg) (count : BitVec 24) (bad : TRec → Bool)
    (f : Nat → State → TRec → Nat → PageLeaf → State) : State :=
  let tid := (s.pk.sreg a.toNat).toNat % 65536
  let lo := (s.pk.sreg b.toNat).toNat
  s.withRecord tid fun s r =>
    if count.toNat = 0 then s.next 8
    else if r.linear || r.boxes ≤ lo + count.toNat - 1 || bad r then s.raisePack .tensor 0 0
    else if r.paired then s.raisePack .paired 0 0
    else (s.eachPage r (fun s p pl => f tid s r p pl) lo count.toNat).next 8

/-- tadvise (R104, R109, R110). -/
def execTadvise (a b : SReg) (cls : BitVec 3) (unsettle : Bool) (cnt : BitVec 24) (s : State) : Out :=
  issue (.tadvise a b cls unsettle cnt) (fun s => s.layoutForm a b cnt (fun _ => false) fun tid s r p pl =>
    s.advisePage r s.pk.part tid p cls.toNat unsettle pl) s

/-- tpin (R104, R109, R110): ZORD needs a square box. -/
def execTpin (a b : SReg) (layout : BitVec 4) (cnt : BitVec 24) (s : State) : Out :=
  issue (.tpin a b layout cnt) (fun s =>
    s.layoutForm a b cnt (fun r => layout = 8 && !r.square) fun tid s r p pl =>
      s.pinPage r s.pk.part tid p layout.toNat pl) s

/-- tunpin (R104, R109, R110). -/
def execTunpin (a b : SReg) (cnt : BitVec 24) (s : State) : Out :=
  issue (.tunpin a b cnt) (fun s => s.layoutForm a b cnt (fun _ => false) fun tid s r p pl =>
    s.unpinPage r s.pk.part tid p pl) s

/-- The value of tquery (R110). -/
def queryWord (r : TRec) (m : Monitor) (layout : Nat) : Word :=
  let st := if r.paired || r.pinned then mPinned else if r.notrack then mStable else m.state
  BitVec.ofNat 32 (m.cool * 1024 + m.flips * 64 + st * 16 + layout)

/-- tquery (R110): the page is translated as a load would be. -/
def execTquery (d a b : SReg) (img : Bool) (s : State) : Out :=
  issue (.tquery d a b img) (fun s =>
    let tid := (s.pk.sreg a.toNat).toNat % 65536
    let page := (s.pk.sreg b.toNat).toNat
    s.withRecord tid fun s r =>
      if r.boxes ≤ page || (img && !r.paired) then s.raisePack .tensor 0 0
      else
        let va := r.image img + page * 65536
        if s.answeredBad va then (s.forgetReq va).raisePack .memfault va 0
        else
        let (s, t) := s.translate s.here s.pk.part s.pk.priv .load r.use va
        match t with
        | .error x =>
          let (s, p) := s.packFault (α := Unit) 4 va x
          (match p with
          | .memfault => s.raisePack .memfault va 0
          | _ => s)
        | .ok t =>
          let s := s.forgetReq va
          let s := if r.linear then s else s.useMonitor s.pk.part tid page t.frame r
          let w := if r.linear then 0xF else queryWord r (s.monitor s.pk.part tid page r) t.layout
          (s.answer [(d.toNat, w)]).next 8) s

end Sys2Proof.Machine
end

