-- ==== Sys2Proof/Machine/Tiles.lean ====
section
/-! DEFINITION. Accumulator handles and their tiles (spec/02_registers.md R45-R48, spec/13_pack_instructions.md R292, R293)
and the operand FIFOs (spec/07_queues.md R139). -/
namespace Sys2Proof.Machine

/-! Tiles. -/

def State.modEng (s : State) (e : Nat) (f : Engine → Engine) : State := s.modCore e fun k => { k with eng := f k.eng }

/-- Whether a 64-bit word of an engine's accumulators lies in a slot. -/
def inSlot (slot w : Nat) : Bool := w * 2 / Config.slotWords = slot

/-- Words of an engine's accumulators set to zero in one slot, which replaces every protected word there (R97). -/
def Engine.zeroSlot (e : Engine) (slot : Nat) : Engine :=
  { e with
      acc := e.acc.filter fun (k, _) => k / Config.slotWords ≠ slot
      accSoft := e.accSoft.filter fun w => !inSlot slot w
      accBad := e.accBad.filter fun w => !inSlot slot w }

/-- Clear the slots of a binding. -/
def State.zeroPlaces (s : State) (ps : List (Nat × Nat)) : State :=
  ps.foldl (fun s (e, sl) => s.modEng e (·.zeroSlot sl)) s

/-- Element rows and columns of a handle for an accumulator type (R294, R296). -/
def Handle.shape (h : Handle) (acc : Nat) : Nat × Nat :=
  let half := fun n => if acc = 1 then n / 2 else n
  match h.kind with
  | .single => (128, half 192)
  | .split => (256, half 384)
  | .splgrad => (4096, half 20)

/-- Engine and first word of element (r, c) of a handle. -/
def Handle.place (h : Handle) (acc r c : Nat) : Nat × Nat :=
  let wide := if acc = 1 then 2 else 1
  let w := 192 / wide
  match h.kind with
  | .single => (h.engine, h.slot * Config.slotWords + r * 192 + wide * c)
  | .split =>
    let (e, sl) := h.split.getD (2 * (r / 128) + c / w) (0, 0)
    (e, sl * Config.slotWords + r % 128 * 192 + wide * (c % w))
  | .splgrad => (h.engine, h.slot * Config.slotWords + r * 20 + wide * c)

/-- Bits of an element: 32, or 64 for FP64. -/
def State.tileGet (s : State) (h : Handle) (acc r c : Nat) : Nat :=
  let (e, i) := h.place acc r c
  let m := (s.core e).eng.acc
  (tabGet 0 m i).toNat + if acc = 1 then (tabGet 0 m (i + 1)).toNat * 2 ^ 32 else 0

/-- Whether an element is uncorrectable (R97). -/
def State.tileBad (s : State) (h : Handle) (acc r c : Nat) : Bool :=
  let (e, i) := h.place acc r c
  (s.core e).eng.accBad.contains (i / 2)

/-- Store an element into an engine's accumulator words. -/
def Engine.put (en : Engine) (acc i x : Nat) : Engine :=
  let a := tabSet 0 en.acc i (BitVec.ofNat 32 x)
  { en with acc := if acc = 1 then tabSet 0 a (i + 1) (BitVec.ofNat 32 (x / 2 ^ 32)) else a }

def State.tilePut (s : State) (h : Handle) (acc r c x : Nat) : State :=
  let (e, i) := h.place acc r c
  s.modEng e fun en => en.put acc i x

/-- Rows and columns as a list of positions, row by row. -/
def positions (rows cols : Nat) : List (Nat × Nat) :=
  (List.range rows).flatMap fun r => (List.range cols).map fun c => (r, c)

/-! accalloc and accfree. -/

/-- Bind handle `h` of the issuing pack's group (R292). -/
def State.bindHandle (s : State) (h : Nat) (kind : AccKind) (ps : List (Nat × Nat)) : State :=
  let (e, sl) := ps.headD (0, 0)
  let en := (s.core s.here).eng
  let d : Handle := {
    kind := kind, engine := e, slot := sl, split := match kind with | .split => ps | _ => []
    kg := en.kg, kord := en.kord, audit := 0 }
  (s.zeroPlaces ps).modGroup s.pk.group fun g => { g with handles := tabPut g.handles h d }

/-- accalloc waits, behind those of its core that wait already. -/
def State.awaitAlloc (s : State) (h : BitVec 3) (kind : AccKind) : State :=
  let me := s.slotHere
  (s.modCore s.here fun k => { k with allocs := if k.allocs.contains me then k.allocs else k.allocs ++ [me] }).block (.handle h kind)

/-- accalloc waits no longer. -/
def State.endAlloc (s : State) : State :=
  let me := s.slotHere
  if (s.core s.here).allocs.contains me then s.modCore s.here fun k => { k with allocs := k.allocs.filter (· ≠ me) } else s

/-- accalloc (R46, R292): those of a core are taken in the order they issued. -/
def execAccalloc (h : BitVec 3) (kind : AccKind) (s : State) : Out :=
  issue (.accalloc h kind) (fun s =>
    if !s.allocTurn s.here s.slotHere s.pk.group h then s.awaitAlloc h kind
    else if s.allocFails s.pk.group h kind then s.endAlloc.raisePack .engine 0 2
    else
      match s.placeHandle s.here kind with
      | some ps => (s.endAlloc.bindHandle h.toNat kind ps).next 8
      | none => s.awaitAlloc h kind) s

/-- Whether a command of the group that names the handle is unfinished (R293). -/
def State.handleBusy (s : State) (gid h : Nat) : Bool :=
  s.cmds.any fun (_, k) => k.group = gid && k.handleNo = h && k.handle.isSome

/-- accfree (R46, R293): while it waits for the commands issued before it, what issues after it finds the handle unbound. -/
def execAccfree (h : BitVec 3) (s : State) : Out :=
  issue (.accfree h) (fun s =>
    match s.heldHandle s.pk.group h.toNat with
    | none => s.raisePack .engine 0 2
    | some d =>
      let put := fun (s : State) (d : Handle) => s.modGroup s.pk.group fun g => { g with handles := tabPut g.handles h.toNat d }
      if d.freer.any (· ≠ s.pk.packNo) then s.raisePack .engine 0 2
      else if s.handleBusy s.pk.group h.toNat then (put s { d with freer := some s.pk.packNo }).block (.freeing h.toNat)
      else (put (s.zeroPlaces d.places) { d with bound := false, freer := none }).next 8) s

/-! Operand FIFOs (R139). -/

def KStep.bytes (k : KStep) : Nat := 64 * k.rows.length

def fifoBytes (f : List KStep) : Nat := (f.map (·.bytes)).sum

/-- Whether a FIFO has room for one more K-step of `r` rows. -/
def fifoRoom (f : List KStep) (r : Nat) : Bool := fifoBytes f + 64 * r ≤ 65536

/-- The engines of a handle, by quarter for a split one. -/
def Handle.engines (h : Handle) : List Nat := match h.kind with | .split => h.split.map (·.1) | _ => [h.engine]

end Sys2Proof.Machine
end

