-- ==== Sys2Proof/Machine/Commands.lean ====
section
/-! DEFINITION. Issuing engine commands: the checks of spec/13_pack_instructions.md R286 in their order, the record limits of
R289-R303, and the queue entry (spec/07_queues.md R136, R137). -/
namespace Sys2Proof.Machine

/-! Step 1 of R286: addresses. -/

/-- Completion address of a command: its signal, or what is wrong with it. -/
def State.signalOf (s : State) (bar : SReg) (tok : Bool) : Signal × Option (TrapClass × Nat) :=
  if tok then (.token bar.toNat, none)
  else
    let b := s.pk.sreg bar.toNat
    if b = 0xFFFFFFFF then (.nothing, none)
    else if b.toNat % 16 ≠ 0 then (.nothing, some (.align, b.toNat))
    else
      match s.vaultAddr s.pk.part s.pk.group b with
      | some (c, o) => (.barrier c o, none)
      | none => (.nothing, some (.memfault, b.toNat))

/-- The command's record and its signal; ALIGN, then MEMFAULT, then ECC. -/
def State.withCommand (s : State) (r : SReg) (bar : SReg) (tok : Bool) (f : State → List Byte → Signal → State) : State :=
  let a := s.pk.sreg r.toNat
  let (sig, bad) := s.signalOf bar tok
  if a.toNat % 32 ≠ 0 then s.raisePack .align a.toNat 0
  else
    match bad with
    | some (.align, b) => s.raisePack .align b 0
    | _ =>
      match s.vaultAddr s.pk.part s.pk.group a with
      | none => s.raisePack .memfault a.toNat 0
      | some (c, o) =>
        match bad with
        | some (k, b) => s.raisePack k b 0
        | none =>
          let s := (s.drainBank c).correctVault c o 32
          if s.vaultBroken c o 32 then (s.logVault c).raiseEcc a.toNat else f s (s.vaultRead c o 32) sig

/-! Tensor records at issue (R99, step 6 of R286). -/

/-- A record read for a command: its bytes and fields, or why it cannot be used. -/
abbrev RecRead := Except RecFault (List Byte × TRec)

/-- Read records by tid, in their order. -/
def State.readRecs (s : State) : List Nat → State × List RecRead
  | [] => (s, [])
  | tid :: rest =>
    let (s, r) := s.packRecord tid
    let x : RecRead := match r with
      | .error f => .error f
      | .ok t => .ok (tabGet [] (s.part s.pk.part).records tid, t)
    let (s, xs) := s.readRecs rest
    (s, x :: xs)

/-- The usable records. -/
def goodRecs (rs : List RecRead) : List TRec := rs.filterMap fun r => match r with | .ok (_, t) => some t | .error _ => none

def rawRecs (rs : List RecRead) : List (List Byte) :=
  rs.filterMap fun r => match r with | .ok (b, _) => some b | .error _ => none

/-! What a command asks for. -/

/-- Why a command is rejected at issue. `page` is a page fault on a record: its stage and the address of the page (R99). -/
structure Reject where
  cls : TrapClass
  addr : Nat := 0
  detail : Nat := 0
  page : Option (Bool × Nat) := none
  deriving DecidableEq, Repr

def engineErr (d : Nat) : Reject := { cls := .engine, detail := d }

/-- A command that has passed its checks. -/
structure Plan where
  engines : List Nat
  feed : Nat := 3
  coords : List Word := []
  handle : Option (Nat × Handle) := none
  acc : Option Nat := none
  params : List Byte := []
  deriving DecidableEq, Repr

/-- Step 6: a record that cannot be used. -/
def recReject (rs : List RecRead) : Option Reject :=
  rs.findSome? fun r => match r with
    | .error .invalid => some { cls := .tensor }
    | .error (.ecc va) => some { cls := .ecc, addr := va }
    | .error (.xlat (.page st2 ad) va) => some { cls := .memfault, addr := va, page := some (st2, ad) }
    | .error (.xlat _ va) => some { cls := .memfault, addr := va }
    | .ok _ => none

/-- Whether a tile of `w` by `h` elements at the coordinates lies within the extents (R101, R289). -/
def TRec.tileIn (r : TRec) (c : List Nat) (w h : Nat) : Bool :=
  coord c 0 + w ≤ r.dim 0 && coord c 1 + h ≤ r.dim 1 &&
    (List.range 5).all fun i => i < 2 || r.rank ≤ i || coord c i < r.dim i

/-- Coordinates of a side: those at or beyond the rank are 0. -/
def TRec.origin (r : TRec) (c : List Word) : List Nat :=
  (List.range 5).map fun i => if i < r.rank then (c.getD i 0).toNat else 0

/-- Checks in order: the first that fails. -/
def firstBad : List (Bool × Reject) → Option Reject
  | [] => none
  | (b, r) :: rest => if b then some r else firstBad rest

def zeros (b : List Byte) (lo n : Nat) : Bool := fieldAt b lo n = 0

/-- Coordinate registers of a command (R286): ILLEGAL, OPERAND, then the scoreboard. -/
inductive Coords where
  | ok (c : List Word)
  | trap (c : TrapClass)
  | wait
  deriving DecidableEq, Repr

def State.coordRegs (s : State) (c n : Nat) : Coords :=
  if n = 0 then (if c ≠ 0 then .trap .illegal else .ok [])
  else if 64 < c + n then .trap .operand
  else
    let hit := s.pk.pend.filter fun q => match q.reg with | .s k => c ≤ k && k < c + n | _ => false
    if hit.isEmpty then .ok ((List.range n).map fun k => s.pk.sreg (c + k))
    else if hit.any fun q => s.pk.live != 0 && (lanesOf s.pk.live).any fun l => 0 < s.pk.windowLeft q.owner l then
      .trap .lookahead
    else .wait

/-- The registers of a command: `n` is none when a record that sets it cannot be used. -/
def State.withCoords (s : State) (c : SReg) (n : Option Nat) (f : State → List Word → State) : State :=
  match n with
  | none => f s []
  | some n =>
    match s.coordRegs c.toNat n with
    | .ok cs => f s cs
    | .trap k => s.raisePack k 0 0
    | .wait => s.block .drain

/-- Whether handle number `h` is bound, and its descriptor. -/
def State.handleNamed (s : State) (h : Nat) : Option Handle := s.boundHandle s.pk.group h

/-! Issue. -/

/-- The command enters its queue, or the pack stalls (R136, R286). -/
def State.enqueue (s : State) (i : Instr) (b : List Byte) (sig : Signal) (rs : List RecRead) (p : Plan) : State :=
  let q := cmdQueue i
  if !s.granted q then s.stall q
  else
    let s := s.unstall q
    let (id, s) := s.freshId
    let (t, s) := s.stamp s.here
    let g := s.myGroup
    let c : Cmd := {
      core := s.here, engines := p.engines, feed := p.feed, instr := i, record := b, params := p.params, coords := p.coords
      tensors := rawRecs rs, signal := sig, packNo := s.pk.packNo, group := s.pk.group, part := s.pk.part
      rcb := (g.map (·.rcb)).getD 0, slotNo := (g.map (·.slot)).getD 0, priv := s.pk.priv, time := t
      handle := p.handle.map (·.2), handleNo := (p.handle.map (·.1)).getD 0 }
    let s := { s with cmds := tabPut s.cmds id c }
    let s := match p.handle, p.acc with
      | some (h, d), some a => s.modGroup s.pk.group fun g => { g with handles := tabPut g.handles h { d with acc := a } }
      | _, _ => s
    let pk := match sig with
      | .token r => (s.pk.addPend [.s r] 0xFFFFFFFF id).openWindow id ((lookahead i).getD 0) s.pk.live false
      | _ => s.pk
    State.next { s with pk := pk } 4

/-- A command that fails a check traps; at step 6 a page fault on a record parks the pack, unless the page has been answered as
unrecoverable (R99). -/
def State.reject (s : State) (x : Reject) : State :=
  match x.page with
  | some (st2, ad) =>
    let (s, p) := s.parkPack (α := Unit) 0 x.addr st2 ad
    match p with
    | .memfault => s.raisePack .memfault x.addr 0
    | _ => s
  | none => if x.cls = .ecc then s.raiseEcc x.addr else s.raisePack x.cls x.addr x.detail

/-- The command record, if it can be read. -/
def State.recordAt (s : State) (r : SReg) : State × Option (List Byte) :=
  let a := s.pk.sreg r.toNat
  match if a.toNat % 32 = 0 then s.vaultAddr s.pk.part s.pk.group a else none with
  | none => (s, none)
  | some (c, o) =>
    let s := s.drainBank c
    (s, if s.vaultBroken c o 32 then none else some (s.vaultRead c o 32))

/-- A command of a record (R211, R286): its coordinate registers, whose number the record and the tensor records tell, come first;
then step 1 with the parameter record, which `param` reads, and the command's own checks in order. -/
def State.commandWith (s : State) (i : Instr) (r bar : SReg) (tok : Bool) (c : SReg)
    (tids : List Byte → List Nat) (ncoord : List Byte → List TRec → Nat)
    (param : State → List Byte → (State → Option (List Byte) → State) → State)
    (plan : Option (List Byte) → State → List Byte → List RecRead → List Word → Except Reject Plan) : State :=
  let (s, rec) := s.recordAt r
  let (s, rs) := match rec with | some b => s.readRecs (tids b) | none => (s, [])
  let n := match rec with
    | some b => if (goodRecs rs).length = rs.length then some (ncoord b (goodRecs rs)) else none
    | none => none
  s.withCoords c n fun s cs => s.withCommand r bar tok fun s b sig => param s b fun s p =>
    match plan p s b rs cs with
    | .error x => s.reject x
    | .ok x => s.enqueue i b sig rs x

/-- A command without a parameter record. -/
def State.command (s : State) (i : Instr) (r bar : SReg) (tok : Bool) (c : SReg)
    (tids : List Byte → List Nat) (ncoord : List Byte → List TRec → Nat)
    (plan : State → List Byte → List RecRead → List Word → Except Reject Plan) : State :=
  s.commandWith i r bar tok c tids ncoord (fun s _ k => k s none) fun _ => plan

/-- The plan when no check fails. -/
def planOf (checks : List (Bool × Reject)) (rs : List RecRead) (late : List (Bool × Reject)) (p : Plan) :
    Except Reject Plan :=
  match firstBad checks with
  | some x => .error x
  | none =>
    match recReject rs with
    | some x => .error x
    | none =>
      match firstBad late with
      | some x => .error x
      | none => .ok p

def noTids (_ : List Byte) : List Nat := []

/-! cpy, cpyg, cpyf (R289-R291). -/

/-- Kind of a side of cpy: source, destination. -/
def cpyKind (b : List Byte) (dst : Bool) : Nat := if dst then bits (fieldAt b 18 1) 3 2 else bits (fieldAt b 18 1) 1 0

def cpyTids (b : List Byte) : List Nat :=
  (if cpyKind b false = 2 then [fieldAt b 0 2] else []) ++ if cpyKind b true = 2 then [fieldAt b 8 2] else []

/-- Whether bits of a SRC or DST field that its kind does not use are set. -/
def sideUnused (kind x : Nat) : Bool := (kind = 1 && 2 ^ 32 ≤ x) || (kind = 2 && 2 ^ 16 ≤ x)

/-- The records and origins of the tensor sides of a cpy: source, destination. -/
def cpySides (b : List Byte) (ts : List TRec) (cs : List Word) : Option (TRec × List Nat) × Option (TRec × List Nat) :=
  match decide (cpyKind b false = 2), decide (cpyKind b true = 2), ts with
  | true, true, t :: u :: _ => (some (t, t.origin cs), some (u, u.origin (cs.drop t.rank)))
  | true, false, t :: _ => (some (t, t.origin cs), none)
  | false, true, u :: _ => (none, some (u, u.origin cs))
  | _, _, _ => (none, none)

/-- Whether an F4X tile is not aligned to blocks (R289). -/
def f4xBad (w : Nat) : Option (TRec × List Nat) → Bool
  | some (t, c) => t.fmt = 7 && (coord c 0 % 32 ≠ 0 || w % 32 ≠ 0)
  | none => false

def tileBad (w h : Nat) : Option (TRec × List Nat) → Bool
  | some (t, c) => !t.tileIn c w h
  | none => false

def sidePaired : Option (TRec × List Nat) → Bool
  | some (t, _) => t.paired
  | none => false

/-- The checks of cpy (R289). -/
def cpyPlan (s : State) (b : List Byte) (rs : List RecRead) (cs : List Word) : Except Reject Plan :=
  let ks := cpyKind b false
  let kd := cpyKind b true
  let rows := fieldAt b 16 2
  let w := fieldAt b 20 4
  let ts := goodRecs rs
  let (a, d) := cpySides b ts cs
  let sizes := ts.map fun t => elemBits t.fmt
  planOf
    [(sideUnused ks (fieldAt b 0 8) || sideUnused kd (fieldAt b 8 8) || rows = 0 || ks = 3 || kd = 3 ||
        bits (fieldAt b 18 1) 7 4 ≠ 0 || !zeros b 19 1 || w = 0 || (ks = 2 && !zeros b 24 4) || (kd = 2 && !zeros b 28 4) ||
        sizes.any (· ≠ sizes.headD 0), engineErr 1),
      (f4xBad w a || f4xBad w d, engineErr 3)] rs
    [(tileBad w rows a || tileBad w rows d, { cls := .tensor }), (sidePaired d, { cls := .paired })]
    { engines := [s.here], feed := 2, coords := cs }

/-- cpy (R289). -/
def execCpy (r c bar : SReg) (la : BitVec 4) (tok : Bool) (s : State) : Out :=
  issue (.cpy r c bar la tok) (fun s => s.command (.cpy r c bar la tok) r bar tok c cpyTids
    (fun _ ts => (ts.map (·.rank)).sum) cpyPlan) s

/-- The checks of cpyg (R290). -/
def cpygPlan (s : State) (b : List Byte) (rs : List RecRead) (cs : List Word) : Except Reject Plan :=
  let kind := fieldAt b 10 1
  let outside := match goodRecs rs with
    | t :: _ => !t.tileIn ((t.origin cs).set 1 0) (fieldAt b 20 4) 0
    | [] => false
  planOf
    [(1 < kind || !zeros b 11 1 || fieldAt b 12 4 % 4 ≠ 0 || fieldAt b 16 4 = 0 || 65535 < fieldAt b 16 4 || !zeros b 28 4 ||
        sideUnused kind (fieldAt b 0 8), engineErr 1)] rs [(outside, { cls := .tensor })]
    { engines := [s.here], feed := 2, coords := cs }

/-- cpyg (R290). -/
def execCpyg (r c bar : SReg) (la : BitVec 4) (tok : Bool) (s : State) : Out :=
  issue (.cpyg r c bar la tok) (fun s => s.command (.cpyg r c bar la tok) r bar tok c (fun b => [fieldAt b 8 2])
    (fun _ ts => (ts.map (·.rank)).sum) cpygPlan) s

/-- Elements of a K-step (R69, R291). -/
def kper (fmt : Nat) : Nat := 512 / elemBits fmt

/-- The checks of cpyf (R291). -/
def cpyfPlan (bside : Bool) (s : State) (b : List Byte) (rs : List RecRead) (cs : List Word) : Except Reject Plan :=
  let fl := fieldAt b 2 1
  let h := fieldAt b 3 1
  let rows := fieldAt b 4 4
  let ks := fieldAt b 8 4
  let hd := s.handleNamed h
  let (sizeBad, alignBad, outside) := match goodRecs rs with
    | t :: _ =>
      let c := t.origin cs
      let k := ks * kper t.fmt
      (decide ((fl = 1 ∧ elemBits t.fmt ≠ 8) ∨ (fl = 2 ∧ elemBits t.fmt ≠ 16)), t.fmt = 7 && coord c 0 % 32 ≠ 0,
        !(if fl = 0 then t.tileIn c k rows else t.tileIn c rows k))
    | [] => (false, false, false)
  let kindBad := match hd with | some d => d.kind == .splgrad | none => true
  planOf
    [(2 < fl || 7 < h || rows = 0 || 256 < rows || ks = 0 || !zeros b 12 20 || sizeBad, engineErr 1),
      (kindBad, engineErr 2), (alignBad, engineErr 3)] rs [(outside, { cls := .tensor })]
    { engines := [s.here], feed := if bside then 1 else 0, coords := cs, handle := hd.map fun d => (h, d) }

/-- cpyf (R291). -/
def execCpyf (r c bar : SReg) (la : BitVec 4) (b tok : Bool) (s : State) : Out :=
  issue (.cpyf r c bar la b tok) (fun s => s.command (.cpyf r c bar la b tok) r bar tok c (fun x => [fieldAt x 0 2])
    (fun _ ts => (ts.map (·.rank)).sum) (cpyfPlan b)) s

/-! mma, mmv (R294, R295). -/

/-- Accumulator type of operand formats: none where the pair is not allowed (R294). -/
def mmaType (fa fb : Nat) : Option Nat :=
  let f8 := fun f => f = 5 || f = 6
  if f8 fa && f8 fb then some 0
  else if fa ≠ fb then none
  else match fa with
    | 1 => some 1
    | 2 | 3 | 4 | 7 => some 0
    | 0x0B => some 2
    | _ => none

def auditOk (n : Nat) : Bool := n = 0 || (List.range 16).any fun k => n = 2 ^ k

/-- Whether a handle exists and is single or split. -/
def matrixHandle : Option Handle → Bool
  | some d => d.kind != .splgrad
  | none => false

/-- The checks of mma (R294). -/
def mmaPlan (s : State) (b : List Byte) (rs : List RecRead) (cs : List Word) : Except Reject Plan :=
  let h := fieldAt b 12 1
  let hd := s.handleNamed h
  let ty := match goodRecs rs with
    | ta :: tb :: _ => mmaType ta.fmt tb.fmt
    | _ => some 0
  let shape := match hd with | some d => d.shape (ty.getD 0) | none => (0, 0)
  planOf
    [(2 ^ 24 < fieldAt b 4 4 || 7 < h || 1 < fieldAt b 13 1 || !auditOk (fieldAt b 14 2) || !zeros b 16 16 || ty.isNone,
        engineErr 1),
      (!matrixHandle hd, engineErr 2), (shape.1 < fieldAt b 0 2 || shape.2 < fieldAt b 2 2, engineErr 3)] rs []
    { engines := (hd.map (·.engines)).getD [], coords := cs, handle := hd.map fun d => (h, d), acc := ty }

/-- mma (R294). -/
def execMma (r c bar : SReg) (la : BitVec 4) (tok : Bool) (s : State) : Out :=
  issue (.mma r c bar la tok) (fun s => s.command (.mma r c bar la tok) r bar tok c
    (fun b => [fieldAt b 8 2, fieldAt b 10 2]) (fun _ _ => 2) mmaPlan) s

/-- The checks of mmv (R295). -/
def mmvPlan (s : State) (b : List Byte) (rs : List RecRead) (_ : List Word) : Except Reject Plan :=
  let h := fieldAt b 10 1
  let hd := s.handleNamed h
  let ty := match goodRecs rs with
    | ta :: _ => mmaType ta.fmt ta.fmt
    | [] => some 0
  let shape := match hd with | some d => d.shape (ty.getD 0) | none => (0, 0)
  planOf
    [(fieldAt b 2 2 = 0 || 8 < fieldAt b 2 2 || 2 ^ 24 < fieldAt b 4 4 || 7 < h || 1 < fieldAt b 11 1 ||
        fieldAt b 12 4 % 16 ≠ 0 || fieldAt b 16 4 % 16 ≠ 0 || !zeros b 20 12 || ty.isNone, engineErr 1),
      (!matrixHandle hd, engineErr 2), (shape.1 < fieldAt b 0 2, engineErr 3)] rs []
    { engines := (hd.map (·.engines)).getD [], handle := hd.map fun d => (h, d), acc := ty }

/-- mmv (R295). -/
def execMmv (r bar : SReg) (la : BitVec 4) (tok : Bool) (s : State) : Out :=
  issue (.mmv r bar la tok) (fun s => s.command (.mmv r bar la tok) r bar tok 0 (fun b => [fieldAt b 8 2])
    (fun _ _ => 0) mmvPlan) s

/-! accdrain (R296, R297). -/

/-- Destination formats of an accumulator type (R296). -/
def drainFmt (acc mode fmt : Nat) : Bool :=
  match acc with
  | 0 => fmt = 2 || fmt = 3 || fmt = 4 || fmt = 5 || fmt = 6 || (fmt = 7 && mode = 0)
  | 1 => fmt = 1 || fmt = 2
  | _ => fmt = 8

/-- FP32 tests of parameters. -/
def f32Finite (x : Nat) : Bool := x / 2 ^ 23 % 256 ≠ 255
def f32Nan (x : Nat) : Bool := (fp32.decode x).isNan
def f32Lt (x y : Nat) : Bool := match (fp32.decode x).cmp (fp32.decode y) with | some d => decide (d < 0) | none => false
def f32Eq (x y : Nat) : Bool := match (fp32.decode x).cmp (fp32.decode y) with | some d => decide (d = 0) | none => false
def f32One : Nat := 0x3F800000

/-- Whether BETA lies in [0, 1). -/
def betaOk (x : Nat) : Bool := f32Lt x f32One && (f32Lt 0 x || f32Eq 0 x)

/-- Parameter record limits of ADAM other than EPS (R297). -/
def adamBad (p : List Byte) : Bool :=
  let f := fun o => fieldAt p o 4
  !betaOk (f 4) || !betaOk (f 8) || f 20 = 0 || !f32Finite (f 0) || !f32Finite (f 16) || !f32Finite (f 24) || f 28 ≠ 0

/-- Whether the tensors of an ADAM drain are of the wrong kind (R297). -/
def adamTensorsBad (ts : List TRec) : Bool :=
  match ts with
  | w :: m :: v :: _ =>
    !w.paired || w.fmt ≠ 2 || m.fmt ≠ 2 || v.fmt ≠ 2 || (List.range 5).any fun i => m.dim i ≠ w.dim i || v.dim i ≠ w.dim i
  | _ => false

/-- Checks of accdrain up to step 5, with the parameter record read. -/
def drainPlan (param : Option (List Byte)) (s : State) (b : List Byte) (rs : List RecRead) (cs : List Word) :
    Except Reject Plan :=
  let p := param.getD []
  let h := fieldAt b 2 1
  let mode := fieldAt b 3 1
  let rows := fieldAt b 4 2
  let cols := fieldAt b 6 2
  let hd := s.handleNamed h
  let acc := match hd with | some d => d.acc | none => 0
  let ts := goodRecs rs
  let fmtBad := match hd, ts with
    | some _, t :: _ => !drainFmt acc mode t.fmt
    | _, _ => false
  let shape := match hd with | some d => d.shape acc | none => (0, 0)
  let (align, outside) := match ts with
    | t :: _ =>
      let c := t.origin cs
      (t.fmt = 7 && (coord c 0 % 32 ≠ 0 || cols % 32 ≠ 0), !t.tileIn c cols rows)
    | [] => (false, false)
  planOf
    [(7 < h || 2 < mode || rows = 0 || cols = 0 || !zeros b 16 16 || (mode ≠ 2 && !zeros b 8 8) || fmtBad || param.isNone ||
        (mode = 2 && (adamBad p || adamTensorsBad ts || (hd.isSome && acc ≠ 0))), engineErr 1),
      (hd.isNone, engineErr 2), (shape.1 < rows || shape.2 < cols || align, engineErr 3),
      (mode = 2 && (f32Nan (fieldAt p 12 4) || !f32Lt 0 (fieldAt p 12 4)), engineErr 4)] rs [(outside, { cls := .tensor })]
    { engines := (hd.map (·.engines)).getD [], coords := cs, handle := hd.map fun d => (h, d), params := p }

/-- The parameter record of an ADAM drain (R297), for `k`: none when its address cannot be used. Uncorrectable data is ECC (R97). -/
def State.withParams (s : State) (b : List Byte) (k : State → Option (List Byte) → State) : State :=
  if fieldAt b 3 1 ≠ 2 then k s (some [])
  else
    let pa := BitVec.ofNat 32 (fieldAt b 12 4)
    match if pa.toNat % 32 = 0 then s.vaultAddr s.pk.part s.pk.group pa else none with
    | none => k s none
    | some (c, o) =>
      let s := (s.drainBank c).correctVault c o 32
      if s.vaultBroken c o 32 then (s.logVault c).raiseEcc pa.toNat else k s (some (s.vaultRead c o 32))

/-- accdrain (R296, R297): the parameter record of ADAM is read at issue. -/
def State.drainCommand (s : State) (i : Instr) (r c bar : SReg) (tok : Bool) : State :=
  s.commandWith i r bar tok c (fun b => fieldAt b 0 2 :: if fieldAt b 3 1 = 2 then [fieldAt b 8 2, fieldAt b 10 2] else [])
    (fun _ ts => match ts with | t :: _ => t.rank | [] => 0) State.withParams drainPlan

/-- accdrain (R296, R297). -/
def execAccdrain (r c bar : SReg) (la : BitVec 4) (zero tok : Bool) (s : State) : Out :=
  issue (.accdrain r c bar la zero tok) (fun s => s.drainCommand (.accdrain r c bar la zero tok) r c bar tok) s

/-! accreduce (R298). -/

/-- Bits of PARTS. -/
def partsOf (b : List Byte) : List Nat := (List.range 8).filter fun k => bitOf (fieldAt b 1 1) k

/-- Whether a handle is of a kind and bound on the core's own engine. -/
def ownHandle (kind : AccKind) (core : Nat) : Option Handle → Bool
  | some d => d.kind == kind && d.engine = core
  | none => false

/-- The checks of accreduce (R298). -/
def reducePlan (s : State) (b : List Byte) (rs : List RecRead) (_ : List Word) : Except Reject Plan :=
  let h := fieldAt b 0 1
  let hd := s.handleNamed h
  planOf
    [(7 < h || (partsOf b).length < 2 || fieldAt b 2 2 = 0 || 128 < fieldAt b 2 2 || fieldAt b 4 2 = 0 || 192 < fieldAt b 4 2 ||
        !zeros b 6 2 || fieldAt b 8 4 % 256 ≠ 0 || !zeros b 12 20 || !(partsOf b).contains (s.here % 8), engineErr 1),
      (!ownHandle .single s.here hd, engineErr 2)] rs []
    { engines := [s.here], handle := hd.map fun d => (h, d) }

/-- accreduce (R298). -/
def execAccreduce (r bar : SReg) (la : BitVec 4) (tok : Bool) (s : State) : Out :=
  issue (.accreduce r bar la tok) (fun s => s.command (.accreduce r bar la tok) r bar tok 0 noTids (fun _ _ => 0)
    reducePlan) s

/-! Spline commands (R299-R303). -/

/-- The checks of splgrid (R48, R299). -/
def gridPlan (s : State) (b : List Byte) (rs : List RecRead) (_ : List Word) : Except Reject Plan :=
  let lo := fieldAt b 0 4
  let hi := fieldAt b 4 4
  let kg := fieldAt b 8 1
  let kord := fieldAt b 9 1
  planOf
    [(!f32Finite lo || !f32Finite hi || !f32Lt lo hi || kg = 0 || 16 < kg || kord = 0 || 3 < kord || 2 < fieldAt b 10 1 ||
        19 < kg + kord || !zeros b 11 21, engineErr 1)] rs [] { engines := [s.here] }

/-- splgrid (R299). -/
def execSplgrid (r bar : SReg) (la : BitVec 4) (tok : Bool) (s : State) : Out :=
  issue (.splgrid r bar la tok) (fun s => s.command (.splgrid r bar la tok) r bar tok 0 noTids (fun _ _ => 0) gridPlan) s

/-- The checks of splload (R300). -/
def loadPlan (s : State) (b : List Byte) (rs : List RecRead) (_ : List Word) : Except Reject Plan :=
  let nout := fieldAt b 10 1
  let nin := fieldAt b 11 1
  planOf
    [(fieldAt b 0 8 % 8 ≠ 0 || nout = 0 || nin = 0 || 64 < fieldAt b 8 1 + nout || 64 < fieldAt b 9 1 + nin ||
        !zeros b 12 20, engineErr 1)] rs [] { engines := [s.here] }

/-- splload (R300). -/
def execSplload (r bar : SReg) (la : BitVec 4) (tok : Bool) (s : State) : Out :=
  issue (.splload r bar la tok) (fun s => s.command (.splload r bar la tok) r bar tok 0 noTids (fun _ _ => 0) loadPlan) s

/-- The record limits of splmv and splgrad (R301). -/
def vectorsBad (b : List Byte) (dy : Bool) : Bool :=
  let in64 := fun o => 1 ≤ fieldAt b o 1 && fieldAt b o 1 ≤ 64
  fieldAt b 0 4 % 16 ≠ 0 || (if dy then fieldAt b 4 4 % 16 ≠ 0 else fieldAt b 4 4 ≠ 0) || fieldAt b 8 2 % 16 ≠ 0 ||
    fieldAt b 10 2 % 16 ≠ 0 || !in64 12 || !in64 13 || fieldAt b 14 1 = 0 || 8 < fieldAt b 14 1 || 7 < fieldAt b 15 1 ||
    1 < fieldAt b 16 1 || !zeros b 17 15

/-- The checks of splmv (R301). -/
def mvPlan (dx : Bool) (s : State) (b : List Byte) (rs : List RecRead) (_ : List Word) : Except Reject Plan :=
  let h := fieldAt b 15 1
  let hd := s.handleNamed h
  planOf [(vectorsBad b dx, engineErr 1), (!ownHandle .single s.here hd, engineErr 2)] rs []
    { engines := [s.here], handle := hd.map fun d => (h, d), acc := some 0 }

/-- splmv and splmv.dx (R301). -/
def execSplmv (r bar : SReg) (la : BitVec 4) (dx tok : Bool) (s : State) : Out :=
  issue (.splmv r bar la dx tok) (fun s => s.command (.splmv r bar la dx tok) r bar tok 0 noTids (fun _ _ => 0)
    (mvPlan dx)) s

/-- Whether a SPLGRAD handle was bound under the grid the engine has now (R48, R302). -/
def State.gridMatches (s : State) (core : Nat) : Option Handle → Bool
  | some d => d.kg = (s.core core).eng.kg && d.kord = (s.core core).eng.kord
  | none => false

/-- The checks of splgrad (R301, R302). -/
def gradPlan (s : State) (b : List Byte) (rs : List RecRead) (_ : List Word) : Except Reject Plan :=
  let h := fieldAt b 15 1
  let hd := s.handleNamed h
  planOf
    [(vectorsBad b true || fieldAt b 4 4 = 0, engineErr 1),
      (!ownHandle .splgrad s.here hd || !s.gridMatches s.here hd, engineErr 2)] rs []
    { engines := [s.here], handle := hd.map fun d => (h, d), acc := some 0 }

/-- splgrad (R302). -/
def execSplgrad (r bar : SReg) (la : BitVec 4) (tok : Bool) (s : State) : Out :=
  issue (.splgrad r bar la tok) (fun s => s.command (.splgrad r bar la tok) r bar tok 0 noTids (fun _ _ => 0) gradPlan) s

/-- splrefine (R303) takes no record. -/
def execSplrefine (bar : SReg) (la : BitVec 4) (tok : Bool) (s : State) : Out :=
  issue (.splrefine bar la tok) (fun s =>
    let (sig, bad) := s.signalOf bar tok
    match bad with
    | some (k, b) => s.raisePack k b 0
    | none => s.enqueue (.splrefine bar la tok) [] sig [] { engines := [s.here] }) s

end Sys2Proof.Machine
end

