-- ==== Sys2Proof/Machine/Replies.lean ====
section
/-! DEFINITION. Replies to page requests (spec/09_counters_events.md R192, R193, R198): they reach lanes, packs, commands
and held operations. -/
namespace Sys2Proof.Machine

/-! Held operations (R193). -/

/-- The address of a lane's held operation, and the vault address of the barrier it names. -/
def State.orphanAddrs (s : State) (o : Orphan) (l : Nat) : Nat × Nat :=
  let ws := match tabFind o.entry.lanes l with | some w => w.words | none => []
  match o.entry.access with
  | some a =>
    let va := (accessVAs a (s.cachedRec ⟨o.core, o.part, o.group, o.entry.id, none⟩ o.entry a) false ws).headD 0
    (va, match a.bar with | some _ => o.entry.bar.toNat | none => 0xFFFFFFFF)
  | none => (0, 0xFFFFFFFF)

/-- Log a dropped operation of a region and count it (R182, R193). -/
def State.logOrphan (s : State) (part : Nat) (rcb : DWord) (src slot cls va bar : Nat) : State :=
  let s := s.regionLog agentMp part rcb.toNat src 1 slot cls va bar
  let (s, n) := s.rcbField agentMp part rcb.toNat 160 4
  s.setRcbField agentMp part rcb.toNat 160 4 (min 0xFFFFFFFF (n + 1))

/-- Drop a lane's held operation: the ORPHAN entry, the count, and the faulted arrival it owes (R179). -/
def State.dropLane (o : Orphan) (s : State) (l : Nat) (cls : TrapClass) : State :=
  let (va, bar) := s.orphanAddrs o l
  let s := s.logOrphan o.part o.rcb o.core o.slotNo cls.index va bar
  if bar = 0xFFFFFFFF then s else s.arrive o.core o.part o.group o.entry.bar true

/-- Drop the held operations of one page, a lane each. -/
def State.dropOrphan (s : State) (n : Nat) (o : Orphan) (cls : TrapClass) : State :=
  let s := (lanesOf o.entry.mask).foldl (fun s l => s.dropLane o l cls) s
  { s with orphans := tabDel s.orphans n }

/-- Run held operations whose page has been supplied: a lane's performs, faults again and stays held, or is dropped. -/
def State.runOrphan (s : State) (n : Nat) (o : Orphan) : State :=
  let e : Entry := { o.entry with lanes := o.entry.lanes.map fun (l, w) => (l, w.again) }
  let x : Site := ⟨o.core, o.part, o.group, e.id, some n⟩
  let (s, e, fs) := s.syncReplicas.runEntry x { part := o.part } e
  let s := (hardFails fs).foldl (fun s f => s.dropLane o f.lane f.cls) s
  let left := pageFails fs
  if left.isEmpty then { s with orphans := tabDel s.orphans n }
  else
    let m := maskOf fun l => left.any fun f => f.lane = l
    let lanes := e.lanes.filter fun (l, _) => hasLane m l
    { s with orphans := tabPut s.orphans n { o with entry := { e with mask := m, lanes := lanes } } }

/-! Replies. -/

/-- A reply recorded at the parked lanes of an entry that its request serves; an unrecoverable one stays (R192). -/
def Entry.answer (e : Entry) (m : LaneMask) (bad : Bool) : Entry :=
  let lane := fun (l : Nat) (w : LaneAcc) => match w.phase with
    | .parked _ _ => if hasLane m l then { w with reply := some (bad || w.reply == some true) } else w
    | _ => w
  { e with lanes := e.lanes.map fun (l, w) => (l, lane l w) }

/-- Where resident packs stand that satisfy `f`. -/
def State.packsWhere (s : State) (f : Pack → Bool) : List (Nat × Nat) :=
  s.residents.filterMap fun (c, sl, p) => if f p then some (c, sl) else none

/-- Wake parked packs that are fully answered (R192). -/
def State.wakeAll (s : State) : List (Nat × Nat) → State
  | [] => s
  | (c, sl) :: rest => (s.onPack c sl (·.wake)).wakeAll rest

/-- The reply to a pack's own request: resolved ends it, unrecoverable stays for the instruction to see. -/
def Pack.answerReq (p : Pack) (id : Nat) (bad : Bool) : Pack :=
  match p.req with
  | some q => if q.id = some id then { p with req := if bad then some { q with reply := some true } else none } else p
  | none => p

/-- A command's page has come, or never will (R287). -/
def Cmd.answer (c : Cmd) (bad : Bool) : Cmd :=
  if c.state == .parked then
    if bad then { c with fail := 3, state := .ready } else { c with state := if c.staged then .ready else .queued }
  else if bad then { c with fail := 3 } else c

/-- Apply a reply to request `id`, which is outstanding, and free its entry (R192); no pack is in the latch. -/
def State.applyReply (s : State) (id : Nat) (q : PageReq) (bad : Bool) : State :=
  match q.waiter with
  | .lanes eid m =>
    let s := s.modPacks fun p => { p with replay := p.replay.map fun e => if e.id = eid then e.answer m bad else e }
    (s.freePage id).wakeAll (s.packsWhere fun p => p.replay.any (·.id = eid))
  | .pack gid no =>
    let s := s.modPacks fun p => if p.group = gid && p.packNo = no then p.answerReq id bad else p
    (s.freePage id).wakeAll (s.packsWhere fun p => p.group = gid && p.packNo = no)
  | .cmd c => (s.modCmd c (·.answer bad)).freePage id
  | .orphan n =>
    let s := s.freePage id
    match tabFind s.orphans n with
    | some o => if bad then s.dropOrphan n o .memfault else s.runOrphan n o
    | none => s
  | .idle => s.freePage id

/-- An operation on the machine with the issuing pack in its slot; it comes back into the latch if it is still there. -/
def State.aside (s : State) (f : State → State) : State :=
  match s.site with
  | some (c, sl) => (f s.unload).load c sl
  | none => f s

/-- An event: it happens with the issuing pack, if there is one, in its slot. -/
def event (f : State → State) (s : State) : Out := .next (s.aside f)

/-- Physical addresses of a lane access that has been translated and has not performed. -/
def Phase.places : Phase → List (Nat × Nat)
  | .ready ps => ps
  | .sent ps => ps
  | _ => []

/-- Lane accesses that hold the translations `f` picks are sent back to be translated again (R161, R169). -/
def State.sendBack (s : State) (f : Pack → List (Nat × Nat) → Bool) : State :=
  let back := fun (p : Pack) (w : LaneAcc) => !w.phase.places.isEmpty && f p w.phase.places
  let lane := fun (p : Pack) (w : LaneAcc) => if back p w then { w with phase := .resent, seen := 0 } else w
  let ent := fun (p : Pack) (e : Entry) => { e with lanes := e.lanes.map fun (l, w) => (l, lane p w) }
  let gone := fun (r : Nat × Nat) => s.allPacks.any fun p => p.replay.any fun e =>
    e.id = r.1 && (match tabFind e.lanes r.2 with | some w => back p w | none => false)
  s.onStore fun t => State.modPacks { t with home := { t.home with arrivals := t.home.arrivals.filter (!gone ·) } }
    fun p => { p with replay := p.replay.map (ent p) }

/-- Accesses of a partition that hold translations are sent back (R161). -/
def State.resend (s : State) (part : Nat) : State :=
  if s.env.defer then s.sendBack fun p _ => p.part = part else s

/-- Invalidate, and send back what used a removed translation (R161). -/
def State.invalidateSent (s : State) (part : Nat) (stage2 : Bool) (lo n : Nat) : State :=
  (s.invalidate part stage2 lo n).resend part

end Sys2Proof.Machine
end

