-- ==== Sys2Proof/Machine/Control.lean ====
section
/-! DEFINITION. Lane control instructions (spec/11_lane_instructions.md R243-R248). -/
namespace Sys2Proof.Machine

/-- The PC `n` bytes and a signed word offset further. -/
def pcRel (pc : BitVec 52) (n : Nat) (off : BitVec 52) : BitVec 52 := pc + BitVec.ofNat 52 n + off * 4

/-- The condition of bra and exit (R243, R246). -/
def Thread.taken (t : Thread) (pg : BitVec 3) (pn : Bool) : Bool := pg == 7 || (t.p.getLsbD pg.toNat != pn)

/-- MEET with V set (R33). -/
def meetWord (pc : BitVec 52) : DWord := (pc.zeroExtend 64) ||| (1#64 <<< 63)

/-- bra (R243). -/
def execBra (pg : BitVec 3) (pn : Bool) (off : BitVec 19) (s : State) : Out :=
  issue (.bra pg pn off) (fun s => s.onLanes s.act fun _ t =>
    { t with pc := if t.taken pg pn then pcRel t.pc 4 (off.signExtend 52) else pcRel t.pc 4 0 }) s

/-- meet (R34, R245): JMASK is the set of threads that issue it together. -/
def execMeet (off : BitVec 19) (s : State) : Out :=
  issue (.meet off) (fun s => s.eachLane 4 always fun _ t =>
    { t with meet := meetWord (pcRel t.pc 4 (off.signExtend 52)), jmask := s.act }) s

/-- unmeet (R34). -/
def execUnmeet (s : State) : Out := issue .unmeet (fun s => s.eachLane 4 always fun _ t => t.clearMeet) s

/-- meetm (R34, R245): JMASK is va with the thread's own bit. -/
def execMeetm (g : Guard) (a : VReg) (off : BitVec 17) (s : State) : Out :=
  issue (.meetm g a off) (fun s => s.eachLane 8 (·.guarded g) fun l t =>
    { t with meet := meetWord (pcRel t.pc 8 (off.signExtend 52)), jmask := t.r a.toNat ||| (1#32 <<< l) }) s

/-- A thread exits and drops its item (R152, R246). -/
def Thread.leave (t : Thread) : Thread := { t with exited := true, item := 0xFFFFFFFF, admitted := false, claims := [] }

/-- Lanes of a reduction that wait for one page are held for their region; their request is theirs alone (R193). -/
def State.holdLanes (s : State) (e : Entry) (m : LaneMask) : State :=
  match s.myGroup with
  | none => s
  | some g =>
    let (n, s) := s.freshId
    let lanes := e.lanes.filter fun (l, _) => hasLane m l
    let o : Orphan := ⟨s.pk.part, g.rcb, g.slot, s.here, s.pk.group,
      { e with mask := m, lanes := lanes, bar := g.absolute e.bar }⟩
    let hold := fun (q : PageReq) => match q.waiter with
      | .lanes i k => if i = e.id && k &&& m != 0 then { q with waiter := .orphan n, held := true } else q
      | _ => q
    { s with
      orphans := tabPut s.orphans n o
      pages := s.pages.map fun (k, q) => (k, hold q)
      overflow := s.overflow.map hold }

/-- What becomes of the failed lanes of a reduction whose threads exit: lanes that wait for a page are held, the others are
dropped with their ORPHAN entry and a faulted arrival (R127, R193). -/
def State.loseLanes (s : State) (e : Entry) (a : Access) (fs : List LaneFail) : State :=
  let pages := ascending ((pageFails fs).filterMap fun f => f.page.map fun (_, _, p) => p)
  let on := fun p => maskOf fun l => fs.any fun f => f.lane = l && (f.page.any fun (_, _, q) => q = p)
  let s := pages.foldl (fun s p => s.holdLanes e (on p)) s
  let bar := match a.bar with | some _ => e.bar.toNat | none => 0xFFFFFFFF
  match s.myGroup with
  | none => s
  | some g => (hardFails fs).foldl (fun s f =>
      let s := s.logOrphan s.pk.part g.rcb s.here g.slot f.cls.index f.addr bar
      if a.bar.isSome then s.arrive s.here s.pk.part s.pk.group e.bar true else s) s

/-- The accesses in flight of threads that exit are finished first (DESIGN CHOICE, log 8). -/
def State.finishExiting (s : State) (m : LaneMask) : List Entry → State
  | [] => s
  | e :: rest =>
    let k := e.mask &&& m
    match e.access with
    | some a =>
      if k = 0 then s.finishExiting m rest
      else
        let (s, part, fs) := s.runOrdered (s.siteOf e) { e with mask := k } a k
        let (pk, _) := deliver s.pk part k
        let s := if a.isRed then s.loseLanes part a fs else s
        State.finishExiting { s with pk := (pk.unpendDone (e.drop k)).putEntry (e.drop k) } m rest
    | none => s.finishExiting m rest

/-- Whether threads of a mask have a write in flight that publishes with other lanes at one cut (R99): they exit after it. -/
def State.cutsInFlight (s : State) (m : LaneMask) : Bool :=
  s.pk.replay.any fun e => e.mask &&& m != 0 && (match e.access with
    | some a => oneCut a (s.cachedRec (s.siteOf e) e a)
    | none => false)

/-- Threads of a mask of the issuing pack exit: items are dropped, a wave may form, the pack and the group may end. -/
def State.exitLanes (s : State) (m : LaneMask) : State :=
  let s := if s.pk.replay.isEmpty then s else s.finishExiting m s.pk.replay
  let out := (lanesOf m).map s.pk.thread
  let items := out.filter (·.hasItem)
  let s := s.onLanes m fun _ t => t.leave
  let s := if items.isEmpty then s
    else s.leaveLoop s.pk.group items.length (items.filter (·.admitted)).length true
  (s.tryWaves s.here).afterExit

/-- exit (R246). -/
def execExit (pg : BitVec 3) (pn : Bool) (s : State) : Out :=
  issue (.exit pg pn) (fun s =>
    let m := maskOf fun l => hasLane s.act l && (s.pk.thread l).taken pg pn
    if s.cutsInFlight m then s.block .drain
    else
      let s := s.advance (s.act &&& ~~~m) 4
      if m = 0 then s else s.exitLanes m) s

/-- yield (R247): out of the vote for the next 64 issue slots of the pack, counted from the slot after this one (R319). -/
def execYield (s : State) : Out := issue .yield (fun s => s.eachLane 4 always fun _ t => { t with yield := 65 }) s

/-- jal (R244). -/
def execJal (g : Guard) (d : VReg) (off : BitVec 31) (s : State) : Out :=
  issue (.jal g d off) (fun s => s.onLanes s.act fun _ t =>
    if t.guarded g then
      { t.setR64 d.toNat ((pcRel t.pc 8 0).zeroExtend 64) with pc := pcRel t.pc 8 (off.signExtend 52) }
    else t.advance 8) s

def jrHigh (x : DWord) : Bool := x.extractLsb' 52 12 != 0
def jrLow (x : DWord) : Bool := x.extractLsb' 0 2 != 0

def Thread.jumpTo (t : Thread) (link : Option VReg) (x : DWord) : Thread :=
  let u := match link with
    | some d => t.setR64 d.toNat ((pcRel t.pc 8 0).zeroExtend 64)
    | none => t
  { u with pc := x.extractLsb' 0 52 }

/-- jr (R244): threads whose target fails a check stay at the jr and trap together. -/
def execJr (g : Guard) (link : Option VReg) (a : VReg) (s : State) : Out :=
  issue (.jr g link a) (fun s =>
    let m := s.active (·.guarded g)
    let target := fun l => (s.pk.thread l).r64 a.toNat
    let high := maskOf fun l => hasLane m l && jrHigh (target l)
    let bad := maskOf fun l => hasLane m l && (jrHigh (target l) || jrLow (target l))
    let s' := s.onLanes s.act fun l t =>
      if hasLane bad l then t else if t.guarded g then t.jumpTo link (target l) else t.advance 8
    if bad = 0 then s'
    else s'.raise (if high ≠ 0 then .memfault else .align) bad (target ((lanesOf bad).headD 0)).toNat 0) s

/-- brk (R248). -/
def execBrk (g : Guard) (code : BitVec 16) (s : State) : Out :=
  issue (.brk g code) (fun s =>
    let m := s.active (·.guarded g)
    let s := s.advance (s.act &&& ~~~m) 8
    if m = 0 then s else s.raise .brk m 0 code.toNat) s

end Sys2Proof.Machine
end

