-- ==== Sys2Proof/Machine/Spline.lean ====
section
/-! DEFINITION. Spline arithmetic of a matrix engine (spec/03_numbers.md R72-R77, spec/02_registers.md R47, R48): the grid, the
row edge unit, the bases, cells, gradients and refinement. Values are FP32 bits. -/
namespace Sys2Proof.Machine

def f32Nat (k : Nat) : Nat := fp32.rne (.fin false k 0)
def f32Neg (x : Nat) : Nat := if bitOf x 31 then x - 2 ^ 31 else x + 2 ^ 31

/-! Group sums (R69). -/

/-- A list cut into pieces of `n` (`k` pieces at most). -/
def chunks {α : Type} (n : Nat) : Nat → List α → List (List α)
  | 0, _ => []
  | _, [] => []
  | k + 1, l => l.take n :: chunks n k (l.drop n)

/-- Groups of `size` products, each summed exactly, rounded once and added to the accumulator with one rounding. -/
def sumGroups (f : Fmt) (size acc : Nat) (ps : List Num) : Nat :=
  (chunks size ps.length ps).foldl (fun a g => accAdd f a (f.rne (groupSum g))) acc

/-! The grid (R47, R48). -/

/-- KSCALE: KG / (KHI - KLO), rounded once. -/
def gridScale (lo hi : Word) (kg : Nat) : Word :=
  let d := ((fp32.decode hi.toNat).add .rne (fp32.decode lo.toNat).neg).1
  BitVec.ofNat 32 (fp32.rne ((Num.fin false kg 0).div d).1)

/-- splgrid with the fields of its record (R48, R299). -/
def Engine.setGrid (e : Engine) (b : List Byte) : Engine :=
  let lo := BitVec.ofNat 32 (fieldAt b 0 4)
  let hi := BitVec.ofNat 32 (fieldAt b 4 4)
  let kg := fieldAt b 8 1
  { e with
      klo := lo, khi := hi, kg := kg, kord := fieldAt b 9 1, kclamp := fieldAt b 10 1, kscale := gridScale lo hi kg, koog := 0 }

/-! The row edge unit (R72). -/

/-- Interval and fraction of an input, and whether it lies outside the grid or is NaN. -/
structure RowPos where
  j : Nat
  u : Nat
  out : Bool
  nan : Bool
  deriving DecidableEq, Repr

/-- floor of a value that is at least 0, at most `top`. -/
def floorTo (top : Nat) (x : Nat) : Nat :=
  match fp32.decode x with
  | .fin _ m e => min top (roundInt .rtz false m e).1
  | _ => top

def Engine.edge (e : Engine) (x : Nat) : RowPos :=
  let lo := e.klo.toNat
  let hi := e.khi.toNat
  let nan := f32Nan x
  let out := f32Lt x lo || f32Lt hi x
  let x := if e.kclamp = 0 then (if f32Lt x lo then lo else if f32Lt hi x then hi else x) else x
  let t := eMul (eSub x lo) e.kscale.toNat
  let last := e.kg - 1
  let ju :=
    if nan then (0, fp32.nan)
    else if f32Eq x hi then (last, f32One)
    else if f32Lt hi x then (last, if e.kclamp = 1 then eSub t (f32Nat last) else f32One)
    else if !f32Lt lo x then (0, if e.kclamp = 1 then t else 0)
    else
      let j := floorTo last t
      (j, eSub t (f32Nat j))
  ⟨ju.1, ju.2, out, nan⟩

/-! Bases (R73, R75). -/

def basis (kord u : Nat) : List Nat :=
  let n := f32Nat
  let w := eSub f32One u
  let u2 := eMul u u
  let u3 := eMul u2 u
  match kord with
  | 1 => [w, u]
  | 2 =>
    [eDiv (eMul w w) (n 2), eDiv (eAdd (eAdd (eMul (f32Neg (n 2)) u2) (eMul (n 2) u)) f32One) (n 2), eDiv u2 (n 2)]
  | _ =>
    [eDiv (eMul (eMul w w) w) (n 6),
      eDiv (eAdd (eSub (eMul (n 3) u3) (eMul (n 6) u2)) (n 4)) (n 6),
      eDiv (eAdd (eAdd (eAdd (eMul (f32Neg (n 3)) u3) (eMul (n 3) u2)) (eMul (n 3) u)) f32One) (n 6),
      eDiv u3 (n 6)]

def slopes (kord u scale : Nat) : List Nat :=
  let n := f32Nat
  let w := eSub f32One u
  let u2 := eMul u u
  let d := match kord with
    | 1 => [f32Neg f32One, f32One]
    | 2 => [f32Neg w, eSub f32One (eMul (n 2) u), u]
    | _ =>
      [eDiv (f32Neg (eMul w w)) (n 2), eDiv (eSub (eMul (n 3) u2) (eMul (n 4) u)) (n 2),
        eDiv (eAdd (eAdd (eMul (f32Neg (n 3)) u2) (eMul (n 2) u)) f32One) (n 2), eDiv u2 (n 2)]
  d.map (eMul · scale)

/-! Cells (R74, R75). -/

/-- Coefficient k of a cell, widened from BF16. -/
def Engine.coefOf (e : Engine) (cell k : Nat) : Nat := (tabGet 0 e.coef (20 * cell + k)).toNat * 65536

/-- Terms of a cell for a basis, in ascending m from +0. -/
def Engine.combine (e : Engine) (cell j : Nat) (bs : List Nat) : Nat :=
  bs.zipIdx.foldl (fun a (b, m) => eFma (e.coefOf cell (j + m)) b a) 0

/-- φ of a cell at an input (R72, R74). -/
def Engine.phi (e : Engine) (cell : Nat) (p : RowPos) : Nat :=
  if p.out && e.kclamp = 2 then 0 else e.combine cell p.j (basis e.kord p.u)

/-- φ' of a cell at an input (R75); a NaN input yields NaN (R72). -/
def Engine.slope (e : Engine) (cell : Nat) (p : RowPos) : Nat :=
  if p.nan then fp32.nan
  else if p.out && e.kclamp ≠ 1 then 0
  else e.combine cell p.j (slopes e.kord p.u e.kscale.toNat)

/-- KOOG after a pass over some inputs. -/
def Engine.countOut (e : Engine) (ps : List RowPos) : Engine :=
  { e with koog := BitVec.ofNat 32 (min 0xFFFFFFFF (e.koog.toNat + (ps.filter fun p => p.out || p.nan).length)) }

/-- Result element of splmv for output `o` of one vector, from `acc` (R301). -/
def Engine.forward (e : Engine) (o acc : Nat) (ps : List RowPos) : Nat :=
  sumGroups fp32 16 acc (ps.zipIdx.map fun (p, i) => fp32.decode (e.phi (64 * o + i) p))

/-- Result element of splmv.dx for input `i` at position `p` (R301). -/
def Engine.backward (e : Engine) (i acc : Nat) (p : RowPos) (dy : List Nat) : Nat :=
  sumGroups fp32 16 acc (dy.zipIdx.map fun (d, o) => fp32.decode (eMul d (e.slope (64 * o + i) p)))

/-! splgrad (R76, R302). -/

/-- Changes of one cell's gradient for one vector: column and increment factors. A NaN input is not out of the grid: its terms, which
are NaN, go to interval 0 under ZERO too (DESIGN CHOICE, log 47). -/
def Engine.gradTerms (e : Engine) (p : RowPos) : List (Nat × Nat) :=
  if p.out && e.kclamp = 2 then [] else (basis e.kord p.u).zipIdx.map fun (b, m) => (p.j + m, b)

/-! splrefine (R77, R303). -/

def refineWeight (k : Int) : Nat :=
  if k = 0 || k = 4 then 1 else if k = 1 || k = 3 then 4 else if k = 2 then 6 else 0

/-- New coefficient `j` of a cell with KG intervals. Terms of weight 0 are left out of the sum (DESIGN CHOICE, log 45: R77 does
not say what 0 times an infinity or a NaN adds, nor the sign of a sum that is exactly 0). -/
def Engine.refined (e : Engine) (cell j : Nat) : BitVec 16 :=
  let ts := (List.range (e.kg + 3)).filterMap fun (i : Nat) =>
    let w := refineWeight ((j : Int) - 2 * (i : Int) + 3)
    if w = 0 then none else some (((Num.fin false w (-3)).mul (fp32.decode (e.coefOf cell i))).1)
  BitVec.ofNat 16 (bf16.rne (groupSum ts))

def Engine.canRefine (e : Engine) : Bool := e.kord = 3 && 2 * e.kg + 3 ≤ 19

/-- Every cell refined; KG doubles and KSCALE follows. Cells without coefficients stay zero. -/
def Engine.refine (e : Engine) : Engine :=
  let cells := ascending (e.coef.map fun (k, _) => k / 20)
  let coef := cells.foldl (fun m cell =>
    (List.range (2 * e.kg + 3)).foldl (fun m j => tabSet 0 m (20 * cell + j) (e.refined cell j)) m) []
  { e with coef := coef, coefSoft := [], coefBad := [], kg := 2 * e.kg, kscale := gridScale e.klo e.khi (2 * e.kg) }

end Sys2Proof.Machine
end

