-- ==== Sys2Proof/Machine/Matrix.lean ====
section
/-! DEFINITION. What engine commands read, compute and write: vault, flat and tensor data (spec/13_pack_instructions.md
R287-R291), matrix products (spec/03_numbers.md R69, R71), audit (R78, R79) and drains (R296, R297). -/
namespace Sys2Proof.Machine

/-- What stops a command: a page fault with its access type, or a failure with its DETAIL (R287). -/
inductive Stop where
  | page (stage2 : Bool) (addr access : Nat)
  | fail (detail : Nat)
  deriving DecidableEq, Repr

def stopOf (access : Nat) : XFault → Stop
  | .page st2 a => .page st2 a access
  | _ => .fail 3

/-- A result of a command's access. -/
abbrev Got (α : Type) := State × Except Stop α

/-- Run a list of accesses in order, until one stops. -/
def collect {α β : Type} (f : State → α → Got β) : State → List α → Got (List β)
  | s, [] => (s, .ok [])
  | s, x :: rest =>
    match f s x with
    | (s, .error e) => (s, .error e)
    | (s, .ok y) =>
      match collect f s rest with
      | (s, .error e) => (s, .error e)
      | (s, .ok ys) => (s, .ok (y :: ys))

/-! Vault data. -/

/-- `n` bytes at a vault address, all of one vault (R82). -/
def State.vaultSpan (s : State) (part grp a n : Nat) : Option (Nat × Nat) :=
  if 2 ^ 32 < a + n then none
  else
    match s.vaultAddr part grp (BitVec.ofNat 32 a), s.vaultAddr part grp (BitVec.ofNat 32 (a + (n - 1))) with
    | some (c, o), some (d, q) => if d = c && q = o + (n - 1) then some (c, o) else none
    | _, _ => none

def State.engVault (s : State) (c : Cmd) (a n : Nat) : Got (List Byte) :=
  match s.vaultSpan c.part c.group a n with
  | none => (s, .error (.fail 3))
  | some (k, o) =>
    let s := (s.drainBank k).correctVault k o n
    if s.vaultBroken k o n then (s.logVault k, .error (.fail 14)) else (s, .ok (s.vaultRead k o n))

/-! Flat data. -/

def State.engFlat (s : State) (c : Cmd) (va n : Nat) : Got (List Byte) :=
  match s.readVA c.core c.part c.priv va n with
  | (s, .error x) => (s, .error (stopOf 0 x))
  | (s, .ok (b, bad)) => (s, if bad then .error (.fail 14) else .ok b)

/-- A pending write: its physical address, leaf attribute (plus 4 for ELIDE), its bytes, or one nibble of a byte. -/
structure Put where
  pa : Nat
  attr : Nat
  bytes : List Byte
  nibble : Option (Bool × Nat) := none
  deriving DecidableEq, Repr

def Trans.mark (t : Trans) : Nat := t.attr + (if t.elide then 4 else 0)

/-- The places of bytes at a flat address, translated for a write. -/
def State.engPlace (s : State) (c : Cmd) (va : Nat) (bs : List Byte) : Got (List Put) :=
  collect (fun s (p : Nat × Nat) =>
    if 2 ^ 52 ≤ p.1 then (s, .error (.fail 3))
    else
      match s.translate c.core c.part c.priv .store .flat p.1 with
      | (s, .error x) => (s, .error (stopOf 1 x))
      | (s, .ok t) =>
        if s.paKind (t.pa p.1) = .reserved then (s, .error (.fail 3))
        else (s, .ok ⟨t.pa p.1, t.mark, (bs.drop (p.1 - va)).take p.2, none⟩)) s (pieces (bs.length / 128 + 2) va bs.length)

/-- The byte a nibble write leaves, over the writes before it. -/
def State.mergeNibbles (s : State) (ps : List Put) : Tab Byte :=
  ps.foldl (fun m p =>
    match p.nibble with
    | some (high, x) =>
      let old := ((tabFind m p.pa).getD (s.memByte p.pa)).toNat
      tabPut m p.pa (BitVec.ofNat 8 (if high then old % 16 + 16 * x else old / 16 * 16 + x))
    | none => m) []

/-- Perform pending writes at the cut (R125): for every agent, the replicas too. -/
def State.publish (s : State) (core : Nat) (ps : List Put) : State :=
  let m := s.mergeNibbles ps
  let st := ps.map fun p => (p.pa, p.attr, match p.nibble with | some _ => [tabGet 0 m p.pa] | none => p.bytes)
  (s.performStores core none (some .dev) st).syncReplicas

/-! Tensor data. -/

/-- Where an element lies: page of the tensor, translation, physical address. -/
structure Spot where
  page : Nat
  trans : Trans
  pa : Nat
  deriving DecidableEq, Repr

def State.spot (s : State) (c : Cmd) (r : TRec) (b : Bool) (acc : Acc) (access : Nat) (cs : List Nat) : Got Spot :=
  let va := r.image b + r.page cs * 65536 + (if r.linear then r.byte 15 cs else 0)
  match s.translate c.core c.part c.priv acc r.use va with
  | (s, .error x) => (s, .error (stopOf access x))
  | (s, .ok t) =>
    let pa := t.frame * 65536 + (if r.linear then va % 65536 else r.byte t.layout cs)
    if s.paKind pa = .reserved then (s, .error (.fail 3)) else (s, .ok ⟨r.page cs, t, pa⟩)

def TRec.bytes (r : TRec) : Nat := max 1 (elemBits r.fmt / 8)

/-- The element at a spot as a number. -/
def State.spotValue (s : State) (c : Cmd) (r : TRec) (cs : List Nat) (p : Spot) : Got Nat :=
  let (bs, bad, s) := s.homeLoad c.core p.pa p.trans.attr r.bytes
  let x := natOfBytes bs
  if bad then (s, .error (.fail 14))
  else (s, .ok (if r.fmt = 7 then (if r.high p.trans.layout cs then x / 16 else x % 16) else x))

/-- Elements at some coordinates, with their spots. -/
def State.engElems (s : State) (c : Cmd) (r : TRec) (b : Bool) (at' : List (List Nat)) : Got (List (Nat × Spot)) :=
  collect (fun s cs =>
    match s.spot c r b .load 4 cs with
    | (s, .error e) => (s, .error e)
    | (s, .ok p) =>
      match s.spotValue c r cs p with
      | (s, .error e) => (s, .error e)
      | (s, .ok x) => (s, .ok (x, p))) s at'

/-- One report per page of a command (R102): class 0 XRUN, 1 YRUN. -/
def State.reportSpots (s : State) (c : Cmd) (r : TRec) (tid cls : Nat) (ps : List Spot) : State :=
  (ps.foldl (fun (s, seen) p =>
    if seen.contains p.page then (s, seen)
    else
      let s := if s.env.defer then
          { s with home := { s.home with
              reports := s.home.reports ++ [⟨c.part, tid, p.page, cls, 0, s.slice (p.trans.frame * 65536)⟩] } }
        else s.report r c.part tid p.page cls 0 ⟨p.trans.frame, p.trans.layout, p.trans.leaf⟩
      (s, p.page :: seen)) (s, ([] : List Nat))).1

/-- Bytes of elements: two F4X codes to a byte, low nibble first. -/
def packElems (bits : Nat) : List Nat → List Byte
  | [] => []
  | [x] => bytesOfNat (max 1 (bits / 8)) x
  | x :: y :: r =>
    if bits = 4 then BitVec.ofNat 8 (x + 16 * y) :: packElems bits r
    else bytesOfNat (bits / 8) x ++ packElems bits (y :: r)

/-- The elements of bytes. -/
def unpackElems (bits n : Nat) (bs : List Byte) : List Nat :=
  (List.range n).map fun k =>
    if bits = 4 then (fieldAt bs (k / 2) 1 / (if k % 2 = 1 then 16 else 1)) % 16
    else fieldAt bs (k * (bits / 8)) (bits / 8)

/-- The place of one element, with the value to write. -/
def State.elemPut (s : State) (c : Cmd) (r : TRec) (b : Bool) (x : List Nat × Nat) : Got (Put × Spot) :=
  match s.spot c r b .store 5 x.1 with
  | (s, .error e) => (s, .error e)
  | (s, .ok p) =>
    let put : Put := if r.fmt = 7 then ⟨p.pa, p.trans.mark, [], some (r.high p.trans.layout x.1, x.2)⟩
      else ⟨p.pa, p.trans.mark, bytesOfNat r.bytes x.2, none⟩
    (s, .ok (put, p))

/-- The places of elements in every image (R112): image B follows image A. -/
def State.elemPuts (s : State) (c : Cmd) (r : TRec) (xs : List (List Nat × Nat)) : Got (List (Put × Spot)) :=
  let all := xs.map (fun x => (false, x)) ++ if r.paired then xs.map (fun x => (true, x)) else []
  collect (fun s (y : Bool × List Nat × Nat) => s.elemPut c r y.1 y.2) s all

/-- Coordinates of element `e` of row `r` of a tile. -/
def tileAt (o : List Nat) (e r : Nat) : List Nat := (o.set 0 (coord o 0 + e)).set 1 (coord o 1 + r)

/-- The records a command captured. -/
def Cmd.recs (c : Cmd) : List TRec := c.tensors.filterMap parseTRec

/-! Matrix operands (R69, R291, R295). -/

def fmtOf : Nat → Fmt
  | 1 => fp64 | 2 => fp32 | 3 => bf16 | 4 => fp16 | 5 => e4m3 | _ => e5m2

/-- The value of an operand element; an I8 is an integer. -/
def elemNum (fmt x : Nat) : Num :=
  if fmt = 0x0B then .fin (bitOf x 7) (if bitOf x 7 then 256 - x else x) 0 else (fmtOf fmt).decode x

/-- The first `n` elements of a row of a K-step; F4X blocks carry their scales. -/
def rowNums (fmt n : Nat) (row : List Byte) (scales : List (BitVec 16)) : List Num :=
  (unpackElems (elemBits fmt) n row).zipIdx.map fun (x, k) =>
    if fmt = 7 then
      let sc := (scales.getD (k / 32) 0).toNat
      (f4xDecode x (sc % 256) (sc / 256)).1
    else elemNum fmt x

def numInt : Num → Int
  | .fin n m e => scaled n m e 0
  | _ => 0

/-- Group size of an operand format. -/
def groupSize (fmt : Nat) : Nat := if fmt = 7 then 32 else if fmt = 1 then 8 else 16

/-- One K-step of one element (R69): the accumulator after it. -/
def kstepElem (ty fmt acc : Nat) (a b : List Num) : Nat :=
  let ps := (a.zip b).map fun (x, y) => (x.mul y).1
  match ty with
  | 0 => sumGroups fp32 (groupSize fmt) acc ps
  | 1 => sumGroups fp64 (groupSize fmt) acc ps
  | _ => (BitVec.ofInt 32 ((acc : Int) + numInt (groupSum ps))).toNat

/-- The audit's recomputation of one element over one K-step (R78). -/
def auditElem (ty acc : Nat) (a b : List Num) : Nat :=
  let f := if ty = 1 then fp64 else fp32
  (a.zip b).foldl (fun acc (x, y) => f.rne (x.fma .rne y (f.decode acc)).1) acc

/-- The decoded rows of a K-step of one quarter: A and B. -/
structure Quarter where
  a : List (List Num)
  b : List (List Num)
  deriving DecidableEq, Repr

/-- Which quarter of a handle an element lies in, and its row and column there (R45, R294). -/
def Handle.quarter (h : Handle) (ty r c : Nat) : Nat × Nat × Nat :=
  let w := if ty = 1 then 96 else 192
  match h.kind with
  | .split => (2 * (r / 128) + c / w, r % 128, c % w)
  | _ => (0, r, c)

/-- Operand rows of element (i, j). -/
def operandsAt (h : Handle) (ty : Nat) (qs : List Quarter) (i j : Nat) : List Num × List Num :=
  let (q, r, c) := h.quarter ty i j
  let k := qs.getD q ⟨[], []⟩
  (k.a.getD r [], k.b.getD c [])

/-- One K-step of a tile of `n` columns, row by row. -/
def kstepTile (h : Handle) (ty fmt n : Nat) (qs : List Quarter) (tile : List Nat) : List Nat :=
  tile.zipIdx.map fun (acc, k) =>
    let (a, b) := operandsAt h ty qs (k / n) (k % n)
    kstepElem ty fmt acc a b

def kstepAudit (h : Handle) (ty n : Nat) (qs : List Quarter) (tile : List Nat) : List Nat :=
  tile.zipIdx.map fun (acc, k) =>
    let (a, b) := operandsAt h ty qs (k / n) (k % n)
    auditElem ty acc a b

/-! Tiles of handles. -/

/-- Log an error of a matrix engine's memories: class 6 when it was corrected, else class 7 (R96, R97, R184). -/
def State.logEngine (s : State) (cls e : Nat) : State :=
  let (x, s) := s.syndrome
  s.logEvent cls (320 + e) (s.clusterOwner (e / 8)) 0 x

/-- Correctable errors in the accumulator words a command reads: each is logged, and the word rewritten (R96). -/
def State.correctAcc (s : State) (ws : List (Nat × Nat)) (e : Nat) : State :=
  let hit := (s.core e).eng.accSoft.filter fun w => ws.any fun (f, i) => f = e && i / 2 = w
  if hit.isEmpty then s
  else (hit.foldl (fun s _ => s.logEngine 6 e) s).modEng e fun n => { n with
    accSoft := n.accSoft.filter fun w => !hit.contains w }

/-- Read elements of a handle; an uncorrectable word fails the command and is logged (R97). -/
def State.readTile (s : State) (h : Handle) (ty : Nat) (at' : List (Nat × Nat)) : Got (List Nat) :=
  let s := h.engines.foldl (State.correctAcc · (at'.map fun (r, k) => h.place ty r k)) s
  match at'.find? fun (r, k) => s.tileBad h ty r k with
  | some (r, k) => (s.logEngine 7 (h.place ty r k).1, .error (.fail 14))
  | none => (s, .ok (at'.map fun (r, k) => s.tileGet h ty r k))

/-- Write elements of a handle; 8-byte words written whole are good again. -/
def State.writeTile (s : State) (h : Handle) (ty : Nat) (xs : List ((Nat × Nat) × Nat)) : State :=
  let words := xs.map fun ((r, k), _) => h.place ty r k
  let s := xs.foldl (fun s ((r, k), x) => s.tilePut h ty r k x) s
  let whole := fun (e w : Nat) => words.contains (e, 2 * w) && (ty = 1 || words.contains (e, 2 * w + 1))
  h.engines.foldl (fun s e => if (s.core e).eng.accBad.isEmpty && (s.core e).eng.accSoft.isEmpty then s
    else s.modEng e fun n => { n with
      accBad := n.accBad.filter fun w => !whole e w
      accSoft := n.accSoft.filter fun w => !whole e w }) s

/-- The coefficients of some cells are read: correctable errors are logged and their words rewritten, an uncorrectable one
fails the command (R96, R97). Each word that holds a coefficient in use is read (DESIGN CHOICE, log 45). -/
def State.readCoefs (s : State) (e : Nat) (cells : List Nat) : Got Unit :=
  let n := (s.core e).eng
  let used := fun (w : Nat) => cells.contains (w / 5) && decide (w % 5 * 4 < n.kg + n.kord)
  let hit := n.coefSoft.filter used
  let s := if hit.isEmpty then s
    else (hit.foldl (fun s _ => s.logEngine 6 e) s).modEng e fun n => { n with
      coefSoft := n.coefSoft.filter fun w => !hit.contains w }
  if n.coefBad.any used then (s.logEngine 7 e, .error (.fail 14)) else (s, .ok ())

/-! Audit entries (R79). -/

/-- Deviations of one element: absolute, relative, and whether exactly one value is NaN. A difference of two equal
infinities, and the ratio to an infinity, are not stated: they are NaN here and become free values. The difference is
rounded to its format before it is divided (DESIGN CHOICE, log 45: R79 does not say whether it is). -/
def deviation (f : Fmt) (x y : Nat) : Num × Num × Bool :=
  let a := f.decode x
  let b := f.decode y
  let mag := fun (n : Num) => match n with | .fin _ m e => Num.fin false m e | .inf _ => .inf false | n => n
  if a.isNan && b.isNan then (.fin false 0 0, .fin false 0 0, false)
  else if a.isNan || b.isNan then (.inf false, .inf false, true)
  else
    let d := f.decode (f.rne (mag (a.add .rne b.neg).1))
    let low := Num.fin false 1 (-126)
    let den := if (mag b).lt low then low else mag b
    (d, f.decode (f.rne (d.div den).1), false)

def worst (ds : List Num) : Num := ds.foldl (fun m d => if m.lt d then d else m) (.fin false 0 0)

/-- A deviation field: the largest, or a free value where an element's is not stated (DESIGN CHOICE, log 7). -/
def State.deviationField (s : State) (ds : List Num) : Nat × State :=
  if ds.any (·.isNan) then
    let (w, s) := s.freeWord
    (w.toNat, s)
  else (fp32.rne (worst ds), s)

/-- The entry of an audited mma, appended to its region's telemetry ring (R79). A row or column whose quotient by 32 is longer
than its field keeps the low 16 bits (DESIGN CHOICE, log 45). -/
def State.appendAudit (s : State) (c : Cmd) (h : Handle) (ty rows cols : Nat) (res : List Nat) : State :=
  let f := if ty = 1 then fp64 else fp32
  let ds := (res.zip c.audit).map fun (x, y) => deviation f x y
  let (ab, s) := s.deviationField (ds.map (·.1))
  let (re, s) := s.deviationField (ds.map (·.2.1))
  let (t, s) := s.stamp (320 + h.engine)
  let tile := fun i => ((c.coords.getD i 0).toNat / 32) % 65536
  let flags := (if ds.any (·.2.2) then 1 else 0) + (if ty = 1 then 2 else 0)
  let e := bytesOfNat 8 t ++ bytesOfNat 2 (320 + h.engine) ++ bytesOfNat 2 c.slotNo ++ bytesOfNat 2 (tile 0) ++
    bytesOfNat 2 (tile 1) ++ bytesOfNat 4 ab ++ bytesOfNat 4 re ++ bytesOfNat 1 rows ++ bytesOfNat 1 cols ++
    bytesOfNat 2 flags ++ bytesOfNat 4 0
  let (s, r) := s.readRcb agentMp c.part c.rcb.toNat
  match r with
  | none => s
  | some r => s.appendRing agentMp c.part c.rcb.toNat 144 r.telebase r.telelog e

/-! Drains (R296, R297). -/

/-- Conversion of an accumulator value to a destination format. -/
def drainConv (ty fmt x : Nat) : Nat :=
  match ty with
  | 0 => (fmtOf fmt).rne (fp32.decode x)
  | 1 => (fmtOf fmt).rne (fp64.decode x)
  | _ => x

/-- ADD of an accumulator value to an element. -/
def drainAdd (ty fmt e x : Nat) : Nat :=
  match ty with
  | 0 => (fmtOf fmt).rne (((fmtOf fmt).decode e).add .rne (fp32.decode x)).1
  | 1 => (fmtOf fmt).rne (((fmtOf fmt).decode e).add .rne (fp64.decode x)).1
  | _ => (e + x) % 2 ^ 32

/-- An FP32 value to a whole power, formed exactly and rounded once. -/
def powRound (x n : Nat) : Nat :=
  match fp32.decode x with
  | .fin neg m e => fp32.rne (.fin (neg && n % 2 = 1) (m ^ n) (e * n))
  | v => fp32.rne v

/-- The ADAM update of one element (R297): w, m and v after it; none leaves it unchanged. -/
def adamStep (p : List Byte) (x w m v : Nat) : Option (Nat × Nat × Nat) :=
  let f := fun o => fieldAt p o 4
  let b1 := f 4
  let b2 := f 8
  let c1 := eSub f32One (powRound b1 (f 20))
  let c2 := eSub f32One (powRound b2 (f 20))
  let g := eMul x (f 24)
  let m1 := eAdd (eMul b1 m) (eMul (eSub f32One b1) g)
  let v1 := eAdd (eMul b2 v) (eMul (eSub f32One b2) (eMul g g))
  let mh := eDiv m1 c1
  let vh := eDiv v1 c2
  if f32Nan g || f32Nan mh || f32Nan vh then none
  else
    let vh := if f32Lt vh 0 || f32Eq vh 0 then 0 else vh
    let den := eAdd (eSqrt vh) (f 12)
    let u := eAdd (eDiv mh den) (eMul (f 16) w)
    some (eSub w (eMul (f 0) u), m1, v1)

end Sys2Proof.Machine
end

