-- ==== Sys2Proof/Machine/Engines.lean ====
section
/-! DEFINITION. Engine commands at work: their order, start, K-steps and completion (spec/07_queues.md R138, R139,
spec/13_pack_instructions.md R287-R303, spec/06_ordering.md R124-R126). Each event runs one command. -/
namespace Sys2Proof.Machine

/-! Order (R138, R288). -/

/-- Whether two commands use one feed of a copy engine, or share a matrix engine. -/
def Cmd.contends (a b : Cmd) : Bool :=
  if a.feed < 3 then b.feed = a.feed && b.core = a.core
  else b.feed = 3 && a.engines.any fun e => b.engines.contains e

/-- (TIME, source) order of issue; commands of one core also by number. -/
def Cmd.before (i : Nat) (a : Cmd) (j : Nat) (b : Cmd) : Bool :=
  if a.time ≠ b.time then a.time < b.time else if a.core ≠ b.core then a.core < b.core else i < j

/-- Whether every earlier command of its feed or engines has ended; a drain held for its region has left its engine, and so has
a command that is stopped while its group is away (R196). -/
def State.cmdFirst (s : State) (id : Nat) (c : Cmd) : Bool :=
  s.cmds.all fun (j, d) => j = id || d.orphan || d.state == .stopped || !c.contends d || Cmd.before id c j d

/-! Ends of an attempt. -/

/-- Whether the pack that issued the command still has live threads. -/
def State.issuerLive (s : State) (c : Cmd) : Bool :=
  s.allPacks.any fun p => p.group = c.group && p.packNo = c.packNo && p.live != 0

/-- The command fails, or parks on a page; a drain whose pack has exited is held for its region (R193, R287). -/
def State.stopCmd (s : State) (id : Nat) (c : Cmd) : Stop → State
  | .fail d => { s with cmds := tabPut s.cmds id { c with fail := d, state := .ready } }
  | .page st2 ad acc =>
    let orphan := c.orphan || (isDrain c.instr && !s.issuerLive c)
    let s := { s with cmds := tabPut s.cmds id { c with state := .parked, orphan := orphan } }
    s.requestPage c.part c.core st2 acc ad (.cmd id) orphan

/-- The command's data stands ready to be published. -/
def Cmd.stage (c : Cmd) (bs : List Byte) (n : Nat) : Cmd := { c with shadow := bs, bytes := n, staged := true, state := .ready }

/-- An attempt's outcome becomes the command's state. -/
def State.settleCmd (id : Nat) (c : Cmd) : Got Cmd → State
  | (s, .error e) => s.stopCmd id c e
  | (s, .ok c) => { s with cmds := tabPut s.cmds id c }

/-! cpy and cpyg (R289, R290). A copy goes on piece by piece: up to the next 256-byte boundary of its destination, where it
may be stopped (R196), or the next 8-byte word of a vault, which takes its words one by one (R126). -/

/-- One side of a copy: kind, base address, pitch, and a tensor's record, tid and origin. -/
structure Side where
  kind : Nat
  base : Nat
  pitch : Nat
  tensor : Option (TRec × List Nat)
  deriving DecidableEq, Repr

def cpySide (c : Cmd) (dst : Bool) : Side :=
  let b := c.record
  let t := cpySides b c.recs c.coords
  ⟨cpyKind b dst, fieldAt b (if dst then 8 else 0) 8, fieldAt b (if dst then 28 else 24) 4, if dst then t.2 else t.1⟩

/-- Bytes of a row of `w` elements of a tensor side, or of `w` bytes. -/
def rowBytes (a d : Option (TRec × List Nat)) (w : Nat) : Nat :=
  match a, d with
  | some (t, _), _ | none, some (t, _) => ceilDiv (w * elemBits t.fmt) 8
  | none, none => w

def Cmd.isCopy (c : Cmd) : Bool := match c.instr with | .cpy .. | .cpyg .. => true | _ => false

/-- The destination of a copy. -/
def Cmd.copyDst (c : Cmd) : Side :=
  let b := c.record
  match c.instr with
  | .cpyg .. => ⟨fieldAt b 10 1, fieldAt b 0 8, fieldAt b 24 4, none⟩
  | _ => cpySide c true

/-- Bytes of a row of a copy, and its rows. -/
def Cmd.copySize (c : Cmd) : Nat × Nat :=
  let b := c.record
  match c.instr with
  | .cpyg .. => (ceilDiv (fieldAt b 20 4 * match c.recs with | t :: _ => elemBits t.fmt | [] => 8) 8, fieldAt b 16 4)
  | _ => (rowBytes (cpySide c false).tensor (cpySide c true).tensor (fieldAt b 20 4), fieldAt b 16 2)

/-- A piece of a copy: its row, the first byte in the row, how many, and where they go in flat memory or a vault. -/
structure Piece where
  row : Nat
  off : Nat
  n : Nat
  dst : Nat
  deriving DecidableEq, Repr

/-- The next piece of a copy that has moved `cursor` bytes; none at its end. The destination of a tensor is counted in the
bytes moved. -/
def Cmd.piece (c : Cmd) : Option Piece :=
  let (n, rows) := c.copySize
  let y := c.copyDst
  let unit := if y.kind = 1 then 8 else 256
  if n * rows ≤ c.cursor then none
  else
    let r := c.cursor / n
    let o := c.cursor % n
    let d := if y.kind = 2 then c.cursor else y.base + r * y.pitch + o
    some ⟨r, o, min (n - o) (unit - d % unit), d⟩

/-- Elements of `bits` bits each that hold the bytes of a piece, in a row of `w`. -/
def Piece.elems (p : Piece) (bits w : Nat) : List Nat :=
  let lo := p.off * 8 / bits
  (List.range (ceilDiv ((p.off + p.n) * 8) bits - lo)).filterMap fun i => if lo + i < w then some (lo + i) else none

/-- The bytes of a piece out of the packed elements that hold them. -/
def Piece.cut (p : Piece) (bits : Nat) (bs : List Byte) : List Byte := (bs.drop (p.off - p.off * 8 / bits * bits / 8)).take p.n

/-- The source bytes of a piece of cpy. -/
def State.readPiece (s : State) (c : Cmd) (p : Piece) : Got (List Byte × List Spot) :=
  let x := cpySide c false
  match x.kind, x.tensor with
  | 2, some (t, o) =>
    let bits := elemBits t.fmt
    match s.engElems c t false ((p.elems bits (fieldAt c.record 20 4)).map fun e => tileAt o e p.row) with
    | (s, .error e) => (s, .error e)
    | (s, .ok vs) => (s, .ok (p.cut bits (packElems bits (vs.map (·.1))), vs.map (·.2)))
  | 1, _ =>
    match s.engVault c (x.base + p.row * x.pitch + p.off) p.n with
    | (s, .error e) => (s, .error e)
    | (s, .ok b) => (s, .ok (b, []))
  | _, _ =>
    match s.engFlat c (x.base + p.row * x.pitch + p.off) p.n with
    | (s, .error e) => (s, .error e)
    | (s, .ok b) => (s, .ok (b, []))

/-- The indices of cpyg, read when it starts and checked before any byte is written. -/
def State.readIndices (s : State) (c : Cmd) : Got Cmd :=
  match c.recs, s.engVault c (fieldAt c.record 12 4) (4 * fieldAt c.record 16 4) with
  | t :: _, (s, .ok ix) =>
    if (wordsOfBytes ix).any fun i => t.dim 1 ≤ i.toNat then (s, .error (.fail 4)) else (s, .ok { c with params := ix })
  | _, (s, .error e) => (s, .error e)
  | [], (s, _) => (s, .error (.fail 3))

/-- The source bytes of a piece of cpyg; the half byte left over by an odd number of F4X elements is a free value (DESIGN
CHOICE, log 7). -/
def State.gatherPiece (s : State) (c : Cmd) (p : Piece) : Got (List Byte × List Spot) :=
  match c.recs with
  | [] => (s, .error (.fail 3))
  | t :: _ =>
    let bits := elemBits t.fmt
    let w := fieldAt c.record 20 4
    let o := (t.origin c.coords).set 1 (fieldAt c.params (4 * p.row) 4)
    match s.engElems c t false ((p.elems bits w).map fun e => tileAt o e 0) with
    | (s, .error e) => (s, .error e)
    | (s, .ok vs) =>
      let odd := bits = 4 && vs.length % 2 = 1
      let (x, s) := if odd then s.freeWord else (0, s)
      (s, .ok (p.cut bits (packElems bits (vs.map (·.1) ++ if odd then [x.toNat % 16] else [])), vs.map (·.2)))

/-- A piece of a vault-to-vault copy, byte by byte in the order of R289. -/
def State.copyVaults (s : State) (src dst : Nat × Nat) (n : Nat) : State :=
  (List.range n).foldl (fun s i => s.vaultWrite dst.1 (dst.2 + i) (s.vaultRead src.1 (src.2 + i) 1)) s

/-- Bytes of a piece go into a vault, or to what the command will publish. -/
def State.deliverPiece (s : State) (c : Cmd) (p : Piece) (bs : List Byte) : Got Cmd :=
  let y := c.copyDst
  if y.kind ≠ 1 then (s, .ok { c with shadow := c.shadow ++ bs })
  else
    let x := cpySide c false
    match s.vaultSpan c.part c.group p.dst p.n with
    | none => (s, .error (.fail 3))
    | some q =>
      if x.kind = 1 && (match c.instr with | .cpy .. => true | _ => false) then
        match s.vaultSpan c.part c.group (x.base + p.row * x.pitch + p.off) p.n with
        | some o => (s.copyVaults o q p.n, .ok c)
        | none => (s, .error (.fail 3))
      else (s.vaultWrite q.1 q.2 bs, .ok c)

/-- Pages of a source tensor that a copy has not yet reported (R102). -/
def State.reportPiece (s : State) (c : Cmd) (ps : List Spot) : State × Cmd :=
  let new := ps.filter fun p => !c.tile.contains p.page
  match c.recs with
  | t :: _ =>
    if new.isEmpty then (s, c)
    else
      let tid := match c.instr with | .cpyg .. => fieldAt c.record 8 2 | _ => fieldAt c.record 0 2
      (s.reportSpots c t tid 0 new, { c with tile := (c.tile ++ new.map (·.page)).eraseDups })
  | [] => (s, c)

/-- A copy moves its next piece; after the last its data stands ready. -/
def State.copyStep (s : State) (c : Cmd) : Got Cmd :=
  let total := c.copySize.1 * c.copySize.2
  match c.piece with
  | none => (s, .ok (c.stage c.shadow total))
  | some p =>
    match (match c.instr with | .cpyg .. => s.gatherPiece c p | _ => s.readPiece c p) with
    | (s, .error e) => (s, .error e)
    | (s, .ok (bs, ps)) =>
      let (s, c) := s.reportPiece c ps
      match s.deliverPiece c p bs with
      | (s, .error e) => (s, .error e)
      | (s, .ok c) =>
        let c := { c with cursor := c.cursor + p.n, state := .running }
        (s, .ok (if total ≤ c.cursor then c.stage c.shadow total else c))

/-- A copy starts, or goes on after it was stopped or parked. -/
def State.startCopy (s : State) (c : Cmd) : Got Cmd :=
  match c.instr with
  | .cpyg .. =>
    if c.cursor ≠ 0 then s.copyStep c
    else
      match s.readIndices c with
      | (s, .error e) => (s, .error e)
      | (s, .ok c) => s.copyStep c
  | _ => s.copyStep c

/-! cpyf (R291). -/

/-- Scale and spare bytes of the blocks of a row of a K-step. -/
def State.readScales (s : State) (c : Cmd) (t : TRec) (at' : List (List Nat)) : Got (List (BitVec 16)) :=
  if t.fmt ≠ 7 then (s, .ok [])
  else
    let heads := (at'.zipIdx.filter fun (_, k) => k % 32 = 0).map (·.1)
    collect (fun s cs =>
      match s.engFlat c (t.scaleAddr cs) 2 with
      | (s, .error e) => (s, .error e)
      | (s, .ok b) => (s, .ok (BitVec.ofNat 16 (natOfBytes b)))) s heads

/-- One row of K-step `k`. -/
def State.readOperandRow (s : State) (c : Cmd) (t : TRec) (trans : Bool) (k r : Nat) :
    Got ((List Byte × List (BitVec 16)) × List Spot) :=
  let o := t.origin c.coords
  let n := kper t.fmt
  let at' := (List.range n).map fun e => if trans then tileAt o r (k * n + e) else tileAt o (k * n + e) r
  match s.engElems c t (t.paired && trans) at' with
  | (s, .error e) => (s, .error e)
  | (s, .ok vs) =>
    match s.readScales c t at' with
    | (s, .error e) => (s, .error e)
    | (s, .ok sc) => (s, .ok ((packElems (elemBits t.fmt) (vs.map (·.1)), sc), vs.map (·.2)))

/-- The rows quarter `q` of a handle receives: A takes 128 rows, B the quarter's columns (R45, R291). -/
def quarterRows {α : Type} (h : Handle) (bside wide : Bool) (q : Nat) (rows : List α) : List α :=
  let w := if wide then 96 else 192
  match h.kind with
  | .split => if bside then (rows.drop (w * (q % 2))).take w else (rows.drop (128 * (q / 2))).take 128
  | _ => rows

/-- The K-step each engine of the handle receives from command `id`. -/
def ksteps (id : Nat) (c : Cmd) (h : Handle) (wide : Bool) (rows : List (List Byte × List (BitVec 16))) : List (Nat × KStep) :=
  h.engines.zipIdx.map fun (e, q) =>
    let mine := quarterRows h (c.feed = 1) wide q rows
    (e, { owner := c.group, handle := c.handleNo, cmd := id, k := c.cursor, rows := mine.map (·.1), scales := mine.map (·.2) })

def Engine.fifo (e : Engine) (bside : Bool) : List KStep := if bside then e.fifoB else e.fifoA

def Engine.feed (e : Engine) (bside : Bool) (k : KStep) : Engine :=
  if bside then { e with fifoB := e.fifoB ++ [k] } else { e with fifoA := e.fifoA ++ [k] }

/-- Whether the next K-step of a cpyf finds room in every engine it feeds (R139). -/
def State.hasRoom (s : State) (c : Cmd) (h : Handle) : Bool :=
  let rows := fieldAt c.record 4 4
  h.engines.zipIdx.all fun (e, q) =>
    let wide := match c.recs with | t :: _ => t.fmt = 1 | [] => false
    fifoRoom ((s.core e).eng.fifo (c.feed = 1)) (quarterRows h (c.feed = 1) wide q (List.range rows)).length

/-! mma and mmv (R294, R295). -/

/-- Dimensions, accumulator type and operand formats of a matrix command. -/
structure MatDims where
  m : Nat
  n : Nat
  k : Nat
  ty : Nat
  fa : Nat
  fb : Nat
  acc : Bool
  deriving DecidableEq, Repr

def Cmd.dims (c : Cmd) : MatDims :=
  let b := c.record
  let f := fun i => match c.recs[i]? with | some t => t.fmt | none => 0
  match c.instr with
  | .mma .. => ⟨fieldAt b 0 2, fieldAt b 2 2, fieldAt b 4 4, (mmaType (f 0) (f 1)).getD 0, f 0, f 1, fieldAt b 13 1 = 1⟩
  | _ => ⟨fieldAt b 0 2, fieldAt b 2 2, fieldAt b 4 4, (mmaType (f 0) (f 0)).getD 0, f 0, f 0, fieldAt b 11 1 = 1⟩

def Cmd.isMma (c : Cmd) : Bool := match c.instr with | .mma .. => true | _ => false
def Cmd.isMmv (c : Cmd) : Bool := match c.instr with | .mmv .. => true | _ => false

def MatDims.steps (d : MatDims) : Nat := ceilDiv d.k (kper d.fa)
def MatDims.empty (d : MatDims) : Bool := d.m = 0 || d.n = 0

/-- Bytes of one vector of mmv. -/
def MatDims.vectorBytes (d : MatDims) : Nat :=
  if d.fa = 7 then 18 * ceilDiv d.k 32 else ceilDiv (d.k * elemBits d.fa) 8

/-- Elements `lo` to `lo + n - 1` of a captured vector. -/
def vectorNums (fmt lo n : Nat) (v : List Byte) : List Num :=
  (List.range n).map fun i =>
    let k := lo + i
    if fmt = 7 then
      let blk := (v.drop (18 * (k / 32))).take 18
      (f4xDecode ((unpackElems 4 32 blk).getD (k % 32) 0) (fieldAt blk 16 1) (fieldAt blk 17 1)).1
    else elemNum fmt ((unpackElems (elemBits fmt) 1 (v.drop (k * (elemBits fmt / 8)))).getD 0 0)

/-- Heads of the FIFOs of the command's engines: A, and B for mma. -/
def State.fifoHeads (s : State) (c : Cmd) : Option (List (KStep × KStep)) :=
  let hs := c.engines.map fun e =>
    let en := (s.core e).eng
    match en.fifoA.head?, (if c.isMmv then some { owner := c.group, handle := 0, cmd := 0, k := 0, rows := [], scales := [] } else en.fifoB.head?) with
    | some a, some b => some (a, b)
    | _, _ => none
  if hs.any (·.isNone) then none else some (hs.filterMap id)

/-- Rows of a K-step that a quarter needs. -/
def needRows (h : Handle) (d : MatDims) (q : Nat) : Nat × Nat :=
  let w := if d.ty = 1 then 96 else 192
  match h.kind with
  | .split => (min 128 (d.m - 128 * (q / 2)), min w (d.n - w * (q % 2)))
  | _ => (d.m, d.n)

/-- Whether the heads have fewer rows than the command uses (DETAIL 13). -/
def tooFew (c : Cmd) (h : Handle) (d : MatDims) (hs : List (KStep × KStep)) : Bool :=
  hs.zipIdx.any fun ((a, b), q) =>
    let (m, n) := needRows h d q
    (m ≠ 0 && n ≠ 0) && (a.rows.length < m || (!c.isMmv && b.rows.length < n))

/-- The decoded operands of one K-step. -/
def Cmd.quarters (c : Cmd) (h : Handle) (d : MatDims) (hs : List (KStep × KStep)) : List Quarter :=
  let lo := c.cursor * kper d.fa
  let n := min (kper d.fa) (d.k - lo)
  let nums := fun (f : Nat) (k : KStep) => k.rows.zipIdx.map fun (r, i) => rowNums f n r (k.scales.getD i [])
  let vec := fun (q : Nat) => quarterRows h true (d.ty = 1) q
    ((List.range d.n).map fun i => vectorNums d.fa lo n ((c.shadow.drop (i * d.vectorBytes)).take d.vectorBytes))
  hs.zipIdx.map fun ((a, b), q) => ⟨nums d.fa a, if c.isMmv then vec q else nums d.fb b⟩

def Engine.eat (e : Engine) (b : Bool) : Engine :=
  { e with fifoA := e.fifoA.drop 1, fifoB := if b then e.fifoB.drop 1 else e.fifoB }

/-- K-steps of a command in the FIFOs of an engine. -/
def Engine.fedBy (e : Engine) (id : Nat) : List KStep := (e.fifoA ++ e.fifoB).filter fun k => k.cmd = id

/-- K-steps of a command that stand in some FIFO. -/
def State.fedBy (s : State) (id : Nat) : List KStep := s.cores.flatMap fun (_, k) => k.eng.fedBy id

/-- Cpyf commands that have signalled are kept only while K-steps of theirs remain. -/
def State.pruneFed (s : State) (ids : List Nat) : State :=
  let gone := ids.filter fun id => (s.fedBy id).isEmpty
  if s.cores.all fun (_, k) => k.fed.all fun (id, _) => !gone.contains id then s
  else { s with cores := s.cores.map fun (c, k) => (c, { k with fed := k.fed.filter fun (id, _) => !gone.contains id }) }

/-- The engines take the heads of their FIFOs: corrected words are logged, and so are uncorrectable ones, which fail the
command (R96, R97). -/
def State.takeHeads (s : State) (c : Cmd) (hs : List (KStep × KStep)) : State × Bool :=
  let s := c.engines.foldl (fun s e => s.modEng e (·.eat c.isMma)) s
  let s := s.pruneFed (hs.flatMap fun (a, b) => [a.cmd, b.cmd])
  let marks := (c.engines.zip hs).flatMap fun (e, a, b) => [(e, a), (e, b)]
  let s := marks.foldl (fun s (e, k) => if k.bad then s.logEngine 7 e else if k.soft then s.logEngine 6 e else s) s
  (s, marks.any fun (_, k) => k.bad)

/-- Audit window of a result. -/
def MatDims.window (d : MatDims) : Nat × Nat := (min d.m 32, min d.n 32)

/-- The result reaches the handle, and an audited command its ring. -/
def State.finishMat (s : State) (id : Nat) (c : Cmd) (h : Handle) (d : MatDims) : State :=
  let s := s.writeTile h d.ty ((positions d.m d.n).zip c.tile)
  let (wm, wn) := d.window
  let res := (positions wm wn).map fun (r, k) => c.tile.getD (r * d.n + k) 0
  let s := if c.audited then s.appendAudit c h d.ty wm wn res else s
  { s with cmds := tabPut s.cmds id { c with state := .ready } }

/-- Take K-steps while they stand ready, `n` at most. -/
def State.advanceMat (s : State) (id : Nat) : Nat → State
  | 0 => s
  | n + 1 =>
    match tabFind s.cmds id with
    | none => s
    | some c =>
      let d := c.dims
      match c.handle with
      | none => s
      | some h =>
        if c.state != .running || !(c.isMma || c.isMmv) then s
        else if d.empty || d.steps ≤ c.cursor then s.finishMat id c h d
        else
          match s.fifoHeads c with
          | none => s
          | some hs =>
            let (s, bad) := s.takeHeads c hs
            if bad then s.stopCmd id c (.fail 14)
            else if tooFew c h d hs then s.stopCmd id c (.fail 13)
            else
              let qs := c.quarters h d hs
              let (_, wn) := d.window
              let c' := { c with
                cursor := c.cursor + 1, tile := kstepTile h d.ty d.fa d.n qs c.tile
                audit := if c.audited then kstepAudit h d.ty wn qs c.audit else c.audit }
              State.advanceMat { s with cmds := tabPut s.cmds id c' } id n

/-- Steps that can remain to a command, and its finish. -/
def Cmd.stepsLeft (c : Cmd) : Nat := c.dims.steps - c.cursor + 2

def State.advanceCmd (s : State) (id : Nat) : State :=
  match tabFind s.cmds id with
  | some c => s.advanceMat id c.stepsLeft
  | none => s

/-- Matrix commands that run on an engine go on when its FIFOs have been fed. -/
def State.advanceOn (s : State) (engines : List Nat) : State :=
  (s.cmds.filter fun (_, c) => (c.isMma || c.isMmv) && c.state == .running && c.engines.any fun e => engines.contains e).foldl
    (fun s (id, _) => s.advanceCmd id) s

/-- The vectors of mmv, read at its start. -/
def State.readVectors (s : State) (c : Cmd) (d : MatDims) : Got (List Byte) :=
  if !c.isMmv then (s, .ok [])
  else
    match collect (fun s i => s.engVault c (fieldAt c.record 12 4 + i * fieldAt c.record 16 4) d.vectorBytes) s
      (if d.vectorBytes = 0 then [] else List.range d.n) with
    | (s, .error e) => (s, .error e)
    | (s, .ok bs) => (s, .ok bs.flatten)

/-- Count an mma towards its handle's audit (R78): whether it is audited. -/
def State.countAudit (s : State) (c : Cmd) (d : MatDims) : State × Bool :=
  let n := if c.isMma then fieldAt c.record 14 2 else 0
  if n = 0 || d.ty = 2 then (s, false)
  else
    let k := match s.heldHandle c.group c.handleNo with | some h => h.audit | none => 0
    (s.modGroup c.group fun g => { g with handles := tabMod g.handles c.handleNo fun h => { h with audit := k + 1 } }, k % n = 0)

/-- Start of mma and mmv: the tile starts from zero or from the handle. A command that fails here, as its accumulators are
uncorrectable, is not counted towards the audit; one that fails later is (DESIGN CHOICE, log 45: R78 does not say). -/
def State.startMat (s : State) (c : Cmd) : Got Cmd :=
  let d := c.dims
  match c.handle with
  | none => (s, .error (.fail 13))
  | some h =>
    match s.readVectors c d with
    | (s, .error e) => (s, .error e)
    | (s, .ok vs) =>
      let (wm, wn) := d.window
      match (if d.acc then s.readTile h d.ty (positions d.m d.n) else (s, .ok ((positions d.m d.n).map fun _ => 0))) with
      | (s, .error e) => (s, .error e)
      | (s, .ok tile) =>
        let (s, au) := s.countAudit c d
        (s, .ok { c with
          state := .running, shadow := vs, tile := tile, audited := au
          audit := if au then (positions wm wn).map fun (r, k) => tile.getD (r * d.n + k) 0 else [] })

/-! accdrain (R296, R297). -/

def Cmd.drainMode (c : Cmd) : Nat := fieldAt c.record 3 1
def Cmd.drainShape (c : Cmd) : Nat × Nat := (fieldAt c.record 4 2, fieldAt c.record 6 2)
def Cmd.drainZero (c : Cmd) : Bool := match c.instr with | .accdrain _ _ _ _ z _ => z | _ => false

/-- Start of a drain: the tile is taken. -/
def State.startDrain (s : State) (c : Cmd) : Got Cmd :=
  match c.handle with
  | none => (s, .error (.fail 13))
  | some h =>
    let (r, k) := c.drainShape
    match s.readTile h h.acc (positions r k) with
    | (s, .error e) => (s, .error e)
    | (s, .ok t) => (s, .ok { c with tile := t, staged := true, state := .ready })

/-- Coordinates of the drained elements, row by row. -/
def Cmd.drainCoords (c : Cmd) (t : TRec) : List (List Nat) :=
  let (r, k) := c.drainShape
  (positions r k).map fun (i, j) => tileAt (t.origin c.coords) j i

/-- F4X blocks of a STORE: the elements and the scale bytes. -/
def State.f4xPuts (s : State) (c : Cmd) (t : TRec) : Got (List (Put × Spot)) :=
  let blocks := (chunks 32 c.tile.length c.tile).map fun xs => (f4xEncode (xs.map fp32.decode)).1
  let at' := c.drainCoords t
  match s.elemPuts c t (at'.zip (blocks.flatMap (·.codes))) with
  | (s, .error e) => (s, .error e)
  | (s, .ok ps) =>
    let heads := (at'.zipIdx.filter fun (_, i) => i % 32 = 0).map (·.1)
    match collect (fun s (x : List Nat × F4xBlock) =>
        s.engPlace c (t.scaleAddr x.1) [BitVec.ofNat 8 x.2.scale, BitVec.ofNat 8 x.2.spare]) s (heads.zip blocks) with
    | (s, .error e) => (s, .error e)
    | (s, .ok qs) =>
      match ps with
      | [] => (s, .ok [])
      | (_, sp) :: _ => (s, .ok (ps ++ qs.flatten.map fun p => (p, sp)))

/-- STORE and ADD: the writes of a drain. -/
def State.drainPuts (s : State) (c : Cmd) (h : Handle) (t : TRec) : Got (List (Put × Spot)) :=
  if t.fmt = 7 then s.f4xPuts c t
  else
    let at' := c.drainCoords t
    if c.drainMode = 0 then s.elemPuts c t (at'.zip (c.tile.map (drainConv h.acc t.fmt)))
    else
      match s.engElems c t false at' with
      | (s, .error e) => (s, .error e)
      | (s, .ok old) =>
        s.elemPuts c t (at'.zip ((old.zip c.tile).map fun (o, x) => drainAdd h.acc t.fmt o.1 x))

/-- ADAM: the writes to w, m and v, where each was read, and the elements skipped. -/
def State.adamPuts (s : State) (c : Cmd) (w m v : TRec) : Got (List (List (Put × Spot)) × List (List Spot) × Nat) :=
  let at' := c.drainCoords w
  match collect (fun s (t : TRec) => s.engElems c t false at') s [w, m, v] with
  | (s, .ok [ws, ms, vs]) =>
    let new := ((c.tile.zip ws).zip (ms.zip vs)).map fun ((x, a), (b, d)) => adamStep c.params x a.1 b.1 d.1
    let pick := fun (f : Nat × Nat × Nat → Nat) => (at'.zip new).filterMap fun (cs, n) => n.map fun n => (cs, f n)
    let skip := (new.filter (·.isNone)).length
    match collect (fun s (x : TRec × List (List Nat × Nat)) => s.elemPuts c x.1 x.2) s
        [(w, pick (·.1)), (m, pick (·.2.1)), (v, pick (·.2.2))] with
    | (s, .error e) => (s, .error e)
    | (s, .ok ps) => (s, .ok (ps, [ws, ms, vs].map (·.map (·.2)), skip))
  | (s, .error e) => (s, .error e)
  | (s, _) => (s, .error (.fail 3))

/-- Reports of the pages a drain reads or writes (R102). -/
def State.reportAll (s : State) (c : Cmd) (ts : List (TRec × Nat × List Spot)) : State :=
  ts.foldl (fun s (t, tid, ps) => s.reportSpots c t tid 0 ps) s

/-- The cut of a drain: everything it writes, then the zeroing of what it drained. -/
def State.cutDrain (s : State) (c : Cmd) : Got Cmd :=
  let zero := fun (s : State) (h : Handle) =>
    if c.drainZero && (s.group c.group).isSome then
      s.writeTile h h.acc ((positions c.drainShape.1 c.drainShape.2).map fun x => (x, 0))
    else s
  match c.handle, c.recs with
  | some h, [t] =>
    match s.drainPuts c h t with
    | (s, .error e) => (s, .error e)
    | (s, .ok ps) =>
      let s := (s.publish c.core (ps.map (·.1))).reportAll c [(t, fieldAt c.record 0 2, ps.map (·.2))]
      (zero s h, .ok { c with bytes := (ps.map fun (p, _) => 2 * p.bytes.length + if p.nibble.isSome then 1 else 0).sum / 2 })
  | some h, [w, m, v] =>
    match s.adamPuts c w m v with
    | (s, .error e) => (s, .error e)
    | (s, .ok (ps, at', skip)) =>
      let s := s.publish c.core (ps.flatten.map (·.1))
      let s := s.reportAll c ((w, fieldAt c.record 0 2, at'.getD 0 []) :: (m, fieldAt c.record 8 2, at'.getD 1 []) ::
        [(v, fieldAt c.record 10 2, at'.getD 2 [])])
      let (s, n) := s.rcbField agentMp c.part c.rcb.toNat 132 4
      let s := if skip = 0 then s else s.setRcbField agentMp c.part c.rcb.toNat 132 4 (min 0xFFFFFFFF (n + skip))
      (zero s h, .ok { c with bytes := (ps.flatten.map fun (p, _) => p.bytes.length).sum })
  | _, _ => (s, .error (.fail 13))

/-! accreduce (R70, R298). -/

def Cmd.isReduce (c : Cmd) : Bool := match c.instr with | .accreduce .. => true | _ => false

/-- The command of a core that takes part and waits at the head of its engine. -/
def State.reducing (s : State) (core : Nat) : Option (Nat × Cmd) :=
  s.cmds.find? fun (_, c) => c.core = core && c.state == .running && c.isReduce && !c.staged

/-- A value in the tree: the participant that holds it. -/
abbrev Branch := Option (Nat × List Nat)

/-- One pair of the tree: the left operand is the lower core's; what the holder received is noted. -/
def joinPair (a b : Branch) : Branch × List (Nat × List Nat) :=
  match a, b with
  | some (h, x), some (_, y) => (some (h, (x.zip y).map fun (p, q) => eAdd p q), [(h, y)])
  | none, b => (b, [])
  | a, none => (a, [])

/-- One level of the tree. -/
def joinLevel : List Branch → List Branch × List (Nat × List Nat)
  | a :: b :: rest =>
    let (v, r) := joinPair a b
    let (vs, rs) := joinLevel rest
    (v :: vs, r ++ rs)
  | l => (l, [])

/-- The tree over 8 positions: the result, and the partner tiles received, level by level. -/
def reduceTree (l : List Branch) : Branch × List (Nat × List Nat) :=
  let (l1, r1) := joinLevel l
  let (l2, r2) := joinLevel l1
  let (l3, r3) := joinLevel l2
  ((l3.headD none), r1 ++ r2 ++ r3)

/-- Whether the participants agree: one CLUSTER node, equal fields (R298). -/
def State.reduceAgrees (s : State) (cs : List Cmd) : Bool :=
  match cs with
  | [] => true
  | c :: rest =>
    let cluster := match tabFind s.sched.nodes c.slotNo with | some n => bitOf n.flags 0 | none => false
    cluster && rest.all fun d => d.part = c.part && d.slotNo = c.slotNo && (d.record.drop 1).take 11 = (c.record.drop 1).take 11

def State.endReduce (s : State) (ids : List Nat) (fail bytes : Nat) : State :=
  ids.foldl (fun s id => s.modCmd id fun c => { c with state := .ready, fail := fail, bytes := bytes }) s

/-- The buffer of a participant: core and offset, when it lies in its group's allocation. -/
def State.reduceBuffer (s : State) (c : Cmd) (n : Nat) : Option (Nat × Nat) :=
  match s.group c.group with
  | some g => if fieldAt c.record 8 4 + n ≤ g.vbytes then some (g.core, g.vbase + fieldAt c.record 8 4) else none
  | none => none

/-- A participant's reduction is done but for the words of its buffer, which are written one by one (R126). -/
def Cmd.reduced (c : Cmd) (t : Option (List Nat)) : Cmd :=
  match t with
  | none => { c with state := .ready, staged := true }
  | some xs => { c with shadow := xs.flatMap (bytesOfNat 4), staged := true, bytes := 4 * xs.length }

/-- The next 8-byte word of the buffer of an accreduce. -/
def State.reduceStep (s : State) (c : Cmd) : Got Cmd :=
  match s.reduceBuffer c c.shadow.length with
  | none => (s, .error (.fail 3))
  | some (k, o) =>
    let s := s.vaultWrite k (o + 8 * c.cursor) ((c.shadow.drop (8 * c.cursor)).take 8)
    let c := { c with cursor := c.cursor + 1 }
    (s, .ok { c with state := if c.shadow.length ≤ 8 * c.cursor then .ready else .running })

/-- Run a reduction all of whose participants have issued and agree. -/
def State.runReduce (s : State) (base : Nat) (ps : List (Nat × Cmd)) : State :=
  let ids := ps.map (·.1)
  let cs := ps.map (·.2)
  let c0 := cs.headD
    { core := 0, engines := [], feed := 3, instr := .splrefine 0 0 false, record := [], params := [], coords := [],
      tensors := [], signal := .nothing, packNo := 0, group := 0, part := 0, rcb := 0, slotNo := 0, priv := .user, time := 0,
      handle := none, handleNo := 0 }
  let rows := fieldAt c0.record 2 2
  let cols := fieldAt c0.record 4 2
  let at' := positions rows cols
  let bufs := cs.map fun c => (c.core, s.reduceBuffer c (rows * cols * 4))
  if bufs.any fun (_, b) => b.isNone then s.endReduce ids 3 0
  else
    match collect (fun s (c : Cmd) => match c.handle with
        | some h => s.readTile h 0 at'
        | none => (s, .error (.fail 13))) s cs with
    | (s, .error _) => s.endReduce ids 14 0
    | (s, .ok tiles) =>
      let leaf := fun (k : Nat) => ((cs.zip tiles).find? fun (c, _) => c.core = base + k).map fun (c, t) => (c.core, t)
      let (top, got) := reduceTree ((List.range 8).map leaf)
      let s := match top with
        | some (root, t) =>
          match (cs.find? fun c => c.core = root).bind (·.handle) with
          | some h => s.writeTile h 0 (at'.zip t)
          | none => s
        | none => s
      ps.foldl (fun s (id, c) => s.modCmd id fun d => d.reduced ((got.filter fun (h, _) => h = c.core).getLast?.map (·.2))) s

/-- Cores of a cluster that PARTS name, and those that the waiting commands of these name in turn. -/
def State.partners (s : State) (base : Nat) : Nat → List Nat → List Nat
  | 0, l => l
  | n + 1, l =>
    s.partners base n (l ++ l.flatMap fun k => match s.reducing (base + k) with
      | some (_, c) => partsOf c.record
      | none => []).eraseDups

/-- A command that has started waits until every participant has. A waiting command that names its core, and all of whose participants
have issued, then runs with them; if they do not agree, all that wait with them fail. -/
def State.tryReduce (s : State) (id : Nat) : State :=
  match tabFind s.cmds id with
  | none => s
  | some c =>
    let base := c.core / 8 * 8
    let waiting := fun (ks : List Nat) => ks.filterMap fun k => s.reducing (base + k)
    let issued := fun (ks : List Nat) => ks.contains (c.core % 8) && ks.all fun k => (s.reducing (base + k)).isSome
    if !c.isReduce || c.staged then s
    else
      match (waiting (List.range 8)).find? fun (_, w) => issued (partsOf w.record) with
      | none => s
      | some (_, w) =>
        let ps := waiting (partsOf w.record)
        if s.reduceAgrees (ps.map (·.2)) then s.runReduce base ps
        else s.endReduce ((waiting (s.partners base 8 (partsOf w.record))).map (·.1)) 13 0

/-! Spline commands (R299-R303). -/

/-- FP32 vectors of a spline command. -/
def State.splineVectors (s : State) (c : Cmd) (base pitch n : Nat) : Got (List (List Nat)) :=
  match collect (fun s i => s.engVault c (base + i * pitch) (4 * n)) s (List.range (fieldAt c.record 14 1)) with
  | (s, .error e) => (s, .error e)
  | (s, .ok bs) => (s, .ok (bs.map fun b => (wordsOfBytes b).map (·.toNat)))

def State.splineInputs (s : State) (c : Cmd) (dy : Bool) : Got (List (List Nat) × List (List Nat)) :=
  let b := c.record
  match s.splineVectors c (fieldAt b 0 4) (fieldAt b 8 2) (fieldAt b 12 1) with
  | (s, .error e) => (s, .error e)
  | (s, .ok xs) =>
    if !dy then (s, .ok (xs, []))
    else
      match s.splineVectors c (fieldAt b 4 4) (fieldAt b 10 2) (fieldAt b 13 1) with
      | (s, .error e) => (s, .error e)
      | (s, .ok ys) => (s, .ok (xs, ys))

/-- splload (R300). -/
def State.startLoad (s : State) (c : Cmd) : Got Cmd :=
  let b := c.record
  let nout := fieldAt b 10 1
  let nin := fieldAt b 11 1
  match s.engFlat c (fieldAt b 0 8) (40 * nout * nin) with
  | (s, .error e) => (s, .error e)
  | (s, .ok bs) =>
    let cells := positions nout nin
    let put := fun (m : Tab (BitVec 16)) (x : (Nat × Nat) × Nat) =>
      let cell := 64 * (fieldAt b 8 1 + x.1.1) + fieldAt b 9 1 + x.1.2
      (List.range 20).foldl (fun m k => tabSet 0 m (20 * cell + k) (BitVec.ofNat 16 (fieldAt bs (40 * x.2 + 2 * k) 2))) m
    let hit := fun (w : Nat) => cells.any fun (o, i) => 64 * (fieldAt b 8 1 + o) + fieldAt b 9 1 + i = w / 5
    let mend := fun (l : List Nat) => l.filter fun w => !hit w
    (s.modEng c.core fun e => { e with
      coef := cells.zipIdx.foldl put e.coef, coefSoft := mend e.coefSoft, coefBad := mend e.coefBad }, .ok (c.stage [] 0))

/-- Elements of a handle as a spline pass starts from them. -/
def State.splineStart (s : State) (c : Cmd) (h : Handle) (at' : List (Nat × Nat)) : Got (List Nat) :=
  if fieldAt c.record 16 1 = 1 then s.readTile h 0 at' else (s, .ok (at'.map fun _ => 0))

/-- splmv and splmv.dx (R301). -/
def State.startMv (s : State) (c : Cmd) (dx : Bool) : Got Cmd :=
  let b := c.record
  let e := (s.core c.core).eng
  match c.handle, s.splineInputs c dx with
  | none, (s, _) => (s, .error (.fail 13))
  | _, (s, .error x) => (s, .error x)
  | some h, (s, .ok (xs, ys)) =>
    let ps := xs.map fun v => v.map e.edge
    let rows := if dx then fieldAt b 12 1 else fieldAt b 13 1
    let at' := (List.range (fieldAt b 14 1)).flatMap fun v => (List.range rows).map fun r => (r, v)
    match s.readCoefs c.core ((positions (fieldAt b 13 1) (fieldAt b 12 1)).map fun (o, i) => 64 * o + i) with
    | (s, .error x) => (s, .error x)
    | (s, .ok _) =>
    match s.splineStart c h at' with
    | (s, .error x) => (s, .error x)
    | (s, .ok old) =>
      let new := (at'.zip old).map fun ((r, v), a) =>
        ((r, v), if dx then e.backward r a ((ps.getD v []).getD r ⟨0, 0, false, false⟩) (ys.getD v []) else e.forward r a (ps.getD v []))
      let s := s.modEng c.core fun e => e.countOut ps.flatten
      (s.writeTile h 0 new, .ok (c.stage [] 0))

/-- splgrad (R76, R302): the grid is checked against the handle's as it stands now (R287). -/
def State.startGrad (s : State) (c : Cmd) : Got Cmd :=
  let e := (s.core c.core).eng
  match c.handle, s.splineInputs c true with
  | none, (s, _) => (s, .error (.fail 13))
  | _, (s, .error x) => (s, .error x)
  | some h, (s, .ok (xs, ys)) =>
    if !s.gridMatches c.core (some h) then (s, .error (.fail 13))
    else
      let s := if fieldAt c.record 16 1 = 1 then s else s.zeroPlaces h.places
      let nin := fieldAt c.record 12 1
      let nout := fieldAt c.record 13 1
      let ts := (xs.zip ys).flatMap fun (x, y) =>
        (positions nout nin).flatMap fun (o, i) =>
          (e.gradTerms (e.edge (x.getD i 0))).map fun (k, bm) => (64 * o + i, k, y.getD o 0, bm)
      match s.readTile h 0 (ts.map fun (r, k, _) => (r, k)) with
      | (s, .error x) => (s, .error x)
      | (s, .ok _) =>
        let s := ts.foldl (fun s (r, k, d, bm) => s.writeTile h 0 [((r, k), eFma d bm (s.tileGet h 0 r k))]) s
        (s, .ok (c.stage [] 0))

/-- splgrid (R299). -/
def State.startGrid (s : State) (c : Cmd) : Got Cmd :=
  (s.modEng c.core fun e => e.setGrid c.record, .ok (c.stage [] 0))

/-- splrefine (R303): the check is made at the start (R77). -/
def State.startRefine (s : State) (c : Cmd) : Got Cmd :=
  if !(s.core c.core).eng.canRefine then (s, .error (.fail 13))
  else
    match s.readCoefs c.core (List.range 4096) with
    | (s, .error e) => (s, .error e)
    | (s, .ok _) => (s.modEng c.core (·.refine), .ok (c.stage [] 0))

/-! The events. -/

/-- What a command does when it starts. -/
def State.startOne (s : State) (c : Cmd) : Got Cmd :=
  match c.instr with
  | .cpy .. | .cpyg .. => s.startCopy c
  | .cpyf .. | .accreduce .. => (s, .ok { c with state := .running })
  | .mma .. | .mmv .. => if c.tile.isEmpty then s.startMat c else (s, .ok { c with state := .running })
  | .accdrain .. => s.startDrain c
  | .splgrid .. => s.startGrid c
  | .splload .. => s.startLoad c
  | .splmv _ _ _ dx _ => s.startMv c dx
  | .splgrad .. => s.startGrad c
  | .splrefine .. => s.startRefine c
  | _ => (s, .ok { c with state := .ready })

/-- Whether a partition's engines run: no pre-emption has stopped them (R196). -/
def State.enginesRun (s : State) (part : Nat) : Bool :=
  match (s.part part).preempt with
  | .none | .grace _ => true
  | _ => false

/-- Whether a running command has a next piece of its own: a copy, or the buffer of an accreduce. -/
def Cmd.goesOn (c : Cmd) : Bool := c.state == .running && (c.isCopy || (c.isReduce && c.staged))

/-- Whether a queued command may start, or a running one go on. -/
def State.mayStart (s : State) (core id : Nat) : Bool :=
  match tabFind s.cmds id with
  | some c => c.core = core && (c.goesOn || (c.state == .queued && s.cmdFirst id c)) && s.enginesRun c.part
  | none => false

/-- The next piece of a running command. -/
def State.goOn (s : State) (c : Cmd) : Got Cmd := if c.isCopy then s.copyStep c else s.reduceStep c

/-- ENGINE_COMMAND_START (R138, R288): the command starts, and runs as far as it can; a copy or a reduction under way moves
its next piece. -/
def execEngineCommandStart (core id : Nat) (s : State) : Out :=
  event (fun s => if !s.mayStart core id then s
    else
      match tabFind s.cmds id with
      | some c =>
        if c.goesOn then State.settleCmd id c (s.goOn c)
        else ((State.settleCmd id c (s.startOne c)).advanceCmd id).tryReduce id
      | none => s) s

/-- Whether a cpyf may write its next K-step (R139). -/
def State.mayFeed (s : State) (core id : Nat) : Bool :=
  match tabFind s.cmds id with
  | some c => c.core = core && c.state == .running && c.feed < 2 && s.enginesRun c.part &&
      (match c.handle with | some h => s.hasRoom c h | none => false)
  | none => false

/-- Write the next K-step of a cpyf. -/
def State.feedStep (s : State) (id : Nat) (c : Cmd) (h : Handle) (t : TRec) : State :=
  let trans := fieldAt c.record 2 1 ≠ 0
  let rows := fieldAt c.record 4 4
  match collect (fun s r => s.readOperandRow c t trans c.cursor r) s (List.range rows) with
  | (s, .error e) => s.stopCmd id c e
  | (s, .ok rs) =>
    let spots := (rs.flatMap (·.2)).filter fun p => !c.tile.contains p.page
    let s := s.reportSpots c t (fieldAt c.record 0 2) (if trans then 1 else 0) spots
    let ks := ksteps id c h (t.fmt = 1) (rs.map (·.1))
    let s := ks.foldl (fun s (e, k) => s.modEng e (·.feed (c.feed = 1) k)) s
    let n := c.cursor + 1
    let c' := { c with
      cursor := n, tile := (c.tile ++ spots.map (·.page)).eraseDups
      bytes := c.bytes + (ks.map fun (_, k) => k.bytes).sum
      state := if n = (if c.upto = 0 then fieldAt c.record 8 4 else c.upto) then .ready else .running }
    State.advanceOn { s with cmds := tabPut s.cmds id c' } h.engines

/-- KSTEP_WRITE (R139, R291). -/
def execKstepWrite (core id : Nat) (s : State) : Out :=
  event (fun s => if !s.mayFeed core id then s
    else
      match tabFind s.cmds id with
      | none => s
      | some c =>
        match c.handle, c.recs with
        | some h, t :: _ => s.feedStep id c h t
        | _, _ => s) s

/-- The token code of a completion (R39). -/
def tokenCode (fault : Bool) (detail : Nat) : Word :=
  BitVec.ofNat 32 (2 ^ 31 + (if fault then 2 ^ 30 + detail else 0))

/-- A cpyf that ends is kept while K-steps of its stand in a FIFO: a pre-emption issues it again (R139). -/
def State.keepFed (s : State) (id : Nat) (c : Cmd) : State :=
  if 2 ≤ c.feed || (s.fedBy id).isEmpty then s
  else s.modCore c.core fun k => { k with fed := tabPut k.fed id c }

/-- Signal a completion, and take the command out of its queue (R137, R287). The token register is now one whose first read
acquires (R119). -/
def State.signalCmd (s : State) (id : Nat) (c : Cmd) : State :=
  let fault := c.fail ≠ 0
  let s := match c.signal with
    | .barrier k o => s.arriveAt c.core .dev (k, o) c.bytes fault
    | .token r => s.modPacks fun p =>
      if p.group = c.group && p.packNo = c.packNo then
        { (p.setS r (tokenCode fault c.fail)).unpend id with tokens := r :: p.tokens.filter (· ≠ r) }
      else p
    | .nothing => s
  let s := s.keepFed id c
  State.tryEndGroupStored { s with cmds := tabDel s.cmds id } c.group

/-- The cut of a copy to flat or tensor memory. -/
def State.cutCopy (s : State) (c : Cmd) (dst : Side) (rows n w : Nat) : Got Cmd :=
  let bs := chunks n rows c.shadow
  match dst.kind, dst.tensor with
  | 2, some (t, o) =>
    let at' := (positions rows w).map fun (r, e) => tileAt o e r
    match s.elemPuts c t (at'.zip (bs.flatMap fun b => unpackElems (elemBits t.fmt) w b)) with
    | (s, .error e) => (s, .error e)
    | (s, .ok ps) => ((s.publish c.core (ps.map (·.1))).reportSpots c t (fieldAt c.record 8 2) 0 (ps.map (·.2)), .ok c)
  | 0, _ =>
    match collect (fun s (x : List Byte × Nat) => s.engPlace c (dst.base + x.2 * dst.pitch) x.1) s bs.zipIdx with
    | (s, .error e) => (s, .error e)
    | (s, .ok ps) => (s.publish c.core ps.flatten, .ok c)
  | _, _ => (s, .ok c)

/-- What a ready command publishes. -/
def State.cutOne (s : State) (c : Cmd) : Got Cmd :=
  let b := c.record
  match c.instr with
  | .cpy .. | .cpyg .. => s.cutCopy c c.copyDst c.copySize.2 c.copySize.1 (fieldAt b 20 4)
  | .accdrain .. => s.cutDrain c
  | _ => (s, .ok c)

/-- Whether a command may complete. -/
def State.mayComplete (s : State) (core id : Nat) : Bool :=
  match tabFind s.cmds id with
  | some c => c.core = core && c.state == .ready && (c.orphan || s.enginesRun c.part)
  | none => false

/-- A held drain that cannot perform: its entry in the region log, and a faulted arrival (R193). -/
def State.dropDrain (s : State) (c : Cmd) : State :=
  let va := match c.recs with
    | t :: _ => t.image false + t.page (t.origin c.coords) * 65536
    | [] => 0
  let bar := match c.signal with | .barrier k o => k * 2 ^ 22 + o | _ => 0xFFFFFFFF
  s.logOrphan c.part c.rcb c.core c.slotNo c.fail va bar

/-- ENGINE_COMMAND_COMPLETION (R125, R287): the command publishes at its cut and signals. -/
def execEngineCommandCompletion (core id : Nat) (s : State) : Out :=
  event (fun s => if !s.mayComplete core id then s
    else
      match tabFind s.cmds id with
      | none => s
      | some c =>
        if c.fail ≠ 0 then (if c.orphan then s.dropDrain c else s).signalCmd id c
        else
          match s.cutOne c with
          | (s, .error (.fail d)) =>
            let c := { c with fail := d }
            (if c.orphan then s.dropDrain c else s).signalCmd id c
          | (s, .error e) => s.stopCmd id c e
          | (s, .ok c) => s.signalCmd id c) s

end Sys2Proof.Machine
end

