-- ==== Sys2Proof/Machine/Retiles.lean ====
section
/-! DEFINITION. The re-tile engines and the reports of access classes (spec/05_tensor_memory.md R102-R108). A new frame is
invisible until the publish, so the segments of a pass, and the dual writes of step 4, are copied when the pass begins and
at the publish. -/
namespace Sys2Proof.Machine

/-! Elements of a page under a layout (R101). -/

/-- Undo the interleaving of ZORD: the even and the odd bits. -/
def deinterleave : Nat → Nat → Nat × Nat
  | 0, _ => (0, 0)
  | n + 1, z =>
    let (x, y) := deinterleave n (z / 4)
    (2 * x + z % 2, 2 * y + z / 2 % 2)

/-- The place (x, y) in a box of h by w of the element with index `j` (R101). -/
def unorder (layout h w j : Nat) : Nat × Nat :=
  let tile := fun t =>
    let q := j / (t * t)
    let r := j % (t * t)
    (q % (w / t) * t + r % t, q / (w / t) * t + r / t)
  let tileC := fun t =>
    let q := j / (t * t)
    let r := j % (t * t)
    (q / (h / t) * t + r / t, q % (h / t) * t + r % t)
  match layout with
  | 0 => (j % w, j / w)
  | 1 => (j / h, j % h)
  | 2 => tile 8
  | 3 => tile 16
  | 4 => tile 32
  | 5 => tileC 8
  | 6 => tileC 16
  | 7 => tileC 32
  | _ => deinterleave 9 j

/-- Element `j` of a frame, as a number of `n` bits. -/
def State.frameElem (s : State) (frame n j : Nat) : Nat :=
  let a := frame * 65536 + j * n / 8
  if n = 4 then (s.memByte a).toNat / 16 ^ (j % 2) % 16 else natOfBytes (s.memBytes a (n / 8))

/-- Join elements of `n` bits into bytes. -/
def joinElems (n : Nat) : List Nat → List Byte
  | [] => []
  | x :: r => if n = 4 then (match r with | y :: r => BitVec.ofNat 8 (x + 16 * y) :: joinElems n r | [] => [BitVec.ofNat 8 x])
    else bytesOfNat (n / 8) x ++ joinElems n r

/-- The element order a re-tile works with: element bits, box height and width. -/
structure BoxShape where
  bits : Nat
  h : Nat
  w : Nat
  deriving DecidableEq, Repr

/-- The 128 bytes of block `b` of the new frame (R105). -/
def State.retileBlock (s : State) (t : Retile) (x : BoxShape) (b : Nat) : List Byte :=
  let n := 1024 / x.bits
  joinElems x.bits ((List.range n).map fun i =>
    let (c, r) := unorder t.layout x.h x.w (b * n + i)
    s.frameElem t.oldFrame x.bits (order t.oldLayout x.h x.w c r))

/-- Blocks of the new frame that hold elements of a segment of the old one. -/
def blocksOfSeg (t : Retile) (x : BoxShape) (seg : Nat) : List Nat :=
  let n := 2048 / x.bits
  (List.range n).map fun i =>
    let (c, r) := unorder t.oldLayout x.h x.w (seg * n + i)
    order t.layout x.h x.w c r * x.bits / 1024

/-- Copy blocks into the new frame, whole blocks at a time (R93, R105). -/
def State.retileCopy (s : State) (t : Retile) (x : BoxShape) (bs : List Nat) : State :=
  let elide := bitOf (natOfBytes (s.memBytes t.leaf 8)) 10
  (ascending bs).foldl (fun s b =>
    s.homeWrite elide false (spread (t.newFrame * 65536 + 128 * b) (s.retileBlock t x b))) s

/-- The lowest block of 128 bytes of some segments of a frame that holds uncorrectable data (R107). -/
def State.brokenBlock (s : State) (frame : Nat) (segs : List Nat) : Option Nat :=
  ((ascending segs).flatMap fun g => [2 * g, 2 * g + 1]).find? fun b => s.uncorrectable (frame * 65536 + 128 * b) 128

/-! The engine's current work. -/

/-- The re-tile an engine works on: the first of its queue. -/
def State.retileNow (s : State) (stack : Nat) : Option Retile :=
  s.home.retiles.find? fun r => s.stackOfFrame r.oldFrame = stack

def sameRetile (a b : Retile) : Bool := a.part = b.part && a.tid = b.tid && a.page = b.page

def State.putRetile (s : State) (t : Retile) : State :=
  { s with home := { s.home with retiles := s.home.retiles.map fun r => if sameRetile r t then t else r } }

def State.dropRetile (s : State) (t : Retile) : State :=
  { s with home := { s.home with retiles := s.home.retiles.filter fun r => !sameRetile r t } }

/-- The record of the page of a re-tile, MOVING since the request. -/
def State.retileMonitor (s : State) (t : Retile) : Monitor :=
  match s.home.monitors.find? fun m => m.part = t.part && m.tid = t.tid && m.page = t.page with
  | some m => m
  | none => Monitor.setState ⟨t.part, t.tid, t.page, 0⟩ mMoving

/-- The box shape of the page (R100), as its tensor had it at the request. -/
def Retile.shape (t : Retile) : BoxShape := ⟨elemBits t.fmt, (boxOf (elemBits t.fmt)).1, (boxOf (elemBits t.fmt)).2⟩

/-- Whether the page is still mapped on the frame (R107): its stage-2 leaf says so. An unmapped stage-1 leaf alone does not abandon the
re-tile (DESIGN CHOICE, log 47). -/
def State.retileMapped (s : State) (t : Retile) : Bool :=
  let e := natOfBytes (s.memBytes t.leaf 8)
  bitOf e 0 && bits e 51 16 = t.oldFrame

/-- A FRAMES command that takes frames back completes once every listed frame of the pool has left it (R166): those that
re-tiles held are no longer marked. Its status is then written into the mailbox. -/
def State.takeBackDone (s : State) : State :=
  let open' := fun (x : Nat × List Nat) => x.2.any (s.part x.1).marked.contains
  if s.mp.takeBacks.all open' then s
  else
    { s with mp := { s.mp with
        takeBacks := s.mp.takeBacks.filter open', mailbox := { s.mp.mailbox with code := 0x84, status := 0 } } }

/-- A frame goes back to the pool it came from; a marked one leaves the pool (R166). -/
def State.poolFrame (s : State) (part frame : Nat) : State :=
  State.takeBackDone (s.modPart part fun p =>
    if p.marked.contains frame then { p with marked := p.marked.filter (· ≠ frame) }
    else { p with pool := p.pool ++ [frame] })

/-- Abandon a re-tile (R107): the new frame goes back, the record takes its transition. -/
def State.abandon (s : State) (t : Retile) : State :=
  let m := s.retileMonitor t
  let s := s.dropRetile t
  let s := if t.stage = .waiting then s else s.poolFrame t.part t.newFrame
  s.abandonRecord m t

/-- A step that reads segments of the old frame: it is abandoned when the page is gone or what it reads is uncorrectable. A frame
that a scrub left zero-pending is all zero then (R173). -/
def State.retileReads (s : State) (t : Retile) (segs : List Nat) (f : State → BoxShape → State) : State :=
  if !s.retileMapped t then s.abandon t
  else
    let s := s.materialise (t.oldFrame * 65536)
    match s.brokenBlock t.oldFrame segs with
    | some b => (s.logRead (t.oldFrame * 65536 + 128 * b) 128).abandon t
    | none => f s t.shape

/-! The sequence (R105). -/

/-- Channel groups whose owner, borrower or tenant the commit under way changes (R168). -/
def State.leavingGroups (s : State) : List Nat :=
  match s.commitNow with
  | some c => (List.range 32).filter fun k => groupHeld s.map k != groupHeld c.map k
  | none => []

/-- Whether a re-tile's page lies in an affected channel group (R107, R168). -/
def State.retileLeaving (s : State) (t : Retile) : Bool := s.leavingGroups.any (s.frameOn t.oldFrame)

/-- RETILE_START: a frame of equal colour leaves the pool, and the copy begins; without one the request waits. A commit under
way abandons the re-tile of a page in a channel group it affects (R168). -/
def execRetileStart (stack : Nat) (s : State) : Out :=
  event (fun s =>
    match s.retileNow stack with
    | some t =>
      if t.stage != .waiting then s
      else if !s.retileMapped t || s.retileLeaving t then s.abandon t
      else
        let fits := fun f => s.colour f = s.colour t.oldFrame && !(s.part t.part).marked.contains f
        match (s.part t.part).pool.find? fits with
        | some f =>
          (s.modPart t.part fun p => { p with pool := p.pool.filter (· ≠ f) }).putRetile
            { t with stage := .copying, newFrame := f, dirty := [] }
        | none => s
    | none => s) s

/-- A dirty pass begins: the segments it covers are cleared and copied. -/
def State.beginPass (s : State) (t : Retile) (x : BoxShape) (n : Nat) : State :=
  (s.retileCopy t x (t.dirty.flatMap (blocksOfSeg t x))).putRetile { t with stage := .pass n, dirty := [] }

/-- Schedule the publish, or abandon (R105 step 4). -/
def State.schedule (s : State) (t : Retile) : State :=
  if 64 < t.dirty.length then s.abandon t else s.putRetile { t with stage := .scheduled (s.time + 400) }

/-- RETILE_COPY_END. -/
def execRetileCopyEnd (stack : Nat) (s : State) : Out :=
  event (fun s =>
    match s.retileNow stack with
    | some t =>
      if t.stage != .copying then s
      else s.retileReads t (List.range 256) fun s x =>
        let s := s.retileCopy t x (List.range 512)
        if t.dirty.isEmpty then s.schedule t else s.beginPass t x 1
    | none => s) s

/-- RETILE_DIRTY_PASS_END. -/
def execRetileDirtyPassEnd (stack : Nat) (s : State) : Out :=
  event (fun s =>
    match s.retileNow stack with
    | some t =>
      match t.stage with
      | .pass n => s.retileReads t (if n = 1 then t.dirty else []) fun s x =>
        if n = 1 && !t.dirty.isEmpty then s.beginPass t x 2 else s.schedule t
      | _ => s
    | none => s) s

/-- RETILE_DIRTY_COPY_DONE: the segments dirty at Ts have been copied; writes since then reach both frames. -/
def execRetileDirtyCopyDone (stack : Nat) (s : State) : Out :=
  event (fun s =>
    match s.retileNow stack with
    | some t =>
      match t.stage with
      | .scheduled _ => s.retileReads t t.dirty fun s x =>
        (s.retileCopy t x (t.dirty.flatMap (blocksOfSeg t x))).putRetile { t with dirty := [] }
      | _ => s
    | none => s) s

/-- The new leaf in the caches (R105 step 4). -/
def Trans.published (t : Retile) (x : Trans) : Trans :=
  if x.leaf = t.leaf then { x with frame := t.newFrame, layout := t.layout } else x

/-- The release tags of the page's granules go with its elements (R108, R120). -/
def State.moveTags (s : State) (t : Retile) (x : BoxShape) : State :=
  let move := fun (m : Tab RelTag) (seg : Nat) =>
    match tabFind m (t.oldFrame * 256 + seg) with
    | none => m
    | some tag => ((blocksOfSeg t x seg).map (· / 2)).eraseDups.foldl (fun m g => tabPut m (t.newFrame * 256 + g) tag)
        (tabDel m (t.oldFrame * 256 + seg))
  if s.home.tags.isEmpty then s
  else { s with home := { s.home with tags := (List.range 256).foldl move s.home.tags } }

/-- The leaf with the new frame and layout. -/
def publishedLeaf (e frame layout : Nat) : Nat := putBits (putBits e 51 16 frame) 9 6 layout

/-- RETILE_PUBLISH: at T_pub every access goes to the new frame; what was formed under the old leaf is formed again (R106). -/
def execRetilePublish (stack : Nat) (s : State) : Out :=
  event (fun s =>
    match s.retileNow stack with
    | some t =>
      match t.stage with
      | .scheduled tp =>
        if s.time < tp then s
        else s.retileReads t t.dirty fun s x =>
          let s := s.retileCopy t x (t.dirty.flatMap (blocksOfSeg t x))
          let e := natOfBytes (s.memBytes t.leaf 8)
          let s := s.homeWrite false true (spread t.leaf (bytesOfNat 8 (publishedLeaf e t.newFrame t.layout)))
          let s : State := { s with
            cores := s.cores.map fun (c, k) => (c, { k with tlb := k.tlb.map (Trans.published t) })
            clusterTlb := s.clusterTlb.map fun (c, x) => (c, Trans.published t x) }
          ((s.moveTags t x).resend t.part).putRetile { t with stage := .published, dirty := [] }
      | _ => s
    | none => s) s

/-- RETILE_RELEASE: the old frame returns to the pool, and the record takes the publish transition (R104). -/
def execRetileRelease (stack : Nat) (s : State) : Out :=
  event (fun s =>
    match s.retileNow stack with
    | some t =>
      if t.stage != .published then s
      else
        let m := s.retileMonitor t
        let s := (s.dropRetile t).poolFrame t.part t.oldFrame
        let s := State.takeBackDone (s.modPart t.part fun p => { p with marked := p.marked.filter (· ≠ t.newFrame) })
        s.publishRecord m t
    | none => s) s

/-! Reports (R102, R104). -/

/-- The page of a tensor through its translation as it stands. -/
def State.pageLeaf (s : State) (r : TRec) (part page : Nat) : Option PageLeaf :=
  let va := r.base + page * 65536
  match s.walk (dieOf agentMp) part va with
  | (_, .ok (e1, e2, a)) =>
    let t := transOf part va e1 e2 a
    some ⟨t.frame, t.layout, t.leaf⟩
  | _ => none

/-- MONITOR_REPORT: the oldest report on its way to a slice is applied. -/
def execMonitorReport (slice : Nat) (s : State) : Out :=
  event (fun s =>
    match s.home.reports.find? fun x => x.slice = slice with
    | none => s
    | some x =>
      let s := { s with home := { s.home with reports := s.home.reports.erase x } }
      match s.tensorRec agentMp x.part x.tid with
      | (s, .ok r) =>
        (match s.pageLeaf r x.part x.page with
          | some pl => s.report r x.part x.tid x.page x.cls x.size pl
          | none => s)
      | (s, .error _) => s) s

end Sys2Proof.Machine
end

