-- ==== Sys2Proof/Machine/Services.lean ====
section
/-! DEFINITION. The sys services (spec/13_pack_instructions.md R309), access to saved state (R310) and the return from a
trap (R311, spec/09_counters_events.md R190). -/
namespace Sys2Proof.Machine

/-- A service at ROOT; below ROOT every sys raises SYSCALL with its number as DETAIL (R309). -/
def service (i : Instr) (n : Nat) (f : State → State) (s : State) : Out :=
  issue i (fun s => if s.pk.priv == .root then f s else s.raisePack .syscall 0 n) s

/-- A service answers in sd, and the pack goes on. -/
def State.served (s : State) (d : SReg) (x : Nat) : State := (s.setS d.toNat (BitVec.ofNat 32 x)).next 8

/-- sys with any other number (R309): SYSCALL, which at ROOT halts the partition (R187). -/
def execSys (d a b : SReg) (n : BitVec 16) (s : State) : Out :=
  issue (.sys d a b n) (fun s => s.raisePack .syscall 0 n.toNat) s

/-- Service 1, stage-1 invalidation (R161, R309). -/
def execStage1Invalidate (d a b : SReg) (s : State) : Out :=
  service (.stage1Invalidate d a b) 1 (fun s =>
    let va := (s.pk.s64 a.toNat).toNat
    if va % 65536 ≠ 0 then s.served d 1
    else
      let part := s.pk.part
      (s.onStore fun s => s.invalidateSent part false (va / 65536) (s.pk.sreg b.toNat).toNat).served d 0) s

/-- A commit requested of the MP waits its turn (R165). -/
def State.queueCommit (s : State) (c : Commit) : State := { s with mp := { s.mp with commits := s.mp.commits ++ [c] } }

/-- Service 2, the stage-1 root: a commit of the issuing partition (R166, R309). -/
def execStage1Root (d a b : SReg) (s : State) : Out :=
  service (.stage1Root d a b) 2 (fun s =>
    let gpa := s.pk.s64 a.toNat
    if gpa.toNat % 65536 ≠ 0 then s.served d 1
    else (s.queueCommit { why := .root s.pk.part gpa, map := [] }).served d 0) s

/-- The earlier of two requests by TIME, source and entry. -/
def PageReq.before (a b : Nat × PageReq) : Bool :=
  if a.2.time ≠ b.2.time then a.2.time < b.2.time
  else if a.2.src ≠ b.2.src then a.2.src < b.2.src
  else a.1 < b.1

def oldestRequest : List (Nat × PageReq) → Option (Nat × PageReq)
  | [] => none
  | x :: rest =>
    match oldestRequest rest with
    | none => some x
    | some y => some (if PageReq.before y x then y else x)

/-- The record of a request (R191). -/
def requestRecord (id : Nat) (q : PageReq) : List Byte :=
  bytesOfNat 8 q.addr ++ bytesOfNat 8 q.time ++ bytesOfNat 2 id ++ bytesOfNat 2 q.src ++
    bytesOfNat 1 q.fn ++ bytesOfNat 1 ((if q.stage2 then 1 else 0) + 2 * q.access) ++ bytesOfNat 10 0

/-- The partition's stage-1 requests that ROOT has not taken. -/
def State.rootRequests (s : State) (part : Nat) : List (Nat × PageReq) :=
  s.pages.filter fun (_, q) => q.part = part && !q.stage2 && !q.taken

/-- Service 3: take the oldest stage-1 request, or wait for one at a blocking point (R309). -/
def execTakePageRequest (d a b : SReg) (s : State) : Out :=
  service (.takePageRequest d a b) 3 (fun s => s.withVault (s.pk.sreg b.toNat) 32 fun s at' =>
    match oldestRequest (s.rootRequests s.pk.part) with
    | none => s.block .pageTake
    | some (id, q) =>
      let s := { s with pages := tabPut s.pages id { q with taken := true } }
      (s.vaultWrite at'.1 at'.2 (requestRecord id q)).served d id) s

/-- Service 4: reply to a stage-1 request of the partition (R192, R309). -/
def execReply (d a b : SReg) (s : State) : Out :=
  service (.reply d a b) 4 (fun s =>
    let id := (s.pk.sreg a.toNat).toNat
    let st := (s.pk.sreg b.toNat).toNat
    let mine := match tabFind s.pages id with
      | some q => if q.part = s.pk.part && !q.stage2 then some q else none
      | none => none
    if 2 ≤ st then s.served d 2
    else
      match mine with
      | none => (s.logEvent 13 s.here (s.pk.part + 1) 0 id).served d 1
      | some q => (s.served d 0).aside fun s => s.applyReply id q (st = 1)) s

/-! Re-tile frames (R105, R309). -/

/-- Whether a frame lies in one of a partition's own channel groups. -/
def State.ownFrame (s : State) (part frame : Nat) : Bool :=
  let r := (s.part part).map
  s.paKind (frame * 65536) = .hbm && (r.cgg ||| r.cgm).getLsbD (s.frameGroup frame)

/-- Whether a frame is in a re-tile pool, or held by a re-tile. -/
def State.pooled (s : State) (frame : Nat) : Bool :=
  (s.parts.any fun (_, p) => p.pool.contains frame) || s.home.retiles.any fun r => r.newFrame = frame && frame ≠ 0

/-- Donate one frame by its GPA; whether it is accepted. -/
def State.donate (s : State) (gpa : Nat) : State × Bool :=
  if gpa % 65536 ≠ 0 || 2 ^ 48 ≤ gpa then (s, false)
  else
    let part := s.pk.part
    let (s, r) := s.leaf2 (dieOf s.here) part gpa
    match r with
    | .error _ => (s, false)
    | .ok (e, a) =>
      let frame := bits e 51 16
      if bitOf e 11 || bits e 5 4 ≠ 0 || !bitOf e 1 || !bitOf e 2 || !s.ownFrame part frame || s.pooled frame then (s, false)
      else
        let s := s.homeWrite false true (spread a (bytesOfNat 8 (e - 1)))
        let s := s.onStore fun s => s.invalidateSent part true (gpa / 65536) 1
        (s.modPart part fun p => { p with pool := p.pool ++ [frame] }, true)

/-- Donate frames in list order; an entry that cannot be read ends the list. -/
def State.donateList (s : State) (va : Nat) : Nat → Nat → State × Nat
  | 0, k => (s, k)
  | n + 1, k =>
    let (s, r) := s.readVA s.here s.pk.part .root va 8
    match r with
    | .ok (b, false) =>
      let (s, ok) := s.donate (natOfBytes b)
      s.donateList (va + 8) n (if ok then k + 1 else k)
    | _ => (s, k)

/-- Service 5: donate re-tile frames (R309). -/
def execDonateRetileFrames (d a b : SReg) (s : State) : Out :=
  service (.donateRetileFrames d a b) 5 (fun s =>
    let (s, k) := s.donateList (s.pk.s64 a.toNat).toNat (s.pk.sreg b.toNat).toNat 0
    s.served d k) s

/-! Saved state (R310). -/

/-- The level whose handler runs. -/
def Pack.top (p : Pack) : Level := p.sb.getLast?.getD ⟨[], []⟩

/-- Word `w` of a replay entry (R189). -/
def Entry.word (e : Entry) (w : Nat) : Word :=
  match w with
  | 0 => BitVec.ofNat 32 e.state
  | 1 => e.mask
  | 2 => e.w0
  | 3 => e.w1
  | 4 => loWord (e.pc.zeroExtend 64)
  | 5 => hiWord (e.pc.zeroExtend 64)
  | 6 => BitVec.ofNat 32 e.req
  | 7 => 0
  | w => match tabFind e.lanes ((w - 8) / 8) with
    | some a => a.words.getD (w % 8) 0
    | none => 0

/-- sbget (R188, R310). -/
def execSbget (d a b : SReg) (s : State) : Out :=
  issue (.sbget d a b) (fun s =>
    let w := (s.pk.sreg b.toNat).toNat
    match s.pk.sb[(s.pk.sreg a.toNat).toNat]? with
    | some lv => if 255 < w then s.raisePack .operand 0 0 else (s.setS d.toNat (lv.word w)).next 8
    | none => s.raisePack .operand 0 0) s

/-- rqget (R189, R310). -/
def execRqget (d a b : SReg) (s : State) : Out :=
  issue (.rqget d a b) (fun s =>
    let w := (s.pk.sreg b.toNat).toNat
    match s.pk.top.entries[(s.pk.sreg a.toNat).toNat]? with
    | some e => if 263 < w then s.raisePack .operand 0 0 else (s.setS d.toNat (e.word w)).next 8
    | none => s.raisePack .operand 0 0) s

/-- Write word `w` of a replay entry; none where rqput may not (R310). -/
def Entry.putWord (e : Entry) (w : Nat) (x : Word) : Option Entry :=
  if w = 0 then (if x = 0 then some { e with state := 0 } else none)
  else if w = 1 then some { e with mask := e.mask &&& x }
  else if 8 ≤ w && w ≤ 263 then
    let k := (w - 8) / 8
    let a := (tabFind e.lanes k).getD { words := List.replicate 8 0 }
    some { e with lanes := tabPut e.lanes k { a with words := (padWords 8 a.words).set (w % 8) x } }
  else none

/-- rqput (R310): entry 16 is the side buffer's words 8 to 177. -/
def execRqput (d a b : SReg) (s : State) : Out :=
  issue (.rqput d a b) (fun s =>
    let x := s.pk.sreg d.toNat
    let k := (s.pk.sreg a.toNat).toNat
    let w := (s.pk.sreg b.toNat).toNat
    let lv := s.pk.top
    let new := if k = 16 then
        (if 8 ≤ w && w ≤ 177 then some { lv with words := tabSet 0 lv.words w (levelMask w x) } else none)
      else
        match lv.entries[k]? with
        | some e => (e.putWord w x).map fun e => { lv with entries := lv.entries.set k e }
        | none => none
    match new with
    | some lv => State.next { s with pk := { s.pk with sb := s.pk.sb.dropLast ++ [lv] } } 8
    | none => s.raisePack .operand 0 0) s

/-! Return from a trap (R190, R311). -/

/-- An entry as rti re-injects it: its lanes are run again. -/
def Entry.again (e : Entry) : Entry :=
  { e with state := 2, req := 0, lanes := e.lanes.map fun (l, w) => (l, { w with phase := .walk, reply := none, seen := 0 }) }

/-- rti (R190): restore, re-inject the entries whose mask is not zero in queue order, go on. -/
def execRti (s : State) : Out :=
  issue .rti (fun s =>
    let es := (s.pk.top.entries.filter (·.mask != 0)).map (·.again)
    let p := s.pk.leaveTrap
    let s : State := { s with pk := { p with replay := p.replay ++ es } }
    s.reinjectAll s.pk.sb.length (es.map (·.id))) s

end Sys2Proof.Machine
end

