-- ==== Sys2Proof/Machine/Saved.lean ====
section
/-! DEFINITION. Taking packs and groups off their cores and bringing them back: pre-emption (spec/09_counters_events.md
R194-R198) and guest context switches (R199, spec/13_pack_instructions.md R312). -/
namespace Sys2Proof.Machine

/-! Eviction of packs. -/

/-- Blocking points (R194), the ROOT waits among them (R309, R312). -/
def Wait.blocking : Wait → Bool
  | .barrier .. | .admission | .acquire | .sleep _ | .queue _ | .parked | .pageTake | .context _ => true
  | _ => false

/-- Lanes of an entry whose load is on its way from another device: a blocking point (R29, R194). -/
def State.remoteLanes (s : State) (e : Entry) : LaneMask :=
  maskOf fun l => hasLane e.mask l && (match tabFind e.lanes l with
    | some ⟨_, .sent ((pa, _) :: _), _, _⟩ => (match s.paKind pa with | .remote _ => true | _ => false)
    | _ => false)

def State.awaitsRemote (s : State) (p : Pack) : Bool := p.replay.any fun e => s.remoteLanes e != 0

/-- Whether the commit under way takes a core's cluster from whoever uses it (R168). -/
def State.unitLeaving (s : State) (core : Nat) : Bool :=
  match s.commitNow with
  | some c => clusterHeld c.map (core / 8) != clusterHeld s.map (core / 8)
  | none => false

/-- Whether a pack of a core is to leave it at its next blocking point. -/
def State.leaving (s : State) (core : Nat) (p : Pack) : Bool :=
  (s.part p.part).preempt != .none || s.unitLeaving core ||
    (match s.group p.group with
      | some g => g.held && !s.restoring p.part p.group
      | none => false)

/-- Lanes whose access has left the core, and so performs at a forced stop (R195): not a lane that has no queue entry yet
(R137), nor a load on its way from another device (R194), nor a part of what is published at one cut (R99). -/
def State.sentLanes (s : State) (e : Entry) (a : Access) : LaneMask :=
  let m := e.mask &&& ~~~s.remoteLanes e &&& (if a.queued then e.queued else e.mask)
  let ready := maskOf fun l => hasLane m l && (match tabFind e.lanes l with
    | some ⟨_, .ready _, _, _⟩ | some ⟨_, .sent _, _, _⟩ => true
    | _ => false)
  if oneCut a (s.cachedRec (s.siteOf e) e a) && ready ≠ e.mask then 0 else ready

/-- Stop accesses in flight: what has left the core performs, a lane that has not becomes PENDING (R195). -/
def State.stopEntries (s : State) : List Entry → State
  | [] => s
  | e :: rest =>
    match e.access with
    | none => State.stopEntries { s with pk := { s.pk with replay := s.pk.replay ++ [e] } } rest
    | some a =>
      let x := s.siteOf e
      let m := s.sentLanes e a &&& ~~~heldByEarlier s.pk.replay e
      let m := if oneCut a (s.cachedRec x e a) && m ≠ e.mask then 0 else m
      let (s, e) := if m = 0 && doneLanes e = 0 then (s, e)
        else
          let (s, e, _) := s.performLanes x e a (s.cachedRec x e a) m
          (((s.promoteNow e.id).acquireL1 x.core a.acq).releaseAt x.core a.rel, e)
      let (pk, e) := deliver s.pk e e.mask
      State.stopEntries { s with pk := { pk with replay := pk.replay ++ [e] } } rest

/-- A pack that waits at accalloc when it is stopped records that as a PENDING entry (R292). -/
def State.pendingAlloc (s : State) : State :=
  match s.pk.wait with
  | .handle h k =>
    let (id, s) := s.freshId
    let ws := encode (.accalloc h k)
    let e : Entry := {
      id := id, state := 1, mask := s.pk.live, w0 := ws.getD 0 0, w1 := ws.getD 1 0
      pc := (s.pk.thread ((lanesOf s.pk.live).headD 0)).pc, req := 0, lanes := [], priv := s.pk.priv, bar := 0, queued := 0 }
    { s with pk := { s.pk with replay := s.pk.replay ++ [e] } }
  | _ => s

/-- Stop the pack in the latch. -/
def State.stopPack (s : State) : State :=
  let es := s.pk.replay
  let s := State.stopEntries { s with pk := { s.pk.takeAllLate.closeWindows with replay := [], portB := none } } es
  State.pendingAlloc { s with pk := { s.pk with replay := tidyEntries s.pk.replay, deadline := 0 } }

/-- Take a pack off its core; no pack is in the latch. -/
def State.evict (s : State) (core slot : Nat) : State :=
  let s := s.onPack core slot (·.stopPack)
  match s.packAt core slot with
  | none => s
  | some p =>
    let s := (s.delPack core slot).modCore core (·.dropWaits slot)
    s.modPart p.part fun x => { x with saved := x.saved ++ [{ core := core, slot := slot, pack := p }] }

/-- Packs that leave their cores now: at a blocking point, or all of them when forced. -/
def State.evictable (s : State) (forced : Nat → Pack → Bool) : List (Nat × Nat) :=
  s.residents.filterMap fun (c, sl, p) =>
    if s.leaving c p && (p.wait.blocking || s.awaitsRemote p || forced c p) then some (c, sl) else none

def State.evictEach (s : State) : List (Nat × Nat) → State
  | [] => s
  | (c, sl) :: rest => (s.evict c sl).evictEach rest

/-- Errors found in the shadow bank as a pack comes back: corrected words are logged in class 2, uncorrectable ones in class
3, and the latter stay so in the register file (R96, R97). -/
def State.readShadow (s : State) (core : Nat) (v : Saved) : State × Pack :=
  let note := fun (cls : Nat) (s : State) (_ : Nat × Nat) =>
    let (x, s) := s.syndrome
    s.logEvent cls core (s.clusterOwner (core / 8)) 0 x
  let s := v.bad.foldl (note 3) (v.soft.foldl (note 2) s)
  (s, { v.pack with bad := v.pack.bad ++ v.bad })

/-- Bring a restored pack, which is in the latch, back to work (R190, R194, R198): unfinished entries are issued again, and a
pack at a blocking point waits there again; other waits are tried again by their instruction, which a PENDING entry of
accalloc stands for (R292). A halted partition's packs do nothing more (R187). -/
def State.resumePack (s : State) : State :=
  if (s.part s.pk.part).halted then s else
  let keep := match s.pk.wait with
    | .barrier .. | .admission | .acquire | .sleep _ => s.pk.wait
    | _ => .none
  let again := fun (e : Entry) => { e with state := 2, queued := 0 }
  let es := (s.pk.replay.filter fun e => e.access.isSome || e.mask = 0).map again
  let s : State := { s with pk := { s.pk with replay := tidyEntries es, wait := keep } }
  (s.reissueAll s.pk.sb.length (es.map (·.id))).fetchLost

/-! Groups leave. -/

/-- Key of an accumulator place in `savedEng`. -/
def placeKey (gid h i : Nat) : Nat := gid * 64 + 4 * h + i
def coreKey (gid : Nat) : Nat := gid * 64 + 63

/-- The tile at a place, its words counted from 0, with the errors that stand in it (R97). -/
def Engine.tileOut (e : Engine) (slot : Nat) : Engine :=
  let w0 := slot * Config.slotWords / 2
  let mine := fun (l : List Nat) => l.filterMap fun w => if inSlot slot w then some (w - w0) else none
  { acc := e.acc.filterMap fun (w, x) => if w / Config.slotWords = slot then some (w % Config.slotWords, x) else none
    accSoft := mine e.accSoft, accBad := mine e.accBad }

def Engine.tileIn (e : Engine) (slot : Nat) (t : Engine) : Engine :=
  let z := e.zeroSlot slot
  let w0 := slot * Config.slotWords / 2
  { z with
      acc := t.acc.foldl (fun m (w, x) => tabSet 0 m (slot * Config.slotWords + w) x) z.acc
      accSoft := z.accSoft ++ t.accSoft.map (w0 + ·), accBad := z.accBad ++ t.accBad.map (w0 + ·) }

/-- Handles of a group with the places they occupy. -/
def Group.allPlaces (g : Group) : List (Nat × Nat × Nat × Nat) :=
  g.handles.flatMap fun (h, d) => d.places.zipIdx.map fun ((e, sl), i) => (h, i, e, sl)

/-- A copy into a vault goes on to the next 256-byte boundary of its destination, where it stops (R196). -/
def State.toBoundary (s : State) (id : Nat) : Nat → State
  | 0 => s
  | n + 1 =>
    match tabFind s.cmds id with
    | none => s
    | some c =>
      let due : Bool := match c.piece with
        | some p => c.isCopy && c.state == .running && c.copyDst.kind = 1 && p.dst % 256 ≠ 0
        | none => false
      if due then (State.settleCmd id c (s.copyStep c)).toBoundary id n else s

/-- Commands of a group. -/
def State.groupCmds (s : State) (gid : Nat) : List Nat :=
  s.cmds.filterMap fun (id, c) => if c.group = gid && !c.orphan then some id else none

/-- A command stops. The K-steps of a cpyf that are discarded are to be fed again: it goes back to the first of them (R139). -/
def Cmd.stopped (c : Cmd) (lost : List KStep) : Cmd :=
  match lost with
  | [] => { c with state := .stopped }
  | k :: r => { c with
      state := .stopped, fail := 0, cursor := r.foldl (fun n x => min n x.k) k.k
      bytes := c.bytes - (lost.map (·.bytes)).sum }

/-- A cpyf that has signalled is issued again for its discarded K-steps, and signals no more (R139, R196). -/
def Cmd.refed (c : Cmd) (lost : List KStep) : Cmd := { c.stopped lost with signal := .nothing, upto := c.cursor }

/-- The commands of a group stop, and the operand FIFOs lose what was fed for it (R139, R196). -/
def State.stopCmds (s : State) (gid : Nat) (engines : List Nat) : State :=
  let s := (s.groupCmds gid).foldl (fun s id => s.toBoundary id 32) s
  let lost := fun (id : Nat) => s.fedBy id
  let mine := fun (x : Nat × Cmd) => x.2.group = gid && !x.2.orphan
  let back := s.cores.flatMap fun (_, k) => (k.fed.filter mine).map fun (id, c) => (id, c.refed (lost id))
  let cmds := s.cmds.map fun x => if mine x then (x.1, x.2.stopped (lost x.1)) else x
  let theirs := fun (x : KStep) => x.owner ≠ gid
  let s : State := { s with
    cmds := back.foldl (fun m (id, c) => tabPut m id c) cmds
    cores := s.cores.map fun (i, k) => (i, { k with fed := k.fed.filter fun x => !mine x }) }
  engines.foldl (fun s e => s.modEng e fun n => { n with
    fifoA := n.fifoA.filter theirs, fifoB := n.fifoB.filter theirs }) s

/-- Words of 8 bytes of a group's allocation, among some of its core's vault. -/
def Group.vaultWords (g : Group) (l : List Nat) : List Nat :=
  l.filter fun w => g.vbase ≤ 8 * w && 8 * w < g.vbase + g.vbytes

/-- A group's vault allocation, tiles and commands leave its core; all its packs have left. Soft errors of the vault are corrected on
the way, and uncorrectable words stay so (R96, R97). -/
def State.swapOut (s : State) (gid : Nat) : State :=
  match s.group gid with
  | none => s
  | some g =>
    if g.away then s
    else
      let s := (s.stopCmds gid (g.allPlaces.map fun (_, _, e, _) => e)).drainBank g.core
      let s := if g.vbytes = 0 then s else s.correctVault g.core g.vbase g.vbytes
      let k := s.core g.core
      let cells := k.vault.filterMap fun (a, b) =>
        if g.vbase ≤ a && a < g.vbase + g.vbytes then some (a - g.vbase, b) else none
      let tiles := g.allPlaces.map fun (h, i, e, sl) => (placeKey gid h i, (s.core e).eng.tileOut sl)
      let own : Engine := { k.eng with acc := [], fifoA := [], fifoB := [], accSoft := [], accBad := [] }
      let s := s.modPart g.part fun p => { p with
        savedVault := tabPut p.savedVault gid cells
        savedBad := tabSet [] p.savedBad gid ((g.vaultWords k.vaultBad).map (· - g.vbase / 8))
        savedEng := tiles.foldl (fun m (key, t) => tabPut m key t) (tabPut p.savedEng (coreKey gid) own) }
      s.modGroup gid fun g => { g with away := true }

/-- Whether every pack of a group has left its core. -/
def State.packsAway (s : State) (gid : Nat) : Bool := s.residents.all fun (_, _, p) => p.group ≠ gid

/-- Groups that satisfy `f` leave their cores. -/
def State.swapAll (s : State) (f : Group → Bool) : State :=
  let ids := s.groups.filterMap fun (gid, g) => if f g then some gid else none
  ids.foldl (fun s gid => if s.packsAway gid then s.swapOut gid else s) s

/-! Groups come back (R46, R197). -/

/-- Saved packs of a group. -/
def State.savedPacks (s : State) (g : Group) (gid : Nat) : List Saved :=
  (s.part g.part).saved.filter fun v => v.pack.group = gid

/-- Slots for the saved packs on a core: their own, when they all are free there; otherwise as R21 places packs. -/
def State.slotsFor (s : State) (g : Group) (gid c : Nat) : Option (List (Nat × Saved)) :=
  let vs := s.savedPacks g gid
  let own := c = g.core && vs.all fun v => (s.packAt c v.slot).isNone
  let room := (List.range 4).all fun u =>
    ((vs.filter fun v => v.slot / 12 = u).map fun v => v.pack.blocks).sum ≤ s.freeBlocks c u
  if own && room then some (vs.map fun v => (v.slot, v))
  else
    (placePacks ((List.range 4).map (s.unitRoom c))
      (vs.map fun v => ⟨v.pack.role, v.pack.packNo, v.pack.blocks, v.pack.fullBlocks, v.pack.nthreads⟩)).map fun ps =>
        (ps.map (·.1)).zip vs

/-- Vault base for a returning group on a core: its own when that is free. -/
def State.baseFor (s : State) (g : Group) (c : Nat) : Option Nat :=
  let free := (s.groupsOn c).all fun h =>
    g.vbase + g.vbytes ≤ h.vbase || h.vbase + h.vbytes ≤ g.vbase || h.vbytes = 0 || g.vbytes = 0
  if c = g.core && free then some g.vbase else s.vaultGap c g.vbytes

/-- Bind the handles of a returning group again, each where it was when that is free and the core is the same. -/
def State.rebind (s : State) (gid old c : Nat) : List (Nat × Handle) → Option State
  | [] => some s
  | (h, d) :: rest =>
    if !d.bound then s.rebind gid old c rest
    else
      let same := old = c && d.places.all fun (e, sl) => (s.slotsFree e).contains sl
      let ps := if same then some d.places else s.placeHandle c d.kind
      match ps with
      | none => none
      | some ps =>
        let (e, sl) := ps.headD (0, 0)
        let n : Handle := { d with engine := e, slot := sl, split := match d.kind with | .split => ps | _ => [] }
        (s.modGroup gid fun g => { g with handles := tabPut g.handles h n }).rebind gid old c rest

/-- A place in a vault after its group's allocation has moved. -/
def moved (g : Group) (c base : Nat) (x : Nat × Nat) : Nat × Nat :=
  if x.1 = g.core && g.vbase ≤ x.2 && x.2 < g.vbase + g.vbytes then (c, x.2 - g.vbase + base) else x

def Pack.relocate (p : Pack) (g : Group) (c base : Nat) : Pack :=
  match p.wait with
  | .barrier k o ph =>
    let (k, o) := moved g c base (k, o)
    { p with wait := .barrier k o ph }
  | _ => p

/-- A stopped command goes on from where it stopped (R196), on the engines its handle now has. -/
def Cmd.resumed (x : Cmd) (g : Group) (c base : Nat) (handles : Tab Handle) : Cmd :=
  let h := match x.handle with | some d => some ((tabFind handles x.handleNo).getD d) | none => none
  let h := match h, x.handle with
    | some n, some d => some { n with acc := d.acc }
    | n, _ => n
  { x with
      core := c, handle := h
      engines := match h with
        | some d => if x.feed = 3 then d.engines else [c]
        | none => [c]
      signal := match x.signal with
        | .barrier k o =>
          let (k, o) := moved g c base (k, o)
          .barrier k o
        | y => y
      state := if x.fail ≠ 0 || (x.staged && !(x.isReduce && 8 * x.cursor < x.shadow.length)) then .ready else .queued }

/-- Where the saved engine state of a group goes. -/
def State.engineBack (s : State) (gid : Nat) (p : Partition) (c : Nat) : State :=
  match s.group gid with
  | none => s
  | some g =>
    let alone := s.groups.all fun (i, h) => i = gid || h.away || h.core ≠ c
    let s := match alone, tabFind p.savedEng (coreKey gid) with
      | true, some own => s.modEng c fun e => { own with
          acc := e.acc, fifoA := e.fifoA, fifoB := e.fifoB, accSoft := e.accSoft, accBad := e.accBad }
      | _, _ => s
    g.allPlaces.foldl (fun s (h, i, e, sl) => s.modEng e fun n =>
      n.tileIn sl (tabGet {} p.savedEng (placeKey gid h i))) s

/-- Put a group back on a core, its packs in their slots but not yet running; none when it does not fit. -/
def State.placeBack (s : State) (gid c : Nat) : Option State :=
  match s.group gid with
  | none => none
  | some g =>
    match s.slotsFor g gid c, s.baseFor g c with
    | some ps, some base =>
      if 48 < s.accHeld (c / 8) + g.acc then none
      else
        let p := s.part g.part
        let free := g.handles.map fun (h, d) => (h, { d with bound := false })
        let s1 := s.modGroup gid fun g => { g with away := false, core := c, vbase := base, handles := free }
        match s1.rebind gid g.core c g.handles with
        | none => none
        | some s =>
          let s := s.engineBack gid p c
          let cells := tabGet [] p.savedVault gid
          let mine := Group.vaultWords { g with vbase := base }
          let s := s.modCore c fun k => { k with
            vault := cells.foldl (fun m (a, b) => setByte m (base + a) b)
              (k.vault.filter fun (a, _) => !(base ≤ a && a < base + g.vbytes))
            vaultSoft := k.vaultSoft.filter fun w => !(mine k.vaultSoft).contains w
            vaultBad := (k.vaultBad.filter fun w => !(mine k.vaultBad).contains w) ++
              (tabGet [] p.savedBad gid).map (base / 8 + ·) }
          let s := ps.foldl (fun s (sl, v) =>
            let (s, p) := s.readShadow c v
            s.setPack c sl (p.relocate g c base)) s
          let hs := match s.group gid with | some n => n.handles | none => []
          let mine := fun (x : Cmd) => x.group = gid && x.state == .stopped
          let s := { s with cmds := s.cmds.map fun (i, x) => (i, if mine x then x.resumed g c base hs else x) }
          some (s.modPart g.part fun p => { p with
            saved := p.saved.filter fun v => v.pack.group ≠ gid
            savedVault := tabDel p.savedVault gid
            savedBad := tabDel p.savedBad gid
            savedEng := p.savedEng.filter fun (key, _) => key / 64 ≠ gid })
    | _, _ => none

/-- Whether a core, or its cluster, is reserved for a node (R132). -/
def State.reservedCore (s : State) (c : Nat) : Bool := s.sched.reserved.any fun (_, _, t) => t = c || t = 160 + c / 8

/-- Cores a returning group may take, in the order they are tried: its own, then its cluster's (R46, R197); where its partition
no longer has that cluster, any of its cores (R164; DESIGN CHOICE, log 19). No reserved core (R132). -/
def State.coresBack (s : State) (g : Group) : List Nat :=
  let ok := fun c => s.mayPlace g.part c && !s.unitLeaving c && !s.reservedCore c
  let rest := (List.range Config.cores).filter fun c => ok c && c ≠ g.core
  let stays := s.ownsCluster g.part (g.core / 8)
  (if ok g.core then [g.core] else []) ++ rest.filter fun c => !stays || c / 8 = g.core / 8

def State.placeSomewhere (s : State) (gid : Nat) : List Nat → Option State
  | [] => none
  | c :: rest =>
    match s.placeBack gid c with
    | some t => some t
    | none => s.placeSomewhere gid rest

/-- Let the packs of a group that has been placed again run; a wave that could not form while they were away may form (R317). -/
def State.resumeGroup (s : State) (gid : Nat) : State :=
  let s := (s.packsWhere fun p => p.group = gid).foldl (fun s (c, sl) => s.onPack c sl (·.resumePack)) s
  match s.group gid with
  | some g => s.tryWaves g.core
  | none => s

/-- Saved groups that are not held by a guest and have nothing that keeps them off: the tick ends a commit's hold (R169). -/
def State.waitingBack (s : State) : List Nat :=
  s.groups.filterMap fun (gid, g) =>
    if (g.away || (s.savedPacks g gid).length ≠ 0) && !g.held && (s.part g.part).preempt == .none &&
        !(s.part g.part).map.susp && !s.unitLeaving g.core then some gid
    else none

/-- Groups whose restore waits for the scheduler to place them (R312). -/
def State.waitingRest (s : State) : List Nat :=
  s.parts.flatMap fun (_, p) => (p.contexts.filter fun x => x.restoring && !x.placed).map (·.gid)

/-- Place a group whose restore waits for that, where it fits; its packs do not run yet. -/
def State.placeRest (s : State) (gid : Nat) : State :=
  match s.group gid with
  | none => s
  | some g =>
    match s.placeSomewhere gid (s.coresBack g) with
    | some t => t.modPart g.part fun p => { p with
        contexts := p.contexts.map fun x => if x.gid = gid then { x with placed := true } else x }
    | none => s

/-! Images in memory (R197, R199, R312). The spec gives them no format (DESIGN CHOICE, log 37): registers and tiles are bytes that are
free values, for which the device remembers what they stand for; vault bytes follow as they are. A restore reads the bytes back and
brings what they stand for; where they are none that were written for the group, free values. -/

/-- `n` free words of bytes. -/
def State.freeBytes (s : State) : Nat → State × List Byte
  | 0 => (s, [])
  | n + 1 =>
    let (w, s) := s.freeWord
    let (s, b) := s.freeBytes n
    (s, bytesOfNat 4 w.toNat ++ b)

/-- Registers with free values, counted from `n`. -/
def Pack.scrambled (n : Nat) (p : Pack) : Pack :=
  let free := fun (k c : Nat) => (List.range c).foldl (fun m r => tabSet 0 m r (Config.freeWord (n + k + r))) ([] : Tab Word)
  let th := fun (l : Nat) (t : Thread) =>
    { t with v := free (160 * l) 128, p := (Config.freeWord (n + 160 * l + 128)).extractLsb' 0 7 }
  { p with
      threads := mapLanes th 0xFFFFFFFF 0 p.threads, s := free 5120 64
      q := (Config.freeWord (n + 5184)).extractLsb' 0 4, fstat := Config.freeWord (n + 5185) &&& 0x7F }

/-- The packs of a group, saved or in their slots, and its tiles become what `f` and `t` make of them. -/
def State.remake (s : State) (gid : Nat) (f : Pack → Pack) (t : Nat → Engine → Engine) : State :=
  match s.group gid with
  | none => s
  | some g =>
    let s := s.modPacks fun p => if p.group = gid then f p else p
    let s := s.modPart g.part fun p => { p with
      savedEng := p.savedEng.map fun (k, e) => (k, if k / 64 = gid then t k e else e) }
    if g.away then s
    else g.allPlaces.foldl (fun s (h, i, e, sl) => s.modEng e fun n => n.tileIn sl (t (placeKey gid h i) (n.tileOut sl))) s

/-- What comes back of a group whose bytes are none that were written for it. -/
def State.scramble (s : State) (gid : Nat) : State :=
  let n := s.env.free
  let tile := (List.range Config.slotWords).foldl
    (fun m i => tabSet 0 m i (Config.freeWord (n + 2097152 + i))) ([] : Tab Word)
  State.remake { s with env := { s.env with free := n + 4194304 } } gid (fun p => p.scrambled (n + 8192 * p.packNo))
    fun k e => if k % 64 = 63 then e else { e with acc := tile }

/-- What comes back of a group whose bytes were written for it earlier: its packs and tiles as they were then. -/
def State.revert (s : State) (gid : Nat) (x : Snapshot) : State :=
  match s.group gid with
  | none => s
  | some g =>
    let was := fun (p : Pack) => match x.packs.find? fun v => v.pack.packNo = p.packNo with
      | some v => v.pack.relocate x.group g.core g.vbase
      | none => p
    s.remake gid was fun k e => (tabFind x.eng k).getD e

/-- The bytes of a group have been read back: those last written, `own`, stand for its state as it is, with the replies that came
meanwhile (R198). -/
def State.recall (s : State) (part gid : Nat) (own bs : List Byte) (bad : Bool) : State :=
  if !bad && bs = own then s
  else
    match (s.part part).written.find? fun x => x.gid = gid && x.bytes = bs with
    | some x => if bad then s.scramble gid else s.revert gid x
    | none => s.scramble gid

/-- Bytes written for a group stand for its state as it is. -/
def State.remember (s : State) (part gid : Nat) (bs : List Byte) : State :=
  match s.group gid with
  | none => s
  | some g => s.modPart part fun p => { p with
      written := ⟨gid, bs, g, s.savedPacks g gid, p.savedEng.filter fun (k, _) => k / 64 = gid⟩ :: p.written }

/-- Bytes an image takes in the SAVE area, whole chunks of 4 KiB. -/
def imageSize (vbytes : Nat) : Nat := 4096 * (1 + ceilDiv vbytes 4096)

/-- Where the next image of a partition goes: the lowest place behind the others, or between them, that holds it. -/
def State.savePlace (s : State) (part n : Nat) : Nat :=
  let save := (s.part part).map.save.toNat
  let used := (s.part part).images.map fun i => (i.pa, i.pa + imageSize i.vbytes)
  ((ascending (save :: used.map (·.2))).find? fun a => used.all fun (lo, hi) => a + n ≤ lo || hi ≤ a).getD save

/-- The images of a partition's saved groups leave the shadow banks for its SAVE area, each with its group's vault allocation behind it
(DESIGN CHOICE, log 19). -/
def State.drainImages (s : State) (part : Nat) : State :=
  let new := s.groups.filterMap fun (gid, g) =>
    if g.part = part && g.away && !((s.part part).images.any (·.gid = gid)) then some (gid, g.vbytes) else none
  new.foldl (fun s (gid, n) =>
    let pa := s.savePlace part (imageSize n)
    let (s, bs) := s.freeBytes 1024
    let vault := bytesAt (tabGet [] (s.part part).savedVault gid) 0 n
    let s := (s.writeBytes false true (spread pa (bs ++ vault))).remember part gid bs
    s.modPart part fun p => { p with images := p.images ++ [⟨gid, pa, bs, n⟩] }) s

/-- Restore reverses the sequence (R197): the image of a group that comes back is read from the SAVE area. -/
def State.fetchImage (s : State) (part gid : Nat) : State :=
  match (s.part part).images.find? (·.gid = gid) with
  | none => s
  | some i =>
    let (s, bs, bad) := s.readHpa (pieces 40 i.pa 4096)
    let broken := (List.range (i.vbytes / 8)).filter fun w => s.uncorrectable (i.pa + 4096 + 8 * w) 8
    let (s, vault, _) := s.readHpa (pieces (i.vbytes / 128 + 2) (i.pa + 4096) i.vbytes)
    let s := s.recall part gid i.bytes bs bad
    s.modPart part fun p => { p with
      images := p.images.filter (·.gid ≠ gid)
      savedVault := tabPut p.savedVault gid (setBytes [] 0 vault)
      savedBad := if broken.isEmpty then p.savedBad else tabPut p.savedBad gid (broken ++ tabGet [] p.savedBad gid) }

/-- Bring back the groups that fit (R197): those still on their core only get their packs back. -/
def State.bringBack (s : State) : List Nat → State
  | [] => s
  | gid :: rest =>
    match s.group gid with
    | none => s.bringBack rest
    | some g =>
      let cs := if s.packsAway gid then s.coresBack g else [g.core]
      let s := if g.away then s else s.swapOut gid
      match s.placeSomewhere gid cs with
      | some _ =>
        let s := s.fetchImage g.part gid
        ((s.placeSomewhere gid cs).getD s |>.resumeGroup gid).bringBack rest
      | none => s.bringBack rest

/-! ctxsave and ctxrest (R199, R312). -/

/-- The header of a save area. -/
structure CtxHead where
  magic : Nat
  total : Nat
  cursor : Nat
  dir : Nat
  deriving DecidableEq, Repr

def ctxMagic : Nat := 0x4B435331

def readHead (b : List Byte) : CtxHead := ⟨fieldAt b 0 4, fieldAt b 4 4, fieldAt b 8 4, fieldAt b 12 4⟩

def CtxHead.bytes (h : CtxHead) : List Byte :=
  bytesOfNat 4 h.magic ++ bytesOfNat 4 h.total ++ bytesOfNat 4 h.cursor ++ bytesOfNat 4 h.dir ++ bytesOfNat 48 0

/-- The group a context switch names: one of the partition's that is not the issuer's own. -/
def State.ctxGroup (s : State) (b : SReg) : Option Nat :=
  let slot := (s.pk.sreg b.toNat).toNat % 65536
  let index := (s.pk.sreg (b.toNat + 1)).toNat
  match s.groups.find? fun (_, g) => g.part = s.pk.part && g.slot = slot && g.index = index with
  | some (gid, _) => if gid = s.pk.group then none else some gid
  | none => none

def State.context (s : State) (gid : Nat) : Option Context := (s.part s.pk.part).contexts.find? (·.gid = gid)

def State.setContext (s : State) (x : Context) : State :=
  s.modPart s.pk.part fun p => { p with contexts := x :: p.contexts.filter (·.gid ≠ x.gid) }

/-- The answer of a context switch, whose header is written. -/
def State.ctxAnswer (s : State) (d : SReg) (va : Nat) (h : CtxHead) (write : Bool) : State :=
  let s := if write then s.writeVA s.here s.pk.part s.pk.priv va h.bytes else s
  (s.setS d.toNat (BitVec.ofNat 32 ((if h.cursor = h.total then 2 ^ 31 else 0) + h.cursor % 65536))).next 8

/-- What a pack access of a context switch led to: go on, or the pack has parked or trapped. -/
def State.ctxAccess {α : Type} (va : Nat) (r : State × PackRes α) (f : State → α → State) : State :=
  match r with
  | (s, .ok x) => f s x
  | (s, .parked) => s
  | (s, .memfault) => s.raisePack .memfault va 0
  | (s, .ecc) => s.raiseEcc va

/-- Whether the save area can be written at an address. -/
def State.ctxWritable (s : State) (va n : Nat) (f : State → State) : State :=
  State.ctxAccess va (s.packWritable va n) fun s _ => f s

/-- Chunks that hold a group's vault allocation: the last ones (DESIGN CHOICE, log 37). -/
def State.vaultChunks (s : State) (gid : Nat) : Nat := match s.group gid with | some g => ceilDiv g.vbytes 4096 | none => 0

/-- The first ctxsave: the header is written and the group held. -/
def State.beginSave (s : State) (gid va : Nat) : State × CtxHead :=
  let (w, s) := s.freeWord
  let n := s.vaultChunks gid
  let h : CtxHead := ⟨ctxMagic, 1 + w.toNat % (65535 - n) + n, 0, 0⟩
  let s := s.writeVA s.here s.pk.part s.pk.priv va h.bytes
  ((s.modGroup gid fun g => { g with held := true }).setContext { gid := gid, out := false, restoring := false, placed := false }, h)

/-- One chunk of a save, once every pack of the group has been evicted. -/
def State.saveChunk (s : State) (d : SReg) (gid va : Nat) (h : CtxHead) : State :=
  let s := s.aside fun s => s.evictEach ((s.evictable fun _ _ => false).filter fun (c, sl) =>
    match s.packAt c sl with | some p => p.group = gid | none => false)
  if !s.packsAway gid then s.block (.context gid)
  else
    let dest := va + 4096 * (h.cursor + 1)
    s.ctxWritable dest 4096 fun s =>
      let s := s.onStore fun s => s.swapOut gid
      let first := h.total - s.vaultChunks gid
      let (s, bs) := if h.cursor < first then s.freeBytes 1024
        else (s, bytesAt (tabGet [] (s.part s.pk.part).savedVault gid) (4096 * (h.cursor - first)) 4096)
      let had := match s.context gid with | some x => x.chunks | none => []
      let s := s.setContext {
        gid := gid, out := true, restoring := false, placed := false, chunks := had.take h.cursor ++ [bs] }
      let s := if h.cursor + 1 = first then s.remember s.pk.part gid (had.take h.cursor ++ [bs]).flatten else s
      (s.writeVA s.here s.pk.part s.pk.priv dest bs).ctxAnswer d va { h with cursor := h.cursor + 1 } true

/-- ctxsave (R312). -/
def execCtxsave (d a b : SReg) (s : State) : Out :=
  issue (.ctxsave d a b) (fun s =>
    let va := (s.pk.s64 a.toNat).toNat
    if va % 4096 ≠ 0 then s.raisePack .align va 0
    else
      match s.ctxGroup b with
      | none => s.raisePack .operand 0 0
      | some gid =>
        State.ctxAccess va (s.packRead va 64) fun s hd =>
          let h := readHead hd
          let out := match s.context gid with | some x => x.out | none => false
          let under := h.magic = ctxMagic && h.cursor < h.total
          if under && h.dir ≠ 0 then s.raisePack .operand 0 0
          else if out && !under then s.raisePack .operand 0 0
          else
            s.ctxWritable va 64 fun s =>
              if under && (s.context gid).isSome then s.saveChunk d gid va h
              else
                let (s, h) := s.beginSave gid va
                s.saveChunk d gid va h) s

/-- A chunk of a group's vault allocation comes back to the core where the group is placed; words that were uncorrectable when they
left stay so (R97). -/
def State.vaultBack (s : State) (gid i : Nat) (bs : List Byte) : State :=
  match s.group gid with
  | some g => s.modCore g.core fun k => { k with vault := setBytes k.vault (g.vbase + 4096 * i) (bs.take (g.vbytes - 4096 * i)) }
  | none => s

/-- One chunk of a restore, read from the save area; at the total the group goes on. -/
def State.restChunk (s : State) (d : SReg) (gid va : Nat) (h : CtxHead) : State :=
  let from' := va + 4096 * (h.cursor + 1)
  State.ctxAccess from' (s.packRead from' 4096) fun s bs =>
    let x := (s.context gid).getD { gid := gid, out := true, restoring := true, placed := true }
    let first := h.total - s.vaultChunks gid
    let got := tabPut x.got h.cursor bs
    let s := s.setContext { x with got := got }
    let s := if h.cursor < first then s else s.vaultBack gid (h.cursor - first) bs
    let h : CtxHead := { h with cursor := h.cursor + 1 }
    let s := if h.cursor = h.total then
        let s := (s.modPart s.pk.part fun p => { p with contexts := p.contexts.filter (·.gid ≠ gid) }).modGroup gid fun g =>
          { g with held := false }
        let bs := (List.range first).flatMap (tabGet [] got)
        let part := s.pk.part
        s.aside fun s => (s.recall part gid (x.chunks.take first).flatten bs false).resumeGroup gid
      else s
    s.ctxAnswer d va h true

/-- The placement a restore waits for (R21): the scheduler tries it at once, and again at each of its walks. -/
def State.restPlace (s : State) (gid : Nat) : State × Bool :=
  match s.context gid with
  | some x =>
    if x.placed then (s, true)
    else
      let s := (s.setContext { x with restoring := true }).onStore fun s => s.placeRest gid
      (s, match s.context gid with | some x => x.placed | none => false)
  | none => (s, false)

/-- ctxrest (R312). -/
def execCtxrest (d a b : SReg) (s : State) : Out :=
  issue (.ctxrest d a b) (fun s =>
    let va := (s.pk.s64 a.toNat).toNat
    if va % 4096 ≠ 0 then s.raisePack .align va 0
    else
      match s.ctxGroup b with
      | none => s.raisePack .operand 0 0
      | some gid =>
        State.ctxAccess va (s.packRead va 64) fun s hd =>
          let h := readHead hd
          let done := h.cursor = h.total
          let out := match s.context gid with | some x => x.out | none => false
          if h.magic ≠ ctxMagic || (h.dir = 0 && !done) then s.raisePack .operand 0 0
          else if h.dir ≠ 0 && done then s.ctxAnswer d va h false
          else if !out then s.raisePack .operand 0 0
          else
            s.ctxWritable va 64 fun s =>
              let h : CtxHead := if done then { h with dir := 1, cursor := 0 } else h
              let s := if done then s.writeVA s.here s.pk.part s.pk.priv va h.bytes else s
              let (s, ok) := s.restPlace gid
              if ok then s.restChunk d gid va h else s.block (.context gid)) s

end Sys2Proof.Machine
end

