-- ==== Sys2Proof/Machine/Host.lean ====
section
/-! DEFINITION. What the host does: node windows (spec/01_device.md R17-R19), memory windows and snoops (R28,
spec/04_memories.md R87, R97, spec/06_ordering.md R128), the mailbox commands (spec/08_tables.md R163-R166,
spec/09_counters_events.md R195, spec/15_program_guest_gather.md R316), and the device registers it writes (R167, R185). -/
namespace Sys2Proof.Machine

/-- The partition field of an event of a function's window (R185): partition + 1, or 0. -/
def State.fnPart (s : State) (fn : Nat) : Nat :=
  match s.partOfFn fn with
  | some p => p + 1
  | none => 0

/-! Node windows (R17-R19). -/

/-- Whether a function's window reaches a slot (R17). -/
def State.reaches (s : State) (fn slot : Nat) : Bool :=
  slot < 65536 && (fn = 0 || (match s.partOfFn fn with | some p => s.ownsSlot p slot | none => false))

/-- NODE_DECREMENT (R19): a release at .sys (R23). -/
def execNodeDecrement (fn slot : Nat) (d : Word) (s : State) : Out :=
  event (fun s =>
    if s.reaches fn slot then s.syncReplicas.decrement [⟨slot, d.toNat, srcHost, s.fnPart fn⟩]
    else s.logEvent 11 srcHost (s.fnPart fn) 0 slot) s

/-- The partition a registration is for: the function's, or for the physical function the one whose range holds the slot
(DESIGN CHOICE, log 1). -/
def State.registrant (s : State) (fn slot : Nat) : Option Nat :=
  if fn = 0 then (List.range 20).find? fun p => (s.part p).map.valid && s.ownsSlot p slot
  else s.partOfFn fn

/-- REGISTRATION (R17, R18): the slot, the record's address, and what the function reads back at 0x80008. -/
def execRegistration (fn : Nat) (w : DWord) (s : State) : Out :=
  event (fun s =>
    let slot := bits w.toNat 63 48
    let va := bits w.toNat 44 0 * 128
    let ok := bits w.toNat 47 45 = 0
    let (s, acc) := match s.registrant fn slot with
      | some p => s.register (.host fn) p slot va (ok && s.reaches fn slot)
      | none => (s.logEvent 11 srcHost (s.fnPart fn) 0 slot, false)
    let st := BitVec.ofNat 32 (slot + if acc then 65536 else 0)
    { s with sched := { s.sched with lastReg := tabPut s.sched.lastReg fn st } }) s

/-- What a function reads at an offset of its node window (R17): a slot's count, LIVE and READY, and at 0x80008 the status of its
last registration. -/
def State.windowRead (s : State) (fn off : Nat) : DWord :=
  if off % 8 ≠ 0 then 0
  else if off < 0x80000 then
    (if s.reaches fn (off / 8) then
      match tabFind s.sched.nodes (off / 8) with
      | some n => BitVec.ofNat 64 (n.count + 2 ^ 32 + if n.ready then 2 ^ 33 else 0)
      | none => 0
    else 0)
  else if off = 0x80008 then (tabGet 0 s.sched.lastReg fn).setWidth 64
  else 0

/-- NODE_WINDOW_BAD_ACCESS (R17): discarded and logged. -/
def execNodeWindowBadAccess (fn off : Nat) (s : State) : Out :=
  event (fun s => s.logEvent 11 srcHost (s.fnPart fn) 0 off) s

/-! Memory windows (R28). -/

/-- Where a piece of a host access goes, and its ELIDE bit: a local offset or the host's own memory for function 0, through
stage 2 for a virtual function (R28, R157). -/
def State.hostPlace (s : State) (fn addr : Nat) (store : Bool) : State × Option (Nat × Bool) :=
  if fn = 0 then
    if bitOf addr 51 then (s, some (addr % 2 ^ 52, false))
    else if addr < Config.hbmBytes then (s, some (s.mp.nodeId * 2 ^ 41 + addr, false))
    else (s, none)
  else
    match s.partOfFn fn with
    | none => (s, none)
    | some p =>
      if 2 ^ 48 ≤ addr then (s, none)
      else
        match s.leaf2 (dieOf agentHost) p addr with
        | (s, .error x) => (s.logXlat agentHost p x, none)
        | (s, .ok (e, a)) =>
          let pa := bits e 51 16 * 65536 + addr % 65536
          if bitOf e 11 then (s.logXlat agentHost p (.bad a), none)
          else if !bitOf e (if store then 2 else 1) || s.paKind pa = .reserved then (s, none)
          else (s, some (pa, bitOf e 10))

/-- The host takes a granule back: it leaves the memory-side cache before the host owns it (R87). -/
def State.snoop (s : State) (addr : Nat) : State :=
  let g := (2 ^ 51 + addr % 2 ^ 51) / 256
  { s with home := { s.home with hostOwned := s.home.hostOwned.filter (· ≠ g), lines := s.home.lines.filter (· ≠ g) } }

/-- One piece of a host write. -/
def State.hostWritePiece (s : State) (fn addr : Nat) (bs : List Byte) : State :=
  match s.hostPlace fn addr true with
  | (s, none) => s
  | (s, some (pa, el)) =>
    let s := if bitOf pa 51 then s.snoop pa else s
    s.byHost pa (s.homeWrite el true (spread pa bs))

/-- HOST_MEM_WRITE (R28, R128). -/
def execHostMemWrite (fn addr : Nat) (data : List Byte) (s : State) : Out :=
  event (fun s => (pieces (data.length / 128 + 2) addr data.length).foldl (fun s p =>
    s.hostWritePiece fn p.1 ((data.drop (p.1 - addr)).take p.2)) s) s

/-- The pieces of a host read: the bytes, and whether any is uncorrectable; a refused piece returns no bytes. -/
def State.hostRead (s : State) (fn : Nat) : List (Nat × Nat) → State × List Byte × Bool
  | [] => (s, [], false)
  | (va, n) :: rest =>
    let (s, bs, bad) := match s.hostPlace fn va false with
      | (s, none) => (s, ([] : List Byte), false)
      | (s, some (pa, _)) =>
        let (bs, bad, t) := s.homeRead pa n
        (s.byHost pa t, bs, bad)
    let (s, bs', bad') := s.hostRead fn rest
    (s, bs ++ bs', bad || bad')

/-- HOST_MEM_READ (R28, R97). -/
def execHostMemRead (fn addr n : Nat) (s : State) : Out :=
  event (fun s =>
    let (s, bs, bad) := s.hostRead fn (pieces (n / 128 + 2) addr n)
    { s with mp := { s.mp with mailbox := { s.mp.mailbox with readData := bs, poison := bad } } }) s

/-- HOST_SNOOP (R87). -/
def execHostSnoop (addr : Nat) (s : State) : Out := event (fun s => s.snoop addr) s

/-! The mailbox (R166). -/

/-- The MP writes the completion status into the slot (R166). -/
def State.mailed (s : State) (code status : Nat) : State :=
  { s with mp := { s.mp with mailbox := { s.mp.mailbox with code := code, status := status } } }

/-- A command refused where the spec states no status: the status byte is free (DESIGN CHOICE, log 7). -/
def State.refusedMail (s : State) (code : Nat) : State :=
  let (w, s) := s.freeWord
  s.mailed code (w.toNat % 256)

/-- One partition record of a map image (R162), if its reserved fields are zero. A map whose roots or save area are not aligned to
64 KiB, or do not fit 52 bits, is refused (DESIGN CHOICE, log 47). -/
def parsePart (b : List Byte) : Option PartRec :=
  let f := fieldAt b
  let w := fun o => BitVec.ofNat 32 (f o 4)
  let a := fun o => f o 8 % 65536 = 0 && f o 8 < 2 ^ 52
  if f 0 4 < 2 ^ 20 && f 4 4 < 2 ^ 20 && f 16 4 < 2 ^ 20 && a 24 && a 32 && f 48 4 < 2 ^ 10 && f 52 4 = 0 && a 56 then
    some { clg := w 0, clm := w 4, cgg := w 8, cgm := w 12, clb := w 16, cgb := w 20
           s2root := BitVec.ofNat 64 (f 24 8), s1root := BitVec.ofNat 64 (f 32 8), tenant := BitVec.ofNat 64 (f 40 8)
           ctl := w 48, res := w 52, save := BitVec.ofNat 64 (f 56 8) }
  else none

def allSome {α : Type} : List (Option α) → Option (List α)
  | [] => some []
  | none :: _ => none
  | some x :: r => (allSome r).map (x :: ·)

/-- A map image (R162): a header of 64 bytes, zero but for LAYOUTVER and a TIME, then 20 records. -/
def parseMap (b : List Byte) : Option (List PartRec) :=
  if fieldAt b 4 4 = 0 && ((b.drop 16).take 48).all (· == 0) then
    allSome ((List.range 20).map fun p => parsePart ((b.drop (64 + 64 * p)).take 64))
  else none

/-- Whether the sets picked out of the records are pairwise disjoint, below `n`. -/
def disjointSets (n : Nat) (l : List Word) : Bool :=
  (List.range n).all fun k => (l.filter fun (w : Word) => w.getLsbD k).length ≤ 1

/-- Whether a valid partition other than `p` lends unit `k` (R163): it has the unit in its margin, with LENDOK. -/
def lends (margin : PartRec → Word) (m : List PartRec) (p k : Nat) : Bool :=
  m.zipIdx.any fun (r, q) => q ≠ p && r.valid && !r.susp && r.lendok && (margin r).getLsbD k

/-- Groups of the lender that stand on a cluster (R163). -/
def State.clusterBusy (s : State) (p k : Nat) : Bool := s.groups.any fun (_, g) => g.part ≠ p && g.core / 8 = k && !g.away

/-- Stage-2 leaves of a partition: the page number in its guest-physical space, the leaf's address and the leaf (R155). -/
def State.leaves2 (s : State) (part : Nat) : List (Nat × Nat × Nat) :=
  let next := fun (n : Nat) (t : Nat × Nat) => (List.range n).filterMap fun i =>
    let e := natOfBytes (s.memBytes (t.2 + 8 * i) 8)
    if bitOf e 0 then some (8192 * t.1 + i, t.2 + 8 * i, e) else none
  let down := fun (x : Nat × Nat × Nat) => (x.1, bits x.2.2 51 16 * 65536)
  (((next 64 (0, (s.part part).map.s2root.toNat)).map down).flatMap (next 8192)).map down |>.flatMap (next 8192)

/-- Those whose frames have a granule on a channel group. -/
def State.leavesOn (s : State) (part g : Nat) : List (Nat × Nat) :=
  (s.leaves2 part).filterMap fun (_, a, e) =>
    let f := bits e 51 16
    if s.paKind (f * 65536) = .hbm && s.frameOn f g then some (a, e) else none

/-- Whether a partition other than `p` has pages mapped on a channel group, or frames of its re-tile pool (R163; DESIGN CHOICE,
log 14: what it is to hold a channel group in use). -/
def State.groupBusy (s : State) (p g : Nat) : Bool :=
  (List.range 20).any fun q => q ≠ p && (s.part q).map.valid && !(s.part q).map.susp && (s.part q).map.cgm.getLsbD g &&
    (!(s.leavesOn q g).isEmpty || (s.part q).pool.any fun f => s.frameOn f g)

/-- The rules of R163. A record whose SUSP is set holds no units, and needs none (DESIGN CHOICE, log 14). -/
def State.mapOk (s : State) (m : List PartRec) : Bool :=
  let valid := m.filter (·.valid)
  let held := valid.filter fun r => !r.susp
  let vfs := valid.map (·.vf)
  let newly := fun p k => !(s.part p).map.clb.getLsbD k
  let newlyG := fun p k => !(s.part p).map.cgb.getLsbD k
  disjointSets 20 (valid.flatMap fun r => [r.clg, r.clm]) && disjointSets 32 (valid.flatMap fun r => [r.cgg, r.cgm]) &&
    disjointSets 20 (held.map (·.clb)) && disjointSets 32 (held.map (·.cgb)) &&
    (m.zipIdx.all fun (r, p) => !r.valid || r.susp ||
      ((List.range 20).all fun k => !r.clb.getLsbD k || (lends (·.clm) m p k && !(newly p k && s.clusterBusy p k))) &&
      ((List.range 32).all fun k => !r.cgb.getLsbD k || (lends (·.cgm) m p k && !(newlyG p k && s.groupBusy p k)))) &&
    (held.all fun r => r.clg != 0 && r.cgg != 0) &&
    (vfs.all fun v => 1 ≤ v && v ≤ 20) && vfs.eraseDups.length = vfs.length &&
    (held.all fun r => r.clg &&& s.mp.retiredClusters == 0 && r.cgg &&& s.mp.retiredGroups == 0)

/-- A map that fails is logged in class 14 (R184). -/
def State.mapFails (s : State) : State := s.logEvent 14 srcMp 0 0 0

/-- STAGE (R163, R166): the image goes to the area PTSHADOW names and is validated. -/
def execStage (hpa : Nat) (s : State) : Out :=
  event (fun s =>
    let (s, b, bad) := s.readHpa (pieces 12 hpa 1344)
    if bad then s.refusedMail 1
    else
      let s := s.writeBytes false true (spread s.mp.ptshadow.toNat b)
      match parseMap b with
      | some m =>
        if s.mapOk m then State.mailed { s with mp := { s.mp with staged := some m } } 1 0
        else s.mapFails.refusedMail 1
      | none => s.mapFails.refusedMail 1) s

/-- The map COMMIT runs: the staged one, or the live one, with the tenants ASSIGN has staged. -/
def State.commitMap (s : State) : List PartRec :=
  (s.mp.staged.getD s.map).zipIdx.map fun (r, p) =>
    match (s.part p).staged with
    | some (t, _) => { r with tenant := t }
    | none => r

/-- COMMIT (R165, R168): the commit waits its turn. -/
def execCommit (s : State) : Out :=
  event (fun s =>
    let assigned := (List.range 20).any fun p => (s.part p).staged.isSome
    if s.mp.staged.isNone && !assigned then s.refusedMail 2
    else
      let s := s.queueCommit { why := .host, map := s.commitMap }
      State.mailed { s with mp := { s.mp with staged := none } } 2 0) s

/-- Re-tiles of a partition whose page is no longer mapped are abandoned (R107). -/
def State.dropUnmapped (s : State) (part : Nat) : State :=
  (s.home.retiles.filter fun r => r.part = part && r.stage != .published && !s.retileMapped r).foldl (·.abandon) s

/-- Every elided block of a frame comes into memory. -/
def State.unelideFrame (s : State) (f : Nat) : State :=
  (List.range 512).foldl (fun s b => s.unelide (f * 65536 + 128 * b)) s

/-- The frame service (R93): a leaf of the range that maps its frame with ELIDE clear has every elided block materialised. The
MP does it when the host tells it of the leaf's change (DESIGN CHOICE, log 42). -/
def State.frameService (s : State) (part page count : Nat) : State :=
  if s.home.elision.isEmpty then s
  else
    (s.leaves2 part).foldl (fun s (g, _, e) =>
      if (count = 0 || (page ≤ g && g < page + count)) && !bitOf e 10 then s.unelideFrame (bits e 51 16) else s) s

/-- XLINV (R161): a range of pages, or with count 0 the whole partition. -/
def execXlinv (part gpa count : Nat) (s : State) : Out :=
  event (fun s => (((s.invalidateSent part true (gpa / 65536) count).dropUnmapped part).frameService part (gpa / 65536)
    count).mailed 3 0) s

/-! The frame service (R105, R166): the list holds host-physical addresses of 8 bytes (DEDUCED, log 13). -/

/-- The frames a list names; an entry that cannot be read ends it. -/
def State.frameList (s : State) (hpa : Nat) : Nat → State × List Nat
  | 0 => (s, [])
  | n + 1 =>
    let (bs, bad, t) := s.homeRead hpa 8
    let s := s.byHost hpa t
    if bad then (s, [])
    else
      let (s, l) := s.frameList (hpa + 8) n
      (s, natOfBytes bs :: l)

/-- Whether the pool takes a frame. -/
def State.takesFrame (s : State) (part group a : Nat) : Bool :=
  let r := (s.part part).map
  a % 65536 = 0 && a < 2 ^ 52 && s.paKind a = .hbm && s.frameGroup (a / 65536) = group &&
    (r.cgg ||| r.cgm).getLsbD group && !s.pooled (a / 65536)

/-- FRAMES (R166). -/
def execFrames (part group list count : Nat) (s : State) : Out :=
  event (fun s =>
    let (s, l) := s.frameList list count
    (l.foldl (fun s a => if s.takesFrame part group a then
      s.modPart part fun p => { p with pool := p.pool ++ [a / 65536] } else s) s).mailed 4 0) s

/-- FRAMES with bit 7 of the code set (R166): free frames leave at once, frames that a re-tile holds are marked, and the command
completes when those have left too. -/
def execFramesTakeBack (part group list count : Nat) (s : State) : Out :=
  event (fun s =>
    let (s, l) := s.frameList list count
    let fs := (l.map (· / 65536)).filter fun f => s.frameGroup f = group
    let busy := fs.filter fun f => s.home.retiles.any fun r => r.part = part && r.stage != .waiting && r.newFrame = f
    let s := s.modPart part fun p => { p with
      pool := p.pool.filter fun f => !fs.contains f, marked := (p.marked ++ busy).eraseDups }
    if busy.isEmpty then s.mailed 0x84 0
    else { s with mp := { s.mp with takeBacks := s.mp.takeBacks ++ [(part, busy)] } }) s

/-- ASSIGN (R166): a tenant change for the next COMMIT. -/
def execAssign (part : Nat) (tenant : DWord) (nonce : BitVec 256) (s : State) : Out :=
  event (fun s => if part < 20 then
      (s.modPart part fun p => { p with staged := some (tenant, nonce) }).mailed 5 0
    else s.refusedMail 5) s

/-- TOKEN (R166, R174): where the latest token lies is the MP's choice, a free value (DESIGN CHOICE, log 10). -/
def execToken (part : Nat) (s : State) : Out :=
  event (fun s =>
    match (s.part part).token with
    | some (hpa, _) =>
      State.mailed { s with mp := { s.mp with mailbox := { s.mp.mailbox with value := BitVec.ofNat 64 hpa } } } 6 0
    | none => s.refusedMail 6) s

/-- CERT (R166). -/
def execCert (s : State) : Out :=
  event (fun s =>
    State.mailed { s with mp := { s.mp with mailbox := { s.mp.mailbox with cert := Config.certificateChain } } } 7 0) s

/-- PREQ (R316). -/
def execPreq (hpa : Nat) (reserved : Bool) (s : State) : Out :=
  event (fun s =>
    if reserved || hpa % 32 ≠ 0 then s.mailed 8 2
    else
      match oldestRequest (s.pages.filter fun (_, q) => q.stage2 && !q.taken) with
      | none => s.mailed 8 1
      | some (id, q) =>
        let s := { s with pages := tabPut s.pages id { q with taken := true } }
        (s.homeWrite false true (spread hpa (requestRecord id q))).mailed 8 0) s

/-- PREPLY (R192, R316). -/
def execPreply (arg : DWord) (reserved : Bool) (s : State) : Out :=
  event (fun s =>
    let id := bits arg.toNat 15 0
    let st := bits arg.toNat 23 16
    if reserved || bits arg.toNat 63 24 ≠ 0 || 2 ≤ st then s.mailed 9 2
    else
      match tabFind s.pages id with
      | some q =>
        if q.stage2 then (s.applyReply id q (st = 1)).mailed 9 0
        else (s.logEvent 13 srcMp 0 0 id).mailed 9 1
      | none => (s.logEvent 13 srcMp 0 0 id).mailed 9 1) s

/-- PREEMPT (R195): a grace of 0 to 1,000 µs; packs at blocking points leave at once. -/
def execPreempt (part grace : Nat) (s : State) : Out :=
  event (fun s =>
    if (s.part part).map.valid && grace ≤ 1000 && (s.part part).preempt == .none then
      let s := s.modPart part fun p => { p with preempt := .grace (s.time + 1000 * grace) }
      (s.evictEach (s.evictable fun _ _ => false)).mailed 10 0
    else s.refusedMail 10) s

/-- RESUME (R195, R197): the partition's work comes back where it fits. -/
def execResume (part : Nat) (s : State) : Out :=
  event (fun s =>
    if (s.part part).preempt == .none then s.refusedMail 11
    else
      let s := s.modPart part fun p => { p with preempt := .none }
      (s.bringBack (s.waitingBack.filter fun gid => match s.group gid with | some g => g.part = part | none => false)).mailed
        11 0) s

/-! Device registers (R3, R162, R167, R184, R185). -/

/-- An entry of the error log (R185). -/
def LogEntry.bytes (e : LogEntry) : List Byte :=
  bytesOfNat 8 e.time.toNat ++ bytesOfNat 8 e.seq.toNat ++ bytesOfNat 8 e.addr.toNat ++ bytesOfNat 4 e.detail.toNat ++
    bytesOfNat 4 e.info.toNat

/-- An entry of the notification ring (R167). -/
def Notice.bytes (n : Notice) : List Byte :=
  bytesOfNat 1 n.code ++ bytesOfNat 1 n.part ++ bytesOfNat 6 0 ++ bytesOfNat 8 n.time ++ bytesOfNat 8 n.seq ++ n.detail

/-- A record of the live partition map (R162). -/
def PartRec.bytes (r : PartRec) : List Byte :=
  ([r.clg, r.clm, r.cgg, r.cgm, r.clb, r.cgb].flatMap fun w => bytesOfNat 4 w.toNat) ++ bytesOfNat 8 r.s2root.toNat ++
    bytesOfNat 8 r.s1root.toNat ++ bytesOfNat 8 r.tenant.toNat ++ bytesOfNat 4 r.ctl.toNat ++ bytesOfNat 4 r.res.toNat ++
    bytesOfNat 8 r.save.toNat

/-- The live partition map, as the physical function reads it (R162). -/
def State.mapImage (s : State) : List Byte :=
  bytesOfNat 4 s.mp.layoutver.toNat ++ bytesOfNat 4 0 ++ bytesOfNat 8 s.mp.lastTick ++ bytesOfNat 48 0 ++
    s.map.flatMap PartRec.bytes

/-- A partition's energy aggregate, as the physical function reads it (R183). -/
def State.energyRead (s : State) (part : Nat) : DWord := BitVec.ofNat 64 (s.part part).energy

/-- The byte at an offset of the physical function's register space: the error counters (R184), the error log with LAST, LOGVALID
and LASTSEQ (R185), the notification ring with NHEAD, NTAIL and NLOST (R167). -/
def State.registerByte (s : State) (off : Nat) : Byte :=
  let at' := fun (bs : List Byte) (i : Nat) => bs.getD i 0
  let log := fun (k : Nat) => (tabGet ⟨0, 0, 0, 0, 0⟩ s.mp.log k).bytes
  let ring := fun (k : Nat) => match tabFind s.mp.ring k with
    | some n => n.bytes
    | none => []
  if 0x1000 ≤ off && off < 0x1080 then at' (bytesOfNat 8 (tabGet 0 s.mp.counters ((off - 0x1000) / 8))) (off % 8)
  else if 0x1100 ≤ off && off < 0x1120 then at' s.mp.last.bytes (off - 0x1100)
  else if 0x1120 ≤ off && off < 0x1128 then at' (bytesOfNat 8 s.mp.logvalid.toNat) (off % 8)
  else if 0x1128 ≤ off && off < 0x1130 then at' (bytesOfNat 8 s.mp.lastseq.toNat) (off % 8)
  else if 0x1800 ≤ off && off < 0x2000 then at' (log ((off - 0x1800) / 32)) (off % 32)
  else if 0x2000 ≤ off && off < 0x3000 then at' (ring ((off - 0x2000) / 64)) (off % 64)
  else if 0x3000 ≤ off && off < 0x3004 then at' (bytesOfNat 4 s.mp.nhead.toNat) (off % 4)
  else if 0x3004 ≤ off && off < 0x3008 then at' (bytesOfNat 4 s.mp.ntail.toNat) (off % 4)
  else if 0x3008 ≤ off && off < 0x300C then at' (bytesOfNat 4 s.mp.nlost.toNat) (off % 4)
  else 0

/-- A read of `n` bytes of the register space. -/
def State.registerRead (s : State) (off n : Nat) : Nat := natOfBytes ((List.range n).map fun i => s.registerByte (off + i))

/-- NTAIL_WRITE (R167): freed entries make room for the notifications kept back. -/
def execNtailWrite (w : Word) (s : State) : Out :=
  event (fun s => State.notifyPages { s with mp := Mp.drain 1024 { s.mp with ntail := w } }) s

/-- NLOST_CLEAR (R167): writing 0 clears it. -/
def execNlostClear (w : Word) (s : State) : Out :=
  event (fun s => if w = 0 then { s with mp := { s.mp with nlost := 0 } } else s) s

/-- LOGVALID_WRITE (R185): write 1 to clear. -/
def execLogvalidWrite (w : DWord) (s : State) : Out :=
  event (fun s => { s with mp := { s.mp with logvalid := s.mp.logvalid &&& ~~~w } }) s

/-- REGISTER_WRITE (R3): a register that software only reads keeps its value. -/
def execRegisterWrite (_off : Nat) (_w : DWord) (s : State) : Out := event (fun s => s) s

end Sys2Proof.Machine
end

