-- ==== Sys2Proof/Machine/Sched.lean ====
section
/-! DEFINITION. The scheduler and the MP's admission work: dispatch and reservations (spec/07_queues.md R131-R133), the
argument load (spec/01_device.md R15), overflow lists (R22), planning and energy (R10, R25-R27,
spec/09_counters_events.md R183), and scrub tokens at regions (spec/08_tables.md R175). -/
namespace Sys2Proof.Machine

/-! Dispatch. -/

/-- GROUP_DISPATCH (R21, R132, R133): groups that were saved come back first (R197, R312), then the die's walk places one. -/
def execGroupDispatch (die : Nat) (s : State) : Out :=
  event (fun s => if die < 2 then ((s.waitingRest.foldl (·.placeRest ·) (s.bringBack s.waitingBack)).walkDie die).1 else s) s

/-- The first of a list with the smallest key. -/
def leastBy (key : Nat → Nat) : List Nat → Option Nat
  | [] => none
  | x :: r =>
    match leastBy key r with
    | none => some x
    | some y => some (if key y < key x then y else x)

/-- What a node reserves (R132): the core that lacks the fewest resources, or for a co-scheduled run the cluster (160 + its
number) whose cores lack the fewest together. -/
def State.reserveTarget (s : State) (die : Nat) (n : Node) : Option Nat :=
  let cs := ((List.range 80).map (die * 80 + ·)).filter (s.mayPlace n.part)
  if n.runSize = 1 then leastBy (s.lacking n) cs
  else
    (leastBy (fun k => ((cs.filter (· / 8 = k)).map (s.lacking n)).sum) (ascending (cs.map (· / 8)))).map (160 + ·)

/-- RESERVATION (R132): ten whole intervals lie between 11 boundaries. -/
def execReservation (die : Nat) (s : State) : Out :=
  event (fun s =>
    if 2 ≤ die || (tabFind s.sched.reserved die).isSome then s
    else
      match s.poolOf die with
      | (s, slot :: _) =>
        match tabFind s.sched.nodes slot with
        | some n =>
          if n.stuck ≤ 10 then s
          else
            match s.reserveTarget die n with
            | some t => { s with sched := { s.sched with reserved := tabPut s.sched.reserved die (slot, t) } }
            | none => s
        | none => s
      | (s, []) => s) s

/-! The argument load (R15). -/

/-- Whether the load can be made now: no other request of the pack is under way. -/
def Pack.argReady (p : Pack) (arg : Nat) : Bool :=
  p.args == .pending && p.wait != .parked && (match p.req with | some q => q.addr = arg && q.reply.isSome | none => true)

/-- The load has ended: s0-s15 are no longer pending. -/
def Pack.argDone (p : Pack) : Pack := { p.unpend argOwner with args := .done }

/-- The load by the pack in the latch. -/
def State.loadArgs (s : State) (g : Group) : State :=
  let a := g.arg.toNat
  let pc := (s.pk.thread ((lanesOf s.pk.live).headD 0)).pc
  let asked := match s.pk.req with | some q => if q.addr = a then q.pc else pc | none => pc
  let (s, r) := State.packRead { s with act := s.pk.live, ipc := asked } a 64
  let s : State := { s with ipc := pc }
  match r with
  | .ok b => { s with pk := s.pk.argDone.setSs 0 (wordsOfBytes b) }
  | .parked => s
  | .memfault => State.raisePack { s with pk := s.pk.argDone } .memfault a 0
  | .ecc => State.raiseEcc { s with pk := s.pk.argDone } a

/-- Whether an argument load is due in a slot. -/
def State.argDue (s : State) (core slot : Nat) : Bool :=
  match s.packAt core slot with
  | some p => (match s.group p.group with | some g => p.argReady g.arg.toNat && !(s.part p.part).halted | none => false)
  | none => false

/-- ARGUMENT_LOAD_REPLY (R15). -/
def execArgumentLoadReply (core slot : Nat) (s : State) : Out :=
  event (fun s =>
    if s.argDue core slot then s.onPack core slot fun s => match s.myGroup with | some g => s.loadArgs g | none => s
    else s) s

/-! The overflow list (R22). -/

/-- A read by the scheduler through the partition's translation; it raises nothing. -/
def State.schedRead (s : State) (part va n : Nat) : State × Option Nat :=
  let (s, r) := s.readVA agentMp part .root va n
  match r with
  | .ok (b, false) => (s, some (natOfBytes b))
  | _ => (s, none)

/-- Entries in list order, each decrement applied as it is read; the first that cannot be read ends the list. -/
def State.overflowEntries (s : State) (n : Node) (va : Nat) : Nat → State
  | 0 => s
  | k + 1 =>
    match s.schedRead n.part va 2 with
    | (s, some x) => (s.decrement [⟨x, 1, n.endSrc, n.part + 1⟩]).overflowEntries n (va + 2) k
    | (s, none) => s.logEvent 11 srcMp (n.part + 1) va 0

/-- OVERFLOW_LIST_READ (R22): after it the slot is freed. -/
def execOverflowListRead (slot : Nat) (s : State) : Out :=
  event (fun s =>
    match tabFind s.sched.nodes slot with
    | some n =>
      if n.done && n.listing then
        let va := n.overflow.toNat
        let s := match s.schedRead n.part va 4 with
          | (s, some k) => s.overflowEntries n (va + 4) k
          | (s, none) => s.logEvent 11 srcMp (n.part + 1) va 0
        let s := match tabFind s.sched.nodes slot with
          | some m => s.setNode slot { m with listing := false }
          | none => s
        s.tryFree slot
      else s
    | none => s) s

/-! Planning and energy. -/

/-- Predicted mW of a live group (R26). -/
def State.groupRate (s : State) (g : Group) : Nat :=
  if g.est = 0 then Config.predictedMilliwatt s.mp.planning (g.part * 2 ^ 52 + g.rcb.toNat) else ceilDiv g.est 10

/-- Predicted rates of the regions and of the device for the interval. -/
def State.predict (s : State) : State :=
  let clear := fun (x : Region) => { x with rate := 0 }
  let s : State := { s with
    mp := { s.mp with predicted := 0 }
    parts := s.parts.map fun (n, p) =>
      (n, { p with regions := (p.regions.map fun (k, x) => (k, clear x)).filter fun (_, x) => x ≠ {} }) }
  (s.groups.filter fun (_, g) => !g.away).foldl (fun s (_, g) =>
    let w := s.groupRate g
    State.modRegion { s with mp := { s.mp with predicted := s.mp.predicted + w } } g.part g.rcb.toNat fun x =>
      { x with rate := x.rate + w }) s

/-- A boundary at which the head of a die's pool cannot be placed (R132): energy waits do not count. -/
def State.countStuck (s : State) (die : Nat) : State :=
  match s.poolOf die with
  | (s, []) => s
  | (s, slot :: rest) =>
    let s := s.unstick rest
    match tabFind s.sched.nodes slot with
    | none => s
    | some n =>
      match (s.tryPlace die slot n).2 with
      | .no => s.setNode slot { n with stuck := n.stuck + 1 }
      | .yes => s.setNode slot { n with stuck := 0 }
      | .energy => s

/-- A clock the governor may set (R10): 1,200 to 3,100 MHz in steps of 25. -/
def clockStep (x : Nat) : Nat := max 1200 (min 3100 (x / 25 * 25))

/-- The clock a core gets at the next boundary (R26, R27): the governor's choice is free (DESIGN CHOICE, log 6), lower than now while the
device is over its envelope and not above it until the prediction fits again. -/
def State.nextClock (s : State) (c : Nat) (k : Core) : Nat :=
  let g := clockStep (Config.governorMHz c s.mp.planning)
  let env := s.mp.envelope.toNat
  if env < s.mp.measured then min g (clockStep (k.mhz - 25))
  else if env < s.mp.predicted then min g k.mhz
  else g

/-- Read the energy counters of the cores that hold groups (R183). -/
def State.meterAll (s : State) : State :=
  (ascending (s.groups.filterMap fun (_, g) => if g.away then none else some g.core)).foldl (·.meter) s

/-- PLANNING_INTERVAL (R10, R26, R27, R132). -/
def execPlanningInterval (s : State) : Out :=
  event (fun s =>
    if s.time < (s.mp.planning + 1) * 10000 then s
    else
      let n := s.mp.planning + 1
      let s : State := { s with mp := { s.mp with planning := n, measured := Config.measuredMilliwatt n } }
      let s := s.meterAll.predict
      let s := (List.range Config.cores).foldl (fun s c =>
        s.modCore c fun k => { k with mhz := k.mhzNext, mhzNext := s.nextClock c { k with mhz := k.mhzNext } }) s
      (s.countStuck 0).countStuck 1) s

/-- ENERGY_CORRECTION (R25, R183): the rate of later counts, which is free (DESIGN CHOICE, log 6), changes; no value already counted. -/
def execEnergyCorrection (s : State) : Out :=
  event (fun s =>
    if s.time < (s.mp.corrections + 1) * 1000000 then s
    else State.meterAll { s with mp := { s.mp with corrections := s.mp.corrections + 1 } }) s

/-! Scrub tokens at regions (R175). -/

/-- The RCB of a held region that its partition's token matches. -/
def State.tokenDue (s : State) (part va : Nat) : State × Option Rcb :=
  if (s.region part va).hold.isNone then (s, none)
  else
    match s.readRcb agentMp part va with
    | (s, some r) => (s, if r.scrubreq && s.tokenMatches part r then some r else none)
    | (s, none) => (s, none)

/-- SCRUB_TOKEN_DELIVERY: the token goes to TOKBUF and the MP releases at .sys; the hold ends once it is in memory. -/
def execScrubTokenDelivery (part : Nat) (rcb : DWord) (s : State) : Out :=
  event (fun s =>
    let va := rcb.toNat
    match s.tokenDue part va with
    | (s, some r) =>
      match (s.part part).token with
      | some (_, b) =>
        let (s, ok) := s.takesWrite agentMp part .root r.tokbuf
        if !ok then s
        else
          let s := (s.writeVA agentMp part .root r.tokbuf b).syncReplicas
          let (s, ps) := s.rcbPieces part va
          let s := s.modRegion part va fun x => { x with token := some ps, hold := none }
          let s := { s with home := { s.home with rcbs := ps ++ s.home.rcbs.filter fun p => !ps.contains p } }
          let (s, st) := s.rcbField agentMp part va 128 4
          s.setRcbField agentMp part va 128 4 (putBits st 6 6 0)
      | none => s
    | (s, none) => s) s

/-- SCRUBHOLD_TIMEOUT: 10 ms without a matching token are reported once. -/
def execScrubholdTimeout (part : Nat) (rcb : DWord) (s : State) : Out :=
  event (fun s =>
    let va := rcb.toNat
    let g := s.region part va
    match g.hold with
    | some t =>
      if g.holdLogged || s.time < t + 10000000 || (s.tokenDue part va).2.isSome then s
      else
        let s := (s.tokenDue part va).1
        let s := s.modRegion part va fun x => { x with holdLogged := true }
        let s := s.notify 0x85 (part + 1) (bytesOfNat 8 va ++ bytesOfNat 8 t ++ bytesOfNat 24 0)
        s.regionLog agentMp part va srcMp 4 0xFFFF 0 0 0
    | none => s) s

/-! Teardown (R193). -/

/-- The pool entry and the overflow requests of a waiter are freed. -/
def State.dropRequests (s : State) (mine : Waiter → Bool) : State :=
  let ids := s.pages.filterMap fun (id, q) => if mine q.waiter then some id else none
  ids.foldl (·.freePage) { s with overflow := s.overflow.filter fun q => !mine q.waiter }

/-- A held operation of a region that is torn down: its request goes, and it is dropped. -/
def State.tearOrphan (s : State) (n : Nat) : State :=
  match tabFind s.orphans n with
  | some o => (s.dropOrphan n o .memfault).dropRequests (· == .orphan n)
  | none => s

def State.tearDrain (s : State) (id : Nat) : State :=
  match tabFind s.cmds id with
  | some c =>
    let c := { c with fail := 3 }
    ((s.dropDrain c).signalCmd id c).dropRequests (· == .cmd id)
  | none => s

/-- REGION_TEARDOWN (R175, R193): held operations are dropped and logged, groups held in admission stop waiting. -/
def execRegionTeardown (part : Nat) (rcb : DWord) (s : State) : Out :=
  event (fun s =>
    let s := s.modRegion part rcb.toNat fun x => { x with torn := true, hold := none }
    let os := s.orphans.filterMap fun (n, o) => if o.part = part && o.rcb = rcb then some n else none
    let ds := s.cmds.filterMap fun (id, c) => if c.orphan && c.part = part && c.rcb = rcb then some id else none
    ds.foldl (·.tearDrain) (os.foldl (·.tearOrphan) s)) s

end Sys2Proof.Machine
end

