-- ==== Sys2Proof/Machine/Flight.lean ====
section
/-! DEFINITION. Timers, grants and the accesses in flight (DESIGN CHOICE, log 8): spec/07_queues.md R135, R136, R141, R146,
spec/18_program_collatz_lock.md R319, spec/12_memory_instructions.md R250-R252, spec/04_memories.md R85, R90, R95, R96,
spec/06_ordering.md R114, R120, R121, spec/09_counters_events.md R179. An event that is not due changes nothing. -/
namespace Sys2Proof.Machine

/-- JOIN_TIMEOUT (R44, R146). -/
def execJoinTimeout (core slot : Nat) (s : State) : Out :=
  event (fun s => s.onPack core slot fun s =>
    match s.pk.meetingDue s.time with
    | some r => { s with pk := (s.pk.timeoutAt r).settleMeets s.time s.joinBound }
    | none => s) s

/-- YIELD_WINDOW_END (R247, R319): the 64 slots are over. -/
def execYieldWindowEnd (core slot lane : Nat) (s : State) : Out :=
  event (fun s => s.onPack core slot fun s => s.onLanes (1#32 <<< lane) fun _ t =>
    if t.yield = 1 then { t with yield := 0 } else t) s

/-- SSLEEP_WAKE (R281); the ssleep that completes counts in the open windows (R210). -/
def execSsleepWake (core slot : Nat) (s : State) : Out :=
  event (fun s => s.onPack core slot fun s =>
    match s.pk.wait with
    | .sleep t =>
      if t ≤ s.time then
        State.advance { s with pk := { s.pk.tickWindows s.pk.windows s.pk.live with wait := .none } } s.pk.live 4
      else s
    | _ => s) s

/-- ACQUIRE_GRANT (R135). -/
def execAcquireGrant (core unit : Nat) (s : State) : Out := event (fun s => s.grantAcquire core unit) s

/-- QUEUE_ENTRY_GRANT (R136, R137): the first stalled request of a queue. A partly entered instruction takes its next lane;
one not yet issued issues again, and keeps its place before later requests until it has its entry. A pack that waits for something
else beside goes on waiting for that (R194). -/
def execQueueEntryGrant (core : Nat) (q : QueueId) (s : State) : Out :=
  event (fun s =>
    match (s.core core).stalls.find? fun (x, _) => x = q with
    | none => s
    | some (_, sl) => s.onPack core sl fun s =>
      let freed := fun (p : Pack) => if p.wait == .queue q then { p with wait := .none } else p
      if !s.granted q then s
      else if q = .atom && s.pk.entering then
        let (p, all) := s.pk.enterNext
        if all then (State.unstall { s with pk := freed p } q).wake else { s with pk := p }
      else { s with pk := freed s.pk }) s

/-- FETCH_REPLY (R320): the fetch under way may be filled; what it meets shows at the next issue. -/
def execFetchReply (core slot : Nat) (s : State) : Out :=
  event (fun s => s.onPack core slot fun s =>
    if s.fetchLate core slot then { s with pk := { s.pk with filled := true } } else s) s

/-- PAGE_REQUEST_ENTRY_GRANT (R141): the first request of the function that waits for an entry. -/
def execPageRequestEntryGrant (fn : Nat) (s : State) : Out :=
  event (fun s =>
    match s.overflow.find? fun r => r.fn = fn with
    | none => s
    | some r =>
      if s.pageMayTake fn then State.placeRequest { s with overflow := s.overflow.erase r } r else s) s

/-! Accesses in flight. -/

/-- An entry of the pack in the latch, and its access. -/
def State.entryAt (s : State) (id : Nat) : Option (Entry × Access) :=
  match s.pk.replay.find? (·.id = id) with
  | some e => e.access.map fun a => (e, a)
  | none => none

def lanePhase (e : Entry) (l : Nat) : Option Phase := if hasLane e.mask l then (tabFind e.lanes l).map (·.phase) else none

def overlaps (n m : Nat) (ps qs : List (Nat × Nat)) : Bool :=
  ps.any fun (p, _) => qs.any fun (q, _) => decide (p < q + m) && decide (q < p + n)

/-- Whether a lane is still to be translated. -/
def walksNow (e : Entry) (l : Nat) : Bool :=
  match lanePhase e l with
  | some .walk | some .resent => true
  | _ => false

/-- The pages a lane's access needs, ascending (R256, R314). -/
def State.lanePages (s : State) (e : Entry) (a : Access) (w : LaneAcc) : List Nat :=
  let r := s.cachedRec (s.siteOf e) e a
  let b := match r with
    | some r =>
      let here := e.lanes.filter fun (l, v) => walksNow e l && r.page (coordsOf r v.words) = r.page (coordsOf r w.words)
      imageB a r (here.map fun (_, v) => coordsOf r v.words)
    | none => false
  ascending ((accessVAs a r b w.words).map (· / 65536))

/-- The pages of a lane whose walks are still to come. -/
def State.pagesLeft (s : State) (e : Entry) (a : Access) (l : Nat) : List Nat :=
  match tabFind e.lanes l with
  | some w => if walksNow e l then (s.lanePages e a w).drop w.seen else []
  | none => []

/-- The page an entry walks next: the lowest of those its lanes need (R314). -/
def State.nextPage (s : State) (e : Entry) (a : Access) : Nat :=
  let ps := (lanesOf e.mask).filterMap fun l => (s.pagesLeft e a l).head?
  ps.foldl min (ps.headD 0)

/-- Whether the walk that a lane waits for is the next one of its entry. -/
def State.walksNext (s : State) (e : Entry) (a : Access) (l : Nat) : Bool :=
  walksNow e l && (s.pagesLeft e a l).headD (s.nextPage e a) = s.nextPage e a

/-- A walk of one page ends for the lanes that need another page beside: they have one less to wait for. -/
def State.walkFirst (s : State) (e : Entry) (a : Access) (page : Nat) (m : LaneMask) : State × Entry :=
  if m = 0 then (s, e)
  else
    let (acc, code) := accessAsk a
    let (s, _) := s.walkPages (s.siteOf e) e.priv acc code (accessUse (s.cachedRec (s.siteOf e) e a)) [(page, page * 65536, m)]
    (s, { e with lanes := e.lanes.map fun (l, w) => (l, if hasLane m l then { w with seen := w.seen + 1 } else w) })

/-- Entries of a die's packs that wait for a walk; a halted partition walks no more (R187). -/
def State.walkers (s : State) (die : Nat) : List Nat :=
  s.residents.flatMap fun (c, _, p) => if dieOf c = die && !(s.part p.part).halted then (p.replay.filter fun e => (lanesOf e.mask).any (walksNow e)).map (·.id) else []

/-- Whether one of the 32 walkers of the die is free for the entry: the older ones come first (R159; DESIGN CHOICE, log 8: an
entry holds one walker, and entries ask in the order they issued). -/
def State.hasWalker (s : State) (core id : Nat) : Bool := decide (((s.walkers (dieOf core)).filter (· < id)).length < 32)

/-- WALK_COMPLETE (R158, R314): the walk of the page a lane is to access ends, if it is the next of its entry, and the lanes that
need no other page go on; a halted partition walks no more (R187). -/
def execWalkComplete (core slot entry lane : Nat) (s : State) : Out :=
  event (fun s => if !s.hasWalker core entry then s else s.onPack core slot fun s =>
    match s.entryAt entry with
    | some (e, a) =>
      if s.walksNext e a lane && !(s.part s.pk.part).halted then
        let page := s.nextPage e a
        let on := fun (f : List Nat → Bool) => maskOf fun l => s.walksNext e a l && f (s.pagesLeft e a l)
        let (s', e') := s.walkFirst e a page (on fun ps => 1 < ps.length)
        let (s', e', fs) := s'.admitEntry (s'.siteOf e') s'.pk e' a (on fun ps => ps.length ≤ 1)
        s'.conclude a e' fs
      else s
    | none => s) s

/-- Whether an earlier access of the lane must perform first (R114, R119): its address is not known, it is an acquire that is
not complete, or it touches the same bytes; `bar`: the arrival of a reduction covers all of them (R127). -/
def State.mustFollow (s : State) (bar : Bool) (l n : Nat) (ps : List (Nat × Nat)) (f : Entry) : Bool :=
  match f.access, lanePhase f l with
  | some b, some (.ready qs) | some b, some (.sent qs) => bar || b.acq.isSome || overlaps n (s.entryBytes f b) ps qs
  | some b, some (.done _) => b.acq.isSome
  | some _, some _ => true
  | _, _ => false

/-- Whether nothing before the access of a lane in its thread bars it, and it has its queue entry. -/
def State.clearBefore (s : State) (e : Entry) (a : Access) (l : Nat) (ps : List (Nat × Nat)) : Bool :=
  let n := s.entryBytes e a
  ((s.pk.replay.takeWhile (·.id ≠ e.id)).all fun f => !s.mustFollow a.bar.isSome l n ps f) && (!a.queued || hasLane e.queued l)

/-- Whether lower lanes of an instruction that touch the same bytes as lane `l` have performed, or satisfy `f`; one that is still to be
translated may touch them (R252). -/
def lowerFirst (e : Entry) (n l : Nat) (ps : List (Nat × Nat)) (f : Nat → Bool) : Bool :=
  ((lanesOf e.mask).filter (· < l)).all fun k => match lanePhase e k with
    | some (.ready qs) => f k || !overlaps n n ps qs
    | some .walk | some .resent => false
    | _ => true

def isLoad (a : Access) : Bool := match a.op with | .load _ => true | _ => false
def isStore (a : Access) : Bool := match a.op with | .store | .both => true | _ => false

/-- Whether every lane of an instruction that publishes at one cut may perform (R99). -/
def State.cutReady (s : State) (e : Entry) (a : Access) : Bool :=
  (lanesOf e.mask).all fun l => match lanePhase e l with
    | some (.ready ps) => s.clearBefore e a l ps
    | _ => false

/-- Whether the access of a lane may perform now: nothing before it bars it, a write has no lower lane of the same instruction
that may touch the same bytes unperformed (R252), and one that publishes at one cut has all its lanes ready (R99). -/
def State.mayPerform (s : State) (e : Entry) (a : Access) (l : Nat) (ps : List (Nat × Nat)) : Bool :=
  s.clearBefore e a l ps && (isLoad a || lowerFirst e (s.entryBytes e a) l ps (fun _ => false)) &&
    (!oneCut a (s.cachedRec (s.siteOf e) e a) || s.cutReady e a)

/-- Lanes that one request of the coalescer carries with lane `l` (R92): those in the same 128-byte block, each of which may
perform, after the lower ones of the request; for a write of a SHADOW tensor all lanes, which publish at one cut (R99). -/
def State.requestLanes (s : State) (e : Entry) (a : Access) (l : Nat) : LaneMask :=
  match lanePhase e l with
  | some (.ready ((pa, _) :: _)) =>
    if oneCut a (s.cachedRec (s.siteOf e) e a) then (if s.cutReady e a then e.mask else 0)
    else
      (lanesOf e.mask).foldl (fun m k => match lanePhase e k with
        | some (.ready ((qa, at') :: qs)) =>
          if qa / 128 = pa / 128 && s.clearBefore e a k ((qa, at') :: qs) &&
              (isLoad a || lowerFirst e (s.entryBytes e a) k ((qa, at') :: qs) (hasLane m)) then m ||| (1#32 <<< k) else m
        | _ => m) 0
  | _ => 0

/-- Perform lanes of an entry, and what follows from it. -/
def State.performNow (s : State) (e : Entry) (a : Access) (m : LaneMask) : State :=
  let x := s.siteOf e
  let (s, e, fs) := s.performLanes x e a (s.cachedRec x e a) m
  (s.releaseAt s.here a.rel).conclude a e fs

/-- Physical addresses of some lanes of an entry that are ready. -/
def readyAddrs (e : Entry) (m : LaneMask) : List (Nat × Nat) := (readyLanes e m).map fun (_, _, ps) => ps.headD (0, 0)

/-- Whether the home slice can answer a request at once: every granule is in its cache, or is elided; or the L1 has all of it
(R85, R93). -/
def State.answersNow (s : State) (a : Access) (pas : List (Nat × Nat)) : Bool :=
  let has := fun (pa attr : Nat) => match s.paKind pa with
    | .hbm => s.home.lines.contains (lineId (s.mirrored s.here pa attr) pa) || s.blockCode pa ≠ 0
    | .remote _ => false
    | _ => true
  (pas.all fun (pa, attr) => has pa attr) || (a.plain && a.space == .flat && pas.all fun (pa, _) => (s.l1Read s.here pa 1).isSome)

/-- HOME_SLICE_REQUEST (R85): the request that carries the lane's access arrives at its home slice. A load that misses waits
for memory, or for the other device. -/
def execHomeSliceRequest (core slot entry lane : Nat) (s : State) : Out :=
  event (fun s => s.onPack core slot fun s =>
    match s.entryAt entry with
    | none => s
    | some (e, a) =>
      let m := s.requestLanes e a lane
      match lanePhase e lane with
      | some (.ready ((pa, at') :: ps)) =>
        if !s.mayPerform e a lane ((pa, at') :: ps) || !(isLoad a || isStore a) || m = 0 then s
        else if isStore a || s.answersNow a (readyAddrs e m) then s.performNow e a m
        else
          let send := fun (l : Nat) (w : LaneAcc) => match w.phase with
            | .ready qs => if hasLane m l then { w with phase := .sent qs } else w
            | _ => w
          { s with
            pk := s.pk.putEntry { e with lanes := e.lanes.map fun (l, w) => (l, send l w) }
            home := { s.home with arrivals := s.home.arrivals ++ [(e.id, lane)] } }
      | _ => s) s

/-- The lanes of a request that waits for memory, or for another device: those sent with lane `l`, in the same block. -/
def sentWith (e : Entry) (l : Nat) : LaneMask :=
  match lanePhase e l with
  | some (.sent ((pa, _) :: _)) => maskOf fun k => match lanePhase e k with
    | some (.sent ((qa, _) :: _)) => qa / 128 = pa / 128
    | _ => false
  | _ => 0

/-- Whether the request of a lane waits at a slice for memory (R90), and its channel does not pause (R95). -/
def State.waitsAt (s : State) (slice : Nat) (e : Entry) (l : Nat) : Bool :=
  match lanePhase e l with
  | some (.sent ((pa, _) :: _)) => s.slice pa = slice && !s.onPaused pa
  | _ => false

/-- The pack that has an entry. -/
def State.packOfEntry (s : State) (id : Nat) : Option (Nat × Nat × Entry) :=
  s.residents.findSome? fun (c, sl, p) => (p.replay.find? (·.id = id)).map fun e => (c, sl, e)

/-- Whether memory answers a request that has arrived at a slice. -/
def State.answers (s : State) (slice : Nat) (r : Nat × Nat) : Bool :=
  match s.packOfEntry r.1 with
  | some (_, _, e) => s.waitsAt slice e r.2
  | none => false

/-- Memory answers one request: the loads it carries perform. -/
def State.answerRequest (s : State) (r : Nat × Nat) : State :=
  match s.packOfEntry r.1 with
  | some (c, sl, _) => s.onPack c sl fun s => match s.entryAt r.1 with
    | some (e, a) => s.performNow e a (sentWith e r.2)
    | none => s
  | none => s

/-- HBM_READ_REPLY (R90, R95): memory answers the slice, which answers the loads that wait there, in the order they arrived. -/
def execHbmReadReply (slice : Nat) (s : State) : Out :=
  event (fun s =>
    let now := s.home.arrivals.filter (s.answers slice)
    let rest := s.home.arrivals.filter fun r => !now.contains r && (s.packOfEntry r.1).isSome
    now.foldl State.answerRequest { s with home := { s.home with arrivals := rest } }) s

/-- ATOMIC_PERFORM (R121, R252): one lane's RMW at its home slice; those of a SHADOW tensor perform together (R99). -/
def execAtomicPerform (core slot entry lane : Nat) (s : State) : Out :=
  event (fun s => s.onPack core slot fun s =>
    match s.entryAt entry with
    | none => s
    | some (e, a) =>
      match lanePhase e lane with
      | some (.ready ps) =>
        if isLoad a || isStore a || !s.mayPerform e a lane ps then s
        else s.performNow e a (if oneCut a (s.cachedRec (s.siteOf e) e a) then e.mask else 1#32 <<< lane)
      | _ => s) s

/-! Replies and promotion (R120, R250). -/

/-- The promotion that a lane of an entry waits for. -/
def State.promotionOf (s : State) (id l : Nat) : Option Promotion := s.home.promoting.find? fun x => x.entry = id && x.lane = l

/-- LANE_REPLY (R250): the value of one lane returns and is written, once its promotion has been made (R120); an acquire
completes (R86). -/
def execLaneReply (core slot entry lane : Nat) (s : State) : Out :=
  event (fun s => s.onPack core slot fun s =>
    match s.entryAt entry with
    | none => s
    | some (e, a) =>
      match lanePhase e lane with
      | some (.done _) =>
        if (s.promotionOf e.id lane).any (!·.replied) then s
        else
          let (pk, e') := deliver s.pk e (1#32 <<< lane)
          let home := { s.home with promoting := s.home.promoting.filter fun x => !(x.entry = e.id && x.lane = lane) }
          State.acquireL1 { s with pk := pk.putEntry e', home := home } s.here a.acq
      | _ => s) s

/-- The first promotion of a list that satisfies `f`, changed by `g`. -/
def modFirst (f : Promotion → Bool) (g : Promotion → Promotion) : List Promotion → List Promotion
  | [] => []
  | x :: r => if f x then g x :: r else x :: modFirst f g r

/-- PROMOTION_REQUEST (R120): the slice asks the releasing core of the first promotion there that it has not asked for. -/
def execPromotionRequest (slice : Nat) (s : State) : Out :=
  event (fun s => { s with home := { s.home with
    promoting := modFirst (fun x => x.slice = slice && !x.asked) ({ · with asked := true }) s.home.promoting } }) s

/-- PROMOTION_REPLY (R120): the writes before the tagged release have performed, as every release waits for them; with the
replicas brought up to date (R123) the two synchronise as if made at .dev. -/
def execPromotionReply (slice : Nat) (s : State) : Out :=
  event (fun s =>
    let due := fun (x : Promotion) => x.slice = slice && x.asked && !x.replied
    if s.home.promoting.any due then
      State.syncReplicas { s with home := { s.home with promoting := modFirst due ({ · with replied := true }) s.home.promoting } }
    else s) s

/-- VAULT_BANK_UPDATE (R179): the bank applies the update that reached it first. -/
def execVaultBankUpdate (core : Nat) (s : State) : Out :=
  event (fun s =>
    match (s.core core).bank with
    | op :: rest => (s.modCore core fun k => { k with bank := rest }).applyBank core op
    | [] => s) s

/-- PACK_ACCESS_REPLY (R283): the oldest reply still to come. -/
def execPackAccessReply (core slot : Nat) (s : State) : Out :=
  event (fun s => s.onPack core slot fun s =>
    match s.pk.late with
    | l :: _ => { s with pk := s.pk.takeLate l }
    | [] => s) s

/-! The fabric (R29, R121, R128). -/

/-- The answer to another device: bytes, or an error response for uncorrectable data (R97). -/
def State.answerRemote (s : State) (bs : List Byte) (bad : Bool) : State :=
  { s with home := { s.home with remoteData := if bad then [] else bs, remoteError := bad } }

/-- The physical address of a local offset. -/
def State.localPa (s : State) (a : Nat) : Nat := s.mp.nodeId * 2 ^ 41 + a

/-- REMOTE_REQUEST: it performs at the home slice of this device, at .sys. -/
def execRemoteRequest (req : RemoteReq) (s : State) : Out :=
  event (fun s =>
    match req with
    | .load a n =>
      if Config.hbmBytes < a + n then s.answerRemote [] true
      else
        let (s, bs, bad) := s.readHpa (pieces (n / 128 + 2) (s.localPa a) n)
        s.answerRemote bs bad
    | .store a bs => if Config.hbmBytes < a + bs.length then s else s.writeBytes false true (spread (s.localPa a) bs)
    | .rmw a ty op x =>
      let n := atomBytes ty
      if Config.hbmBytes < a + n || a % n ≠ 0 || !op.okFor ty then s.answerRemote [] true
      else
        let (old, bad, s) := s.atomicRead (s.localPa a) n
        if bad then s.answerRemote [] true
        else
          let v := atomResult ty op (natOfBytes old) (x.toNat % 256 ^ n)
          (s.homeWrite false true (spread (s.localPa a) (bytesOfNat n v))).answerRemote old false) s

/-! Upkeep of the memory system. -/

/-- PATROL (R96, R97): the units of the granule at `addr`: corrected ones are logged and rewritten, uncorrectable ones logged. -/
def execPatrol (slice addr : Nat) (s : State) : Out :=
  event (fun s =>
    let g := addr / 256 * 256
    if s.paKind g ≠ .hbm || s.slice g ≠ slice then s
    else
      let part := s.groupOwner (groupOf (s.sel g))
      let note := fun (s : State) (cls u : Nat) =>
        let (x, s) := s.syndrome
        s.logEvent cls slice part (u * 32) x
      let us := (List.range 8).map (g / 32 + ·)
      let s := (us.filter fun u => s.home.soft.contains u).foldl (fun s u => note s 0 u) s
      let s := (us.filter fun u => s.home.bad.contains u).foldl (fun s u => note s 1 u) s
      { s with home := { s.home with soft := s.home.soft.filter fun u => !us.contains u } }) s

/-- When the next recalibration is due: 256 of them, one of each channel, are spread over a millisecond (R95). -/
def State.recalTime (s : State) : Nat := s.home.recals * 1000000 / 256

/-- HBM_RECALIBRATION (R95): the channel whose turn it is pauses, once its time has come; one pauses at a time, and no request is
lost. The pause takes the whole of the 200 ns that the rule allows at most (DESIGN CHOICE, log 45). -/
def execHbmRecalibration (channel : Nat) (s : State) : Out :=
  event (fun s =>
    if s.pausedNow.isSome || s.time < s.recalTime || channel ≠ s.home.recals % 256 then s
    else { s with home := { s.home with paused := some (channel, s.time + 200), recals := s.home.recals + 1 } }) s

/-- LINK_RETRAIN (R184): counted and logged in class 10 at the link's source (R176). -/
def execLinkRetrain (source : Nat) (s : State) : Out :=
  event (fun s => if 2048 ≤ source && source ≤ 2067 then s.logEvent 10 source 0 0 0 else s) s

end Sys2Proof.Machine
end

