-- ==== Sys2Proof/Machine/Float.lean ====
section
/-! DEFINITION. Float arithmetic, comparison and conversion in lanes (spec/11_lane_instructions.md R228, R231-R242;
MODE and FSTAT: spec/02_registers.md R40-R42). -/
namespace Sys2Proof.Machine

/-- A float LA form of 32 bits: `f` gives result and flags from MODE, the operands and vd. -/
def f32Form (i : Instr) (d : VReg) (a : Src) (b : VReg) (x : Bool) (f : Word → Nat → Nat → Nat → Flagged) (s : State) :
    Out :=
  issue i (fun s => s.flagLanes (srcBytes a) always fun _ t =>
    let r := f s.pk.mode (negBits fp32 x (s.srcF32 t a)) (t.r b.toNat).toNat (t.r d.toNat).toNat
    (t.setR d.toNat (BitVec.ofNat 32 r.1), r.2)) s

/-- A float LA form of 64 bits. -/
def f64Form (i : Instr) (d : VReg) (a : Src) (b : VReg) (x : Bool) (f : Word → Nat → Nat → Nat → Flagged) (s : State) :
    Out :=
  issue i (fun s => s.flagLanes (srcBytes a) always fun _ t =>
    let r := f s.pk.mode (negBits fp64 x (s.srcF64 t a)) (t.r64 b.toNat).toNat (t.r64 d.toNat).toNat
    (t.setR64 d.toNat (BitVec.ofNat 64 r.1), r.2)) s

/-- A packed LA form (R233): two 16-bit elements, their flags ORed. -/
def x2Form (fmt : Fmt) (i : Instr) (d : VReg) (a : Src) (b : VReg) (x : Bool) (f : Word → Nat → Nat → Nat → Flagged)
    (s : State) : Out :=
  issue i (fun s => s.flagLanes (srcBytes a) always fun _ t =>
    let w := s.srcX2 fmt t a
    let r := packed2 fun k => f s.pk.mode (negBits fmt x (half w k)) (half (t.r b.toNat) k) (half (t.r d.toNat) k)
    (t.setR d.toNat r.1, r.2)) s

/-- A guarded LW form that may raise flags. -/
def flagForm (i : Instr) (g : Guard) (f : State → Nat → Thread → Thread × Word) (s : State) : Out :=
  issue i (fun s => s.flagLanes 8 (·.guarded g) (f s)) s

/-- The lookahead window of the function unit (R210, DESIGN CHOICE, log 4): with accesses in flight, its destination stays pending until
the window ends; otherwise the instruction completes at once. -/
def State.openUnit (s t : State) (dst : List RegName) (n : Nat) (m : LaneMask) : State :=
  if t.env.defer && n ≠ 0 && sameRun s t then
    let (id, t) := t.freshId
    { t with pk := (t.pk.addPend dst m id).openWindow id n m true }
  else t

/-- A long-latency form of the function unit (R235-R237). -/
def unitForm (i : Instr) (g : Guard) (la : BitVec 4) (dst : List RegName) (f : State → Nat → Thread → Thread × Word)
    (s : State) : Out :=
  issue i (fun s => s.openUnit (s.flagLanes 8 (·.guarded g) (f s)) dst la.toNat (s.active (·.guarded g))) s

/-- A unary FP32 operation of the function unit. -/
def unit32 (i : Instr) (g : Guard) (d a : VReg) (la : BitVec 4) (f : Word → Word → Flagged) (s : State) : Out :=
  unitForm i g la [.v d.toNat] (fun s _ t =>
    let r := f s.pk.mode (t.r a.toNat)
    (t.setR d.toNat (BitVec.ofNat 32 r.1), r.2)) s

/-- A unary FP64 operation of the function unit. -/
def unit64 (i : Instr) (g : Guard) (d a : VReg) (la : BitVec 4) (f : Word → Nat → Flagged) (s : State) : Out :=
  unitForm i g la [.v d.toNat, .v (d.toNat + 1)] (fun s _ t =>
    let r := f s.pk.mode (t.r64 a.toNat).toNat
    (t.setR64 d.toNat (BitVec.ofNat 64 r.1), r.2)) s

/-! LA 0x21-0x33 (R231-R233). -/

/-- fadd.f32 (R231). -/
def execFaddF32 (d : VReg) (a : Src) (b : VReg) (x : Bool) (s : State) : Out :=
  f32Form (.faddF32 d a b x) d a b x (fun m p q _ => fadd fp32 m p q) s

/-- fsub.f32 (R231). -/
def execFsubF32 (d : VReg) (a : Src) (b : VReg) (x : Bool) (s : State) : Out :=
  f32Form (.fsubF32 d a b x) d a b x (fun m p q _ => fsub fp32 m p q) s

/-- fmul.f32 (R231). -/
def execFmulF32 (d : VReg) (a : Src) (b : VReg) (x : Bool) (s : State) : Out :=
  f32Form (.fmulF32 d a b x) d a b x (fun m p q _ => fmul fp32 m p q) s

/-- fmin.f32 (R232). -/
def execFminF32 (d : VReg) (a : Src) (b : VReg) (x : Bool) (s : State) : Out :=
  f32Form (.fminF32 d a b x) d a b x (fun m p q _ => fminmax fp32 m false p q) s

/-- fmax.f32 (R232). -/
def execFmaxF32 (d : VReg) (a : Src) (b : VReg) (x : Bool) (s : State) : Out :=
  f32Form (.fmaxF32 d a b x) d a b x (fun m p q _ => fminmax fp32 m true p q) s

/-- fmac.f32 (R231). -/
def execFmacF32 (d : VReg) (a : Src) (b : VReg) (x : Bool) (s : State) : Out :=
  f32Form (.fmacF32 d a b x) d a b x (fun m p q r => fmac fp32 m p q r) s

/-- fadd.f64 (R231). -/
def execFaddF64 (d : VReg) (a : Src) (b : VReg) (x : Bool) (s : State) : Out :=
  f64Form (.faddF64 d a b x) d a b x (fun m p q _ => fadd fp64 m p q) s

/-- fsub.f64 (R231). -/
def execFsubF64 (d : VReg) (a : Src) (b : VReg) (x : Bool) (s : State) : Out :=
  f64Form (.fsubF64 d a b x) d a b x (fun m p q _ => fsub fp64 m p q) s

/-- fmul.f64 (R231). -/
def execFmulF64 (d : VReg) (a : Src) (b : VReg) (x : Bool) (s : State) : Out :=
  f64Form (.fmulF64 d a b x) d a b x (fun m p q _ => fmul fp64 m p q) s

/-- fmin.f64 (R232). -/
def execFminF64 (d : VReg) (a : Src) (b : VReg) (x : Bool) (s : State) : Out :=
  f64Form (.fminF64 d a b x) d a b x (fun m p q _ => fminmax fp64 m false p q) s

/-- fmax.f64 (R232). -/
def execFmaxF64 (d : VReg) (a : Src) (b : VReg) (x : Bool) (s : State) : Out :=
  f64Form (.fmaxF64 d a b x) d a b x (fun m p q _ => fminmax fp64 m true p q) s

/-- fmac.f64 (R231). -/
def execFmacF64 (d : VReg) (a : Src) (b : VReg) (x : Bool) (s : State) : Out :=
  f64Form (.fmacF64 d a b x) d a b x (fun m p q r => fmac fp64 m p q r) s

/-- fadd.x2.bf16 (R233). -/
def execFaddX2Bf16 (d : VReg) (a : Src) (b : VReg) (x : Bool) (s : State) : Out :=
  x2Form bf16 (.faddX2Bf16 d a b x) d a b x (fun m p q _ => fadd bf16 m p q) s

/-- fmul.x2.bf16 (R233). -/
def execFmulX2Bf16 (d : VReg) (a : Src) (b : VReg) (x : Bool) (s : State) : Out :=
  x2Form bf16 (.fmulX2Bf16 d a b x) d a b x (fun m p q _ => fmul bf16 m p q) s

/-- fmac.x2.bf16 (R233). -/
def execFmacX2Bf16 (d : VReg) (a : Src) (b : VReg) (x : Bool) (s : State) : Out :=
  x2Form bf16 (.fmacX2Bf16 d a b x) d a b x (fun m p q r => fmac bf16 m p q r) s

/-- fadd.x2.f16 (R233). -/
def execFaddX2F16 (d : VReg) (a : Src) (b : VReg) (x : Bool) (s : State) : Out :=
  x2Form fp16 (.faddX2F16 d a b x) d a b x (fun m p q _ => fadd fp16 m p q) s

/-- fmul.x2.f16 (R233). -/
def execFmulX2F16 (d : VReg) (a : Src) (b : VReg) (x : Bool) (s : State) : Out :=
  x2Form fp16 (.fmulX2F16 d a b x) d a b x (fun m p q _ => fmul fp16 m p q) s

/-- fmac.x2.f16 (R233). -/
def execFmacX2F16 (d : VReg) (a : Src) (b : VReg) (x : Bool) (s : State) : Out :=
  x2Form fp16 (.fmacX2F16 d a b x) d a b x (fun m p q r => fmac fp16 m p q r) s

/-- dot2.bf16 (R233): X negates both elements of a. -/
def execDot2Bf16 (d : VReg) (a : Src) (b : VReg) (x : Bool) (s : State) : Out :=
  issue (.dot2Bf16 d a b x) (fun s => s.flagLanes (srcBytes a) always fun _ t =>
    let w := s.srcX2 bf16 t a
    let r := dot2 s.pk.mode (if x then w ^^^ 0x80008000 else w) (t.r b.toNat) (t.r d.toNat)
    (t.setR d.toNat (BitVec.ofNat 32 r.1), r.2)) s

/-! LW 0x0E, 0x0F, 0x11-0x13 (R228, R234). -/

/-- fcmp.f32 (R228). -/
def execFcmpF32 (g : Guard) (pd : BitVec 3) (a b : VReg) (cond : FltCond) (s : State) : Out :=
  flagForm (.fcmpF32 g pd a b cond) g (fun s _ t =>
    let r := fcmp fp32 s.pk.mode cond (t.r a.toNat).toNat (t.r b.toNat).toNat
    (t.setPred pd r.1, r.2)) s

/-- fcmp.f64 (R228). -/
def execFcmpF64 (g : Guard) (pd : BitVec 3) (a b : VReg) (cond : FltCond) (s : State) : Out :=
  flagForm (.fcmpF64 g pd a b cond) g (fun s _ t =>
    let r := fcmp fp64 s.pk.mode cond (t.r64 a.toNat).toNat (t.r64 b.toNat).toNat
    (t.setPred pd r.1, r.2)) s

/-- ffma.f32 (R234). -/
def execFfmaF32 (g : Guard) (d a b c : VReg) (np nc : Bool) (s : State) : Out :=
  flagForm (.ffmaF32 g d a b c np nc) g (fun s _ t =>
    let r := ffma fp32 s.pk.mode np nc (t.r a.toNat).toNat (t.r b.toNat).toNat (t.r c.toNat).toNat
    (t.setR d.toNat (BitVec.ofNat 32 r.1), r.2)) s

/-- ffma.f64 (R234). -/
def execFfmaF64 (g : Guard) (d a b c : VReg) (np nc : Bool) (s : State) : Out :=
  flagForm (.ffmaF64 g d a b c np nc) g (fun s _ t =>
    let r := ffma fp64 s.pk.mode np nc (t.r64 a.toNat).toNat (t.r64 b.toNat).toNat (t.r64 c.toNat).toNat
    (t.setR64 d.toNat (BitVec.ofNat 64 r.1), r.2)) s

/-- ffma.x2.bf16 (R234). -/
def execFfmaX2Bf16 (g : Guard) (d a b c : VReg) (np nc : Bool) (s : State) : Out :=
  flagForm (.ffmaX2Bf16 g d a b c np nc) g (fun s _ t =>
    let r := packed2 fun k =>
      ffma bf16 s.pk.mode np nc (half (t.r a.toNat) k) (half (t.r b.toNat) k) (half (t.r c.toNat) k)
    (t.setR d.toNat r.1, r.2)) s

/-! LW 0x14-0x1F (R235-R237). -/

/-- frcp.f32 (R236): within the bound, the part's own bits (DESIGN CHOICE, log 9). -/
def execFrcpF32 (g : Guard) (d a : VReg) (la : BitVec 4) (s : State) : Out :=
  unit32 (.frcpF32 g d a la) g d a la (approx .rcp) s

/-- frsq.f32 (R236): within the bound, the part's own bits (DESIGN CHOICE, log 9). -/
def execFrsqF32 (g : Guard) (d a : VReg) (la : BitVec 4) (s : State) : Out :=
  unit32 (.frsqF32 g d a la) g d a la (approx .rsq) s

/-- fexp2.f32 (R236): within the bound, the part's own bits (DESIGN CHOICE, log 9). -/
def execFexp2F32 (g : Guard) (d a : VReg) (la : BitVec 4) (s : State) : Out :=
  unit32 (.fexp2F32 g d a la) g d a la (approx .exp2) s

/-- flog2.f32 (R236): within the bound, the part's own bits (DESIGN CHOICE, log 9). -/
def execFlog2F32 (g : Guard) (d a : VReg) (la : BitVec 4) (s : State) : Out :=
  unit32 (.flog2F32 g d a la) g d a la (approx .log2) s

/-- fsinp.f32 (R236): within the bound, the part's own bits (DESIGN CHOICE, log 9). -/
def execFsinpF32 (g : Guard) (d a : VReg) (la : BitVec 4) (s : State) : Out :=
  unit32 (.fsinpF32 g d a la) g d a la (approx .sinp) s

/-- fcosp.f32 (R236): within the bound, the part's own bits (DESIGN CHOICE, log 9). -/
def execFcospF32 (g : Guard) (d a : VReg) (la : BitVec 4) (s : State) : Out :=
  unit32 (.fcospF32 g d a la) g d a la (approx .cosp) s

/-- fsqrt.f32 (R235). -/
def execFsqrtF32 (g : Guard) (d a : VReg) (la : BitVec 4) (s : State) : Out :=
  unit32 (.fsqrtF32 g d a la) g d a la (fun m x => fsqrt fp32 m x.toNat) s

/-- fsqrt.f64 (R235). -/
def execFsqrtF64 (g : Guard) (d a : VReg) (la : BitVec 4) (s : State) : Out :=
  unit64 (.fsqrtF64 g d a la) g d a la (fsqrt fp64) s

/-- fdiv.f32 (R235). -/
def execFdivF32 (g : Guard) (d a b : VReg) (la : BitVec 4) (s : State) : Out :=
  unitForm (.fdivF32 g d a b la) g la [.v d.toNat] (fun s _ t =>
    let r := fdiv fp32 s.pk.mode (t.r a.toNat).toNat (t.r b.toNat).toNat
    (t.setR d.toNat (BitVec.ofNat 32 r.1), r.2)) s

/-- fdiv.f64 (R235). -/
def execFdivF64 (g : Guard) (d a b : VReg) (la : BitVec 4) (s : State) : Out :=
  unitForm (.fdivF64 g d a b la) g la [.v d.toNat, .v (d.toNat + 1)] (fun s _ t =>
    let r := fdiv fp64 s.pk.mode (t.r64 a.toNat).toNat (t.r64 b.toNat).toNat
    (t.setR64 d.toNat (BitVec.ofNat 64 r.1), r.2)) s

/-- frnd.f32 (R237). -/
def execFrndF32 (g : Guard) (d a : VReg) (la : BitVec 4) (r : RndSel) (exact : Bool) (s : State) : Out :=
  unit32 (.frndF32 g d a la r exact) g d a la (fun m x => frnd fp32 m r exact x.toNat) s

/-- frnd.f64 (R237). -/
def execFrndF64 (g : Guard) (d a : VReg) (la : BitVec 4) (r : RndSel) (exact : Bool) (s : State) : Out :=
  unit64 (.frndF64 g d a la r exact) g d a la (fun m x => frnd fp64 m r exact x) s

/-- fclass (R238): FP32, FP64, BF16 or FP16 by `ty`; no flag. -/
def execFclass (g : Guard) (d a : VReg) (ty : BitVec 2) (s : State) : Out :=
  issue (.fclass g d a ty) (fun s => s.eachLane 8 (·.guarded g) fun _ t =>
    t.setR d.toNat (match ty.toNat with
      | 0 => fclassMask fp32 (t.r a.toNat).toNat
      | 1 => fclassMask fp64 (t.r64 a.toNat).toNat
      | 2 => fclassMask bf16 (half (t.r a.toNat) 0)
      | _ => fclassMask fp16 (half (t.r a.toNat) 0))) s

/-! Conversions (R239-R242). -/

/-- The source element of a cvt (R239). -/
def cvtSourceBits (t : Thread) (a sl : Nat) (src : NumTy) : Nat :=
  match tyWidth src with
  | 64 => (t.r64 a).toNat
  | 32 => (t.r a).toNat
  | w => (t.r a).toNat / 2 ^ (w * sl) % 2 ^ w

/-- Write the destination element; the other bits of vd stay (R240). -/
def cvtWrite (t : Thread) (d dl : Nat) (dst : NumTy) (x : Nat) : Thread :=
  match tyWidth dst with
  | 64 => t.setR64 d (BitVec.ofNat 64 x)
  | 32 => t.setR d (BitVec.ofNat 32 x)
  | w => t.setR d (BitVec.ofNat 32 (putBits (t.r d).toNat (w * dl + w - 1) (w * dl) x))

/-- cvt (R239, R240): a stochastic rounding takes the next input of the thread (R35, R66). -/
def execCvt (g : Guard) (d a : VReg) (sl dl : BitVec 2) (rnd : CvtRnd) (src dst : NumTy) (s : State) : Out :=
  flagForm (.cvt g d a sl dl rnd src dst) g (fun s l t =>
    let rw := srBits s.pk.seed (s.tglobal l) t.srseq
    let r := cvtElem s.pk.mode rw rnd src dst (cvtSourceBits t a.toNat sl.toNat src)
    let t' := cvtWrite t d.toNat dl.toNat dst r.1
    (if usesSr s.pk.mode rnd src dst then { t' with srseq := t.srseq + 1 } else t', r.2)) s

/-- What lane l receives of an encoded block (R241). -/
def qblkWord (b : F4xBlock) (l : Nat) : Word :=
  BitVec.ofNat 32 (b.byte (l % 16) + 256 * (b.scale + 256 * (b.spare + 256 * b.codes.getD l 0)))

/-- qblk.f4x (R241): the block of the 32 threads, inactive ones supplying +0; an enabled exception stops every write. -/
def execQblkF4x (g : Guard) (d a : VReg) (s : State) : Out :=
  issue (.qblkF4x g d a) (fun s =>
    let act := s.active (·.guarded g)
    let xs := (List.range 32).map fun l =>
      if hasLane act l then fp32.decode ((s.pk.thread l).r a.toNat).toNat else .fin false 0 0
    let (b, fl) := f4xEncode xs
    s.flagLanes 8 (·.guarded g) fun l t => (t.setR d.toNat (qblkWord b l), fl)) s

/-- dqblk.f4x (R242). -/
def execDqblkF4x (g : Guard) (d a b : VReg) (hi : Bool) (s : State) : Out :=
  flagForm (.dqblkF4x g d a b hi) g (fun s _ t =>
    let x := (t.r a.toNat).toNat
    let y := (t.r b.toNat).toNat
    let (v, f0) := f4xDecode (if hi then bits x 7 4 else bits x 3 0) (bits y 7 0) (bits y 15 8)
    let (r, f1) := fp32.round (Rnd.ofMode s.pk.mode) (flushFor fp32 s.pk.mode) v
    (t.setR d.toNat (BitVec.ofNat 32 r), f0 ||| f1)) s

end Sys2Proof.Machine
end

