-- ==== Sys2Proof/Machine/Integer.lean ====
section
/-! DEFINITION. Integer, bit, packed, shuffle and predicate instructions (spec/11_lane_instructions.md R221-R230). -/
namespace Sys2Proof.Machine

/-- An LA integer form (R221): vd from operand a and the thread. -/
def intForm (i : Instr) (d : VReg) (a : Src) (f : Thread → Word → Word) (s : State) : Out :=
  issue i (fun s => s.eachLane (srcBytes a) always fun l t => t.setR d.toNat (f t (s.srcInt l t a))) s

/-- An LB immediate form (R222): vd from va and k. -/
def immForm (i : Instr) (d a : VReg) (f : Word → Word) (s : State) : Out :=
  issue i (fun s => s.eachLane 4 always fun _ t => t.setR d.toNat (f (t.r a.toNat))) s

/-- A guarded LW form that changes the thread alone (R226-R229). -/
def wideForm (i : Instr) (g : Guard) (f : Thread → Thread) (s : State) : Out :=
  issue i (fun s => s.eachLane 8 (·.guarded g) fun _ t => f t) s

/-- A pull (R225): `src` gives the source lane; a missing or inactive one leaves the thread's own value. -/
def pullForm (i : Instr) (d : VReg) (a : Src) (b : VReg) (src : Nat → Word → Option Nat) (s : State) : Out :=
  issue i (fun s =>
    s.eachLane (srcBytes a) always fun l t =>
      t.setR d.toNat (match src l (s.srcInt l t a) with
        | some j => if j < 32 && hasLane s.act j then (s.pk.thread j).r b.toNat else t.r b.toNat
        | none => t.r b.toNat)) s

/-! Word functions. -/

/-- Signed saturation to 32 bits (R212). -/
def sat32 (x : Int) : Word := BitVec.ofNat 32 (satBits .i32 x)

def popc (x : Word) : Word := BitVec.ofNat 32 (lanesOf x).length
def clz (x : Word) : Word := BitVec.ofNat 32 (32 - bitLen x.toNat)
def brev (x : Word) : Word := maskOf fun k => x.getLsbD (31 - k)
def lsb (x : Word) : Word := BitVec.ofNat 32 ((lanesOf x).headD 32)

def minS (x y : Word) : Word := if x.slt y then x else y
def maxS (x y : Word) : Word := if y.slt x then x else y
def minU (x y : Word) : Word := if x.ult y then x else y
def maxU (x y : Word) : Word := if y.ult x then x else y

/-- Element i of two, as a signed number, and two elements wrapped back. -/
def elemS (x : Word) (i : Nat) : Int := intOf .i16 (half x i)
def wrapX2 (f : Nat → Int) : Word := halves (f 0 % 65536).toNat (f 1 % 65536).toNat
def satX2 (f : Nat → Int) : Word := halves (satBits .i16 (f 0)) (satBits .i16 (f 1))

def byteOf (x : Word) (k : Nat) : Nat := x.toNat / 256 ^ k % 256

/-- dot4 (R223): four byte products, signed or not, added to the accumulator. -/
def dot4 (signed : Bool) (acc a b : Word) : Word :=
  let e := fun (x : Word) k => if signed then intOf .i8 (byteOf x k) else (byteOf x k : Int)
  BitVec.ofInt 32 (acc.toInt + e a 0 * e b 0 + e a 1 * e b 1 + e a 2 * e b 2 + e a 3 * e b 3)

/-- perm.b8 (R224). -/
def permBytes (sel : Word) (table : DWord) : Word :=
  let pick := fun k => let c := byteOf sel k; if 128 ≤ c then 0 else table.toNat / 256 ^ (c % 8) % 256
  BitVec.ofNat 32 (pick 0 + 256 * (pick 1 + 256 * (pick 2 + 256 * pick 3)))

/-- bfx (R227): bits above 31 read as 0, or as bit 31. -/
def bfx (signed : Bool) (x : Word) (pos len : Nat) : Word :=
  let v : Int := if signed then x.toInt else x.toNat
  let f := v / 2 ^ pos % 2 ^ len
  if len = 0 then 0
  else BitVec.ofInt 32 (if signed && decide (2 ^ (len - 1) ≤ f) then f - 2 ^ len else f)

/-- bfi (R227). -/
def bfi (x y : Word) (pos len : Nat) : Word :=
  let mask := BitVec.ofNat 32 ((2 ^ len - 1) * 2 ^ pos)
  (x &&& ~~~mask) ||| ((y <<< pos) &&& mask)

/-- bitfn (R227). -/
def bitfn (x y z : Word) (fn : BitVec 8) : Word :=
  maskOf fun k => fn.getLsbD ((if x.getLsbD k then 1 else 0) + (if y.getLsbD k then 2 else 0) + (if z.getLsbD k then 4 else 0))

/-- Comparison of two integers (R228). -/
def intCond (c : IntCond) (x y : Int) : Bool :=
  match c with
  | .eq => decide (x = y) | .ne => decide (x ≠ y) | .lt => decide (x < y) | .le => decide (x ≤ y)
  | .gt => decide (y < x) | .ge => decide (y ≤ x)

/-- addc (R226): sum and carry. -/
def addCarry (x y : Word) (cin : Bool) : Word × Bool :=
  let n := x.toNat + y.toNat + (if cin then 1 else 0)
  (BitVec.ofNat 32 n, decide (2 ^ 32 ≤ n))

/-! LA 0x01-0x16 (R221). -/

/-- add.i32 (R221): the sum modulo 2^32. -/
def execAddI32 (d : VReg) (a : Src) (b : VReg) (s : State) : Out :=
  intForm (.addI32 d a b) d a (fun t x => x + t.r b.toNat) s

/-- add.i32.sat (R221): the signed sum, saturated. -/
def execAddI32Sat (d : VReg) (a : Src) (b : VReg) (s : State) : Out :=
  intForm (.addI32Sat d a b) d a (fun t x => sat32 (x.toInt + (t.r b.toNat).toInt)) s

/-- sub.i32 (R221). -/
def execSubI32 (d : VReg) (a : Src) (b : VReg) (s : State) : Out :=
  intForm (.subI32 d a b) d a (fun t x => x - t.r b.toNat) s

/-- sub.i32.sat (R221). -/
def execSubI32Sat (d : VReg) (a : Src) (b : VReg) (s : State) : Out :=
  intForm (.subI32Sat d a b) d a (fun t x => sat32 (x.toInt - (t.r b.toNat).toInt)) s

/-- mul.i32 (R221). -/
def execMulI32 (d : VReg) (a : Src) (b : VReg) (s : State) : Out :=
  intForm (.mulI32 d a b) d a (fun t x => x * t.r b.toNat) s

/-- mulhi.i32 (R221): bits [63:32] of the signed product. -/
def execMulhiI32 (d : VReg) (a : Src) (b : VReg) (s : State) : Out :=
  intForm (.mulhiI32 d a b) d a (fun t x => BitVec.ofInt 32 (x.toInt * (t.r b.toNat).toInt / 2 ^ 32)) s

/-- mulhi.n32 (R221): bits [63:32] of the unsigned product. -/
def execMulhiN32 (d : VReg) (a : Src) (b : VReg) (s : State) : Out :=
  intForm (.mulhiN32 d a b) d a (fun t x => BitVec.ofNat 32 (x.toNat * (t.r b.toNat).toNat / 2 ^ 32)) s

/-- min.i32 (R221). -/
def execMinI32 (d : VReg) (a : Src) (b : VReg) (s : State) : Out :=
  intForm (.minI32 d a b) d a (fun t x => minS x (t.r b.toNat)) s

/-- max.i32 (R221). -/
def execMaxI32 (d : VReg) (a : Src) (b : VReg) (s : State) : Out :=
  intForm (.maxI32 d a b) d a (fun t x => maxS x (t.r b.toNat)) s

/-- min.n32 (R221). -/
def execMinN32 (d : VReg) (a : Src) (b : VReg) (s : State) : Out :=
  intForm (.minN32 d a b) d a (fun t x => minU x (t.r b.toNat)) s

/-- max.n32 (R221). -/
def execMaxN32 (d : VReg) (a : Src) (b : VReg) (s : State) : Out :=
  intForm (.maxN32 d a b) d a (fun t x => maxU x (t.r b.toNat)) s

/-- and.b32 (R221). -/
def execAndB32 (d : VReg) (a : Src) (b : VReg) (s : State) : Out :=
  intForm (.andB32 d a b) d a (fun t x => x &&& t.r b.toNat) s

/-- or.b32 (R221). -/
def execOrB32 (d : VReg) (a : Src) (b : VReg) (s : State) : Out :=
  intForm (.orB32 d a b) d a (fun t x => x ||| t.r b.toNat) s

/-- xor.b32 (R221). -/
def execXorB32 (d : VReg) (a : Src) (b : VReg) (s : State) : Out :=
  intForm (.xorB32 d a b) d a (fun t x => x ^^^ t.r b.toNat) s

/-- andn.b32 (R221). -/
def execAndnB32 (d : VReg) (a : Src) (b : VReg) (s : State) : Out :=
  intForm (.andnB32 d a b) d a (fun t x => x &&& ~~~(t.r b.toNat)) s

/-- shl.b32 (R221): the count is vb[4:0]. -/
def execShlB32 (d : VReg) (a : Src) (b : VReg) (s : State) : Out :=
  intForm (.shlB32 d a b) d a (fun t x => x <<< ((t.r b.toNat).toNat % 32)) s

/-- shr.n32 (R221). -/
def execShrN32 (d : VReg) (a : Src) (b : VReg) (s : State) : Out :=
  intForm (.shrN32 d a b) d a (fun t x => x >>> ((t.r b.toNat).toNat % 32)) s

/-- shr.i32 (R221). -/
def execShrI32 (d : VReg) (a : Src) (b : VReg) (s : State) : Out :=
  intForm (.shrI32 d a b) d a (fun t x => x.sshiftRight ((t.r b.toNat).toNat % 32)) s

/-- rot.b32 (R221). -/
def execRotB32 (d : VReg) (a : Src) (b : VReg) (s : State) : Out :=
  intForm (.rotB32 d a b) d a (fun t x => x.rotateLeft ((t.r b.toNat).toNat % 32)) s

/-- popc.b32 (R221). -/
def execPopcB32 (d : VReg) (a : Src) (s : State) : Out :=
  intForm (.popcB32 d a) d a (fun _ x => popc x) s

/-- clz.b32 (R221). -/
def execClzB32 (d : VReg) (a : Src) (s : State) : Out :=
  intForm (.clzB32 d a) d a (fun _ x => clz x) s

/-- brev.b32 (R221). -/
def execBrevB32 (d : VReg) (a : Src) (s : State) : Out :=
  intForm (.brevB32 d a) d a (fun _ x => brev x) s

/-- lsb.b32 (R221): 32 when no bit is set. -/
def execLsbB32 (d : VReg) (a : Src) (s : State) : Out :=
  intForm (.lsbB32 d a) d a (fun _ x => lsb x) s

/-- mov.b32 (R221). -/
def execMovB32 (d : VReg) (a : Src) (s : State) : Out :=
  intForm (.movB32 d a) d a (fun _ x => x) s

/-! LA 0x17-0x20 (R223-R225). -/

/-- perm.b8 (R224). -/
def execPermB8 (d : VReg) (a : Src) (b : VReg) (s : State) : Out :=
  intForm (.permB8 d a b) d a (fun t x => permBytes x (t.r64 b.toNat)) s

/-- add.x2.i16 (R223). -/
def execAddX2I16 (d : VReg) (a : Src) (b : VReg) (s : State) : Out :=
  intForm (.addX2I16 d a b) d a (fun t x => wrapX2 fun i => elemS x i + elemS (t.r b.toNat) i) s

/-- add.x2.i16.sat (R223). -/
def execAddX2I16Sat (d : VReg) (a : Src) (b : VReg) (s : State) : Out :=
  intForm (.addX2I16Sat d a b) d a (fun t x => satX2 fun i => elemS x i + elemS (t.r b.toNat) i) s

/-- sub.x2.i16 (R223). -/
def execSubX2I16 (d : VReg) (a : Src) (b : VReg) (s : State) : Out :=
  intForm (.subX2I16 d a b) d a (fun t x => wrapX2 fun i => elemS x i - elemS (t.r b.toNat) i) s

/-- sub.x2.i16.sat (R223). -/
def execSubX2I16Sat (d : VReg) (a : Src) (b : VReg) (s : State) : Out :=
  intForm (.subX2I16Sat d a b) d a (fun t x => satX2 fun i => elemS x i - elemS (t.r b.toNat) i) s

/-- min.x2.i16 (R223). -/
def execMinX2I16 (d : VReg) (a : Src) (b : VReg) (s : State) : Out :=
  intForm (.minX2I16 d a b) d a (fun t x => wrapX2 fun i => min (elemS x i) (elemS (t.r b.toNat) i)) s

/-- max.x2.i16 (R223). -/
def execMaxX2I16 (d : VReg) (a : Src) (b : VReg) (s : State) : Out :=
  intForm (.maxX2I16 d a b) d a (fun t x => wrapX2 fun i => max (elemS x i) (elemS (t.r b.toNat) i)) s

/-- dot4.i8 (R223). -/
def execDot4I8 (d : VReg) (a : Src) (b : VReg) (s : State) : Out :=
  intForm (.dot4I8 d a b) d a (fun t x => dot4 true (t.r d.toNat) x (t.r b.toNat)) s

/-- dot4.n8 (R223). -/
def execDot4N8 (d : VReg) (a : Src) (b : VReg) (s : State) : Out :=
  intForm (.dot4N8 d a b) d a (fun t x => dot4 false (t.r d.toNat) x (t.r b.toNat)) s

/-- pull.idx (R225). -/
def execPullIdx (d : VReg) (a : Src) (b : VReg) (s : State) : Out :=
  pullForm (.pullIdx d a b) d a b (fun _ x => some (x.toNat % 32)) s

/-- pull.xor (R225). -/
def execPullXor (d : VReg) (a : Src) (b : VReg) (s : State) : Out :=
  pullForm (.pullXor d a b) d a b (fun l x => some (l ^^^ x.toNat % 32)) s

/-- pull.back (R225). -/
def execPullBack (d : VReg) (a : Src) (b : VReg) (s : State) : Out :=
  pullForm (.pullBack d a b) d a b (fun l x => if x.toNat ≤ l then some (l - x.toNat) else none) s

/-- pull.fwd (R225). -/
def execPullFwd (d : VReg) (a : Src) (b : VReg) (s : State) : Out :=
  pullForm (.pullFwd d a b) d a b (fun l x => if l + x.toNat ≤ 31 then some (l + x.toNat) else none) s

/-- nop (R249): the threads advance. -/
def execNop (s : State) : Out := issue .nop (fun s => s.eachLane 4 always fun _ t => t) s

/-! LB 0x00-0x08 (R222). -/

/-- addi.i32 (R222). -/
def execAddiI32 (d a : VReg) (i : BitVec 9) (s : State) : Out :=
  immForm (.addiI32 d a i) d a (fun x => x + i.signExtend 32) s

/-- muli.i32 (R222). -/
def execMuliI32 (d a : VReg) (i : BitVec 9) (s : State) : Out :=
  immForm (.muliI32 d a i) d a (fun x => x * i.signExtend 32) s

/-- andi.b32 (R222). -/
def execAndiB32 (d a : VReg) (i : BitVec 9) (s : State) : Out :=
  immForm (.andiB32 d a i) d a (fun x => x &&& i.signExtend 32) s

/-- ori.b32 (R222). -/
def execOriB32 (d a : VReg) (i : BitVec 9) (s : State) : Out :=
  immForm (.oriB32 d a i) d a (fun x => x ||| i.signExtend 32) s

/-- xori.b32 (R222). -/
def execXoriB32 (d a : VReg) (i : BitVec 9) (s : State) : Out :=
  immForm (.xoriB32 d a i) d a (fun x => x ^^^ i.signExtend 32) s

/-- shli.b32 (R222). -/
def execShliB32 (d a : VReg) (i : BitVec 5) (s : State) : Out :=
  immForm (.shliB32 d a i) d a (fun x => x <<< i.toNat) s

/-- shri.n32 (R222). -/
def execShriN32 (d a : VReg) (i : BitVec 5) (s : State) : Out :=
  immForm (.shriN32 d a i) d a (fun x => x >>> i.toNat) s

/-- shri.i32 (R222). -/
def execShriI32 (d a : VReg) (i : BitVec 5) (s : State) : Out :=
  immForm (.shriI32 d a i) d a (fun x => x.sshiftRight i.toNat) s

/-- movi.b32 (R222). -/
def execMoviB32 (d : VReg) (i : BitVec 9) (s : State) : Out :=
  immForm (.moviB32 d i) d d (fun _ => i.signExtend 32) s

/-! LW 0x00-0x0A (R226, R227). -/

/-- mad.i32 (R226). -/
def execMadI32 (g : Guard) (d a b c : VReg) (s : State) : Out :=
  wideForm (.madI32 g d a b c) g (fun t => t.setR d.toNat (t.r a.toNat * t.r b.toNat + t.r c.toNat)) s

/-- madw.i32 (R226): a signed 64-bit multiply-add. -/
def execMadwI32 (g : Guard) (d a b c : VReg) (s : State) : Out :=
  wideForm (.madwI32 g d a b c) g (fun t => t.setR64 d.toNat
    (BitVec.ofInt 64 ((t.r a.toNat).toInt * (t.r b.toNat).toInt) + t.r64 c.toNat)) s

/-- madw.n32 (R226): an unsigned 64-bit multiply-add. -/
def execMadwN32 (g : Guard) (d a b c : VReg) (s : State) : Out :=
  wideForm (.madwN32 g d a b c) g (fun t => t.setR64 d.toNat
    (BitVec.ofNat 64 ((t.r a.toNat).toNat * (t.r b.toNat).toNat) + t.r64 c.toNat)) s

/-- add.i64 (R226). -/
def execAddI64 (g : Guard) (d a b : VReg) (s : State) : Out :=
  wideForm (.addI64 g d a b) g (fun t => t.setR64 d.toNat (t.r64 a.toNat + t.r64 b.toNat)) s

/-- sub.i64 (R226). -/
def execSubI64 (g : Guard) (d a b : VReg) (s : State) : Out :=
  wideForm (.subI64 g d a b) g (fun t => t.setR64 d.toNat (t.r64 a.toNat - t.r64 b.toNat)) s

/-- addc.n32 (R226): no carry in for code 7, no carry out written for code 7. -/
def execAddcN32 (g : Guard) (d a b : VReg) (ci co : BitVec 3) (s : State) : Out :=
  wideForm (.addcN32 g d a b ci co) g (fun t =>
    let r := addCarry (t.r a.toNat) (t.r b.toNat) (ci != 7 && t.pred ci)
    let t' := t.setR d.toNat r.1
    if co = 7 then t' else t'.setPred co r.2) s

/-- bfx.i32 (R227). -/
def execBfxI32 (g : Guard) (d a : VReg) (pos : BitVec 5) (len : BitVec 6) (s : State) : Out :=
  wideForm (.bfxI32 g d a pos len) g (fun t => t.setR d.toNat (bfx true (t.r a.toNat) pos.toNat len.toNat)) s

/-- bfx.n32 (R227). -/
def execBfxN32 (g : Guard) (d a : VReg) (pos : BitVec 5) (len : BitVec 6) (s : State) : Out :=
  wideForm (.bfxN32 g d a pos len) g (fun t => t.setR d.toNat (bfx false (t.r a.toNat) pos.toNat len.toNat)) s

/-- bfi.b32 (R227). -/
def execBfiB32 (g : Guard) (d a b : VReg) (pos : BitVec 5) (len : BitVec 6) (s : State) : Out :=
  wideForm (.bfiB32 g d a b pos len) g (fun t => t.setR d.toNat (bfi (t.r a.toNat) (t.r b.toNat) pos.toNat len.toNat)) s

/-- bitfn.b32 (R227). -/
def execBitfnB32 (g : Guard) (d a b c : VReg) (fn : BitVec 8) (s : State) : Out :=
  wideForm (.bitfnB32 g d a b c fn) g (fun t => t.setR d.toNat (bitfn (t.r a.toNat) (t.r b.toNat) (t.r c.toNat) fn)) s

/-- csel.b32 (R227). -/
def execCselB32 (g : Guard) (d a b : VReg) (p : BitVec 3) (neg : Bool) (s : State) : Out :=
  wideForm (.cselB32 g d a b p neg) g (fun t =>
    t.setR d.toNat (if t.pred p != neg then t.r a.toNat else t.r b.toNat)) s

/-! LW 0x0B-0x0D, 0x10, 0x30 (R228-R230). -/

/-- cmp.i32 (R228). -/
def execCmpI32 (g : Guard) (pd : BitVec 3) (a b : VReg) (cond : IntCond) (s : State) : Out :=
  wideForm (.cmpI32 g pd a b cond) g (fun t =>
    t.setPred pd (intCond cond (t.r a.toNat).toInt (t.r b.toNat).toInt)) s

/-- cmp.n32 (R228). -/
def execCmpN32 (g : Guard) (pd : BitVec 3) (a b : VReg) (cond : IntCond) (s : State) : Out :=
  wideForm (.cmpN32 g pd a b cond) g (fun t =>
    t.setPred pd (intCond cond (t.r a.toNat).toNat (t.r b.toNat).toNat)) s

/-- cmp.i64 (R228). -/
def execCmpI64 (g : Guard) (pd : BitVec 3) (a b : VReg) (cond : IntCond) (s : State) : Out :=
  wideForm (.cmpI64 g pd a b cond) g (fun t =>
    t.setPred pd (intCond cond (t.r64 a.toNat).toInt (t.r64 b.toNat).toInt)) s

/-- pset (R229): a 4-entry truth table of two predicates. -/
def execPset (g : Guard) (pd pa pb : BitVec 3) (tbl : BitVec 4) (s : State) : Out :=
  wideForm (.pset g pd pa pb tbl) g (fun t =>
    t.setPred pd (tbl.getLsbD ((if t.pred pa then 2 else 0) + (if t.pred pb then 1 else 0)))) s

/-- What a vote writes (R230): the mask, or a predicate, of the source over the active threads. -/
def voteMask (s : State) (act : LaneMask) (p : BitVec 3) (neg : Bool) : LaneMask :=
  maskOf fun l => hasLane act l && ((s.pk.thread l).pred p != neg)

def voteBit (mode : BitVec 2) (act m : LaneMask) : Bool :=
  if mode = 1 then m != 0 else if mode = 2 then m == act else m == 0 || m == act

/-- vote (R230). -/
def execVote (g : Guard) (mode : BitVec 2) (d : VReg) (pd p : BitVec 3) (neg : Bool) (s : State) : Out :=
  issue (.vote g mode d pd p neg) (fun s =>
    let act := s.active (·.guarded g)
    let m := voteMask s act p neg
    s.eachLane 8 (·.guarded g) fun _ t => if mode = 0 then t.setR d.toNat m else t.setPred pd (voteBit mode act m)) s

end Sys2Proof.Machine
end

