-- ==== Sys2Proof/Machine/Sign.lean ====
section
/-! DEFINITION. The signature of scrub tokens (spec/00_scope.md R6, spec/08_tables.md R174): SHA-384 of FIPS 180-4 and ECDSA
on curve P-384 of FIPS 186-5. -/
namespace Sys2Proof.Machine

/-! SHA-384. Words are 64 bits, bytes big-endian. -/

def sha384Init : List DWord :=
  [0xCBBB9D5DC1059ED8, 0x629A292A367CD507, 0x9159015A3070DD17, 0x152FECD8F70E5939, 0x67332667FFC00B31,
   0x8EB44A8768581511, 0xDB0C2E0D64F98FA7, 0x47B5481DBEFA4FA4]

/-- Round constants. -/
def sha384RoundsA : List DWord :=
  [0x428A2F98D728AE22, 0x7137449123EF65CD, 0xB5C0FBCFEC4D3B2F, 0xE9B5DBA58189DBBC, 0x3956C25BF348B538,
   0x59F111F1B605D019, 0x923F82A4AF194F9B, 0xAB1C5ED5DA6D8118, 0xD807AA98A3030242, 0x12835B0145706FBE,
   0x243185BE4EE4B28C, 0x550C7DC3D5FFB4E2, 0x72BE5D74F27B896F, 0x80DEB1FE3B1696B1, 0x9BDC06A725C71235,
   0xC19BF174CF692694, 0xE49B69C19EF14AD2, 0xEFBE4786384F25E3, 0x0FC19DC68B8CD5B5, 0x240CA1CC77AC9C65,
   0x2DE92C6F592B0275, 0x4A7484AA6EA6E483, 0x5CB0A9DCBD41FBD4, 0x76F988DA831153B5, 0x983E5152EE66DFAB,
   0xA831C66D2DB43210, 0xB00327C898FB213F, 0xBF597FC7BEEF0EE4, 0xC6E00BF33DA88FC2, 0xD5A79147930AA725,
   0x06CA6351E003826F, 0x142929670A0E6E70, 0x27B70A8546D22FFC, 0x2E1B21385C26C926, 0x4D2C6DFC5AC42AED,
   0x53380D139D95B3DF, 0x650A73548BAF63DE, 0x766A0ABB3C77B2A8, 0x81C2C92E47EDAEE6, 0x92722C851482353B]

def sha384RoundsB : List DWord :=
  [0xA2BFE8A14CF10364, 0xA81A664BBC423001, 0xC24B8B70D0F89791, 0xC76C51A30654BE30, 0xD192E819D6EF5218,
   0xD69906245565A910, 0xF40E35855771202A, 0x106AA07032BBD1B8, 0x19A4C116B8D2D0C8, 0x1E376C085141AB53,
   0x2748774CDF8EEB99, 0x34B0BCB5E19B48A8, 0x391C0CB3C5C95A63, 0x4ED8AA4AE3418ACB, 0x5B9CCA4F7763E373,
   0x682E6FF3D6B2B8A3, 0x748F82EE5DEFB2FC, 0x78A5636F43172F60, 0x84C87814A1F0AB72, 0x8CC702081A6439EC,
   0x90BEFFFA23631E28, 0xA4506CEBDE82BDE9, 0xBEF9A3F7B2C67915, 0xC67178F2E372532B, 0xCA273ECEEA26619C,
   0xD186B8C721C0C207, 0xEADA7DD6CDE0EB1E, 0xF57D4F7FEE6ED178, 0x06F067AA72176FBA, 0x0A637DC5A2C898A6,
   0x113F9804BEF90DAE, 0x1B710B35131C471B, 0x28DB77F523047D84, 0x32CAAB7B40C72493, 0x3C9EBE0A15C9BEBC,
   0x431D67C49C100D4C, 0x4CC5D4BECB3E42B6, 0x597F299CFC657E2A, 0x5FCB6FAB3AD6FAEC, 0x6C44198C4A475817]

/-- A number of `n` bytes, the highest first. -/
def bytesBig (n x : Nat) : List Byte := (bytesOfNat n x).reverse

def natBig (b : List Byte) : Nat := natOfBytes b.reverse

/-- A message with its padding: a whole number of blocks of 128 bytes. -/
def sha384Pad (m : List Byte) : List Byte :=
  m ++ [0x80#8] ++ List.replicate ((128 - (m.length + 17) % 128) % 128) 0 ++ bytesBig 16 (8 * m.length)

/-- The 16 words of a block. -/
def shaWords (b : List Byte) : List DWord := (List.range 16).map fun i => BitVec.ofNat 64 (natBig ((b.drop (8 * i)).take 8))

/-- The next words of the message schedule after those of `w`, the last 16 of them first to last. -/
def shaSchedule : Nat → List DWord → List DWord
  | 0, _ => []
  | n + 1, w =>
    let at' := fun i => w.getD i (0 : DWord)
    let s0 := (at' 1).rotateRight 1 ^^^ (at' 1).rotateRight 8 ^^^ at' 1 >>> 7
    let s1 := (at' 14).rotateRight 19 ^^^ (at' 14).rotateRight 61 ^^^ at' 14 >>> 6
    let x := at' 0 + s0 + at' 9 + s1
    x :: shaSchedule n (w.drop 1 ++ [x])

/-- One round: the working variables a to h, the round constant and the schedule word. -/
def shaRound (v : List DWord) (k w : DWord) : List DWord :=
  let at' := fun i => v.getD i (0 : DWord)
  let (a, b, c, e, f, g) := (at' 0, at' 1, at' 2, at' 4, at' 5, at' 6)
  let s1 := e.rotateRight 14 ^^^ e.rotateRight 18 ^^^ e.rotateRight 41
  let s0 := a.rotateRight 28 ^^^ a.rotateRight 34 ^^^ a.rotateRight 39
  let t1 := at' 7 + s1 + ((e &&& f) ^^^ (~~~e &&& g)) + k + w
  let t2 := s0 + ((a &&& b) ^^^ (a &&& c) ^^^ (b &&& c))
  [t1 + t2, a, b, c, at' 3 + t1, e, f, g]

def shaBlock (h : List DWord) (b : List Byte) : List DWord :=
  let w := shaWords b
  let ws := w ++ shaSchedule 64 w
  let v := ((sha384RoundsA ++ sha384RoundsB).zip ws).foldl (fun v (k, x) => shaRound v k x) h
  (h.zip v).map fun (x, y) => x + y

/-- SHA-384 of a message. -/
def sha384 (m : List Byte) : List Byte :=
  let p := sha384Pad m
  let h := (List.range (p.length / 128)).foldl (fun h i => shaBlock h ((p.drop (128 * i)).take 128)) sha384Init
  (h.take 6).flatMap fun x => bytesBig 8 x.toNat

/-! Curve P-384: y² = x³ − 3x + b over the integers modulo `p384`, with a base point of order `n384`. -/

def p384 : Nat := 2 ^ 384 - 2 ^ 128 - 2 ^ 96 + 2 ^ 32 - 1

def n384 : Nat := 0xFFFFFFFFFFFFFFFFFFFFFFFFFFFFFFFFFFFFFFFFFFFFFFFFC7634D81F4372DDF581A0DB248B0A77AECEC196ACCC52973

def base384 : Nat × Nat :=
  (0xAA87CA22BE8B05378EB1C71EF320AD746E1D3B628BA79B9859F741E082542A385502F25DBF55296C3A545E3872760AB7,
   0x3617DE4A96262C6F5D9E98BF9292DC29F8F41DBD289A147CE9DA3113B5F0B8C00A60B1CE1D7E819D7A431D7C90EA0E5F)

/-- x to the e modulo m; `fuel` bits of e count. -/
def powMod (m : Nat) : (fuel x e : Nat) → Nat
  | 0, _, _ => 1 % m
  | n + 1, x, e => (if e % 2 = 1 then x * powMod m n (x * x % m) (e / 2) else powMod m n (x * x % m) (e / 2)) % m

/-- The inverse modulo a prime. -/
def invMod (m x : Nat) : Nat := powMod m 384 (x % m) (m - 2)

/-- The difference modulo m. -/
def subMod (m a b : Nat) : Nat := (a + m - b % m) % m

/-- The sum of two points; none is the point at infinity. -/
def addPoint : Option (Nat × Nat) → Option (Nat × Nat) → Option (Nat × Nat)
  | none, q => q
  | p, none => p
  | some (x, y), some (u, v) =>
    if x = u && (y + v) % p384 = 0 then none
    else
      let l := if x = u then subMod p384 (3 * x * x) 3 * invMod p384 (2 * y) % p384
        else subMod p384 v y * invMod p384 (subMod p384 u x) % p384
      let z := subMod p384 (subMod p384 (l * l) x) u
      some (z, subMod p384 (l * subMod p384 x z) y)

/-- `k` times a point, for the low `fuel` bits of k. -/
def mulPoint : (fuel k : Nat) → Option (Nat × Nat) → Option (Nat × Nat)
  | 0, _, _ => none
  | n + 1, k, p =>
    let rest := mulPoint n (k / 2) (addPoint p p)
    if k % 2 = 1 then addPoint p rest else rest

/-- ECDSA: the signature (r, s) of a hash under private key `d` with the secret number `k`. -/
def ecdsaSign (d k : Nat) (hash : List Byte) : Nat × Nat :=
  let r := match mulPoint 384 k (some base384) with
    | some (x, _) => x % n384
    | none => 0
  (r, invMod n384 k * (natBig hash + r * d) % n384)

/-- Whether (r, s) is a signature of a hash under the public key `q`. -/
def ecdsaVerify (q : Option (Nat × Nat)) (hash : List Byte) (r s : Nat) : Bool :=
  let w := invMod n384 s
  0 < r && r < n384 && 0 < s && s < n384 &&
    (match addPoint (mulPoint 384 (natBig hash * w % n384) (some base384)) (mulPoint 384 (r * w % n384) q) with
    | some (x, _) => x % n384 = r
    | none => false)

/-- The signature of a token body (R174): r and s, 48 bytes each, big-endian (R6). The private key and the secret number, both
from 1 to n − 1, are free values (log 10). -/
def tokenSignature (body : List Byte) (nth : Nat) : List Byte :=
  let (r, s) := ecdsaSign (1 + Config.tokenKey % (n384 - 1)) (1 + Config.tokenNonce nth % (n384 - 1)) (sha384 body)
  bytesBig 48 r ++ bytesBig 48 s

end Sys2Proof.Machine
end

