-- ==== Sys2Proof/Machine/Mp.lean ====
section
/-! DEFINITION. The MP's own work: forced stops and saving (spec/09_counters_events.md R195-R197), commits, revocation,
retirement, scrub and scrub tokens (spec/08_tables.md R162-R175), boot (spec/04_memories.md R94) and the loss of a port
(R201). -/
namespace Sys2Proof.Machine

/-! Stopping and saving. -/

/-- Whether a commit is in its prepare phase with its grace over (R168). -/
def State.commitGraceOver (s : State) : Bool :=
  match s.commitNow with
  | some c => (match c.stage with | .prepare d => decide (d ≤ s.time) | _ => false)
  | none => false

/-- GRACE_EXPIRY (R195): the remaining packs are forced to stop, of a pre-empted partition or, in a commit, on the units
that leave it. -/
def execGraceExpiry (part : Nat) (s : State) : Out :=
  event (fun s =>
    match (s.part part).preempt with
    | .grace d =>
      if s.time < d then s
      else (s.evictEach (s.evictable fun _ p => p.part = part)).modPart part fun p => { p with preempt := .stopped }
    | _ =>
      if s.commitGraceOver then s.evictEach (s.evictable fun c p => p.part = part && s.unitLeaving c) else s) s

/-- SHADOW_SWAP_DONE (R197): the state of the halted cores has left them. -/
def execShadowSwapDone (part : Nat) (s : State) : Out :=
  event (fun s =>
    match (s.part part).preempt with
    | .stopped =>
      if s.residents.all fun (_, _, p) => p.part ≠ part then
        (s.swapAll fun g => g.part = part).modPart part fun p => { p with preempt := .swapped }
      else s
    | _ => s.swapAll fun g => g.part = part && s.unitLeaving g.core) s

/-- SAVE_DRAIN_DONE (R197): the images have left the shadow banks for the SAVE area. -/
def execSaveDrainDone (part : Nat) (s : State) : Out :=
  event (fun s =>
    if (s.part part).preempt == .swapped then (s.drainImages part).modPart part fun p => { p with preempt := .drained }
    else s) s

/-! Units of a map. -/

def unitsOf : List UnitRef := (List.range 20).map .cluster ++ (List.range 32).map .group

/-- Owner, borrower and tenant of a unit in a map. -/
def heldIn (m : List PartRec) : UnitRef → Nat × Nat × DWord
  | .cluster k => clusterHeld m k
  | .group k => groupHeld m k

/-- The partition that uses a unit: its borrower, else its owner; 20 for none. -/
def userIn (m : List PartRec) (u : UnitRef) : Nat :=
  let (o, b, _) := heldIn m u
  if b < 20 then b else o

/-- Units that are scrubbed between two maps (R172): the tenant changes, or a lent unit is returned. -/
def needsScrub (old new : Nat × Nat × DWord) : Bool := old.2.2 != new.2.2 || (decide (old.2.1 < 20) && old.2.1 != new.2.1)

/-- Whether a partition's tenant leaves it (R172). -/
def tenantLeaves (old new : PartRec) : Bool := old.valid && (!new.valid || old.tenant != new.tenant)

/-! Retirement (R171). -/

def bitsSet (n : Nat) (w : Word) : List Nat := (List.range n).filter fun k => w.getLsbD k

def wordOf (l : List Nat) : Word := l.foldl (fun w k => w ||| (1#32 <<< k)) 0

/-- A partition during retirement: number, class, creation, guaranteed counts of clusters and groups, suspended. -/
structure Cut where
  part : Nat
  cls : Nat
  created : Nat
  cl : Nat
  cg : Nat
  susp : Bool
  deriving DecidableEq, Repr

def overBy (have' : Nat) (l : List Cut) (f : Cut → Nat) : Nat := (l.map f).sum - have'

/-- What is left: clusters and groups. -/
structure Room where
  cl : Nat
  cg : Nat
  deriving DecidableEq, Repr

def Room.fits (r : Room) (l : List Cut) : Bool := overBy r.cl l (·.cl) = 0 && overBy r.cg l (·.cg) = 0

/-- Reduce one guarantee toward 1 and 1, no further than needed. -/
def Room.reduce (r : Room) (l : List Cut) (p : Nat) : List Cut :=
  if r.fits l then l
  else l.map fun c => if c.part = p && !c.susp then
      { c with cl := max 1 (c.cl - overBy r.cl l (·.cl)), cg := max 1 (c.cg - overBy r.cg l (·.cg)) } else c

def Room.suspend (r : Room) (l : List Cut) (p : Nat) : List Cut :=
  if r.fits l then l else l.map fun c => if c.part = p then { c with cl := 0, cg := 0, susp := true } else c

def insertNewest (x : Cut) : List Cut → List Cut
  | [] => [x]
  | y :: r => if y.created < x.created then x :: y :: r else y :: insertNewest x r

/-- The loop of R171 for one class. -/
def Room.cutClass (r : Room) (l : List Cut) (k : Nat) : List Cut :=
  let ps := ((l.filter fun c => c.cls = k && !c.susp).foldl (fun a c => insertNewest c a) []).map (·.part)
  ps.foldl r.suspend (ps.foldl r.reduce l)

/-- Sets of guaranteed units for the counts wanted: each keeps its lowest units that are not retired, and the rest comes
from free units, lowest first (DESIGN CHOICE, log 14). -/
def giveUnits (n : Nat) (retired taken : Word) : List (Nat × Word) → List Word
  | [] => []
  | (want, own) :: rest =>
    let keep := (bitsSet n (own &&& ~~~retired)).take want
    let free := (List.range n).filter fun k => !taken.getLsbD k && !retired.getLsbD k
    let more := free.take (want - keep.length)
    wordOf (keep ++ more) :: giveUnits n retired (taken ||| wordOf more) rest

/-- The map with guarantees as `cuts` wants them; `m` has no retired unit in it. -/
def regrant (m : List PartRec) (retC retG takenC takenG : Word) (cuts : List Cut) : List PartRec :=
  let at' := fun p => cuts.find? fun (c : Cut) => c.part = p
  let want := fun (f : Cut → Nat) p => match at' p with | some c => f c | none => 0
  let cs := giveUnits 20 retC takenC (m.zipIdx.map fun (r, p) => (want (·.cl) p, r.clg))
  let gs := giveUnits 32 retG takenG (m.zipIdx.map fun (r, p) => (want (·.cg) p, r.cgg))
  (m.zip (cs.zip gs)).zipIdx.map fun ((r, c, g), p) =>
    match at' p with
    | some k => { r with clg := c, cgg := g, ctl := if k.susp then r.ctl ||| 2 else r.ctl }
    | none => r

def withoutUnits (retC retG : Word) (r : PartRec) : PartRec :=
  { r with clg := r.clg &&& ~~~retC, clm := r.clm &&& ~~~retC, clb := r.clb &&& ~~~retC
           cgg := r.cgg &&& ~~~retG, cgm := r.cgm &&& ~~~retG, cgb := r.cgb &&& ~~~retG }

def withoutMargins (r : PartRec) : PartRec := { r with clm := 0, cgm := 0, clb := 0, cgb := 0 }

/-- Units some partition owns. -/
def ownedOf (m : List PartRec) (f : PartRec → Word) : Word := (m.filter fun r => r.valid && !r.susp).foldl (fun w r => w ||| f r) 0

/-- Words of the records of a map that a partition's record gives. -/
def State.cuts (s : State) : List Cut :=
  s.map.zipIdx.filterMap fun (r, p) => if r.valid && !r.susp then
    some ⟨p, r.cls, (s.part p).created, (bitsSet 20 r.clg).length, (bitsSet 32 r.cgg).length, false⟩ else none

/-- The map after retirements (R171): guarantees are made up from free units; when the units left cannot carry them, margins
and loans go, and guarantees are reduced and partitions suspended. -/
def State.retireMap (s : State) : List PartRec :=
  let rc := s.mp.retiredClusters
  let rg := s.mp.retiredGroups
  let m := s.map.map (withoutUnits rc rg)
  let cuts := s.cuts
  let full := regrant m rc rg (ownedOf m fun r => r.clg ||| r.clm) (ownedOf m fun r => r.cgg ||| r.cgm) cuts
  let whole := cuts.all fun c => (match full[c.part]? with
    | some r => (bitsSet 20 r.clg).length = c.cl && (bitsSet 32 r.cgg).length = c.cg
    | none => false)
  if whole then full
  else
    let room : Room := ⟨20 - (bitsSet 20 rc).length, 32 - (bitsSet 32 rg).length⟩
    let cuts := (List.range 4).foldl room.cutClass cuts
    let m := m.map withoutMargins
    let kept := m.zipIdx.map fun (r, p) => match cuts.find? fun (c : Cut) => c.part = p with
      | some c => { r with clg := wordOf ((bitsSet 20 r.clg).take c.cl), cgg := wordOf ((bitsSet 32 r.cgg).take c.cg) }
      | none => r
    regrant kept rc rg (ownedOf kept (·.clg)) (ownedOf kept (·.cgg)) cuts

/-! Commits (R165, R168, R169). -/

/-- A commit goes ahead of those that wait, behind the one under way and other revocations and retirements (R165). -/
def queueAhead (c : Commit) : List Commit → List Commit
  | [] => [c]
  | x :: r =>
    let first := x.stage != .waiting || (match x.why with | .lend | .retire => true | _ => false)
    if first then x :: queueAhead c r else c :: x :: r

/-- A map in which nobody borrows a unit. -/
def revoked (u : UnitRef) (r : PartRec) : PartRec :=
  match u with
  | .cluster k => { r with clb := r.clb &&& ~~~(1#32 <<< k) }
  | .group k => { r with cgb := r.cgb &&& ~~~(1#32 <<< k) }

def isLent (m : List PartRec) (u : UnitRef) : Bool := decide ((heldIn m u).2.1 < 20)

/-- The map a waiting commit will run, as things stand when it starts; none when it is void. -/
def State.startMap (s : State) (c : Commit) : Option (List PartRec) :=
  match c.why with
  | .host => if s.mp.enabled && s.mapOk c.map then some c.map else none
  | .root p gpa => if (s.part p).map.valid then some (s.map.set p { (s.part p).map with s1root := gpa }) else none
  | .lend => if c.scrubs.any (isLent s.map) then some (s.map.map fun r => c.scrubs.foldl (fun r u => revoked u r) r) else none
  | .retire => some s.retireMap

/-- Partitions whose guarantee shrinks, and those newly suspended. -/
def reducedIn (old new : List PartRec) : List Nat :=
  (List.range 20).filter fun p =>
    let a := old.getD p {}
    let b := new.getD p {}
    a.valid && b.valid && !b.susp && ((bitsSet 20 b.clg).length < (bitsSet 20 a.clg).length ||
      (bitsSet 32 b.cgg).length < (bitsSet 32 a.cgg).length)

def suspendedIn (old new : List PartRec) : List Nat :=
  (List.range 20).filter fun p => !(old.getD p {}).susp && (new.getD p {}).valid && (new.getD p {}).susp

/-- Whether a line of a memory-side cache holds a granule of one of the channel groups (R87). -/
def State.lineOn (s : State) (gs : List Nat) (x : Nat) : Bool :=
  let a := x % 2 ^ 60 * 256
  s.paKind a = .hbm && gs.contains (groupOf (s.sel a))

/-- Memory-side lines of the affected channel groups are written back and dropped, re-tiles there abandoned (R107, R168). -/
def State.quietGroups (s : State) : State :=
  let gs := s.leavingGroups
  let s := { s with home := { s.home with lines := s.home.lines.filter fun x => !s.lineOn gs x } }
  (s.home.retiles.filter fun r => r.stage != .published && gs.any (s.frameOn r.oldFrame)).foldl (·.abandon) s

/-- The prepare phase begins (R168). -/
def State.startCommit (s : State) (c : Commit) (rest : List Commit) : State :=
  match s.startMap c with
  | none =>
    let s := { s with mp := { s.mp with commits := rest } }
    if c.why == .host then s.mapFails else s
  | some m =>
    let old := s.map
    let us := unitsOf.filter fun u => needsScrub (heldIn old u) (heldIn m u)
    let grace := match c.why with | .host | .retire => 20000 | _ => 0
    let retiring := c.why == .retire
    let c : Commit := { c with
      map := m, stage := .prepare (s.time + grace), scrubs := us
      reduced := if retiring then reducedIn old m else [], suspended := if retiring then suspendedIn old m else [] }
    let s := { s with mp := { s.mp with commits := c :: rest } }
    let s := s.quietGroups
    s.evictEach (s.evictable fun _ _ => false)

/-- Whether a translated access touches one of some channel groups. -/
def State.onGroups (s : State) (gs : List Nat) (ps : List (Nat × Nat)) : Bool :=
  ps.any fun (a, _) => s.paKind a == .hbm && gs.contains (groupOf (s.sel a))

/-- Whether a translated access to a channel group that changes hands is still to perform (R169). -/
def State.pendingOn (s : State) (gs : List Nat) : Bool :=
  let open' := fun (e : Entry) => e.lanes.any fun (_, r) => s.onGroups gs r.phase.places
  (s.allPacks.any fun p => p.replay.any open') || s.orphans.any fun (_, o) => open' o.entry

/-- Whether nothing runs any more on the units that leave (R168). -/
def State.unitsQuiet (s : State) : Bool :=
  (s.residents.all fun (c, _, _) => !s.unitLeaving c) && s.groups.all fun (_, g) => g.away || !s.unitLeaving g.core

/-- The prepare phase ends once no request to those units is pending either (R169); from then on they take none. -/
def State.quiesced (s : State) : Bool := s.unitsQuiet && !s.pendingOn s.leavingGroups

/-- The contexts swapped off the leaving units drain to the save areas of their partitions (R168, R197). -/
def State.drainLeaving (s : State) : State :=
  let ps := ascending (s.groups.filterMap fun (_, g) => if g.away && s.unitLeaving g.core then some g.part else none)
  ps.foldl (·.drainImages ·) s

def State.setCommit (s : State) (c : Commit) : State := { s with mp := { s.mp with commits := c :: s.mp.commits.drop 1 } }

/-- COMMIT_PHASE (R168): a waiting commit starts; once its units are quiet they may be scrubbed; once that is done the map is
delivered and the tick is set for TIME + 400. -/
def execCommitPhase (s : State) : Out :=
  event (fun s =>
    match s.mp.commits with
    | [] => s
    | c :: rest =>
      match c.stage with
      | .waiting => s.startCommit c rest
      | .prepare _ => if s.quiesced then s.drainLeaving.quietGroups.setCommit { c with stage := .cleared } else s
      | .cleared =>
        if c.scrubs.isEmpty && c.clearing.isEmpty && s.unitsQuiet then
          s.quietGroups.setCommit { c with stage := .ticking (s.time + 400) }
        else s
      | .ticking _ => s) s

/-! Scrub (R172, R173). -/

/-- What the device holds for a departing tenant is dropped, its partition's words go to their reset values. -/
def State.scrubPartition (s : State) (p : Nat) : State :=
  let slots := s.sched.nodes.filterMap fun (sl, n) => if n.part = p then some sl else none
  let s : State := { s with
    groups := s.groups.filter fun (_, g) => g.part ≠ p
    cmds := s.cmds.filter fun (_, c) => c.part ≠ p
    orphans := s.orphans.filter fun (_, o) => o.part ≠ p
    overflow := s.overflow.filter fun q => q.part ≠ p
    sched := { s.sched with
      nodes := s.sched.nodes.filter fun (_, n) => n.part ≠ p
      reserved := s.sched.reserved.filter fun (_, sl, _) => !slots.contains sl }
    home := { s.home with
      monitors := s.home.monitors.filter fun m => m.part ≠ p
      reports := s.home.reports.filter fun r => r.part ≠ p
      retiles := s.home.retiles.filter fun r => r.part ≠ p } }
  let s := (s.pages.filterMap fun (id, q) => if q.part = p then some id else none).foldl (·.freePage) s
  (s.modPart p fun x => { map := x.map, created := x.created, slotLo := x.slotLo, slotHi := x.slotHi, token := x.token,
                          staged := x.staged }).dropPartTrans p

/-- A core as scrub leaves it; its energy counter goes on, %energy from a new base. -/
def Core.scrubbed (k : Core) : Core := { energy := k.energy, energyBase := k.energy, mhz := k.mhz, mhzNext := k.mhzNext }

def State.scrubCluster (s : State) (k : Nat) : State :=
  let mine := fun c => c / 8 = k
  let s : State := { s with
    cores := s.cores.map fun (c, x) => (c, if mine c then x.scrubbed else x)
    clusterTlb := s.clusterTlb.filter fun (c, _) => c ≠ k
    cmds := s.cmds.filter fun (_, c) => !mine c.core || c.state == .stopped
    home := { s.home with tags := s.home.tags.filter fun (key, _) => !(2 ^ 48 ≤ key && mine ((key - 2 ^ 48) / 16384)) } }
  s

/-- Whether a monitor record's page lies on a channel group. -/
def State.monitorOn (s : State) (g : Nat) (m : Monitor) : Bool :=
  match s.tensorRec agentMp m.part m.tid with
  | (_, .ok r) => (match s.pageLeaf r m.part m.page with | some pl => s.frameGroup pl.frame = g | none => false)
  | _ => false

/-- Frames of a partition's save area (R162). The spec does not say how far it reaches: as far as its last image, and for a
free number of frames (DESIGN CHOICE, log 19). -/
def State.saveFrames (s : State) (p : Nat) : List Nat :=
  let r := (s.part p).map
  if r.valid && r.save != 0 then
    let last := (s.part p).images.foldl (fun n i => max n (i.pa + imageSize i.vbytes - r.save.toNat)) 1
    (List.range (max (ceilDiv last 65536) (Config.saveFrames p))).map (r.save.toNat / 65536 + ·)
  else []

/-- The channel group whose controllers a home slice serves (R88). -/
def sliceGroup (h : Nat) : Nat := (h - 512) / 2

/-- A channel group (R172, R173): every frame becomes zero-pending, but for save areas of other partitions; its slices hold no
line, host lines included, and no replica lags behind there; its re-tiles go, and pool frames go back to the host. -/
def State.scrubGroup (s : State) (g user : Nat) : State :=
  let saves := ((List.range 20).filter (· ≠ user)).flatMap s.saveFrames
  let on := fun gran => s.paKind (gran * 256) = .hbm && groupOf (s.sel (gran * 256)) = g
  let kept := fun (a : Nat) => sliceGroup (s.slice a) ≠ g && sliceGroup (mirrorSlice (s.slice a)) ≠ g
  let h := s.home
  let s : State := { s with
    home := { h with
      lines := h.lines.filter fun x => !s.lineOn [g] x && sliceGroup (s.lineSlice x) ≠ g
      hostOwned := h.hostOwned.filter fun x => sliceGroup (s.slice (x * 256)) ≠ g
      replicaLag := h.replicaLag.filter fun (a, _) => kept a
      retiles := h.retiles.filter fun r => s.frameGroup r.oldFrame ≠ g
      zeroGroups := (g, saves) :: h.zeroGroups.filter fun (k, _) => k ≠ g
      tags := h.tags.filter fun (key, _) => 2 ^ 48 ≤ key || !on key
      monitors := h.monitors.filter fun m => !s.monitorOn g m }
    parts := s.parts.map fun (n, p) => (n, { p with pool := p.pool.filter fun f => !s.frameOn f g }) }
  s

/-- The nonces that ASSIGN has staged (R166, R174). -/
def State.assigned (s : State) : List (BitVec 256) :=
  (List.range 20).map fun p => match (s.part p).staged with | some (_, n) => n | none => 0

/-- SCRUB (R172): a quiet unit of the commit is cleared; the nonces of its tokens are those staged when the first is. -/
def execScrub (unit : UnitRef) (s : State) : Out :=
  event (fun s =>
    match s.commitNow with
    | some c =>
      if c.stage == .cleared && c.scrubs.contains unit then
        let old := userIn s.map unit
        let s := s.setCommit { c with
          scrubs := c.scrubs.erase unit, clearing := c.clearing ++ [unit]
          nonces := if c.nonces.isEmpty then s.assigned else c.nonces }
        let s := if tenantLeaves (s.part old).map (c.map.getD old {}) then s.scrubPartition old
          else if old < 20 then s.dropPartTrans old else s
        match unit with
        | .cluster k => s.scrubCluster k
        | .group k => s.scrubGroup k old
      else s
    | none => s) s

/-- SCRUB_DONE. -/
def execScrubDone (unit : UnitRef) (s : State) : Out :=
  event (fun s =>
    match s.commitNow with
    | some c =>
      if c.clearing.contains unit then
        s.setCommit { c with
          clearing := c.clearing.erase unit, scrubbed := c.scrubbed ++ [unit], doneTime := max c.doneTime s.time }
      else s
    | none => s) s

/-! The tick (R169). -/

/-- Pages on a channel group that is no longer lent become V = 0 (R164). -/
def State.unmapGroup (s : State) (part g : Nat) : State :=
  (s.leavesOn part g).foldl (fun s (a, e) => s.homeWrite false true (spread a (bytesOfNat 8 (e - 1)))) s

/-- One partition takes its record of the new map. -/
def State.takeRecord (s : State) (t : Nat) (new : PartRec) (p : Nat) : State :=
  let old := (s.part p).map
  if old = new then s
  else
    let s := ((List.range 32).filter fun g => old.cgb.getLsbD g && !new.cgb.getLsbD g).foldl (fun s g => s.unmapGroup p g) s
    let s := if tenantLeaves old new then s.scrubPartition p else s.dropPartTrans p
    let born := !old.valid && new.valid
    let used := match (s.part p).staged with | some (ten, _) => ten == new.tenant | none => false
    s.modPart p fun x => { x with
      map := new
      created := if born then t else x.created
      slotLo := if born then (Config.slotRange p).1 else x.slotLo
      slotHi := if born then (Config.slotRange p).2 else x.slotHi
      staged := if used then none else x.staged }

/-- The token body of R174. -/
def tokenBody (part : Nat) (outgoing incoming : DWord) (seq layout flags time rows : Nat) (cl cg : Word) (nonce : BitVec 256)
    (serial : BitVec 128) : List Byte :=
  bytesOfNat 4 0x4B5A5331 ++ bytesOfNat 2 1 ++ bytesOfNat 2 part ++ bytesOfNat 8 outgoing.toNat ++ bytesOfNat 8 incoming.toNat ++
    bytesOfNat 8 seq ++ bytesOfNat 4 layout ++ bytesOfNat 4 flags ++ bytesOfNat 8 time ++ bytesOfNat 4 cl.toNat ++
    bytesOfNat 4 cg.toNat ++ bytesOfNat 8 rows ++ bytesOfNat 32 nonce.toNat ++ bytesOfNat 16 serial.toNat ++ bytesOfNat 16 0

def clustersIn (us : List UnitRef) : Word := wordOf (us.filterMap fun u => match u with | .cluster k => some k | .group _ => none)
def groupsIn (us : List UnitRef) : Word := wordOf (us.filterMap fun u => match u with | .group k => some k | .cluster _ => none)

/-- The state classes of R172 that a scrub of some units clears: rows 0-4 for clusters, 6 and 7 for channel groups, 5 always,
8 and 9 when the tenant leaves its partition. -/
def rowsCleared (cl cg : Word) (left : Bool) : Nat :=
  0x20 + (if cl = 0 then 0 else 0x1F) + (if cg = 0 then 0 else 0xC0) + (if left then 0x300 else 0)

/-- Whether the tenant that a unit is scrubbed of leaves its partition. -/
def tenantGone (old new : List PartRec) (u : UnitRef) : Bool :=
  let p := userIn old u
  tenantLeaves (old.getD p {}) (new.getD p {})

/-- The scrub token of the units that go to one partition from one tenant; a lent unit's return carries no nonce. That of units
that no partition takes (`p` = 20) names the partition 0xFFFF, and belongs to none (DESIGN CHOICE, log 10). -/
def State.tokenFor (s : State) (c : Commit) (old : List PartRec) (p : Nat) (out : DWord) : State :=
  let us := c.scrubbed.filter fun u => userIn c.map u = p && (heldIn old u).2.2 == out
  if us.isEmpty then s
  else
    let r := c.map.getD p {}
    let back := us.all fun u => isLent old u
    let cl := clustersIn us
    let cg := groupsIn us
    let whole := p < 20 && r.clusters &&& ~~~cl == 0 && r.groups &&& ~~~cg == 0
    let seq := s.mp.scrubSeq + 1
    let flags := (if back then 1 else 0) + (if whole then 2 else 0)
    let number := if p < 20 then p else 0xFFFF
    let b := tokenBody number out r.tenant seq s.mp.layoutver.toNat flags c.doneTime
      (rowsCleared cl cg (us.any (tenantGone old c.map))) cl cg (if back then 0 else c.nonces.getD p 0) s.mp.serial
    { s with mp := { s.mp with scrubSeq := seq, tokens := s.mp.tokens ++ [(number, b)] } }

/-- Notifications of a retirement's commit (R167, R171). -/
def State.notifyCut (s : State) (c : Commit) : State :=
  let lv := s.mp.layoutver.toNat
  let s := c.reduced.foldl (fun s p =>
    let r := c.map.getD p {}
    s.notify 0x83 (p + 1) (bytesOfNat 4 r.clg.toNat ++ bytesOfNat 4 r.cgg.toNat ++ bytesOfNat 4 lv ++ bytesOfNat 28 0)) s
  c.suspended.foldl (fun s p =>
    s.notify 0x84 (p + 1) (bytesOfNat 8 (c.map.getD p {}).save.toNat ++ bytesOfNat 4 lv ++ bytesOfNat 28 0)) s

/-- The new map takes effect; accesses whose translations wait to go to a channel group that changes hands are translated
again, under it. -/
def State.tick (s : State) (c : Commit) (t : Nat) : State :=
  let old := s.map
  let gs := s.leavingGroups
  let s := s.sendBack fun _ ps => s.onGroups gs ps
  let s := c.map.zipIdx.foldl (fun s (r, p) => s.takeRecord t r p) s
  let s : State := { s with mp := { s.mp with
    layoutver := s.mp.layoutver + 1, lastTick := t, commits := s.mp.commits.drop 1 } }
  let outs := (c.scrubbed.map fun u => (heldIn old u).2.2).eraseDups
  let s := (List.range 21).foldl (fun s p => outs.foldl (fun s o => s.tokenFor c old p o) s) s
  s.notifyCut c

/-- LAYOUT_VERSION_TICK (R169). -/
def execLayoutVersionTick (s : State) : Out :=
  event (fun s =>
    match s.mp.commits with
    | c :: _ =>
      match c.stage with
      | .ticking t => if s.time < t then s else s.tick c t
      | _ => s
    | [] => s) s

/-- SCRUB_TOKEN_SIGNED (R174): the body and its signature of 96 bytes are stored in HBM where the MP chooses, a free value
(DESIGN CHOICE, log 10). -/
def execScrubTokenSigned (part : Nat) (s : State) : Out :=
  event (fun s =>
    match s.mp.tokens.find? fun (p, _) => p = part with
    | none => s
    | some (p, b) =>
      let (w, s) := s.freeWord
      let hpa := s.mp.nodeId * 2 ^ 41 + w.toNat % (Config.hbmBytes / 256) * 256
      let t := b ++ tokenSignature b (fieldAt b 24 8)
      let s : State := { s with mp := { s.mp with tokens := s.mp.tokens.erase (p, b) } }
      let s := s.writeBytes false true (spread hpa t)
      if p < 20 then s.modPart p fun x => { x with token := some (hpa, t) } else s) s

/-- REVOCATION (R163, R164): a lent unit goes back to its lender without a grace period. -/
def execRevocation (unit : UnitRef) (s : State) : Out :=
  event (fun s =>
    let asked := s.mp.commits.any fun c => c.why == .lend && (c.scrubs.contains unit || c.clearing.contains unit || c.scrubbed.contains unit)
    if !isLent s.map unit || asked then s
    else
      { s with mp := { s.mp with
        commits := queueAhead { why := .lend, map := [], scrubs := [unit] } s.mp.commits } }) s

/-- RETIREMENT (R171): the unit is retired and reported, and a commit takes it out of the map. -/
def execRetirement (unit : UnitRef) (s : State) : Out :=
  event (fun s =>
    let mp := s.mp
    let (m, kind, k, own) := match unit with
      | .cluster k => ({ mp with retiredClusters := mp.retiredClusters ||| (1#32 <<< k) }, 0, k, s.clusterOwner k)
      | .group k => ({ mp with retiredGroups := mp.retiredGroups ||| (1#32 <<< k) }, 1, k, s.groupOwner k)
    if m = mp || (kind = 0 && 20 ≤ k) then s
    else
      let s := State.notify { s with mp := m } 0x87 own (bytesOfNat 1 kind ++ bytesOfNat 1 k ++ bytesOfNat 38 0)
      { s with mp := { s.mp with commits := queueAhead { why := .retire, map := [] } s.mp.commits } }) s

/-! Boot (R94, R177, R184) and the rest. -/

/-- Lanes of pseudo-channel `x` of a stack that cannot be trained take spare lanes of their channel until none is left; then the
others are reported, and the device is not enabled. -/
def State.repairLanes (s : State) (st x bad : Nat) : State :=
  let ch := 32 * st + x / 2
  let used := tabGet 0 s.mp.spares ch
  let new := min bad (Config.spareLanes - used)
  let s : State := if new = 0 then s else { s with mp := { s.mp with spares := tabPut s.mp.spares ch (used + new) } }
  if bad = new then s
  else
    let s := s.notify 0x81 0 (bytesOfNat 1 st ++ bytesOfNat 1 (x / 2) ++ bytesOfNat 1 (x % 2) ++ bytesOfNat 1 0 ++
      bytesOfNat 4 (bad - new) ++ bytesOfNat 32 0)
    { s with mp := { s.mp with enabled := false, trained := tabPut s.mp.trained st false } }

/-- Training of a stack (R94): in full, after which the values found are stored in the flash under its serial number; or, where
the flash has an entry for it, by restoring the values and retraining the lanes that fail verification. -/
def State.trainStack (full : Bool) (n : Nat) (s : State) (st : Nat) : State :=
  let key := Config.stackSerial st
  let old := tabFind s.mp.flash key
  let all := full || old.isNone
  let failing := (List.range 64).any fun x => Config.failedLanes n st x ≠ 0
  let v := match old with
    | some w => if full then Config.laneValues n st else if failing then Config.retrainedValues n st w else w
    | none => Config.laneValues n st
  let s : State := { s with mp := { s.mp with
    flash := if all then tabPut s.mp.flash key v else s.mp.flash
    delays := tabPut s.mp.delays st v, trained := tabPut s.mp.trained st true } }
  (List.range 64).foldl (fun s x =>
    let bad := Config.untrainedLanes n st x
    s.repairLanes st x (if all then bad else min bad (Config.failedLanes n st x))) s

/-- Training of every stack. -/
def State.train (s : State) (full : Bool) : State :=
  let n := s.mp.training + 1
  let s : State := { s with mp := { s.mp with training := n, enabled := true } }
  (List.range 8).foldl (State.trainStack full n) s

/-- COLD_BOOT (R94, R177): the state of reset, TIME 0, and every lane trained in full; what lies in the package's flash, the
serial number, the node id and the scrub sequence (R174) go on. -/
def execColdBoot (s : State) : Out :=
  event (fun s => State.train { State.reset with
    env := s.env
    mp := { State.reset.mp with
      serial := s.mp.serial, nodeId := s.mp.nodeId, scrubSeq := s.mp.scrubSeq, training := s.mp.training
      flash := s.mp.flash } } true) s

/-- WARM_RESET (R94): the training values are restored and verified; TIME goes on (R177). -/
def execWarmReset (s : State) : Out := event (fun s => s.train false) s

/-- FIRMWARE_RELOAD (R28): units retired until now are no longer (R171). -/
def execFirmwareReload (s : State) : Out :=
  event (fun s => { s with mp := { s.mp with retiredClusters := 0, retiredGroups := 0 } }) s

/-- REFRESH (R90, R91): it only takes bus slots. -/
def execRefresh (_sel : Nat) (s : State) : Out := event (fun s => s) s

/-- RALVAN_PORT_LOSS (R29, R201): one of the 18 ports. -/
def execRalvanPortLoss (port : Nat) (s : State) : Out :=
  event (fun s =>
    if port < 18 && !s.mp.lostPorts.contains port then
      { s with mp := { s.mp with lostPorts := insertAsc port s.mp.lostPorts } }
    else s) s

end Sys2Proof.Machine
end

