-- ==== Sys2Proof/Machine/Dispatch.lean ====
section
/-! DEFINITION. Which meaning each instruction has: one arm per constructor of `Instr`. -/
namespace Sys2Proof.Machine

def exec (i : Instr) (s : State) : Host.Outcome State Fault Refusal :=
  match i with
  | .addI32 d a b => Sys2Proof.Machine.execAddI32 d a b s
  | .addI32Sat d a b => Sys2Proof.Machine.execAddI32Sat d a b s
  | .subI32 d a b => Sys2Proof.Machine.execSubI32 d a b s
  | .subI32Sat d a b => Sys2Proof.Machine.execSubI32Sat d a b s
  | .mulI32 d a b => Sys2Proof.Machine.execMulI32 d a b s
  | .mulhiI32 d a b => Sys2Proof.Machine.execMulhiI32 d a b s
  | .mulhiN32 d a b => Sys2Proof.Machine.execMulhiN32 d a b s
  | .minI32 d a b => Sys2Proof.Machine.execMinI32 d a b s
  | .maxI32 d a b => Sys2Proof.Machine.execMaxI32 d a b s
  | .minN32 d a b => Sys2Proof.Machine.execMinN32 d a b s
  | .maxN32 d a b => Sys2Proof.Machine.execMaxN32 d a b s
  | .andB32 d a b => Sys2Proof.Machine.execAndB32 d a b s
  | .orB32 d a b => Sys2Proof.Machine.execOrB32 d a b s
  | .xorB32 d a b => Sys2Proof.Machine.execXorB32 d a b s
  | .andnB32 d a b => Sys2Proof.Machine.execAndnB32 d a b s
  | .shlB32 d a b => Sys2Proof.Machine.execShlB32 d a b s
  | .shrN32 d a b => Sys2Proof.Machine.execShrN32 d a b s
  | .shrI32 d a b => Sys2Proof.Machine.execShrI32 d a b s
  | .rotB32 d a b => Sys2Proof.Machine.execRotB32 d a b s
  | .popcB32 d a => Sys2Proof.Machine.execPopcB32 d a s
  | .clzB32 d a => Sys2Proof.Machine.execClzB32 d a s
  | .brevB32 d a => Sys2Proof.Machine.execBrevB32 d a s
  | .lsbB32 d a => Sys2Proof.Machine.execLsbB32 d a s
  | .movB32 d a => Sys2Proof.Machine.execMovB32 d a s
  | .permB8 d a b => Sys2Proof.Machine.execPermB8 d a b s
  | .addX2I16 d a b => Sys2Proof.Machine.execAddX2I16 d a b s
  | .addX2I16Sat d a b => Sys2Proof.Machine.execAddX2I16Sat d a b s
  | .subX2I16 d a b => Sys2Proof.Machine.execSubX2I16 d a b s
  | .subX2I16Sat d a b => Sys2Proof.Machine.execSubX2I16Sat d a b s
  | .minX2I16 d a b => Sys2Proof.Machine.execMinX2I16 d a b s
  | .maxX2I16 d a b => Sys2Proof.Machine.execMaxX2I16 d a b s
  | .dot4I8 d a b => Sys2Proof.Machine.execDot4I8 d a b s
  | .dot4N8 d a b => Sys2Proof.Machine.execDot4N8 d a b s
  | .pullIdx d a b => Sys2Proof.Machine.execPullIdx d a b s
  | .pullXor d a b => Sys2Proof.Machine.execPullXor d a b s
  | .pullBack d a b => Sys2Proof.Machine.execPullBack d a b s
  | .pullFwd d a b => Sys2Proof.Machine.execPullFwd d a b s
  | .faddF32 d a b x => Sys2Proof.Machine.execFaddF32 d a b x s
  | .fsubF32 d a b x => Sys2Proof.Machine.execFsubF32 d a b x s
  | .fmulF32 d a b x => Sys2Proof.Machine.execFmulF32 d a b x s
  | .fminF32 d a b x => Sys2Proof.Machine.execFminF32 d a b x s
  | .fmaxF32 d a b x => Sys2Proof.Machine.execFmaxF32 d a b x s
  | .fmacF32 d a b x => Sys2Proof.Machine.execFmacF32 d a b x s
  | .faddF64 d a b x => Sys2Proof.Machine.execFaddF64 d a b x s
  | .fsubF64 d a b x => Sys2Proof.Machine.execFsubF64 d a b x s
  | .fmulF64 d a b x => Sys2Proof.Machine.execFmulF64 d a b x s
  | .fminF64 d a b x => Sys2Proof.Machine.execFminF64 d a b x s
  | .fmaxF64 d a b x => Sys2Proof.Machine.execFmaxF64 d a b x s
  | .fmacF64 d a b x => Sys2Proof.Machine.execFmacF64 d a b x s
  | .faddX2Bf16 d a b x => Sys2Proof.Machine.execFaddX2Bf16 d a b x s
  | .fmulX2Bf16 d a b x => Sys2Proof.Machine.execFmulX2Bf16 d a b x s
  | .fmacX2Bf16 d a b x => Sys2Proof.Machine.execFmacX2Bf16 d a b x s
  | .faddX2F16 d a b x => Sys2Proof.Machine.execFaddX2F16 d a b x s
  | .fmulX2F16 d a b x => Sys2Proof.Machine.execFmulX2F16 d a b x s
  | .fmacX2F16 d a b x => Sys2Proof.Machine.execFmacX2F16 d a b x s
  | .dot2Bf16 d a b x => Sys2Proof.Machine.execDot2Bf16 d a b x s
  | .nop => Sys2Proof.Machine.execNop s
  | .addiI32 d a k => Sys2Proof.Machine.execAddiI32 d a k s
  | .muliI32 d a k => Sys2Proof.Machine.execMuliI32 d a k s
  | .andiB32 d a k => Sys2Proof.Machine.execAndiB32 d a k s
  | .oriB32 d a k => Sys2Proof.Machine.execOriB32 d a k s
  | .xoriB32 d a k => Sys2Proof.Machine.execXoriB32 d a k s
  | .shliB32 d a k => Sys2Proof.Machine.execShliB32 d a k s
  | .shriN32 d a k => Sys2Proof.Machine.execShriN32 d a k s
  | .shriI32 d a k => Sys2Proof.Machine.execShriI32 d a k s
  | .moviB32 d k => Sys2Proof.Machine.execMoviB32 d k s
  | .bra pg pn off => Sys2Proof.Machine.execBra pg pn off s
  | .meet off => Sys2Proof.Machine.execMeet off s
  | .unmeet => Sys2Proof.Machine.execUnmeet s
  | .exit pg pn => Sys2Proof.Machine.execExit pg pn s
  | .yield => Sys2Proof.Machine.execYield s
  | .ldB8 t c la x => Sys2Proof.Machine.execLdB8 t c la x s
  | .ldI8 t c la x => Sys2Proof.Machine.execLdI8 t c la x s
  | .ldB16 t c la x => Sys2Proof.Machine.execLdB16 t c la x s
  | .ldI16 t c la x => Sys2Proof.Machine.execLdI16 t c la x s
  | .ldB32 t c la x => Sys2Proof.Machine.execLdB32 t c la x s
  | .ldB64 t c la x => Sys2Proof.Machine.execLdB64 t c la x s
  | .ldB128 t c la x => Sys2Proof.Machine.execLdB128 t c la x s
  | .stB8 t c la x => Sys2Proof.Machine.execStB8 t c la x s
  | .stB16 t c la x => Sys2Proof.Machine.execStB16 t c la x s
  | .stB32 t c la x => Sys2Proof.Machine.execStB32 t c la x s
  | .stB64 t c la x => Sys2Proof.Machine.execStB64 t c la x s
  | .stB128 t c la x => Sys2Proof.Machine.execStB128 t c la x s
  | .tld t c la x => Sys2Proof.Machine.execTld t c la x s
  | .tst t c la x => Sys2Proof.Machine.execTst t c la x s
  | .tstp t c la x => Sys2Proof.Machine.execTstp t c la x s
  | .vldB32 t c la x => Sys2Proof.Machine.execVldB32 t c la x s
  | .vldB64 t c la x => Sys2Proof.Machine.execVldB64 t c la x s
  | .vldB128 t c la x => Sys2Proof.Machine.execVldB128 t c la x s
  | .vstB32 t c la x => Sys2Proof.Machine.execVstB32 t c la x s
  | .vstB64 t c la x => Sys2Proof.Machine.execVstB64 t c la x s
  | .vstB128 t c la x => Sys2Proof.Machine.execVstB128 t c la x s
  | .claim c la x => Sys2Proof.Machine.execClaim c la x s
  | .tclaim c la x => Sys2Proof.Machine.execTclaim c la x s
  | .madI32 g d a b c => Sys2Proof.Machine.execMadI32 g d a b c s
  | .madwI32 g d a b c => Sys2Proof.Machine.execMadwI32 g d a b c s
  | .madwN32 g d a b c => Sys2Proof.Machine.execMadwN32 g d a b c s
  | .addI64 g d a b => Sys2Proof.Machine.execAddI64 g d a b s
  | .subI64 g d a b => Sys2Proof.Machine.execSubI64 g d a b s
  | .addcN32 g d a b ci co => Sys2Proof.Machine.execAddcN32 g d a b ci co s
  | .bfxI32 g d a pos len => Sys2Proof.Machine.execBfxI32 g d a pos len s
  | .bfxN32 g d a pos len => Sys2Proof.Machine.execBfxN32 g d a pos len s
  | .bfiB32 g d a b pos len => Sys2Proof.Machine.execBfiB32 g d a b pos len s
  | .bitfnB32 g d a b c fn => Sys2Proof.Machine.execBitfnB32 g d a b c fn s
  | .cselB32 g d a b p neg => Sys2Proof.Machine.execCselB32 g d a b p neg s
  | .cmpI32 g pd a b cond => Sys2Proof.Machine.execCmpI32 g pd a b cond s
  | .cmpN32 g pd a b cond => Sys2Proof.Machine.execCmpN32 g pd a b cond s
  | .cmpI64 g pd a b cond => Sys2Proof.Machine.execCmpI64 g pd a b cond s
  | .fcmpF32 g pd a b cond => Sys2Proof.Machine.execFcmpF32 g pd a b cond s
  | .fcmpF64 g pd a b cond => Sys2Proof.Machine.execFcmpF64 g pd a b cond s
  | .pset g pd pa pb tbl => Sys2Proof.Machine.execPset g pd pa pb tbl s
  | .ffmaF32 g d a b c np nc => Sys2Proof.Machine.execFfmaF32 g d a b c np nc s
  | .ffmaF64 g d a b c np nc => Sys2Proof.Machine.execFfmaF64 g d a b c np nc s
  | .ffmaX2Bf16 g d a b c np nc => Sys2Proof.Machine.execFfmaX2Bf16 g d a b c np nc s
  | .frcpF32 g d a la => Sys2Proof.Machine.execFrcpF32 g d a la s
  | .frsqF32 g d a la => Sys2Proof.Machine.execFrsqF32 g d a la s
  | .fsqrtF32 g d a la => Sys2Proof.Machine.execFsqrtF32 g d a la s
  | .fsqrtF64 g d a la => Sys2Proof.Machine.execFsqrtF64 g d a la s
  | .fdivF32 g d a b la => Sys2Proof.Machine.execFdivF32 g d a b la s
  | .fdivF64 g d a b la => Sys2Proof.Machine.execFdivF64 g d a b la s
  | .fexp2F32 g d a la => Sys2Proof.Machine.execFexp2F32 g d a la s
  | .flog2F32 g d a la => Sys2Proof.Machine.execFlog2F32 g d a la s
  | .fsinpF32 g d a la => Sys2Proof.Machine.execFsinpF32 g d a la s
  | .fcospF32 g d a la => Sys2Proof.Machine.execFcospF32 g d a la s
  | .frndF32 g d a la r exact => Sys2Proof.Machine.execFrndF32 g d a la r exact s
  | .frndF64 g d a la r exact => Sys2Proof.Machine.execFrndF64 g d a la r exact s
  | .fclass g d a ty => Sys2Proof.Machine.execFclass g d a ty s
  | .cvt g d a sl dl rnd src dst => Sys2Proof.Machine.execCvt g d a sl dl rnd src dst s
  | .qblkF4x g d a => Sys2Proof.Machine.execQblkF4x g d a s
  | .dqblkF4x g d a b hi => Sys2Proof.Machine.execDqblkF4x g d a b hi s
  | .atom g d a b la ty op ord sc x => Sys2Proof.Machine.execAtom g d a b la ty op ord sc x s
  | .cas g d a b c la wide ord sc x => Sys2Proof.Machine.execCas g d a b c la wide ord sc x s
  | .red g a b la ty op ord sc x bar => Sys2Proof.Machine.execRed g a b la ty op ord sc x bar s
  | .tatom g d a b la op ord sc x => Sys2Proof.Machine.execTatom g d a b la op ord sc x s
  | .tred g a b la op ord sc x bar => Sys2Proof.Machine.execTred g a b la op ord sc x bar s
  | .vatom g d a b la ty op ord sc x => Sys2Proof.Machine.execVatom g d a b la ty op ord sc x s
  | .ldAcq g d a la wide vault sc x => Sys2Proof.Machine.execLdAcq g d a la wide vault sc x s
  | .stRel g a b wide vault sc x => Sys2Proof.Machine.execStRel g a b wide vault sc x s
  | .fence g sc => Sys2Proof.Machine.execFence g sc s
  | .jal g d off => Sys2Proof.Machine.execJal g d off s
  | .jr g link a => Sys2Proof.Machine.execJr g link a s
  | .meetm g a off => Sys2Proof.Machine.execMeetm g a off s
  | .vote g mode d pd p neg => Sys2Proof.Machine.execVote g mode d pd p neg s
  | .brk g code => Sys2Proof.Machine.execBrk g code s
  | .sadd d a b => Sys2Proof.Machine.execSadd d a b s
  | .ssub d a b => Sys2Proof.Machine.execSsub d a b s
  | .smul d a b => Sys2Proof.Machine.execSmul d a b s
  | .sand d a b => Sys2Proof.Machine.execSand d a b s
  | .sor d a b => Sys2Proof.Machine.execSor d a b s
  | .sxor d a b => Sys2Proof.Machine.execSxor d a b s
  | .sshl d a b => Sys2Proof.Machine.execSshl d a b s
  | .sshr d a b m => Sys2Proof.Machine.execSshr d a b m s
  | .smin d a b m => Sys2Proof.Machine.execSmin d a b m s
  | .smax d a b m => Sys2Proof.Machine.execSmax d a b m s
  | .sadd64 d a b m => Sys2Proof.Machine.execSadd64 d a b m s
  | .smov d a => Sys2Proof.Machine.execSmov d a s
  | .scmp q a b cond uns wide => Sys2Proof.Machine.execScmp q a b cond uns wide s
  | .ssel d q neg a b => Sys2Proof.Machine.execSsel d q neg a b s
  | .sget d cw sel idx => Sys2Proof.Machine.execSget d cw sel idx s
  | .sset sel a => Sys2Proof.Machine.execSset sel a s
  | .svote d p neg => Sys2Proof.Machine.execSvote d p neg s
  | .smovi d k => Sys2Proof.Machine.execSmovi d k s
  | .saddi d k => Sys2Proof.Machine.execSaddi d k s
  | .smovhi d k => Sys2Proof.Machine.execSmovhi d k s
  | .sbra qg qn off => Sys2Proof.Machine.execSbra qg qn off s
  | .scall qg qn off => Sys2Proof.Machine.execScall qg qn off s
  | .sret qg qn => Sys2Proof.Machine.execSret qg qn s
  | .ssleep qg qn n => Sys2Proof.Machine.execSsleep qg qn n s
  | .cpy r c bar la tok => Sys2Proof.Machine.execCpy r c bar la tok s
  | .cpyf r c bar la b tok => Sys2Proof.Machine.execCpyf r c bar la b tok s
  | .cpyg r c bar la tok => Sys2Proof.Machine.execCpyg r c bar la tok s
  | .mma r c bar la tok => Sys2Proof.Machine.execMma r c bar la tok s
  | .mmv r bar la tok => Sys2Proof.Machine.execMmv r bar la tok s
  | .accdrain r c bar la zero tok => Sys2Proof.Machine.execAccdrain r c bar la zero tok s
  | .accreduce r bar la tok => Sys2Proof.Machine.execAccreduce r bar la tok s
  | .splgrid r bar la tok => Sys2Proof.Machine.execSplgrid r bar la tok s
  | .splload r bar la tok => Sys2Proof.Machine.execSplload r bar la tok s
  | .splmv r bar la dx tok => Sys2Proof.Machine.execSplmv r bar la dx tok s
  | .splgrad r bar la tok => Sys2Proof.Machine.execSplgrad r bar la tok s
  | .splrefine bar la tok => Sys2Proof.Machine.execSplrefine bar la tok s
  | .item r => Sys2Proof.Machine.execItem r s
  | .admitWave r => Sys2Proof.Machine.execAdmitWave r s
  | .iret r => Sys2Proof.Machine.execIret r s
  | .smovl d k => Sys2Proof.Machine.execSmovl d k s
  | .rdv d a cnt off => Sys2Proof.Machine.execRdv d a cnt off s
  | .wrv a b cnt off => Sys2Proof.Machine.execWrv a b cnt off s
  | .barInit a n => Sys2Proof.Machine.execBarInit a n s
  | .barArrive sc a => Sys2Proof.Machine.execBarArrive sc a s
  | .barExpect a b => Sys2Proof.Machine.execBarExpect a b s
  | .barWait sc stat a b => Sys2Proof.Machine.execBarWait sc stat a b s
  | .barTest sc d a b => Sys2Proof.Machine.execBarTest sc d a b s
  | .stgWait stat a b => Sys2Proof.Machine.execStgWait stat a b s
  | .stgDone a b => Sys2Proof.Machine.execStgDone a b s
  | .acquire => Sys2Proof.Machine.execAcquire s
  | .release => Sys2Proof.Machine.execRelease s
  | .accalloc h kind => Sys2Proof.Machine.execAccalloc h kind s
  | .accfree h => Sys2Proof.Machine.execAccfree h s
  | .nodeReg d a b => Sys2Proof.Machine.execNodeReg d a b s
  | .nodeDec a b => Sys2Proof.Machine.execNodeDec a b s
  | .nodeDone => Sys2Proof.Machine.execNodeDone s
  | .tadvise a b cls unsettle cnt => Sys2Proof.Machine.execTadvise a b cls unsettle cnt s
  | .tpin a b layout cnt => Sys2Proof.Machine.execTpin a b layout cnt s
  | .tunpin a b cnt => Sys2Proof.Machine.execTunpin a b cnt s
  | .tquery d a b img => Sys2Proof.Machine.execTquery d a b img s
  | .tdef a => Sys2Proof.Machine.execTdef a s
  | .sfence sc => Sys2Proof.Machine.execSfence sc s
  | .icinv sc a b => Sys2Proof.Machine.execIcinv sc a b s
  | .sys d a b n => Sys2Proof.Machine.execSys d a b n s
  | .stage1Invalidate d a b => Sys2Proof.Machine.execStage1Invalidate d a b s
  | .stage1Root d a b => Sys2Proof.Machine.execStage1Root d a b s
  | .takePageRequest d a b => Sys2Proof.Machine.execTakePageRequest d a b s
  | .reply d a b => Sys2Proof.Machine.execReply d a b s
  | .donateRetileFrames d a b => Sys2Proof.Machine.execDonateRetileFrames d a b s
  | .rti => Sys2Proof.Machine.execRti s
  | .rqget d a b => Sys2Proof.Machine.execRqget d a b s
  | .rqput d a b => Sys2Proof.Machine.execRqput d a b s
  | .sbget d a b => Sys2Proof.Machine.execSbget d a b s
  | .ctxsave d a b => Sys2Proof.Machine.execCtxsave d a b s
  | .ctxrest d a b => Sys2Proof.Machine.execCtxrest d a b s
  | .nodeDecrement fn slot d => Sys2Proof.Machine.execNodeDecrement fn slot d s
  | .registration fn w => Sys2Proof.Machine.execRegistration fn w s
  | .nodeWindowBadAccess fn off => Sys2Proof.Machine.execNodeWindowBadAccess fn off s
  | .hostMemWrite fn addr data => Sys2Proof.Machine.execHostMemWrite fn addr data s
  | .hostMemRead fn addr n => Sys2Proof.Machine.execHostMemRead fn addr n s
  | .hostSnoop addr => Sys2Proof.Machine.execHostSnoop addr s
  | .stage hpa => Sys2Proof.Machine.execStage hpa s
  | .commit => Sys2Proof.Machine.execCommit s
  | .xlinv part gpa count => Sys2Proof.Machine.execXlinv part gpa count s
  | .frames part group list count => Sys2Proof.Machine.execFrames part group list count s
  | .framesTakeBack part group list count => Sys2Proof.Machine.execFramesTakeBack part group list count s
  | .assign part tenant nonce => Sys2Proof.Machine.execAssign part tenant nonce s
  | .token part => Sys2Proof.Machine.execToken part s
  | .cert => Sys2Proof.Machine.execCert s
  | .preq hpa reserved => Sys2Proof.Machine.execPreq hpa reserved s
  | .preply arg reserved => Sys2Proof.Machine.execPreply arg reserved s
  | .preempt part grace => Sys2Proof.Machine.execPreempt part grace s
  | .resume part => Sys2Proof.Machine.execResume part s
  | .ntailWrite w => Sys2Proof.Machine.execNtailWrite w s
  | .nlostClear w => Sys2Proof.Machine.execNlostClear w s
  | .logvalidWrite w => Sys2Proof.Machine.execLogvalidWrite w s
  | .registerWrite off w => Sys2Proof.Machine.execRegisterWrite off w s
  | .groupDispatch die => Sys2Proof.Machine.execGroupDispatch die s
  | .reservation die => Sys2Proof.Machine.execReservation die s
  | .argumentLoadReply core slot => Sys2Proof.Machine.execArgumentLoadReply core slot s
  | .overflowListRead slot => Sys2Proof.Machine.execOverflowListRead slot s
  | .planningInterval => Sys2Proof.Machine.execPlanningInterval s
  | .energyCorrection => Sys2Proof.Machine.execEnergyCorrection s
  | .scrubTokenDelivery part rcb => Sys2Proof.Machine.execScrubTokenDelivery part rcb s
  | .scrubholdTimeout part rcb => Sys2Proof.Machine.execScrubholdTimeout part rcb s
  | .joinTimeout core slot => Sys2Proof.Machine.execJoinTimeout core slot s
  | .yieldWindowEnd core slot lane => Sys2Proof.Machine.execYieldWindowEnd core slot lane s
  | .ssleepWake core slot => Sys2Proof.Machine.execSsleepWake core slot s
  | .acquireGrant core unit => Sys2Proof.Machine.execAcquireGrant core unit s
  | .queueEntryGrant core q => Sys2Proof.Machine.execQueueEntryGrant core q s
  | .laneReply core slot entry lane => Sys2Proof.Machine.execLaneReply core slot entry lane s
  | .fetchReply core slot => Sys2Proof.Machine.execFetchReply core slot s
  | .walkComplete core slot entry lane => Sys2Proof.Machine.execWalkComplete core slot entry lane s
  | .pageRequestEntryGrant fn => Sys2Proof.Machine.execPageRequestEntryGrant fn s
  | .homeSliceRequest core slot entry lane => Sys2Proof.Machine.execHomeSliceRequest core slot entry lane s
  | .hbmReadReply slice => Sys2Proof.Machine.execHbmReadReply slice s
  | .atomicPerform core slot entry lane => Sys2Proof.Machine.execAtomicPerform core slot entry lane s
  | .vaultBankUpdate core => Sys2Proof.Machine.execVaultBankUpdate core s
  | .remoteRequest req => Sys2Proof.Machine.execRemoteRequest req s
  | .promotionRequest slice => Sys2Proof.Machine.execPromotionRequest slice s
  | .promotionReply slice => Sys2Proof.Machine.execPromotionReply slice s
  | .patrol slice addr => Sys2Proof.Machine.execPatrol slice addr s
  | .hbmRecalibration channel => Sys2Proof.Machine.execHbmRecalibration channel s
  | .linkRetrain source => Sys2Proof.Machine.execLinkRetrain source s
  | .monitorReport slice => Sys2Proof.Machine.execMonitorReport slice s
  | .retileStart stack => Sys2Proof.Machine.execRetileStart stack s
  | .retileCopyEnd stack => Sys2Proof.Machine.execRetileCopyEnd stack s
  | .retileDirtyPassEnd stack => Sys2Proof.Machine.execRetileDirtyPassEnd stack s
  | .retilePublish stack => Sys2Proof.Machine.execRetilePublish stack s
  | .retileDirtyCopyDone stack => Sys2Proof.Machine.execRetileDirtyCopyDone stack s
  | .retileRelease stack => Sys2Proof.Machine.execRetileRelease stack s
  | .engineCommandStart core id => Sys2Proof.Machine.execEngineCommandStart core id s
  | .kstepWrite core id => Sys2Proof.Machine.execKstepWrite core id s
  | .engineCommandCompletion core id => Sys2Proof.Machine.execEngineCommandCompletion core id s
  | .graceExpiry part => Sys2Proof.Machine.execGraceExpiry part s
  | .shadowSwapDone part => Sys2Proof.Machine.execShadowSwapDone part s
  | .saveDrainDone part => Sys2Proof.Machine.execSaveDrainDone part s
  | .commitPhase => Sys2Proof.Machine.execCommitPhase s
  | .layoutVersionTick => Sys2Proof.Machine.execLayoutVersionTick s
  | .revocation unit => Sys2Proof.Machine.execRevocation unit s
  | .retirement unit => Sys2Proof.Machine.execRetirement unit s
  | .scrub unit => Sys2Proof.Machine.execScrub unit s
  | .scrubDone unit => Sys2Proof.Machine.execScrubDone unit s
  | .scrubTokenSigned part => Sys2Proof.Machine.execScrubTokenSigned part s
  | .coldBoot => Sys2Proof.Machine.execColdBoot s
  | .warmReset => Sys2Proof.Machine.execWarmReset s
  | .firmwareReload => Sys2Proof.Machine.execFirmwareReload s
  | .refresh sel => Sys2Proof.Machine.execRefresh sel s
  | .ralvanPortLoss port => Sys2Proof.Machine.execRalvanPortLoss port s
  | .regionTeardown part rcb => Sys2Proof.Machine.execRegionTeardown part rcb s
  | .packAccessReply core slot => Sys2Proof.Machine.execPackAccessReply core slot s

end Sys2Proof.Machine
end

