-- ==== Sys2Proof/Machine/Auto.lean ====
section
/-! DEFINITION. What happens next (DESIGN CHOICE, log 4): the order in which the device's own events, packs that leave, and issue slots
take their turns, where the spec states no time for them; and how an instruction is issued from a slot. -/
namespace Sys2Proof.Machine

/-- The device events that come due by themselves: those rows of the opcode table that neither the host nor chance
brings about. -/
inductive Due where
  | joinTimeout (core slot : Nat)
  | ssleepWake (core slot : Nat)
  | yieldWindowEnd (core slot lane : Nat)
  | scrubTokenSigned (part : Nat)
  | revocation (unit : UnitRef)
  | commitPhase
  | graceExpiry (part : Nat)
  | shadowSwapDone (part : Nat)
  | scrubDone (unit : UnitRef)
  | scrub (unit : UnitRef)
  | layoutVersionTick
  | saveDrainDone (part : Nat)
  | planningInterval
  | energyCorrection
  | hbmRecalibration (channel : Nat)
  | vaultBankUpdate (core : Nat)
  | argumentLoadReply (core slot : Nat)
  | fetchReply (core slot : Nat)
  | packAccessReply (core slot : Nat)
  | walkComplete (core slot entry lane : Nat)
  | homeSliceRequest (core slot entry lane : Nat)
  | atomicPerform (core slot entry lane : Nat)
  | hbmReadReply (slice : Nat)
  | laneReply (core slot entry lane : Nat)
  | promotionReply (slice : Nat)
  | promotionRequest (slice : Nat)
  | acquireGrant (core unit : Nat)
  | queueEntryGrant (core : Nat) (q : QueueId)
  | pageRequestEntryGrant (fn : Nat)
  | monitorReport (slice : Nat)
  | retileStart (stack : Nat)
  | retileCopyEnd (stack : Nat)
  | retileDirtyPassEnd (stack : Nat)
  | retilePublish (stack : Nat)
  | retileDirtyCopyDone (stack : Nat)
  | retileRelease (stack : Nat)
  | engineCommandCompletion (core id : Nat)
  | kstepWrite (core id : Nat)
  | engineCommandStart (core id : Nat)
  | scrubTokenDelivery (part : Nat) (rcb : DWord)
  | scrubholdTimeout (part : Nat) (rcb : DWord)
  | overflowListRead (slot : Nat)
  | groupDispatch (die : Nat)
  | reservation (die : Nat)
  deriving DecidableEq, Repr

/-- A due event happens: its own meaning. -/
def Due.run (d : Due) (s : State) : Host.Outcome State Fault Refusal :=
  match d with
  | .joinTimeout core slot => execJoinTimeout core slot s
  | .ssleepWake core slot => execSsleepWake core slot s
  | .yieldWindowEnd core slot lane => execYieldWindowEnd core slot lane s
  | .scrubTokenSigned part => execScrubTokenSigned part s
  | .revocation unit => execRevocation unit s
  | .commitPhase => execCommitPhase s
  | .graceExpiry part => execGraceExpiry part s
  | .shadowSwapDone part => execShadowSwapDone part s
  | .scrubDone unit => execScrubDone unit s
  | .scrub unit => execScrub unit s
  | .layoutVersionTick => execLayoutVersionTick s
  | .saveDrainDone part => execSaveDrainDone part s
  | .planningInterval => execPlanningInterval s
  | .energyCorrection => execEnergyCorrection s
  | .hbmRecalibration channel => execHbmRecalibration channel s
  | .vaultBankUpdate core => execVaultBankUpdate core s
  | .argumentLoadReply core slot => execArgumentLoadReply core slot s
  | .fetchReply core slot => execFetchReply core slot s
  | .packAccessReply core slot => execPackAccessReply core slot s
  | .walkComplete core slot entry lane => execWalkComplete core slot entry lane s
  | .homeSliceRequest core slot entry lane => execHomeSliceRequest core slot entry lane s
  | .atomicPerform core slot entry lane => execAtomicPerform core slot entry lane s
  | .hbmReadReply slice => execHbmReadReply slice s
  | .laneReply core slot entry lane => execLaneReply core slot entry lane s
  | .promotionReply slice => execPromotionReply slice s
  | .promotionRequest slice => execPromotionRequest slice s
  | .acquireGrant core unit => execAcquireGrant core unit s
  | .queueEntryGrant core q => execQueueEntryGrant core q s
  | .pageRequestEntryGrant fn => execPageRequestEntryGrant fn s
  | .monitorReport slice => execMonitorReport slice s
  | .retileStart stack => execRetileStart stack s
  | .retileCopyEnd stack => execRetileCopyEnd stack s
  | .retileDirtyPassEnd stack => execRetileDirtyPassEnd stack s
  | .retilePublish stack => execRetilePublish stack s
  | .retileDirtyCopyDone stack => execRetileDirtyCopyDone stack s
  | .retileRelease stack => execRetileRelease stack s
  | .engineCommandCompletion core id => execEngineCommandCompletion core id s
  | .kstepWrite core id => execKstepWrite core id s
  | .engineCommandStart core id => execEngineCommandStart core id s
  | .scrubTokenDelivery part rcb => execScrubTokenDelivery part rcb s
  | .scrubholdTimeout part rcb => execScrubholdTimeout part rcb s
  | .overflowListRead slot => execOverflowListRead slot s
  | .groupDispatch die => execGroupDispatch die s
  | .reservation die => execReservation die s

/-! Events that are due. Each answers the event, if it would change anything. -/

/-- The first answer of a list of questions. -/
def firstOf {α : Type} (s : State) : List (State → Option α) → Option α
  | [] => none
  | f :: r =>
    match f s with
    | some x => some x
    | none => firstOf s r

def when' (b : Bool) (i : Due) : Option Due := if b then some i else none

/-- The first resident pack for which `f` answers. -/
def State.anyPack (s : State) (f : Nat → Nat → Pack → Option Due) : Option Due :=
  s.residents.findSome? fun (c, sl, p) => f c sl p

/-- Timers: meeting deadlines (R146), sleepers (R281), yield windows (R319). At the TIME of a deadline a last arrival still
wins, so the hold ends after the issue slots of that TIME. -/
def State.dueTimer (s : State) : Option Due :=
  s.anyPack fun c sl p =>
    if s.time ≠ 0 && (p.meetingDue (s.time - 1)).isSome then some (.joinTimeout c sl)
    else match p.wait with
      | .sleep t => when' (t ≤ s.time) (.ssleepWake c sl)
      | _ => ((List.range 32).find? fun l => (p.thread l).yield = 1).map fun l => .yieldWindowEnd c sl l

/-- Whether a unit that was lent is wanted back: a group of the lender fits nowhere else (R163). -/
def State.wantedBack (s : State) : Option UnitRef :=
  let lentOf := fun p => (List.range 20).filter fun k => s.lentCluster p k && (s.part p).map.clm.getLsbD k
  s.sched.nodes.findSome? fun (_, n) =>
    if !n.waiting || (lentOf n.part).isEmpty then none
    else if (List.range Config.cores).any fun c => s.mayPlace n.part c && (s.planOn n c).isSome then none
    else ((lentOf n.part).find? fun k => (List.range 8).any fun i => s.lacking n (8 * k + i) = 0 ||
        s.groups.any fun (_, g) => g.core / 8 = k && g.part ≠ n.part).map .cluster

/-- The commit under way, scrubs and tokens (R164-R174). -/
def State.dueCommit (s : State) : Option Due :=
  match s.mp.commits with
  | [] =>
    match s.mp.tokens with
    | (p, _) :: _ => some (.scrubTokenSigned p)
    | [] => s.wantedBack.map .revocation
  | c :: _ =>
    match c.stage with
    | .waiting => some .commitPhase
    | .prepare d =>
      let ps := List.range 20
      if s.quiesced then some .commitPhase
      else if s.residents.any fun (k, _, _) => s.unitLeaving k then
        when' (d ≤ s.time) (.graceExpiry ((ps.find? fun p => s.residents.any fun (k, _, q) =>
          q.part = p && s.unitLeaving k).getD 0))
      else (ps.find? fun p => s.groups.any fun (_, g) => g.part = p && !g.away && s.unitLeaving g.core).map .shadowSwapDone
    | .cleared =>
      match c.scrubs, c.clearing with
      | u :: _, _ => some (.scrub u)
      | [], u :: _ => some (.scrubDone u)
      | [], [] => when' s.unitsQuiet .commitPhase
    | .ticking t => when' (t ≤ s.time) .layoutVersionTick

/-- Pre-emption of a partition (R195-R197). -/
def State.duePreempt (s : State) : Option Due :=
  s.parts.findSome? fun (n, p) => match p.preempt with
    | .grace d => when' (d ≤ s.time) (.graceExpiry n)
    | .stopped => some (.shadowSwapDone n)
    | .swapped => some (.saveDrainDone n)
    | _ => none

def State.dueClock (s : State) : Option Due :=
  if (s.mp.planning + 1) * 10000 ≤ s.time then some .planningInterval
  else if (s.mp.corrections + 1) * 1000000 ≤ s.time then some .energyCorrection
  else when' (s.recalTime ≤ s.time && s.time ≠ 0 && s.pausedNow.isNone) (.hbmRecalibration (s.home.recals % 256))

/-- Replies to packs and banks. -/
def State.dueReply (s : State) : Option Due :=
  match s.cores.find? fun (_, k) => !k.bank.isEmpty with
  | some (c, _) => some (.vaultBankUpdate c)
  | none => s.anyPack fun c sl p =>
    if s.argDue c sl then some (.argumentLoadReply c sl)
    else if State.fetchLate { s with site := some (c, sl), pk := p } c sl then some (.fetchReply c sl)
    else when' (!p.late.isEmpty) (.packAccessReply c sl)

/-- The next event of an access in flight of a pack. -/
def State.dueEntry (s : State) (c sl : Nat) (p : Pack) : Option Due :=
  let t : State := { s with site := some (c, sl), pk := p }
  p.replay.findSome? fun e =>
    match e.access with
    | none => none
    | some a => (lanesOf e.mask).findSome? fun l =>
      match lanePhase e l with
      | some .walk | some .resent =>
        when' (t.walksNext e a l && !(s.part p.part).halted && s.hasWalker c e.id) (.walkComplete c sl e.id l)
      | some (.ready ps) =>
        if !t.mayPerform e a l ps then none
        else some (if isLoad a || isStore a then .homeSliceRequest c sl e.id l else .atomicPerform c sl e.id l)
      | some (.sent ((pa, _) :: _)) => when' (s.home.arrivals.any (s.answers (s.slice pa))) (.hbmReadReply (s.slice pa))
      | some (.done _) =>
        match s.promotionOf e.id l with
        | none => some (.laneReply c sl e.id l)
        | some x => some (if x.replied then .laneReply c sl e.id l
            else if x.asked then .promotionReply x.slice else .promotionRequest x.slice)
      | _ => none

def State.dueAccess (s : State) : Option Due := s.anyPack fun c sl p => s.dueEntry c sl p

/-- Grants: register blocks (R135), queue entries (R136), page-request entries (R141). -/
def State.dueGrant (s : State) : Option Due :=
  let acq := s.cores.findSome? fun (c, k) => if k.packs.any fun (_, p) => p.wait == .acquire then
      ((List.range 4).find? fun u => (s.grantee c u (s.acquiring c u)).2.isSome).map fun u => Due.acquireGrant c u
    else none
  let queue := s.cores.findSome? fun (c, k) => (k.stalls.findSome? fun (q, sl) => match s.packAt c sl with
    | some p => when' (((k.stalls.find? fun (r, _) => r = q).map (·.2)) = some sl && (p.wait == .queue q || p.entering) &&
        State.granted { s with site := some (c, sl), pk := p } q) (.queueEntryGrant c q)
    | none => none)
  match acq, queue with
  | some i, _ => some i
  | none, some i => some i
  | none, none => (s.overflow.find? fun r => s.pageMayTake r.fn).map fun r => .pageRequestEntryGrant r.fn

/-- Whether a waiting pin re-tile would only be abandoned and queued again as it is (R104, R107): its page is not mapped, or a
commit affects its channel group. -/
def State.stuckPin (s : State) (t : Retile) : Bool :=
  let m := s.retileMonitor t
  t.stage == .waiting && t.why == .pin && (!s.retileMapped t || s.retileLeaving t) && m.pinreq && t.layout = m.pinl

/-- The re-tile engines and the reports (R104, R105). -/
def State.dueRetile (s : State) : Option Due :=
  match s.home.reports with
  | r :: _ => some (.monitorReport r.slice)
  | [] =>
    if s.home.retiles.isEmpty then none
    else (List.range 8).findSome? fun st =>
      match s.retileNow st with
      | none => none
      | some t =>
        if (s.home.retiles.filter fun r => s.stackOfFrame r.oldFrame = st).all s.stuckPin then none
        else match t.stage with
        | .waiting => when' (!s.retileMapped t || s.retileLeaving t || (s.part t.part).pool.any fun f =>
            s.colour f = s.colour t.oldFrame && !(s.part t.part).marked.contains f) (.retileStart st)
        | .copying => some (.retileCopyEnd st)
        | .pass _ => some (.retileDirtyPassEnd st)
        | .scheduled tp => if tp ≤ s.time then some (.retilePublish st) else when' (!t.dirty.isEmpty) (.retileDirtyCopyDone st)
        | .published => some (.retileRelease st)

/-- Engines (R138, R139, R287). -/
def State.dueEngine (s : State) : Option Due :=
  s.cmds.findSome? fun (id, c) =>
    if s.mayComplete c.core id then some (.engineCommandCompletion c.core id)
    else if s.mayFeed c.core id then some (.kstepWrite c.core id)
    else when' (s.mayStart c.core id) (.engineCommandStart c.core id)

/-- Whether a saved group fits on a core again. -/
def State.fitsBack (s : State) (gid : Nat) : Bool :=
  match s.group gid with
  | some g =>
    let cs := if s.packsAway gid then s.coresBack g else [g.core]
    ((if g.away then s else s.swapOut gid).placeSomewhere gid cs).isSome
  | none => false

/-- Whether a walk of a die places a group, or leaves a record of why not. -/
def State.walkMoves (s : State) (die : Nat) : Bool :=
  let (t, placed) := s.walkDie die
  placed || t.parts.any fun (n, p) => p.regions != (s.part n).regions

/-- Whether a die's walk of its own pool places a group. -/
def State.walkOwn (s : State) (die : Nat) : Bool :=
  let (t, l) := s.poolOf die
  (t.walkPool die false l).2

/-- Whether a held region's token may be delivered: it matches, and its buffer takes it (R175). -/
def State.tokenTaken (s : State) (part va : Nat) : Bool :=
  match s.tokenDue part va with
  | (s, some r) => (s.takesWrite agentMp part .root r.tokbuf).2
  | (_, none) => false

/-- Regions that wait for a token (R175). -/
def State.dueToken (s : State) : Option Due :=
  s.parts.findSome? fun (n, p) => p.regions.findSome? fun (va, g) => match g.hold with
    | none => none
    | some t =>
      if s.tokenTaken n va then some (.scrubTokenDelivery n (BitVec.ofNat 64 va))
      else when' (!g.holdLogged && decide (t + 10000000 ≤ s.time) && (s.tokenDue n va).2.isNone) (.scrubholdTimeout n (BitVec.ofNat 64 va))

/-- The scheduler (R22, R131-R133, R197): a die steals when no die can place a group of its own pool. -/
def State.dueSched (s : State) : Option Due :=
  match s.sched.nodes.find? fun (_, n) => n.done && n.listing with
  | some (slot, _) => some (.overflowListRead slot)
  | none =>
    if s.waitingBack.any s.fitsBack || s.waitingRest.any s.fitsBack then some (.groupDispatch 0)
    else if s.sched.nodes.any fun (_, n) => n.waiting then
      if s.walkOwn 0 then some (.groupDispatch 0)
      else if s.walkOwn 1 then some (.groupDispatch 1)
      else if s.walkMoves 0 then some (.groupDispatch 0)
      else if s.walkMoves 1 then some (.groupDispatch 1)
      else [0, 1].findSome? fun d => when' ((tabFind s.sched.reserved d).isNone &&
        (match (s.poolOf d).2 with
          | slot :: _ => (match tabFind s.sched.nodes slot with
            | some n => 10 < n.stuck && (s.reserveTarget d n).isSome
            | none => false)
          | [] => false)) (.reservation d)
    else none

/-- The first event that is due. -/
def State.due (s : State) : Option Due :=
  firstOf s [State.dueTimer, State.dueCommit, State.duePreempt, State.dueClock, State.dueReply, State.dueAccess, State.dueGrant,
    State.dueRetile, State.dueEngine, State.dueToken, State.dueSched]

/-! One step. -/

/-- The time a step takes (DESIGN CHOICE, log 4). -/
def State.clockTick (s : State) : State :=
  { s with time := s.time + s.env.elapse.headD 1, env := { s.env with elapse := s.env.elapse.drop 1 } }

/-- Host actions and device events: what has no instruction word. -/
def isEvent (i : Instr) : Bool := (encode i).isEmpty

/-- The pack whose port B is still to issue in this slot (R144). -/
def State.portBPack (s : State) : Option (Nat × Nat × Pack × BitVec 52) :=
  s.residents.findSome? fun (c, sl, p) => p.portB.map fun b => (c, sl, p, b)

/-- What a step does. -/
inductive Turn where
  | evict (core slot : Nat)
  | event (i : Instr)
  | due (d : Due)
  | portB (core slot : Nat) (pc : BitVec 52)
  | portA (core unit : Nat) (cands : List Cand) (choice : Cand)
  | idle
  deriving DecidableEq, Repr

/-- The turn after everything the environment has lined up. -/
def State.issueTurn (s : State) : Turn :=
  match s.nextSlot s.unitsFrom with
  | some (c, u, cs, k) => .portA c u cs k
  | none => .idle

/-- Packs that leave at a blocking point (R195). -/
def State.evictTurn (s : State) : Option Turn := (s.evictable fun _ _ => false).head?.map fun (c, sl) => .evict c sl

def State.tapeTurn (s : State) : Option Turn := s.env.tape.head?.map .event

def State.portBTurn (s : State) : Option Turn := s.portBPack.map fun (c, sl, _, b) => .portB c sl b

def State.dueTurn (s : State) : Option Turn := if s.env.manual then none else s.due.map .due

/-- Whose turn it is: packs that leave at a blocking point, the tape, a port B still to issue, events that are due, then an
issue slot. -/
def State.turn (s : State) : Turn :=
  (firstOf s [State.evictTurn, State.tapeTurn, State.portBTurn, State.dueTurn]).getD s.issueTurn

/-- All who may have it, in that order. -/
def State.turns (s : State) : List Turn :=
  [s.evictTurn, s.tapeTurn, s.portBTurn, s.dueTurn, some s.issueTurn].filterMap fun t => t

/-! Places that take no request for the time being. -/

/-- Channel groups that change hands in a commit past its prepare phase: until the tick no request goes to them (R168, R169). -/
def State.closingGroups (s : State) : List Nat :=
  match s.commitNow with
  | some c => (match c.stage with | .cleared | .ticking _ => s.leavingGroups | _ => [])
  | none => []

/-- Whether some place takes no request: a channel pauses (R95), or a channel group changes hands. -/
def State.holding (s : State) : Bool := s.pausedNow.isSome || !s.closingGroups.isEmpty

def State.heldPlace (s : State) (pa : Nat) : Bool :=
  s.onPaused pa || (s.paKind pa == .hbm && s.closingGroups.contains (groupOf (s.sel pa)))

/-- Whether what led from `s` to `t` sent a request to such a place: a line of it entered a memory-side cache. -/
def State.sendsHeld (s t : State) : Bool :=
  t.home.lines.any fun x => !s.home.lines.contains x && t.heldPlace (x % 2 ^ 60 * 256)

/-- The threads that issue on port B: those the vote found at its PC (R144), if they still stand there and are ready. -/
def State.portBLanes (s : State) (core slot : Nat) (pc : BitVec 52) : LaneMask :=
  let free := maskOf fun l => hasLane s.pk.lanesB l && !(s.pk.thread l).exited && !(s.pk.thread l).held
  if s.mayIssue s.pk then (s.readyAt core slot free pc).1 else 0

/-- Take the head of the tape off. -/
def State.popTape (s : State) : State := { s with env := { s.env with tape := s.env.tape.drop 1 } }

/-- The latch for port B, and the threads that issue. -/
def State.loadB (s : State) (core slot : Nat) (pc : BitVec 52) : State × LaneMask :=
  let s := s.load core slot
  let m := if s.site.isNone then 0 else s.portBLanes core slot pc
  ({ s with pk := { s.pk with portB := none, lanesB := 0 } }, m)

/-- The latch for port A. -/
def State.loadA (s : State) (core unit : Nat) (cs : List Cand) (k : Cand) : State := (s.takeSlot core unit cs k).load core k.slot

end Sys2Proof.Machine
end

