-- ==== Sys2Proof/Machine/Install.lean ====
section
/-! DEFINITION. A machine in which one given instruction issues next (DESIGN CHOICE, log 1): partition 0 with two stages of page tables
(spec/08_tables.md R154, R155, R160) that map two pages, and one pack of 32 threads on core 0 whose PC is the start of the
second page. -/
namespace Sys2Proof.Machine

def entryBytes (a e : Nat) : Tab Byte := spread a (bytesOfNat 8 e)

def putAll (m : List Host.Cell) (bs : Tab Byte) : List Host.Cell := bs.foldl (fun m (a, b) => setByte m a b) m

/-- Table entries and leaves with frames from `f` up: stage 2 in frames 1 to 3, stage 1 in 4 to 6, pages in 7 and 8. -/
def tablesFrom (f : Nat) : Tab Byte :=
  let at' := fun k => (f + k) * 65536
  entryBytes (at' 1) (at' 2 + 1) ++ entryBytes (at' 2) (at' 3 + 1) ++
    ((List.range 5).flatMap fun k => entryBytes (at' 3 + 8 * (4 + k)) (at' (4 + k) + 15)) ++
    entryBytes (at' 4) (5 * 65536 + 1) ++ entryBytes (at' 5) (6 * 65536 + 1) ++
    entryBytes (at' 6) (7 * 65536 + 15) ++ entryBytes (at' 6 + 8) (8 * 65536 + 15)

/-- A role that may issue the instruction (R14). -/
def roleFor (i : Instr) : Role := ([Role.gen, .cpy, .mtx, .epi].find? (roleAllows i)).getD .gen

/-- The PC of the instruction: the second page. -/
def installPc : BitVec 52 := 0x10000

def installPack (gid : Nat) (i : Instr) : Pack :=
  { group := gid, role := roleFor i, threads := List.replicate 32 { pc := installPc }, fullBlocks := 16, pro := 16
    sb := if privAllows i .root 0 then [] else [⟨[], []⟩] }

def installRecord (f : Nat) : PartRec :=
  { clg := 0xFFFFF, cgg := 0xFFFFFFFF, s2root := BitVec.ofNat 64 ((f + 1) * 65536), s1root := 4 * 65536, tenant := 1, ctl := 0x21 }

def installGroup : Group :=
  { part := 0, slot := 0, index := 0, core := 0, rcb := 0, arg := 0, vbase := 0, vbytes := 65536, acc := 48, root := true
    est := 0, placed := 0 }

/-- The machine with the instruction's bytes in memory and its pack resident. -/
def State.install (s : State) (i : Instr) (code : List Byte) : State :=
  let f := s.mp.nodeId * 2 ^ 25
  let gid := s.env.fresh
  { s with
    env := { s.env with tape := [], manual := true, defer := false, elapse := [], turn := 0, fresh := gid + 1 }
    site := none
    mem := putAll (putAll s.mem (tablesFrom f)) (spread ((f + 8) * 65536) code)
    home := {}
    cores := [(0, { packs := [(0, installPack gid i)] })]
    clusterTlb := [], s1u := [], s2u := []
    groups := [(gid, installGroup)]
    parts := [(0, { map := installRecord f })]
    mp := { s.mp with commits := [] } }

end Sys2Proof.Machine
end

