-- ==== Sys2Proof/Machine/Step.lean ====
section
/-! DEFINITION. One step of the machine: time passes, then whoever has the turn acts (Machine/Auto.lean). -/
namespace Sys2Proof.Machine

/-- Threads `m` of the pack in the latch issue what stands at `pc`. -/
def runAt (core slot : Nat) (m : LaneMask) (pc : BitVec 52) (s : State) : Host.Outcome State Fault Refusal :=
  match s.begin core slot m pc with
  | (t, .run i) =>
    match exec i t with
    | .next u => .next (u.finish core slot i pc m)
    | o => o
  | (t, .stop) => .next (if t.site.isSome && !t.stalled pc m then State.unload { t with pk := t.pk.issued m } else t.unload)

/-- What the turn does. -/
def act (t : Turn) (s : State) : Host.Outcome State Fault Refusal :=
  match t with
  | .evict c sl => .next (s.evict c sl)
  | .event i =>
    if isEvent i then exec i s.popTape else .next s.popTape
  | .due d => d.run s
  | .portB c sl pc =>
    match s.loadB c sl pc with
    | (t, m) => if m = 0 then .next t.unload else runAt c sl m pc t
  | .portA c u cs k => runAt c k.slot k.vote.lanesA k.vote.pcA (s.loadA c u cs k)
  | .idle => .next s

/-- The first turn whose requests are taken acts; the others wait (R95, R168, R169). Without one only time passes. -/
def actFirst (s : State) : List Turn → Host.Outcome State Fault Refusal
  | [] => .next s
  | t :: rest =>
    match act t s with
    | .next u => if s.sendsHeld u then actFirst s rest else .next u
    | o => o

/-- One step. -/
def step (s : State) : Host.Outcome State Fault Refusal :=
  let s := s.unload.clockTick
  if s.holding then actFirst s s.turns else act s.turn s

/-- The machine whose next step runs the instruction with these bits (DESIGN CHOICE, log 1): word 0, then word 1, little-endian. -/
def State.withFetchWord (s : State) (nbits w : Nat) : State :=
  let code := bytesOfNat 4 (w % 2 ^ 32) ++ bytesOfNat 4 (w / 2 ^ 32)
  s.install ((decodeTableWord nbits w).getD .nop) code

end Sys2Proof.Machine
end

