-- ==== Sys2Proof/Safety.lean ====
section
/-! DEFINITION. What counts as a safe run, and the terms claims are stated in: when an instruction issues, and what stays
as it was. -/
namespace Sys2Proof.Machine

/-- A step that goes on. -/
def Completes (s : State) : Prop := ∃ t, step s = .next t

/-- No register of the pack holds a completion code that is still to be read first (R119), no word of its registers has an error
(R96), and no instruction of the function unit is still to complete (R210). -/
def Pack.sound (p : Pack) : Bool := p.tokens.isEmpty && p.soft.isEmpty && p.bad.isEmpty && p.windows.all (!·.retires)

/-- Instruction `i` issues: a pack stands in the latch, the checks of R211 and the scoreboard (R207) let it go, and reading its
registers does nothing besides. -/
def Ready (i : Instr) (s : State) : Prop := s.site.isSome = true ∧ s.check i = .ok ∧ s.pk.sound = true

/-- State `t` is `s` but for the issuing pack (and the model's own counter of fresh numbers). -/
def OnlyPack (s t : State) : Prop := t = { s with pk := t.pk, env := { s.env with fresh := t.env.fresh } }

/-- Pack `q` is `p` but for its threads and the scoreboard: lookahead windows (R210), pending marks (R207) and meeting
records (R146). -/
def OnlyThreads (p q : Pack) : Prop :=
  q = { p with threads := q.threads, windows := q.windows, pend := q.pend, meets := q.meets } ∧
    q.threads.length = p.threads.length

/-- Thread `b` is `a`, but that a meeting may have released it: V of MEET is then 0 (R34, R146). -/
def SameButMeet (a b : Thread) : Prop := b = a ∨ b = a.clearMeet

/-- The pack still runs: it is in its slot, at the same side-buffer depth, and its partition is not halted. -/
def StillRuns (s t : State) : Prop := sameRun s t = true

end Sys2Proof.Machine
end

