-- ==== Sys2Proof/Certificates/Slice0/Terms.lean ====
section
/-! DEFINITION. The terms the statements are written in: what the rules of spec/ give each instruction, as tables from
instructions to effects, written from the rules' own formulas. -/
namespace Sys2Proof.Claims

open Sys2Proof.Machine

/-! Effects of lane instructions (R219). -/

/-- What an instruction does to one active thread: the v registers and predicates it writes, how many inputs of SRSEQ it
takes (R35), the PC it goes to when that is not the next instruction, and MEET, JMASK and the yield mark where it writes
them. -/
structure LaneEffect where
  regs : List (Nat × Word) := []
  preds : List (Nat × Bool) := []
  taken : Word := 0
  goes : Option (BitVec 52) := none
  meet : Option DWord := none
  jmask : Option LaneMask := none
  yield : Option Nat := none

/-- Thread `a` after the effect, at the end of an instruction of `n` bytes; its registers and predicates are `b`'s. -/
def LaneEffect.leaves (e : LaneEffect) (n : Nat) (a b : Thread) : Thread :=
  { a with
    v := b.v
    p := b.p
    pc := e.goes.getD (a.pc + BitVec.ofNat 52 n)
    srseq := a.srseq + e.taken
    meet := e.meet.getD a.meet
    jmask := e.jmask.getD a.jmask
    yield := e.yield.getD a.yield }

/-- One v register. -/
def put (d : VReg) (x : Word) : LaneEffect := { regs := [(d.toNat, x)] }

/-- An even:odd pair, low word first (R56). -/
def put64 (d : VReg) (x : DWord) : LaneEffect :=
  { regs := [(d.toNat, x.extractLsb' 0 32), (d.toNat + 1, x.extractLsb' 32 32)] }

/-- One predicate, written when its number is below 7. -/
def putPred (p : BitVec 3) (b : Bool) : LaneEffect := { preds := [(p.toNat, b)] }

/-- The guard of an unguarded form. -/
def unguarded : Guard := ⟨7, false⟩

/-- Between packs `p` and `q` a lane instruction of `n` bytes, issued by the threads `act`, has run: each active thread,
whose guard holds, has the effect `eff`; each other issuing thread only moves on by `n` bytes; every other register and
predicate, every other thread and every other field of the pack is as before, but for the scoreboard, V of a MEET that a
meeting releases, and FSTAT, which gains `fl`. -/
def LanesDone (n : Nat) (g : Guard) (eff : Nat → Thread → LaneEffect) (fl : Word) (act : LaneMask) (p q : Pack) : Prop :=
  OnlyThreads { p with fstat := p.fstat ||| fl } q ∧
    ∀ l, l < p.threads.length →
      let a := p.thread l
      let b := q.thread l
      let on := hasLane act l && a.guarded g
      SameButMeet (if on then (eff l a).leaves n a b
        else if hasLane act l then { a with pc := a.pc + BitVec.ofNat 52 n } else a) b ∧
        (∀ r, b.r r = if on then ((eff l a).regs.lookup r).getD (a.r r) else a.r r) ∧
        ∀ k, k < 7 → b.p.getLsbD k = if on then ((eff l a).preds.lookup k).getD (a.p.getLsbD k) else a.p.getLsbD k

/-- Between `s` and `t` a lane instruction has run (`LanesDone`), and everything outside the pack is as before. -/
def LaneDone (n : Nat) (g : Guard) (eff : Nat → Thread → LaneEffect) (fl : Word) (s t : State) : Prop :=
  OnlyPack s t ∧ LanesDone n g eff fl s.act s.pk t.pk

/-- Bytes of an instruction. -/
def bytesOf (i : Instr) : Nat := 4 * i.words

/-! Integer forms (R221, R222, R226, R227). -/

/-- Wrap(32, x). -/
def wrap32 (x : Int) : Word := BitVec.ofInt 32 x

/-- Sat32(x), signed. -/
def clamp32 (x : Int) : Word := wrap32 (if x < -2 ^ 31 then -2 ^ 31 else if 2 ^ 31 - 1 < x then 2 ^ 31 - 1 else x)

/-- Number of leading zeros. -/
def leadingZeros (x : Word) : Nat := ((List.range 32).takeWhile fun k => !x.getLsbD (31 - k)).length

/-- Index of the lowest set bit, 32 when there is none. -/
def lowestSet (x : Word) : Nat := ((List.range 32).find? fun k => x.getLsbD k).getD 32

/-- Number of set bits. -/
def setBits (x : Word) : Nat := (List.range 32).countP fun k => x.getLsbD k

/-- vd of the two-operand integer forms, from operand a and register vb (R221). -/
def intBinary : Instr → Option (VReg × Src × VReg × (Word → Word → Word))
  | .addI32 d a b => some (d, a, b, fun x y => wrap32 (x.toInt + y.toInt))
  | .addI32Sat d a b => some (d, a, b, fun x y => clamp32 (x.toInt + y.toInt))
  | .subI32 d a b => some (d, a, b, fun x y => wrap32 (x.toInt - y.toInt))
  | .subI32Sat d a b => some (d, a, b, fun x y => clamp32 (x.toInt - y.toInt))
  | .mulI32 d a b => some (d, a, b, fun x y => wrap32 (x.toInt * y.toInt))
  | .mulhiI32 d a b => some (d, a, b, fun x y => (x.signExtend 64 * y.signExtend 64).extractLsb' 32 32)
  | .mulhiN32 d a b => some (d, a, b, fun x y => (x.zeroExtend 64 * y.zeroExtend 64).extractLsb' 32 32)
  | .minI32 d a b => some (d, a, b, fun x y => if x.toInt ≤ y.toInt then x else y)
  | .maxI32 d a b => some (d, a, b, fun x y => if x.toInt ≤ y.toInt then y else x)
  | .minN32 d a b => some (d, a, b, fun x y => if x.toNat ≤ y.toNat then x else y)
  | .maxN32 d a b => some (d, a, b, fun x y => if x.toNat ≤ y.toNat then y else x)
  | .andB32 d a b => some (d, a, b, fun x y => x &&& y)
  | .orB32 d a b => some (d, a, b, fun x y => x ||| y)
  | .xorB32 d a b => some (d, a, b, fun x y => x ^^^ y)
  | .andnB32 d a b => some (d, a, b, fun x y => x &&& ~~~y)
  | .shlB32 d a b => some (d, a, b, fun x y => BitVec.ofNat 32 (x.toNat * 2 ^ (y.toNat % 32)))
  | .shrN32 d a b => some (d, a, b, fun x y => BitVec.ofNat 32 (x.toNat / 2 ^ (y.toNat % 32)))
  | .shrI32 d a b => some (d, a, b, fun x y => wrap32 (x.toInt / 2 ^ (y.toNat % 32)))
  | .rotB32 d a b => some (d, a, b, fun x y => (x <<< (y.toNat % 32)) ||| (x >>> (32 - y.toNat % 32)))
  | _ => none

/-- vd of the one-operand integer forms (R221). -/
def intUnary : Instr → Option (VReg × Src × (Word → Word))
  | .popcB32 d a => some (d, a, fun x => BitVec.ofNat 32 (setBits x))
  | .clzB32 d a => some (d, a, fun x => BitVec.ofNat 32 (leadingZeros x))
  | .brevB32 d a => some (d, a, fun x => x.reverse)
  | .lsbB32 d a => some (d, a, fun x => BitVec.ofNat 32 (lowestSet x))
  | .movB32 d a => some (d, a, fun x => x)
  | _ => none

/-- vd of the immediate forms, from register va (R222). -/
def intImmediate : Instr → Option (VReg × VReg × (Word → Word))
  | .addiI32 d a i => some (d, a, fun x => wrap32 (x.toInt + i.toInt))
  | .muliI32 d a i => some (d, a, fun x => wrap32 (x.toInt * i.toInt))
  | .andiB32 d a i => some (d, a, fun x => x &&& i.signExtend 32)
  | .oriB32 d a i => some (d, a, fun x => x ||| i.signExtend 32)
  | .xoriB32 d a i => some (d, a, fun x => x ^^^ i.signExtend 32)
  | .shliB32 d a i => some (d, a, fun x => BitVec.ofNat 32 (x.toNat * 2 ^ i.toNat))
  | .shriN32 d a i => some (d, a, fun x => BitVec.ofNat 32 (x.toNat / 2 ^ i.toNat))
  | .shriI32 d a i => some (d, a, fun x => wrap32 (x.toInt / 2 ^ i.toNat))
  | .moviB32 d i => some (d, 0, fun _ => wrap32 i.toInt)
  | _ => none

/-- Bits of the field of `len` bits at `pos`, those above bit 31 as `above` says (R227). -/
def fieldBits (x : Word) (pos len : Nat) (above : Bool) : Nat → Bool :=
  fun k => decide (k < len) && (if pos + k < 32 then x.getLsbD (pos + k) else above)

/-- What the guarded integer forms write (R226, R227). -/
def intWide : Instr → Option (Guard × (Thread → LaneEffect))
  | .madI32 g d a b c => some (g, fun t => put d (wrap32 ((t.r a.toNat).toInt * (t.r b.toNat).toInt + (t.r c.toNat).toInt)))
  | .madwI32 g d a b c => some (g, fun t => put64 d ((t.r a.toNat).signExtend 64 * (t.r b.toNat).signExtend 64 + t.r64 c.toNat))
  | .madwN32 g d a b c => some (g, fun t => put64 d ((t.r a.toNat).zeroExtend 64 * (t.r b.toNat).zeroExtend 64 + t.r64 c.toNat))
  | .addI64 g d a b => some (g, fun t => put64 d (t.r64 a.toNat + t.r64 b.toNat))
  | .subI64 g d a b => some (g, fun t => put64 d (t.r64 a.toNat - t.r64 b.toNat))
  | .addcN32 g d a b ci co => some (g, fun t =>
      let sum := (t.r a.toNat).toNat + (t.r b.toNat).toNat + (if ci ≠ 7 ∧ t.p.getLsbD ci.toNat then 1 else 0)
      { regs := [(d.toNat, BitVec.ofNat 32 (sum % 2 ^ 32))], preds := if co = 7 then [] else [(co.toNat, decide (sum / 2 ^ 32 = 1))] })
  | .bfxI32 g d a pos len => some (g, fun t =>
      let x := t.r a.toNat
      let f := fieldBits x pos.toNat len.toNat (x.getLsbD 31)
      put d (maskOf fun k => if k < len.toNat then f k else len.toNat ≠ 0 && f (len.toNat - 1)))
  | .bfxN32 g d a pos len => some (g, fun t => put d (maskOf (fieldBits (t.r a.toNat) pos.toNat len.toNat false)))
  | .bfiB32 g d a b pos len => some (g, fun t => put d (maskOf fun k =>
      if pos.toNat ≤ k ∧ k < pos.toNat + len.toNat then (t.r b.toNat).getLsbD (k - pos.toNat) else (t.r a.toNat).getLsbD k))
  | .bitfnB32 g d a b c fn => some (g, fun t => put d (maskOf fun k => fn.getLsbD
      (((t.r a.toNat).getLsbD k).toNat + 2 * ((t.r b.toNat).getLsbD k).toNat + 4 * ((t.r c.toNat).getLsbD k).toNat)))
  | .cselB32 g d a b p neg => some (g, fun t => put d (if t.pred p = !neg then t.r a.toNat else t.r b.toNat))
  | _ => none

/-! Packed, byte and lane-to-lane forms (R223-R225), comparisons, predicates and votes (R228-R230). -/

/-- Element `k` of `w` bits, read as a signed number. -/
def elem (w : Nat) (x : Word) (k : Nat) : Int := (x.extractLsb' (w * k) w).toInt

/-- Element `k` of `w` bits, read as an unsigned number. -/
def elemN (w : Nat) (x : Word) (k : Nat) : Nat := (x.extractLsb' (w * k) w).toNat

/-- The word of two 16-bit elements. -/
def word2 (f : Nat → BitVec 16) : Word := f 1 ++ f 0

/-- The word of four bytes. -/
def word4 (f : Nat → BitVec 8) : Word := (f 3 ++ f 2) ++ (f 1 ++ f 0)

/-- Sat16(x), signed. -/
def clamp16 (x : Int) : BitVec 16 :=
  BitVec.ofInt 16 (if x < -2 ^ 15 then -2 ^ 15 else if 2 ^ 15 - 1 < x then 2 ^ 15 - 1 else x)

/-- vd of the packed and byte forms, from operand a, register vb and the thread (R223, R224). -/
def packedForm : Instr → Option (VReg × Src × VReg × (Thread → Word → Word → Word))
  | .addX2I16 d a b => some (d, a, b, fun _ x y => word2 fun k => BitVec.ofInt 16 (elem 16 x k + elem 16 y k))
  | .addX2I16Sat d a b => some (d, a, b, fun _ x y => word2 fun k => clamp16 (elem 16 x k + elem 16 y k))
  | .subX2I16 d a b => some (d, a, b, fun _ x y => word2 fun k => BitVec.ofInt 16 (elem 16 x k - elem 16 y k))
  | .subX2I16Sat d a b => some (d, a, b, fun _ x y => word2 fun k => clamp16 (elem 16 x k - elem 16 y k))
  | .minX2I16 d a b => some (d, a, b, fun _ x y => word2 fun k => BitVec.ofInt 16 (min (elem 16 x k) (elem 16 y k)))
  | .maxX2I16 d a b => some (d, a, b, fun _ x y => word2 fun k => BitVec.ofInt 16 (max (elem 16 x k) (elem 16 y k)))
  | .dot4I8 d a b => some (d, a, b, fun t x y => wrap32 ((t.r d.toNat).toInt + elem 8 x 0 * elem 8 y 0 +
      elem 8 x 1 * elem 8 y 1 + elem 8 x 2 * elem 8 y 2 + elem 8 x 3 * elem 8 y 3))
  | .dot4N8 d a b => some (d, a, b, fun t x y => BitVec.ofNat 32 ((t.r d.toNat).toNat + elemN 8 x 0 * elemN 8 y 0 +
      elemN 8 x 1 * elemN 8 y 1 + elemN 8 x 2 * elemN 8 y 2 + elemN 8 x 3 * elemN 8 y 3))
  | .permB8 d a b => some (d, a, b, fun t x _ => word4 fun k =>
      if x.getLsbD (8 * k + 7) then 0 else (t.r64 b.toNat).extractLsb' (8 * (elemN 8 x k % 8)) 8)
  | _ => none

/-- Source lane of a pull at lane `l` with selector `x` (R225). -/
def pullFrom : Instr → Option (VReg × Src × VReg × (Nat → Word → Option Nat))
  | .pullIdx d a b => some (d, a, b, fun _ x => some (x.toNat % 32))
  | .pullXor d a b => some (d, a, b, fun l x => some (l ^^^ (x.toNat % 32)))
  | .pullBack d a b => some (d, a, b, fun l x => if l < x.toNat then none else some (l - x.toNat))
  | .pullFwd d a b => some (d, a, b, fun l x => if 31 < l + x.toNat then none else some (l + x.toNat))
  | _ => none

/-- What a pull brings to a thread: register `b` of the source thread when it issues with it, else the thread's own. -/
def pulled (s : State) (t : Thread) (b : VReg) : Option Nat → Word
  | some j => if hasLane s.act j then (s.pk.thread j).r b.toNat else t.r b.toNat
  | none => t.r b.toNat

/-- A relation by its condition (R228). -/
def holds (c : IntCond) (x y : Int) : Bool :=
  match c with
  | .eq => decide (x = y)
  | .ne => decide (x ≠ y)
  | .lt => decide (x < y)
  | .le => decide (x ≤ y)
  | .gt => decide (y < x)
  | .ge => decide (y ≤ x)

/-- The predicate that the integer comparisons and pset write (R228, R229). -/
def predForm : Instr → Option (Guard × BitVec 3 × (Thread → Bool))
  | .cmpI32 g pd a b c => some (g, pd, fun t => holds c (t.r a.toNat).toInt (t.r b.toNat).toInt)
  | .cmpN32 g pd a b c => some (g, pd, fun t => holds c (t.r a.toNat).toNat (t.r b.toNat).toNat)
  | .cmpI64 g pd a b c => some (g, pd, fun t => holds c (t.r64 a.toNat).toInt (t.r64 b.toNat).toInt)
  | .pset g pd pa pb tbl => some (g, pd, fun t => tbl.getLsbD (2 * (t.pred pa).toNat + (t.pred pb).toNat))
  | _ => none

/-- What a vote writes (R230): `on` are the active threads, `src` the source predicate of each. -/
def voteEffect (mode : BitVec 2) (d : VReg) (pd : BitVec 3) (on src : Nat → Bool) : LaneEffect :=
  let act := (List.range 32).filter on
  if mode = 0 then put d (maskOf fun l => on l && src l)
  else if mode = 1 then putPred pd (act.any src)
  else if mode = 2 then putPred pd (act.all src)
  else putPred pd (act.all src || act.all fun l => !src l)

/-! Float forms (R228, R231-R242). The arithmetic is that of the model's float operations, each defined from the exact
value and one rounding (R61). -/

/-- Result of a 32-bit form, with its flags. -/
def put32f (d : VReg) (r : Flagged) : LaneEffect × Word := (put d (BitVec.ofNat 32 r.1), r.2)

/-- Result of a 64-bit form, with its flags. -/
def put64f (d : VReg) (r : Flagged) : LaneEffect × Word := (put64 d (BitVec.ofNat 64 r.1), r.2)

/-- Result of a packed form, both elements' flags ORed (R233). -/
def put2f (d : VReg) (f : Nat → Flagged) : LaneEffect × Word :=
  (put d (word2 fun k => BitVec.ofNat 16 (f k).1), (f 0).2 ||| (f 1).2)

/-- Element `k` of 16 bits of a word, as a bit pattern. -/
def half16 (x : Word) (k : Nat) : Nat := (x.extractLsb' (16 * k) 16).toNat

/-- The LA float forms (R231-R233): what an active thread writes, and the flags it raises. -/
def floatForm : Instr → Option (State → Thread → LaneEffect × Word)
  | .faddF32 d a b x => some fun s t => put32f d (fadd fp32 s.pk.mode (negBits fp32 x (s.srcF32 t a)) (t.r b.toNat).toNat)
  | .fsubF32 d a b x => some fun s t => put32f d (fsub fp32 s.pk.mode (negBits fp32 x (s.srcF32 t a)) (t.r b.toNat).toNat)
  | .fmulF32 d a b x => some fun s t => put32f d (fmul fp32 s.pk.mode (negBits fp32 x (s.srcF32 t a)) (t.r b.toNat).toNat)
  | .fminF32 d a b x => some fun s t =>
    put32f d (fminmax fp32 s.pk.mode false (negBits fp32 x (s.srcF32 t a)) (t.r b.toNat).toNat)
  | .fmaxF32 d a b x => some fun s t =>
    put32f d (fminmax fp32 s.pk.mode true (negBits fp32 x (s.srcF32 t a)) (t.r b.toNat).toNat)
  | .fmacF32 d a b x => some fun s t =>
    put32f d (fmac fp32 s.pk.mode (negBits fp32 x (s.srcF32 t a)) (t.r b.toNat).toNat (t.r d.toNat).toNat)
  | .faddF64 d a b x => some fun s t => put64f d (fadd fp64 s.pk.mode (negBits fp64 x (s.srcF64 t a)) (t.r64 b.toNat).toNat)
  | .fsubF64 d a b x => some fun s t => put64f d (fsub fp64 s.pk.mode (negBits fp64 x (s.srcF64 t a)) (t.r64 b.toNat).toNat)
  | .fmulF64 d a b x => some fun s t => put64f d (fmul fp64 s.pk.mode (negBits fp64 x (s.srcF64 t a)) (t.r64 b.toNat).toNat)
  | .fminF64 d a b x => some fun s t =>
    put64f d (fminmax fp64 s.pk.mode false (negBits fp64 x (s.srcF64 t a)) (t.r64 b.toNat).toNat)
  | .fmaxF64 d a b x => some fun s t =>
    put64f d (fminmax fp64 s.pk.mode true (negBits fp64 x (s.srcF64 t a)) (t.r64 b.toNat).toNat)
  | .fmacF64 d a b x => some fun s t =>
    put64f d (fmac fp64 s.pk.mode (negBits fp64 x (s.srcF64 t a)) (t.r64 b.toNat).toNat (t.r64 d.toNat).toNat)
  | .faddX2Bf16 d a b x => some fun s t => put2f d fun k =>
    fadd bf16 s.pk.mode (negBits bf16 x (half16 (s.srcX2 bf16 t a) k)) (half16 (t.r b.toNat) k)
  | .fmulX2Bf16 d a b x => some fun s t => put2f d fun k =>
    fmul bf16 s.pk.mode (negBits bf16 x (half16 (s.srcX2 bf16 t a) k)) (half16 (t.r b.toNat) k)
  | .fmacX2Bf16 d a b x => some fun s t => put2f d fun k =>
    fmac bf16 s.pk.mode (negBits bf16 x (half16 (s.srcX2 bf16 t a) k)) (half16 (t.r b.toNat) k) (half16 (t.r d.toNat) k)
  | .faddX2F16 d a b x => some fun s t => put2f d fun k =>
    fadd fp16 s.pk.mode (negBits fp16 x (half16 (s.srcX2 fp16 t a) k)) (half16 (t.r b.toNat) k)
  | .fmulX2F16 d a b x => some fun s t => put2f d fun k =>
    fmul fp16 s.pk.mode (negBits fp16 x (half16 (s.srcX2 fp16 t a) k)) (half16 (t.r b.toNat) k)
  | .fmacX2F16 d a b x => some fun s t => put2f d fun k =>
    fmac fp16 s.pk.mode (negBits fp16 x (half16 (s.srcX2 fp16 t a) k)) (half16 (t.r b.toNat) k) (half16 (t.r d.toNat) k)
  | .dot2Bf16 d a b x => some fun s t => put32f d
    (dot2 s.pk.mode (if x then s.srcX2 bf16 t a ^^^ 0x80008000 else s.srcX2 bf16 t a) (t.r b.toNat) (t.r d.toNat))
  | _ => none

/-- The guarded float forms: comparisons (R228), fused forms (R234), the function unit (R235-R237), classification,
conversions and blocks (R238-R242). `on` are the active threads. -/
def guardedFloat : Instr → Option (Guard × (State → LaneMask → Nat → Thread → LaneEffect × Word))
  | .fcmpF32 g pd a b c => some (g, fun s _ _ t =>
      let r := fcmp fp32 s.pk.mode c (t.r a.toNat).toNat (t.r b.toNat).toNat
      (putPred pd r.1, r.2))
  | .fcmpF64 g pd a b c => some (g, fun s _ _ t =>
      let r := fcmp fp64 s.pk.mode c (t.r64 a.toNat).toNat (t.r64 b.toNat).toNat
      (putPred pd r.1, r.2))
  | .ffmaF32 g d a b c np nc => some (g, fun s _ _ t =>
      put32f d (ffma fp32 s.pk.mode np nc (t.r a.toNat).toNat (t.r b.toNat).toNat (t.r c.toNat).toNat))
  | .ffmaF64 g d a b c np nc => some (g, fun s _ _ t =>
      put64f d (ffma fp64 s.pk.mode np nc (t.r64 a.toNat).toNat (t.r64 b.toNat).toNat (t.r64 c.toNat).toNat))
  | .ffmaX2Bf16 g d a b c np nc => some (g, fun s _ _ t => put2f d fun k =>
      ffma bf16 s.pk.mode np nc (half16 (t.r a.toNat) k) (half16 (t.r b.toNat) k) (half16 (t.r c.toNat) k))
  | .frcpF32 g d a _ => some (g, fun s _ _ t => put32f d (approx .rcp s.pk.mode (t.r a.toNat)))
  | .frsqF32 g d a _ => some (g, fun s _ _ t => put32f d (approx .rsq s.pk.mode (t.r a.toNat)))
  | .fexp2F32 g d a _ => some (g, fun s _ _ t => put32f d (approx .exp2 s.pk.mode (t.r a.toNat)))
  | .flog2F32 g d a _ => some (g, fun s _ _ t => put32f d (approx .log2 s.pk.mode (t.r a.toNat)))
  | .fsinpF32 g d a _ => some (g, fun s _ _ t => put32f d (approx .sinp s.pk.mode (t.r a.toNat)))
  | .fcospF32 g d a _ => some (g, fun s _ _ t => put32f d (approx .cosp s.pk.mode (t.r a.toNat)))
  | .fsqrtF32 g d a _ => some (g, fun s _ _ t => put32f d (fsqrt fp32 s.pk.mode (t.r a.toNat).toNat))
  | .fsqrtF64 g d a _ => some (g, fun s _ _ t => put64f d (fsqrt fp64 s.pk.mode (t.r64 a.toNat).toNat))
  | .fdivF32 g d a b _ => some (g, fun s _ _ t => put32f d (fdiv fp32 s.pk.mode (t.r a.toNat).toNat (t.r b.toNat).toNat))
  | .fdivF64 g d a b _ => some (g, fun s _ _ t => put64f d (fdiv fp64 s.pk.mode (t.r64 a.toNat).toNat (t.r64 b.toNat).toNat))
  | .frndF32 g d a _ r x => some (g, fun s _ _ t => put32f d (frnd fp32 s.pk.mode r x (t.r a.toNat).toNat))
  | .frndF64 g d a _ r x => some (g, fun s _ _ t => put64f d (frnd fp64 s.pk.mode r x (t.r64 a.toNat).toNat))
  | .fclass g d a ty => some (g, fun _ _ _ t => (put d (
      if ty = 0 then fclassMask fp32 (t.r a.toNat).toNat
      else if ty = 1 then fclassMask fp64 (t.r64 a.toNat).toNat
      else if ty = 2 then fclassMask bf16 (half16 (t.r a.toNat) 0)
      else fclassMask fp16 (half16 (t.r a.toNat) 0)), 0))
  | .cvt g d a sl dl rnd src dst => some (g, fun s _ l t =>
      let r := cvtElem s.pk.mode (srBits s.pk.seed (s.tglobal l) t.srseq) rnd src dst (cvtSourceBits t a.toNat sl.toNat src)
      let w := tyWidth dst
      ({ (if w = 64 then put64 d (BitVec.ofNat 64 r.1)
          else if w = 32 then put d (BitVec.ofNat 32 r.1)
          else put d (maskOf fun k => if w * dl.toNat ≤ k ∧ k < w * dl.toNat + w then (BitVec.ofNat 32 r.1).getLsbD (k - w * dl.toNat)
            else (t.r d.toNat).getLsbD k)) with
          taken := if usesSr s.pk.mode rnd src dst then 1 else 0 }, r.2))
  | .qblkF4x g d a => some (g, fun s on l _ =>
      let r := f4xEncode ((List.range 32).map fun k =>
        if hasLane on k then fp32.decode ((s.pk.thread k).r a.toNat).toNat else .fin false 0 0)
      (put d (word4 fun k => BitVec.ofNat 8 (if k = 0 then r.1.byte (l % 16) else if k = 1 then r.1.scale
        else if k = 2 then r.1.spare else r.1.codes.getD l 0)), r.2))
  | .dqblkF4x g d a b hi => some (g, fun s _ _ t =>
      let x := (t.r a.toNat).toNat
      let y := (t.r b.toNat).toNat
      let v := f4xDecode (if hi then x / 16 % 16 else x % 16) (y % 256) (y / 256 % 256)
      let r := fp32.round (Rnd.ofMode s.pk.mode) (flushFor fp32 s.pk.mode) v.1
      (put d (BitVec.ofNat 32 r.1), v.2 ||| r.2))
  | _ => none

/-- No active thread raises an exception whose trap MODE enables (R42). -/
def NoTrap (s : State) (on : LaneMask) (fl : Nat → Word) : Prop :=
  ∀ l, hasLane on l = true → fl l &&& ((s.pk.mode >>> 4) &&& 0xF) = 0

/-- The flags of the active threads together. -/
def flagsOf (on : LaneMask) (fl : Nat → Word) : Word :=
  (List.range 32).foldl (fun x l => if hasLane on l then x ||| fl l else x) 0

/-! Lane control (R243-R249). -/

/-- Target of a branch: `off` words past the end of the instruction of `n` bytes (R243, R244). -/
def branchTo (t : Thread) (n : Nat) (off : Int) : BitVec 52 := t.pc + BitVec.ofNat 52 n + BitVec.ofInt 52 (4 * off)

/-- What the control forms that never trap do to an active thread (R34, R243-R245, R247, R249). `act` are the issuing
threads. -/
def controlForm : Instr → Option (Guard × (LaneMask → Nat → Thread → LaneEffect))
  | .nop => some (unguarded, fun _ _ _ => {})
  | .yield => some (unguarded, fun _ _ _ => { yield := some 65 })
  | .meet off => some (unguarded, fun act _ t =>
      { meet := some (2 ^ 63 + (branchTo t 4 off.toInt).zeroExtend 64), jmask := some act })
  | .unmeet => some (unguarded, fun _ _ t => { meet := some ((t.meet.zeroExtend 63).zeroExtend 64) })
  | .meetm g a off => some (g, fun _ l t =>
      { meet := some (2 ^ 63 + (branchTo t 8 off.toInt).zeroExtend 64), jmask := some (t.r a.toNat ||| BitVec.twoPow 32 l) })
  | .bra pg pn off => some (unguarded, fun _ _ t =>
      { goes := if pg = 7 ∨ t.p.getLsbD pg.toNat ≠ pn then some (branchTo t 4 off.toInt) else none })
  | .jal g d off => some (g, fun _ _ t =>
      { put64 d ((branchTo t 8 0).zeroExtend 64) with goes := some (branchTo t 8 off.toInt) })
  | _ => none

end Sys2Proof.Claims
end

