-- ==== Sys2Proof/Certificates/Slice0/TermsMemory.lean ====
section
/-! DEFINITION. The terms of the statements about memory instructions: where a lane's access goes, what it stores, and when
nothing stands in its way (spec/12_memory_instructions.md R250-R263). -/
namespace Sys2Proof.Claims

open Sys2Proof.Machine

/-! Memory as a function of the address. -/

/-- The view of memory after `bs` are stored from `a` up. -/
def stored (m : Nat → Byte) (a : Nat) (bs : List Byte) : Nat → Byte :=
  fun p => if a ≤ p ∧ p < a + bs.length then bs.getD (p - a) 0 else m p

/-- The view after several stores, in order: a later store wins where they overlap (R252). -/
def storedAll (m : Nat → Byte) (ss : List (Nat × List Byte)) : Nat → Byte := ss.foldl (fun m x => stored m x.1 x.2) m

/-- The `n` bytes at `a`, as a number. -/
def numberAt (m : Nat → Byte) (a n : Nat) : Nat := natOfBytes ((List.range n).map fun k => m (a + k))

/-- Read-modify-writes of `n` bytes of some lanes, one after the other, each at its own address (R121, R252): the view
after them, and what each lane read. -/
def serial (n : Nat) (at' : Nat → Nat) (f : Nat → Nat → Option Nat) : List Nat → (Nat → Byte) → (Nat → Byte) × List (Nat × Nat)
  | [], m => (m, [])
  | l :: ls, m =>
    let old := numberAt m (at' l) n
    let m' := match f l old with
      | some v => stored m (at' l) (bytesOfNat n v)
      | none => m
    let r := serial n at' f ls m'
    (r.1, (l, old) :: r.2)

/-- The low `n` bytes of registers `r`, `r + 1`, ... of a thread. -/
def dataBytes (t : Thread) (r n : Nat) : List Byte :=
  (List.range n).map fun k => (t.r (r + k / 4)).extractLsb' (8 * (k % 4)) 8

/-- The low `n` bytes of registers `r`, `r + 1`, as a number. -/
def dataNat (t : Thread) (r n : Nat) : Nat := natOfBytes (dataBytes t r n)

/-- What a load of these bytes writes (R253): one register, zero- or sign-extended, or one for each four bytes. -/
def loadWords (signed : Bool) (bs : List Byte) : List Word :=
  if bs.length < 4 then
    [if signed ∧ 2 ^ (8 * bs.length - 1) ≤ natOfBytes bs then wrap32 ((natOfBytes bs : Int) - 2 ^ (8 * bs.length))
      else BitVec.ofNat 32 (natOfBytes bs)]
  else (List.range (bs.length / 4)).map fun i => BitVec.ofNat 32 (natOfBytes ((bs.drop (4 * i)).take 4))

/-- Consecutive registers from `d` up. -/
def putWords (d : VReg) (ws : List Word) : LaneEffect := { regs := ws.zipIdx.map fun (w, k) => (d.toNat + k, w) }

/-! The forms (R253, R254, R258-R263). -/

/-- An access of `n` bytes at a base in s registers plus a lane's offset in `off`. -/
structure Place where
  g : Guard
  off : VReg
  base : SReg
  n : Nat
  deriving DecidableEq, Repr

/-- Flat loads: destination, and whether the value is sign-extended. -/
def flatLoadForm : Instr → Option (Place × VReg × Bool)
  | .ldB8 t c _ x => some (⟨unguarded, c, x, 1⟩, t, false)
  | .ldI8 t c _ x => some (⟨unguarded, c, x, 1⟩, t, true)
  | .ldB16 t c _ x => some (⟨unguarded, c, x, 2⟩, t, false)
  | .ldI16 t c _ x => some (⟨unguarded, c, x, 2⟩, t, true)
  | .ldB32 t c _ x => some (⟨unguarded, c, x, 4⟩, t, false)
  | .ldB64 t c _ x => some (⟨unguarded, c, x, 8⟩, t, false)
  | .ldB128 t c _ x => some (⟨unguarded, c, x, 16⟩, t, false)
  | .ldAcq g d a _ wide false _ x => some (⟨g, a, x, if wide then 8 else 4⟩, d, false)
  | _ => none

/-- Flat stores, with the data register. -/
def flatStoreForm : Instr → Option (Place × VReg)
  | .stB8 t c _ x => some (⟨unguarded, c, x, 1⟩, t)
  | .stB16 t c _ x => some (⟨unguarded, c, x, 2⟩, t)
  | .stB32 t c _ x => some (⟨unguarded, c, x, 4⟩, t)
  | .stB64 t c _ x => some (⟨unguarded, c, x, 8⟩, t)
  | .stB128 t c _ x => some (⟨unguarded, c, x, 16⟩, t)
  | .stRel g a b wide false _ x => some (⟨g, a, x, if wide then 8 else 4⟩, b)
  | _ => none

/-- What a flat atomic makes of the value it reads: `f t old` is the value it stores, if it stores one. -/
def flatAtomic : Instr → Option (Place × Option VReg × (Thread → Nat → Option Nat))
  | .atom g d a b _ ty op _ _ x =>
    some (⟨g, a, x, atomBytes ty⟩, some d, fun t old => some (atomResult ty op old (dataNat t b.toNat (atomBytes ty))))
  | .cas g d a b c _ wide _ _ x =>
    let n := if wide then 8 else 4
    some (⟨g, a, x, n⟩, some d, fun t old => if old = dataNat t b.toNat n then some (dataNat t c.toNat n) else none)
  | .red g a b _ ty op _ _ x none =>
    some (⟨g, a, x, atomBytes ty⟩, none, fun t old => some (atomResult ty op old (dataNat t b.toNat (atomBytes ty))))
  | _ => none

/-- Vault loads, with the destination. -/
def vaultLoadForm : Instr → Option (Place × VReg)
  | .vldB32 t c _ x => some (⟨unguarded, c, x, 4⟩, t)
  | .vldB64 t c _ x => some (⟨unguarded, c, x, 8⟩, t)
  | .vldB128 t c _ x => some (⟨unguarded, c, x, 16⟩, t)
  | .ldAcq g d a _ wide true _ x => some (⟨g, a, x, if wide then 8 else 4⟩, d)
  | _ => none

/-- Vault stores and read-modify-writes: the destination, if any, and what a lane stores. -/
def vaultUpdate : Instr → Option (Place × Option VReg × (Thread → Nat → Option Nat))
  | .vstB32 t c _ x => some (⟨unguarded, c, x, 4⟩, none, fun u _ => some (dataNat u t.toNat 4))
  | .vstB64 t c _ x => some (⟨unguarded, c, x, 8⟩, none, fun u _ => some (dataNat u t.toNat 8))
  | .vstB128 t c _ x => some (⟨unguarded, c, x, 16⟩, none, fun u _ => some (dataNat u t.toNat 16))
  | .stRel g a b wide true _ x =>
    let n := if wide then 8 else 4
    some (⟨g, a, x, n⟩, none, fun u _ => some (dataNat u b.toNat n))
  | .vatom g d a b _ ty op _ _ x =>
    some (⟨g, a, x, atomBytes ty⟩, some d, fun u old => some (atomResult ty op old (dataNat u b.toNat (atomBytes ty))))
  | _ => none

/-- The active threads of a form. -/
def activeOf (s : State) (g : Guard) : LaneMask := s.active (·.guarded g)

/-! Nothing in the way. -/

/-- The memory system holds no error mark, no frame still to be zeroed, no replica behind its original and no promotion that an
acquire waits for; accesses complete at once, and the pack has none unfinished; the threads that issue are live. -/
structure Quiet (s : State) : Prop where
  bad : s.home.bad = []
  soft : s.home.soft = []
  maps : s.home.mapSoft = [] ∧ s.home.mapBad = []
  records : s.home.monSoft = [] ∧ s.home.monBad = []
  parity : ∀ ln, ln ∈ (s.core s.here).l1 → ln.odd = []
  zero : s.home.zeroGroups = []
  lag : s.home.replicaLag = []
  promoting : s.home.promoting = []
  calm : s.env.defer = false
  replay : s.pk.replay = []
  req : s.pk.req = none
  stalls : (s.core s.here).stalls = []
  alive : ∀ l, hasLane s.act l = true → (s.pk.thread l).exited = false

/-- CLAIMCHK concerns no active thread (R149): it is off, or the thread has no admitted item. -/
def Unchecked (s : State) (g : Guard) : Prop :=
  ∀ l, hasLane (activeOf s g) l = true → s.pk.mode.getLsbD 8 = true → (s.pk.thread l).admitted = false

/-- What a lane of a read-modify-write read, in its destination. -/
def oldValue (d : Option VReg) (n : Nat) (rs : List (Nat × Nat)) (l : Nat) : LaneEffect :=
  match d, rs.lookup l with
  | some d, some old => putWords d (loadWords false (bytesOfNat n old))
  | _, _ => {}

/-- The sectors the core's L1 holds are copies of what memory holds. -/
def Fresh (s : State) : Prop :=
  ∀ sec bs, (s.core s.here).sector sec = some bs → bs = s.memBytes (sec * 16) 16

/-- The core holds a translation of `va` that allows the access, to device memory that is not poisoned. -/
def Reaches (s : State) (ask : Acc) (use : PageUse) (va pa : Nat) : Prop :=
  ∃ t, (s.core s.here).tlb.find? (fun t => t.part = s.pk.part && t.vpn = va / 65536) = some t ∧ t.misused use = false ∧
    t.allows ask s.pk.priv = true ∧ s.paKind pa = .hbm ∧ s.blockCode pa ≠ 3 ∧ pa / 65536 = t.frame

/-- The translation of `va` for the access ends in a recoverable page fault at stage 1, or at stage 2, with the fault address `ad`,
whatever the pack has done meanwhile (R158). -/
def Refused (s : State) (ask : Acc) (use : PageUse) (va ad : Nat) (stage2 : Bool) : Prop :=
  ∀ pk env, (State.translate { s with pk := pk, env := env } s.here s.pk.part s.pk.priv ask use va).2 = .error (.page stage2 ad)

/-- The flat address of a lane: the 64-bit base plus the lane's 32-bit offset, modulo 2^64 (R253). -/
def flatVa (s : State) (x : Place) (l : Nat) : Nat :=
  ((s.pk.s64 x.base.toNat).toNat + ((s.pk.thread l).r x.off.toNat).toNat) % 2 ^ 64

/-- Physical address of a virtual one under the translation the core holds. -/
def heldPa (s : State) (va : Nat) : Nat :=
  match (s.core s.here).tlb.find? fun t => t.part = s.pk.part && t.vpn = va / 65536 with
  | some t => t.frame * 65536 + va % 65536
  | none => 0

/-- The physical address of a lane's flat access. -/
def flatPa (s : State) (x : Place) (l : Nat) : Nat := heldPa s (flatVa s x l)

/-- Every active lane's flat access passes the checks of R251. -/
def FlatOpen (s : State) (x : Place) (ask : Acc) : Prop :=
  ∀ l, hasLane (activeOf s x.g) l = true →
    flatVa s x l < 2 ^ 52 ∧ flatVa s x l % x.n = 0 ∧ Reaches s ask .flat (flatVa s x l) (flatPa s x l)

/-- The vault address of a lane (R254). -/
def vaultVa (s : State) (x : Place) (l : Nat) : Word := s.pk.sreg x.base.toNat + (s.pk.thread l).r x.off.toNat

/-- Every vault byte of the device under one address: core and offset (R82). -/
def vaultView (s : State) (p : Nat) : Byte := byteAt (s.core (p / 2 ^ 22)).vault (p % 2 ^ 22)

/-- Where a lane's vault access goes, in those addresses. -/
def vaultAt (s : State) (x : Place) (l : Nat) : Nat :=
  match s.vaultAddr s.pk.part s.pk.group (vaultVa s x l) with
  | some (c, o) => c * 2 ^ 22 + o
  | none => 0

/-- No bank has an update waiting or an error mark. -/
def VaultsQuiet (s : State) : Prop := ∀ c, (s.core c).bank = [] ∧ (s.core c).vaultSoft = [] ∧ (s.core c).vaultBad = []

/-- Every active lane's vault access passes the checks of R251, and lies within one vault (which aligned allocations of
the group ensure). -/
def VaultOpen (s : State) (x : Place) : Prop :=
  ∀ l, hasLane (activeOf s x.g) l = true → (vaultVa s x l).toNat % x.n = 0 ∧
    ∃ c o, s.vaultAddr s.pk.part s.pk.group (vaultVa s x l) = some (c, o) ∧ o + x.n ≤ 2 ^ 22

/-! What stays as it was. -/

/-- Outside the issuing pack only memory and its caches differ: which granules the slices hold, elision, release tags,
marks of re-tiling, which RCBs have been written, and the lines of the L1s. -/
structure OnlyMemory (s t : State) : Prop where
  rest : t = { s with pk := t.pk, mem := t.mem, home := t.home, cores := t.cores, env := { s.env with fresh := t.env.fresh } }
  cores : ∀ c, t.core c = { s.core c with l1 := (t.core c).l1 }
  home : t.home = { s.home with
    lines := t.home.lines, hostOwned := t.home.hostOwned, elision := t.home.elision, tags := t.home.tags
    retiles := t.home.retiles, replicaLag := t.home.replicaLag, rcbs := t.home.rcbs }

/-- Outside the issuing pack only vault bytes, L1 sectors and release tags differ. -/
structure OnlyVaults (s t : State) : Prop where
  rest : t = { s with pk := t.pk, home := t.home, cores := t.cores, env := { s.env with fresh := t.env.fresh } }
  cores : ∀ c, t.core c = { s.core c with l1 := (t.core c).l1, vault := (t.core c).vault }
  home : t.home = { s.home with tags := t.home.tags }

/-! Tensor accesses (R255, R256, R262). -/

/-- A tensor form: coordinates from `c` up, the tensor id in `x`, and its data register or destination. -/
structure TensorPlace where
  g : Guard
  c : VReg
  x : SReg
  deriving DecidableEq, Repr

/-- What a tensor form does with an element: loads it into a register, stores a register, or reads, modifies and writes. -/
inductive TensorDoes where
  | load (d : VReg)
  | store (d : VReg)
  | update (d : Option VReg) (b : VReg) (op : AtomOp)
  deriving DecidableEq, Repr

/-- The tensor forms, but for the reductions that name a barrier. -/
def tensorForm : Instr → Option (TensorPlace × TensorDoes)
  | .tld t c _ x => some (⟨unguarded, c, x⟩, .load t)
  | .tst t c _ x => some (⟨unguarded, c, x⟩, .store t)
  | .tstp t c _ x => some (⟨unguarded, c, x⟩, .store t)
  | .tatom g d a b _ op _ _ x => some (⟨g, a, x⟩, .update (some d) b op)
  | .tred g a b _ op _ _ x none => some (⟨g, a, x⟩, .update none b op)
  | _ => none

/-- The coordinates of a lane: those at or beyond the rank are 0 (R101). -/
def laneCoords (s : State) (r : TRec) (x : TensorPlace) (l : Nat) : List Nat :=
  (List.range 5).map fun i => if i < r.rank then ((s.pk.thread l).r (x.c.toNat + i)).toNat else 0

/-- The virtual address that is translated for an element (R101, R315): its page, and for a linear tensor its byte. -/
def elemVa (r : TRec) (c : List Nat) : Nat := r.base + r.page c * 65536 + if r.linear then r.byte 15 c else 0

/-- The physical address of an element under the translation the core holds: its frame, and its byte under the page's
layout (R101). -/
def elemPa (s : State) (r : TRec) (c : List Nat) : Nat :=
  match (s.core s.here).tlb.find? fun t => t.part = s.pk.part && t.vpn = elemVa r c / 65536 with
  | some t => t.frame * 65536 + if r.linear then elemVa r c % 65536 else r.byte t.layout c
  | none => 0

/-- Every active lane's element passes the checks of R251. -/
def TensorOpen (s : State) (r : TRec) (x : TensorPlace) (ask : Acc) : Prop :=
  ∀ l, hasLane (activeOf s x.g) l = true → r.inside (laneCoords s r x l) = true ∧
    Reaches s ask r.use (elemVa r (laneCoords s r x l)) (elemPa s r (laneCoords s r x l))

/-- What the form asks of the page. -/
def TensorDoes.ask : TensorDoes → Acc
  | .load _ => .load
  | .store _ => .store
  | .update .. => .rmw

/-- The type of a tensor read-modify-write by format (R262). -/
def TensorDoes.fits (r : TRec) : TensorDoes → Bool
  | .update _ _ op => match tensorAtom r.fmt with
    | some ty => op.okFor ty
    | none => false
  | _ => true

/-- The pack's core holds the record of a tensor. -/
def Described (s : State) (tid : Nat) (r : TRec) : Prop :=
  s.pk.req = none ∧ tid ≠ 0xFFFF ∧ ∃ b, tabFind (s.part s.pk.part).records tid = some b ∧ parseTRec b = some r

/-- Tensor id of a form. -/
def TensorPlace.tid (x : TensorPlace) (s : State) : Nat := (s.pk.sreg x.x.toNat).toNat % 65536

/-- Memory and the active threads' effects after a tensor form (R255, R262). -/
def tensorDone (s : State) (r : TRec) (x : TensorPlace) (f : TensorDoes) : (Nat → Byte) × (Nat → LaneEffect) :=
  let n := elemBits r.fmt / 8
  let pa := fun l => elemPa s r (laneCoords s r x l)
  let on := lanesOf (activeOf s x.g)
  match f with
  | .load d => (s.memByte, fun l => putWords d (loadWords (r.fmt = 0x0A ∨ r.fmt = 0x0B) (s.memBytes (pa l) n)))
  | .store d => (storedAll s.memByte (on.map fun l => (pa l, dataBytes (s.pk.thread l) d.toNat n)), fun _ => {})
  | .update d b op =>
    let q := serial n pa (fun l old =>
      some (atomResult ((tensorAtom r.fmt).getD .i32) op old (dataNat (s.pk.thread l) b.toNat n))) on s.memByte
    (q.1, fun l => oldValue d n q.2 l)

/-- Outside the issuing pack only memory, its caches and what the home slices hold of it, the access-class records of
tensor pages among it (R102), differ. -/
structure OnlyTensors (s t : State) : Prop where
  rest : t = { s with pk := t.pk, mem := t.mem, home := t.home, cores := t.cores, env := { s.env with fresh := t.env.fresh } }
  cores : ∀ c, t.core c = { s.core c with l1 := (t.core c).l1 }

/-! Paired tensors (R111, R112). -/

/-- The virtual address that is translated for an element of image A (`false`) or B (`true`). -/
def imageVa (r : TRec) (img : Bool) (c : List Nat) : Nat :=
  r.image img + r.page c * 65536 + if r.linear then r.byte 15 c else 0

/-- The physical address of an element of an image under the translation the core holds. -/
def imagePa (s : State) (r : TRec) (img : Bool) (c : List Nat) : Nat :=
  match (s.core s.here).tlb.find? fun t => t.part = s.pk.part && t.vpn = imageVa r img c / 65536 with
  | some t => t.frame * 65536 + if r.linear then imageVa r img c % 65536 else r.byte t.layout c
  | none => 0

/-- The image a lane's load reads: B where the active lanes in its page make a YRUN (elements that differ in dimension 1
only), else A (R102, R111). -/
def imageRead (s : State) (r : TRec) (x : TensorPlace) (l : Nat) : Bool :=
  let mates := (lanesOf (activeOf s x.g)).filter fun k => r.page (laneCoords s r x k) = r.page (laneCoords s r x l)
  let at' := mates.map fun k => r.xy (laneCoords s r x k)
  (at'.any fun p => at'.any fun q => p.2 ≠ q.2) && at'.all fun p => at'.all fun q => p.1 == q.1

/-- Every active lane's element lies within the extents, and the images it uses can be reached. -/
def ImagesOpen (s : State) (r : TRec) (x : TensorPlace) (ask : Acc) (uses : Nat → Bool → Prop) : Prop :=
  ∀ l, hasLane (activeOf s x.g) l = true → r.inside (laneCoords s r x l) = true ∧
    ∀ img, uses l img → Reaches s ask r.use (imageVa r img (laneCoords s r x l)) (imagePa s r img (laneCoords s r x l))

end Sys2Proof.Claims
end

