-- ==== Sys2Proof/Certificates/Slice0/TermsPack.lean ====
section
/-! DEFINITION. The terms of the statements about pack instructions and traps (spec/13_pack_instructions.md,
spec/12_memory_instructions.md R265-R274, spec/09_counters_events.md R178-R190). -/
namespace Sys2Proof.Claims

open Sys2Proof.Machine

/-! Pack instructions (R276). -/

/-- What a pack instruction does in the pack: s registers and q predicates it writes, and the PC every live thread goes to
when that is not the next instruction. -/
structure PackEffect where
  regs : List (Nat × Word) := []
  q : Option (BitVec 4) := none
  goes : Option (BitVec 52) := none

/-- One s register, and a pair with the low word in the even register. -/
def putS (d : SReg) (x : Word) : PackEffect := { regs := [(d.toNat, x)] }
def putS64 (d : SReg) (x : DWord) : PackEffect :=
  { regs := [(d.toNat, x.extractLsb' 0 32), (d.toNat + 1, x.extractLsb' 32 32)] }

/-- Consecutive s registers from `d` up. -/
def putSs (d : SReg) (ws : List Word) : PackEffect := { regs := ws.zipIdx.map fun (w, k) => (d.toNat + k, w) }

/-- Between packs `p` and `q` a pack instruction of `n` bytes has run: every live thread is at the same next PC, the s
registers and q predicates are as the effect says; every other register, every other field of each thread and of the pack
is as before, but for the scoreboard and V of a MEET that a meeting releases. -/
def PackDone (n : Nat) (e : PackEffect) (p q : Pack) : Prop :=
  q = { p with s := q.s, q := e.q.getD p.q, threads := q.threads, windows := q.windows, pend := q.pend, meets := q.meets } ∧
    q.threads.length = p.threads.length ∧
    (∀ r, q.sreg r = (e.regs.lookup r).getD (p.sreg r)) ∧
    ∀ l, l < 32 → SameButMeet (if (p.thread l).exited then p.thread l
      else { p.thread l with pc := e.goes.getD ((p.thread l).pc + BitVec.ofNat 52 n) }) (q.thread l)

/-- Between packs `p` and `q` nothing has happened but that the pack now waits for `w`. -/
def PackWaits (w : Wait) (p q : Pack) : Prop :=
  q = { p with wait := w, threads := q.threads, windows := q.windows, pend := q.pend, meets := q.meets } ∧
    q.threads.length = p.threads.length ∧ ∀ l, SameButMeet (p.thread l) (q.thread l)

/-- Bit `n` of the q predicates replaced. -/
def withQ (x : BitVec 4) (n : Nat) (b : Bool) : BitVec 4 :=
  (x &&& ~~~(BitVec.twoPow 4 n)) ||| (if b then BitVec.twoPow 4 n else 0)

/-- Uniform arithmetic, selection and constants (R277-R279). -/
def uniformForm : Instr → Option (Pack → PackEffect)
  | .sadd d a b => some fun p => putS d (wrap32 ((p.sreg a.toNat).toInt + (p.sreg b.toNat).toInt))
  | .ssub d a b => some fun p => putS d (wrap32 ((p.sreg a.toNat).toInt - (p.sreg b.toNat).toInt))
  | .smul d a b => some fun p => putS d (wrap32 ((p.sreg a.toNat).toInt * (p.sreg b.toNat).toInt))
  | .sand d a b => some fun p => putS d (p.sreg a.toNat &&& p.sreg b.toNat)
  | .sor d a b => some fun p => putS d (p.sreg a.toNat ||| p.sreg b.toNat)
  | .sxor d a b => some fun p => putS d (p.sreg a.toNat ^^^ p.sreg b.toNat)
  | .sshl d a b => some fun p => putS d (BitVec.ofNat 32 ((p.sreg a.toNat).toNat * 2 ^ ((p.sreg b.toNat).toNat % 32)))
  | .sshr d a b m => some fun p => putS d (
      if m then wrap32 ((p.sreg a.toNat).toInt / 2 ^ ((p.sreg b.toNat).toNat % 32))
      else BitVec.ofNat 32 ((p.sreg a.toNat).toNat / 2 ^ ((p.sreg b.toNat).toNat % 32)))
  | .smin d a b m => some fun p => putS d (
      if (if m then (p.sreg a.toNat).toNat ≤ (p.sreg b.toNat).toNat else (p.sreg a.toNat).toInt ≤ (p.sreg b.toNat).toInt)
      then p.sreg a.toNat else p.sreg b.toNat)
  | .smax d a b m => some fun p => putS d (
      if (if m then (p.sreg a.toNat).toNat ≤ (p.sreg b.toNat).toNat else (p.sreg a.toNat).toInt ≤ (p.sreg b.toNat).toInt)
      then p.sreg b.toNat else p.sreg a.toNat)
  | .sadd64 d a b m => some fun p => putS64 d (if m then p.s64 a.toNat - p.s64 b.toNat else p.s64 a.toNat + p.s64 b.toNat)
  | .smov d a => some fun p => putS d (p.sreg a.toNat)
  | .scmp q a b c uns wide => some fun p =>
      let v := fun (r : SReg) => if wide then (if uns then ((p.s64 r.toNat).toNat : Int) else (p.s64 r.toNat).toInt)
        else if uns then ((p.sreg r.toNat).toNat : Int) else (p.sreg r.toNat).toInt
      { q := some (withQ p.q q.toNat (holds c (v a) (v b))) }
  | .ssel d q neg a b => some fun p => putS d (if p.q.getLsbD q.toNat = neg then p.sreg b.toNat else p.sreg a.toNat)
  | .svote d k neg => some fun p => putS d (maskOf fun l => !(p.thread l).exited && (p.thread l).pred k != neg)
  | .smovi d i => some fun _ => putS d (wrap32 i.toInt)
  | .saddi d i => some fun p => putS d (wrap32 ((p.sreg d.toNat).toInt + i.toInt))
  | .smovhi d i => some fun p => putS d (BitVec.ofNat 32 (i.toNat * 2 ^ 17 + (p.sreg d.toNat).toNat % 2 ^ 17))
  | .smovl d i => some fun _ => putS d i
  | _ => none

/-- The condition of the pack branches and of ssleep (R280, R281). -/
def packTaken (p : Pack) (qg : BitVec 3) (qn : Bool) : Prop := qg = 7 ∨ p.q.getLsbD qg.toNat ≠ qn

/-- Target of a pack branch (R280): `off` words past the end of the instruction at `pc`. -/
def packTarget (pc : BitVec 52) (off : BitVec 19) : BitVec 52 := pc + 4 + BitVec.ofInt 52 (4 * off.toInt)

/-! Special registers and control words (R51, R53). -/

/-- The words of a special register, but for %energy and for %wave without a loop object (R51). -/
def specialWords (s : State) (sel : Nat) : Option (List Word) :=
  let w := fun (n : Nat) => some [BitVec.ofNat 32 n]
  match sel, s.site, s.group s.pk.group with
  | 0, some (_, slot), _ => w slot
  | 1, _, some g => w g.index
  | 2, _, some g => w g.slot
  | 3, some (c, _), _ => w c
  | 4, some (c, _), _ => w (c / 8)
  | 5, some (c, _), _ => w (c / 80)
  | 6, _, some g => some [g.rcb.extractLsb' 0 32, g.rcb.extractLsb' 32 32]
  | 7, _, _ => some [BitVec.ofNat 32 s.time, BitVec.ofNat 32 (s.time / 2 ^ 32)]
  | 9, _, _ => w (match s.pk.role with | .gen => 0 | .cpy => 1 | .mtx => 2 | .epi => 3)
  | 10, _, _ => w s.pk.nthreads
  | 11, _, _ => w s.pk.part
  | 12, _, _ => some [s.mp.layoutver]
  | 13, _, some g => match g.loopObj with
    | some a => match s.vaultAddr g.part s.pk.group (BitVec.ofNat 32 a) with
      | some (c, o) => w (numberAt (byteAt (s.core c).vault) (o + 8) 4)
      | none => none
    | none => none
  | _, _, _ => none

/-- HDESC of a handle by its fields (R45). -/
def handleWord (d : Handle) : Word := BitVec.ofNat 32 (
  (if d.bound then 2 ^ 31 else 0) + 2 ^ 29 * (match d.kind with | .single => 0 | .split => 1 | .splgrad => 2) +
    2 ^ 21 * d.engine + 2 ^ 16 * d.slot +
    if d.kind = .split then (d.split.zipIdx.map fun (x, i) => 16 ^ i * (x.1 % 8)).sum else 0)

/-- The words of a control word, low word first (R44, R45, R47, R49, R53); HMASK by its index. -/
def controlWords (s : State) (sel idx : Nat) : Option (List Word) :=
  let w := fun (n : Nat) => some [BitVec.ofNat 32 n]
  let d := fun (x : DWord) => some [x.extractLsb' 0 32, x.extractLsb' 32 32]
  let p := s.part s.pk.part
  let e := (s.core s.here).eng
  match sel with
  | 0 => some [s.pk.mode]
  | 1 => some [s.pk.fstat]
  | 2 => some [s.pk.seed]
  | 3 => some [s.pk.jointime]
  | 4 => d s.pk.trapbase
  | 5 => d p.ttbase
  | 6 => some [p.joincap]
  | 7 => w p.qmin.1
  | 8 => w p.qmin.2.1
  | 9 => w p.qmin.2.2
  | 10 => w p.qcap.1
  | 11 => w p.qcap.2.1
  | 12 => w p.qcap.2.2
  | 13 => some [e.klo]
  | 14 => some [e.khi]
  | 15 => w e.kg
  | 16 => w e.kord
  | 17 => w e.kclamp
  | 18 => some [e.kscale]
  | 19 => some [e.koog]
  | 28 => some [s.mp.envelope]
  | 29 => d (s.mp.hmask.getD idx 0)
  | k => if k < 20 ∨ 27 < k then none else
    match s.group s.pk.group with
    | some g => match tabFind g.handles (k - 20) with
      | some h => some [handleWord h]
      | none => w 0
    | none => none

/-- What a write of `w`, or of the pair `x`, leaves in a control word: reserved bits are ignored (R4, R40, R41, R44, R49). -/
def controlKept (sel : Nat) (w : Word) (x : DWord) : List Word :=
  let d := fun (x : DWord) => [x.extractLsb' 0 32, x.extractLsb' 32 32]
  match sel with
  | 0 => [BitVec.ofNat 32 (w.toNat % 2 ^ 9)]
  | 1 => [BitVec.ofNat 32 (w.toNat % 2 ^ 7)]
  | 2 | 3 | 6 => [w]
  | 4 => d (BitVec.ofNat 64 (x.toNat % 2 ^ 52 / 2 ^ 11 * 2 ^ 11))
  | 5 => d (BitVec.ofNat 64 (x.toNat % 2 ^ 52 / 2 ^ 6 * 2 ^ 6))
  | 7 | 8 | 9 => [BitVec.ofNat 32 (w.toNat % 2 ^ 10)]
  | _ => [BitVec.ofNat 32 (w.toNat % 2 ^ 11)]

/-- The limits of R50 on three minima and three caps. -/
def queueLimits (mn mx : List Nat) : Prop :=
  (∀ k, k < 3 → mn.getD k 0 ≤ mx.getD k 0 ∧ mx.getD k 0 ≤ 1024) ∧ mn.getD 0 0 + mn.getD 1 0 + mn.getD 2 0 ≤ 1024

/-- The minima and caps that a write of selector `sel` would leave. -/
def queuesAfter (s : State) (sel : Nat) (w : Word) : List Nat × List Nat :=
  let p := s.part s.pk.part
  let mn := [p.qmin.1, p.qmin.2.1, p.qmin.2.2]
  let mx := [p.qcap.1, p.qcap.2.1, p.qcap.2.2]
  if sel < 10 then (mn.set (sel - 7) (w.toNat % 2 ^ 10), mx) else (mn, mx.set (sel - 10) (w.toNat % 2 ^ 11))

/-! Barrier objects (R178, R179). -/

/-- A barrier object by its fields. -/
structure Barrier where
  expBytes : Nat
  bytes : Nat
  expArr : Nat
  arr : Nat
  phase : Bool
  fault : Bool
  pfault : Bool
  above : Nat
  deriving DecidableEq, Repr

/-- The fields of the object at a core's vault offset. -/
def barrierAt (s : State) (c off : Nat) : Barrier :=
  let f := fun o n => numberAt (byteAt (s.core c).vault) (off + o) n
  let x := f 12 4
  { expBytes := f 0 4, bytes := f 4 4, expArr := f 8 2, arr := f 10 2, phase := decide (x % 2 = 1),
    fault := decide (x / 2 % 2 = 1), pfault := decide (x / 4 % 2 = 1), above := x / 8 }

/-- The phase completes at the first update after which both counts are reached. -/
def Barrier.close (b : Barrier) : Barrier :=
  if b.expArr ≤ b.arr ∧ b.expBytes ≤ b.bytes then
    { b with pfault := b.fault, fault := false, arr := 0, bytes := 0, expBytes := 0, phase := !b.phase }
  else b

/-- One arrival, which adds `n` bytes unless it is faulted. ARR saturates (a reading of the model's, log 32). -/
def Barrier.arrive (b : Barrier) (n : Nat) (fault : Bool) : Barrier :=
  Barrier.close { b with
    arr := min 65535 (b.arr + 1)
    bytes := if fault then b.bytes else min (2 ^ 32 - 1) (b.bytes + n)
    fault := b.fault || fault }

/-- `n` more bytes expected (R268). -/
def Barrier.expect (b : Barrier) (n : Nat) : Barrier :=
  Barrier.close { b with expBytes := min (2 ^ 32 - 1) (b.expBytes + n) }

/-- `k` arrivals without bytes or fault. -/
def Barrier.arrivals (b : Barrier) : Nat → Barrier
  | 0 => b
  | k + 1 => (b.arrive 0 false).arrivals k

/-- The barrier of a vault address of the issuing pack: core and offset. -/
def barrierPlace (s : State) (va : Word) : Option (Nat × Nat) :=
  if va.toNat % 16 = 0 then s.vaultAddr s.pk.part s.pk.group va else none

/-- Outside the 16 bytes of a barrier no vault byte differs. -/
def OtherVault (s t : State) (c off n : Nat) : Prop :=
  ∀ k p, ¬(k = c ∧ off ≤ p ∧ p < off + n) → byteAt (t.core k).vault p = byteAt (s.core k).vault p

/-! Stage rings (R140). -/

/-- A ring cursor by its fields. -/
def cursorStage (c : Word) : Nat := c.toNat % 16
def cursorLast (c : Word) : Nat := c.toNat / 16 % 16
def cursorPass (c : Word) : Bool := decide (c.toNat / 256 % 2 = 1)
def cursorConsumer (c : Word) : Bool := decide (c.toNat / 512 % 2 = 1)

/-- Whether a cursor keeps R140. -/
def cursorOk (c : Word) : Prop := c.toNat < 1024 ∧ 1 ≤ cursorLast c ∧ cursorStage c ≤ cursorLast c

/-- Vault address of a stage's barrier. -/
def ringBarrier (base c : Word) (empty : Bool) : Word :=
  BitVec.ofNat 32 (base.toNat + 32 * cursorStage c + if empty then 16 else 0)

/-- The cursor after its stage. -/
def cursorAdvanced (c : Word) : Word :=
  if cursorStage c = cursorLast c then
    BitVec.ofNat 32 (c.toNat - cursorStage c + (if cursorPass c then 0 else 256) - (if cursorPass c then 256 else 0))
  else BitVec.ofNat 32 (c.toNat + 1)

/-! Traps (R187, R188). -/

/-- The pack may take a trap: it is below ROOT with a free side-buffer level, at its first level, so that its own group's
region handles it, nothing of it is in flight, and no pack of its core waits for a queue entry or a handle. -/
structure MayTrap (s : State) (g : Group) : Prop where
  low : s.pk.priv ≠ .root
  first : s.pk.sb = []
  group : s.group s.pk.group = some g
  replay : s.pk.replay = []
  late : s.pk.late = []
  stalls : (s.core s.here).stalls = []
  allocs : (s.core s.here).allocs = []

/-- Between packs `p` and `q` a trap of class `c` with these LMASK, ADDR and DETAIL has been taken for a region that handles it, given by
its RCB, its TRAPBASE, and whether it is ROOT's: a further level holds what R188 lists and those below are as before, every live thread
is at the vector with V of MEET clear, s56 and s57 hold the class offset and the depth, and the pack runs at the privilege of the
region. `p` is the pack as the instruction left it before the trap: its threads are where they will resume. -/
def Entered (region base : DWord) (root : Bool) (c : TrapClass) (lanes : LaneMask) (pc addr detail : Nat) (p q : Pack) : Prop :=
  (∃ lv : Level, q.sb = p.sb ++ [lv] ∧ lv.entries = [] ∧
    lv.word 0 = BitVec.ofNat 32 (c.index + 16 * p.priv.code) ∧ lv.word 1 = lanes ∧
    lv.word64 2 = BitVec.ofNat 64 pc ∧ lv.word64 4 = BitVec.ofNat 64 addr ∧ lv.word 6 = BitVec.ofNat 32 detail ∧
    (∀ k, k < 8 → lv.word (8 + k) = p.sreg (56 + k)) ∧
    (∀ l, l < 32 → lv.word64 (16 + 2 * l) = (p.thread l).pc.zeroExtend 64 ∧ lv.word64 (80 + 2 * l) = (p.thread l).meet ∧
      lv.word (144 + l) = (p.thread l).jmask) ∧
    lv.word64 176 = region) ∧
  q.priv = (if root then .root else .handler) ∧ q.wait = .none ∧
  (∀ r, q.sreg r = if r = 56 then BitVec.ofNat 32 (0x80 * c.index) else if r = 57 then BitVec.ofNat 32 p.sb.length else p.sreg r) ∧
  (∀ l, l < 32 → q.thread l = if (p.thread l).exited then p.thread l
    else { p.thread l with
      pc := base.extractLsb' 0 52 + BitVec.ofNat 52 (0x80 * c.index)
      meet := (p.thread l).meet &&& 0x7FFFFFFFFFFFFFFF#64 }) ∧
  q = { p with
    sb := q.sb, priv := q.priv, wait := .none, s := q.s, threads := q.threads, replay := [], windows := q.windows
    pend := q.pend, meets := q.meets, portB := none, req := none }

/-- Between `s` and `t` the pack has taken a trap at its first level: its group's region handles it, at TRAPBASE. -/
def Trapped (p : Pack) (g : Group) (c : TrapClass) (lanes : LaneMask) (pc addr detail : Nat) (s t : State) : Prop :=
  Entered g.rcb p.trapbase g.root c lanes pc addr detail p t.pk ∧ t = { s with pk := t.pk, env := { s.env with free := t.env.free } }

end Sys2Proof.Claims
end

