-- ==== Sys2Proof/Certificates/Slice0/TermsSystem.lean ====
section
/-! DEFINITION. The terms of the statements about handles, engine commands, reserving loops, tensor layouts and context
switches (spec/13_pack_instructions.md R286-R312, spec/07_queues.md R147-R152, spec/05_tensor_memory.md R103, R104). -/
namespace Sys2Proof.Claims

open Sys2Proof.Machine

/-! What stays as it was. -/

/-- No access the pack has issued is unfinished (R119). -/
def Drained (s : State) : Prop := ∀ e, e ∈ s.pk.replay → e.mask = 0

/-- Outside the issuing pack only vault bytes differ. -/
def OnlyVaultBytes (s t : State) : Prop :=
  t = { s with pk := t.pk, cores := t.cores } ∧ ∀ k, t.core k = { s.core k with vault := (t.core k).vault }

/-- Outside the issuing pack only one 16-byte barrier differs. -/
def OnlyBarrier (s t : State) (c off : Nat) : Prop :=
  OnlyVaultBytes s t ∧ OtherVault s t c off 16

/-- Outside the issuing pack one 16-byte barrier differs, replicas may have caught up (R123), and the barrier may carry a release
(R120). -/
def OnlyArrival (s t : State) (c off : Nat) : Prop :=
  t = { s with pk := t.pk, cores := t.cores, home := { s.home with replicaLag := t.home.replicaLag, tags := t.home.tags } } ∧
    (∀ k, t.core k = { s.core k with vault := (t.core k).vault }) ∧ OtherVault s t c off 16

/-- Outside the issuing pack only the core's L1 may have been emptied: at the scopes wider than .grp it is (R86). -/
def Acquired (sc : Scope) (s t : State) : Prop :=
  t = { s with pk := t.pk, cores := t.cores } ∧ (∀ k, k ≠ s.here → t.core k = s.core k) ∧
    t.core s.here = { s.core s.here with l1 := if sc = .cl ∨ sc = .dev ∨ sc = .sys then [] else (s.core s.here).l1 }

/-! Accumulator handles (R45, R292). -/

/-- Whether a bound handle occupies slot `i` of engine `e`. -/
def Handle.occupies (d : Handle) (e i : Nat) : Bool :=
  d.bound && match d.kind with
    | .single => d.engine = e && d.slot = i
    | .split => d.split.contains (e, i)
    | .splgrad => d.engine = e && d.slot ≤ i && i < d.slot + 4

/-- Whether slot `i` of engine `e` is free: no handle of a group on its core occupies it. -/
def slotFree (s : State) (e i : Nat) : Bool :=
  decide (i < 6) && s.groups.all fun (_, g) => g.away || g.handles.all fun (_, d) => !(Handle.occupies d e i)

/-- Number of free slots of an engine. -/
def roomOf (s : State) (e : Nat) : Nat := (List.range 6).countP (slotFree s e)

/-- Its lowest free slot. -/
def lowSlot (s : State) (e : Nat) : Nat := ((List.range 6).find? (slotFree s e)).getD 0

/-- Engine `a` is chosen before engine `b` by a pack of core `c`: the core's own first, then the one with more free slots,
ties to the lower core. -/
def Preferred (s : State) (c a b : Nat) : Prop :=
  a = c ∨ (b ≠ c ∧ (roomOf s b < roomOf s a ∨ (roomOf s a = roomOf s b ∧ a < b)))

/-- Engines of the cluster with a free slot. -/
def hasRoom (s : State) (c e : Nat) : Prop := e / 8 = c / 8 ∧ 0 < roomOf s e

/-- The list holds the first engines of the preference among those with a free slot. -/
def FirstChoices (s : State) (c : Nat) (es : List Nat) : Prop :=
  (∀ e, e ∈ es → hasRoom s c e) ∧ es.Pairwise (fun a b => a ≠ b ∧ Preferred s c a b) ∧
    ∀ b, hasRoom s c b → b ∉ es → ∀ a, a ∈ es → Preferred s c a b

/-- Between `s` and `t` handle `h` of the pack's group has become `d`, the words of its slots are 0 when `zero`, and nothing
else outside the pack differs. -/
def HandleIs (s t : State) (g : Group) (h : Nat) (d : Handle) (at' : Handle) : Prop :=
  t = { s with pk := t.pk, groups := t.groups, cores := t.cores } ∧
    t.groups = tabPut s.groups s.pk.group { g with handles := tabPut g.handles h d } ∧
    ∀ k, t.core k = { s.core k with
      eng := { (s.core k).eng with
        acc := (t.core k).eng.acc, accSoft := (t.core k).eng.accSoft, accBad := (t.core k).eng.accBad } } ∧
      ∀ w, tabGet 0 (t.core k).eng.acc w = if Handle.occupies at' k (w / 24576) then 0 else tabGet 0 (s.core k).eng.acc w

/-! Services and saved state (R189, R309, R310). -/

/-- Number of a system call. -/
def serviceNumber : Instr → Option Nat
  | .sys _ _ _ n => some n.toNat
  | .stage1Invalidate .. => some 1
  | .stage1Root .. => some 2
  | .takePageRequest .. => some 3
  | .reply .. => some 4
  | .donateRetileFrames .. => some 5
  | _ => none

/-- What a write of `x` to word `w` of a side-buffer level leaves (R4, R31, R33, R188): bits 1-0 and 63-52 of a PC stay 0, and those
of a MEET but for V. -/
def levelKept (w : Nat) (x : Word) : Word :=
  if w < 16 ∨ 144 ≤ w then x
  else if w % 2 = 0 then x &&& 0xFFFFFFFC
  else if w < 80 then x &&& 0x000FFFFF
  else x &&& 0x800FFFFF

/-- Word `w` of a replay entry (R189): state, mask, the instruction's words, its PC, the request, 0, then the lane records. -/
def entryWord (e : Entry) (w : Nat) : Word :=
  let pc := e.pc.zeroExtend 64
  match [BitVec.ofNat 32 e.state, e.mask, e.w0, e.w1, pc.extractLsb' 0 32, pc.extractLsb' 32 32, BitVec.ofNat 32 e.req, 0][w]? with
  | some x => x
  | none => match tabFind e.lanes ((w - 8) / 8) with
    | some a => a.words.getD ((w - 8) % 8) 0
    | none => 0

/-! Monitor records (R103, R104). -/

/-- FLIPS, COOL, the four counters and RCOUNT are 0; the largest size class is as in `o`. -/
def Cleared (o m : Monitor) : Prop := m.flips = 0 ∧ m.cool = 0 ∧ m.get 63 24 = 0 ∧ m.get 12 11 = o.get 12 11

/-- The layout a class of tadvise asks for (R104): XRUN ROW, YRUN COL, BLOCK8 T8, BLOCK16 T16, BLOCK32 T32. -/
def adviceLayout (cls : Nat) : Option Nat := if cls < 5 then some cls else none

/-- The re-tile a page's record queues. -/
def asksFor (m : Monitor) (fmt : Nat) (why : RetileWhy) (layout frame old leaf : Nat) : Retile :=
  { part := m.part, tid := m.tid, page := m.page, fmt := fmt, why := why, layout := layout, oldFrame := frame, oldLayout := old, leaf := leaf }

/-- The core holds a translation of a page of a tensor, which fits its records. -/
def PageHeld (s : State) (r : TRec) (page : Nat) (t : Trans) : Prop :=
  (s.core s.here).tlb.find? (fun t => t.part = s.pk.part && t.vpn = (r.base + page * 65536) / 65536) = some t ∧
    t.misused r.use = false

/-! Reserving loops (R147-R152). -/

/-- A field of `n` bytes at offset `o` of the object at core `c`, offset `off`. -/
def loopField (s : State) (c off o n : Nat) : Nat := numberAt (byteAt (s.core c).vault) (off + o) n

/-- The loop object an instruction names: 64-byte aligned, in the vault, the group's own or its first, and not uncorrectable
(R272). -/
def LoopAt (s : State) (r : SReg) (g : Group) (c off : Nat) : Prop :=
  s.group s.pk.group = some g ∧ (s.pk.sreg r.toNat).toNat % 64 = 0 ∧
    s.vaultAddr s.pk.part s.pk.group (s.pk.sreg r.toNat) = some (c, off) ∧
    (g.loopObj = none ∨ g.loopObj = some (s.pk.sreg r.toNat).toNat) ∧ g.part = s.pk.part ∧ VaultsQuiet s

/-- Threads of the pack that ask for an item: live, and without one. -/
def asks (p : Pack) (l : Nat) : Bool := !(p.thread l).exited && (p.thread l).item == 0xFFFFFFFF

/-- Whether a thread holds an item that is not admitted. -/
def pendingLane (p : Pack) (l : Nat) : Bool := !(p.thread l).exited && (p.thread l).item != 0xFFFFFFFF && !(p.thread l).admitted

/-- Whether a thread holds an admitted item. -/
def admittedLane (p : Pack) (l : Nat) : Bool := !(p.thread l).exited && (p.thread l).admitted

/-- Bits of a key in a signature (R150). -/
def keyBits (k : DWord) : List Nat := [k.toNat % 256, (k.toNat / 256 ^^^ k.toNat) % 256]

/-- Whether both bits of some key of `a` are set in the signature of `b`. -/
def meets (a b : List DWord) : Bool := a.any fun k => (keyBits k).all fun n => b.any fun x => (keyBits x).contains n

/-- Whether two items conflict (R150). -/
def clash (a b : List DWord) : Bool :=
  if a.length ≤ 4 ∧ b.length ≤ 4 then a.any fun k => b.contains k else meets a b || meets b a

/-- The lanes `W` are the wave of the pack's pending items when `free` signature entries are free (R150): an item is in it
exactly when fewer than `free` items of the wave come before it and it conflicts with none of them. -/
def WaveOf (p : Pack) (free : Nat) (W : LaneMask) : Prop :=
  ∀ l, hasLane W l = true ↔ l < 32 ∧ pendingLane p l = true ∧
    (∀ m, hasLane W m = true → (p.thread m).item.toNat < (p.thread l).item.toNat →
      clash (p.thread m).claims (p.thread l).claims = false) ∧
    ((lanesOf W).countP fun m => decide ((p.thread m).item.toNat < (p.thread l).item.toNat)) < free

/-! Engine commands (R286). -/

/-- A PE instruction: its record register, its completion register or token, its coordinate registers, and the flag. -/
structure CommandForm where
  record : Option SReg
  bar : SReg
  tok : Bool
  coords : SReg
  copies : Bool
  deriving DecidableEq, Repr

/-- The twelve commands. -/
def commandForm : Instr → Option CommandForm
  | .cpy r c bar _ tok => some ⟨some r, bar, tok, c, true⟩
  | .cpyg r c bar _ tok => some ⟨some r, bar, tok, c, true⟩
  | .cpyf r c bar _ _ tok => some ⟨some r, bar, tok, c, true⟩
  | .mma r c bar _ tok => some ⟨some r, bar, tok, c, false⟩
  | .mmv r bar _ tok => some ⟨some r, bar, tok, 0, false⟩
  | .accdrain r c bar _ _ tok => some ⟨some r, bar, tok, c, false⟩
  | .accreduce r bar _ tok => some ⟨some r, bar, tok, 0, false⟩
  | .splgrid r bar _ tok => some ⟨some r, bar, tok, 0, false⟩
  | .splload r bar _ tok => some ⟨some r, bar, tok, 0, false⟩
  | .splmv r bar _ _ tok => some ⟨some r, bar, tok, 0, false⟩
  | .splgrad r bar _ tok => some ⟨some r, bar, tok, 0, false⟩
  | .splrefine bar _ tok => some ⟨none, bar, tok, 0, false⟩
  | _ => none

/-- The signal of a command whose completion operand passes step 1 of R286. -/
def SignalIs (s : State) (x : CommandForm) (sig : Signal) : Prop :=
  if x.tok then sig = .token x.bar.toNat
  else if s.pk.sreg x.bar.toNat = 0xFFFFFFFF then sig = .nothing
  else ∃ c o, barrierPlace s (s.pk.sreg x.bar.toNat) = some (c, o) ∧ sig = .barrier c o

/-- The record of a command that passes step 1. -/
def RecordIs (s : State) (x : CommandForm) (b : List Byte) : Prop :=
  match x.record with
  | none => b = []
  | some r => (s.pk.sreg r.toNat).toNat % 32 = 0 ∧ ∃ c o,
      s.vaultAddr s.pk.part s.pk.group (s.pk.sreg r.toNat) = some (c, o) ∧
        b = (List.range 32).map fun k => byteAt (s.core c).vault (o + k)

/-- Bytes `lo` to `lo + n - 1` of a record are 0. -/
def zeroFrom (b : List Byte) (lo n : Nat) : Prop := fieldAt b lo n = 0

/-- A pack's handle that is bound and that no accfree is about to unbind (R293). -/
def boundAs (s : State) (h : Nat) (d : Handle) : Prop :=
  ∃ g, s.group s.pk.group = some g ∧ tabFind g.handles h = some d ∧ d.bound = true ∧ d.freer = none

/-- Rows and columns of a handle for an accumulator type (R294, R296): 1 is FP64. -/
def tileShape (k : AccKind) (acc : Nat) : Nat × Nat :=
  let half := fun n => if acc = 1 then n / 2 else n
  match k with
  | .single => (128, half 192)
  | .split => (256, half 384)
  | .splgrad => (4096, half 20)

/-- Accumulator types of a pair of operand formats (R294). -/
def pairType (fa fb : Nat) : Option Nat :=
  if (fa = 5 ∨ fa = 6) ∧ (fb = 5 ∨ fb = 6) then some 0
  else if fa ≠ fb then none
  else if fa = 2 ∨ fa = 3 ∨ fa = 4 ∨ fa = 7 then some 0
  else if fa = 1 then some 1
  else if fa = 0x0B then some 2
  else none

/-- Coordinates of a tensor side: registers up to the rank, then 0. -/
def sideAt (r : TRec) (cs : List Word) : List Nat := (List.range 5).map fun i => if i < r.rank then (cs.getD i 0).toNat else 0

/-- A tile of `w` by `h` elements at these coordinates lies within the extents (R101). -/
def Within (r : TRec) (c : List Nat) (w h : Nat) : Prop :=
  c.getD 0 0 + w ≤ r.dim 0 ∧ c.getD 1 0 + h ≤ r.dim 1 ∧ ∀ i, 2 ≤ i → i < r.rank → i < 5 → c.getD i 0 < r.dim i

/-- FP32 tests of record fields. -/
def fin32 (x : Nat) : Prop := x / 2 ^ 23 % 256 ≠ 255
def less32 (x y : Nat) : Prop := f32Lt x y = true

/-- What the limits of R289-R303 leave a command: the tensors it names in order, the coordinates, the handle with its number
and new accumulator type, the engines it occupies and its feed. -/
structure CommandUse where
  tensors : List Nat := []
  ncoord : Nat := 0
  handle : Option (Nat × Handle) := none
  acc : Option Nat := none
  engines : List Nat := []
  feed : Nat := 3
  params : List Byte := []

/-- Engines of a handle. -/
def enginesOf (d : Handle) : List Nat := match d.kind with | .split => d.split.map (·.1) | _ => [d.engine]

/-- The limits of R299 and R48 on a grid record. -/
def GridOk (b : List Byte) : Prop :=
  fin32 (fieldAt b 0 4) ∧ fin32 (fieldAt b 4 4) ∧ less32 (fieldAt b 0 4) (fieldAt b 4 4) ∧ 1 ≤ fieldAt b 8 1 ∧ fieldAt b 8 1 ≤ 16 ∧
    1 ≤ fieldAt b 9 1 ∧ fieldAt b 9 1 ≤ 3 ∧ fieldAt b 10 1 ≤ 2 ∧ fieldAt b 8 1 + fieldAt b 9 1 ≤ 19 ∧ zeroFrom b 11 21

/-- The limits of R301 on the record of splmv and splgrad; `dy` where DY is used. -/
def VectorsOk (b : List Byte) (dy : Bool) : Prop :=
  fieldAt b 0 4 % 16 = 0 ∧ (if dy then fieldAt b 4 4 % 16 = 0 else fieldAt b 4 4 = 0) ∧ fieldAt b 8 2 % 16 = 0 ∧
    fieldAt b 10 2 % 16 = 0 ∧ 1 ≤ fieldAt b 12 1 ∧ fieldAt b 12 1 ≤ 64 ∧ 1 ≤ fieldAt b 13 1 ∧ fieldAt b 13 1 ≤ 64 ∧
    1 ≤ fieldAt b 14 1 ∧ fieldAt b 14 1 ≤ 8 ∧ fieldAt b 15 1 ≤ 7 ∧ fieldAt b 16 1 ≤ 1 ∧ zeroFrom b 17 15

/-- The limits each command's own rule sets (R289-R303), with the tensor records `ts` and the coordinates `cs`. -/
def CommandOk (i : Instr) (s : State) (b : List Byte) (ts : List TRec) (cs : List Word) (u : CommandUse) : Prop :=
  match i with
  | .cpy .. =>
    let ks := bits (fieldAt b 18 1) 1 0
    let kd := bits (fieldAt b 18 1) 3 2
    ks ≠ 3 ∧ kd ≠ 3 ∧ fieldAt b 18 1 < 16 ∧ zeroFrom b 19 1 ∧ 1 ≤ fieldAt b 16 2 ∧ 1 ≤ fieldAt b 20 4 ∧
      (ks = 1 → fieldAt b 0 8 < 2 ^ 32) ∧ (kd = 1 → fieldAt b 8 8 < 2 ^ 32) ∧
      (ks = 2 → fieldAt b 0 8 < 2 ^ 16 ∧ zeroFrom b 24 4) ∧ (kd = 2 → fieldAt b 8 8 < 2 ^ 16 ∧ zeroFrom b 28 4) ∧
      u = { tensors := (if ks = 2 then [fieldAt b 0 2] else []) ++ (if kd = 2 then [fieldAt b 8 2] else [])
            ncoord := (ts.map (·.rank)).sum, engines := [s.here], feed := 2 } ∧
      (∀ x y, x ∈ ts → y ∈ ts → elemBits x.fmt = elemBits y.fmt) ∧
      (∀ k x, ts[k]? = some x →
        let at' := sideAt x (cs.drop (if k = 0 then 0 else ((ts.headD x).rank)))
        Within x at' (fieldAt b 20 4) (fieldAt b 16 2) ∧ (x.fmt = 7 → at'.getD 0 0 % 32 = 0 ∧ fieldAt b 20 4 % 32 = 0)) ∧
      (kd = 2 → ∀ x, ts.getLast? = some x → x.paired = false)
  | .cpyg .. =>
    fieldAt b 10 1 ≤ 1 ∧ zeroFrom b 11 1 ∧ fieldAt b 12 4 % 4 = 0 ∧ 1 ≤ fieldAt b 16 4 ∧ fieldAt b 16 4 ≤ 65535 ∧
      zeroFrom b 28 4 ∧ (fieldAt b 10 1 = 1 → fieldAt b 0 8 < 2 ^ 32) ∧
      u = { tensors := [fieldAt b 8 2], ncoord := (ts.map (·.rank)).sum, engines := [s.here], feed := 2 } ∧
      ∀ x, ts[0]? = some x → Within x ((sideAt x cs).set 1 0) (fieldAt b 20 4) 0
  | .cpyf _ _ _ _ bside _ =>
    fieldAt b 2 1 ≤ 2 ∧ fieldAt b 3 1 ≤ 7 ∧ 1 ≤ fieldAt b 4 4 ∧ fieldAt b 4 4 ≤ 256 ∧ 1 ≤ fieldAt b 8 4 ∧ zeroFrom b 12 20 ∧
      ∃ d, boundAs s (fieldAt b 3 1) d ∧ d.kind ≠ .splgrad ∧
        u = { tensors := [fieldAt b 0 2], ncoord := (ts.map (·.rank)).sum, handle := some (fieldAt b 3 1, d)
              engines := [s.here], feed := if bside then 1 else 0 } ∧
        ∀ x, ts[0]? = some x →
          let n := fieldAt b 8 4 * (512 / elemBits x.fmt)
          (fieldAt b 2 1 = 1 → elemBits x.fmt = 8) ∧ (fieldAt b 2 1 = 2 → elemBits x.fmt = 16) ∧
            (x.fmt = 7 → (sideAt x cs).getD 0 0 % 32 = 0) ∧
            (if fieldAt b 2 1 = 0 then Within x (sideAt x cs) n (fieldAt b 4 4) else Within x (sideAt x cs) (fieldAt b 4 4) n)
  | .mma .. =>
    fieldAt b 4 4 ≤ 2 ^ 24 ∧ fieldAt b 12 1 ≤ 7 ∧ fieldAt b 13 1 ≤ 1 ∧
      (fieldAt b 14 2 = 0 ∨ ∃ k, k < 16 ∧ fieldAt b 14 2 = 2 ^ k) ∧ zeroFrom b 16 16 ∧
      ∃ d a x y, boundAs s (fieldAt b 12 1) d ∧ d.kind ≠ .splgrad ∧ ts[0]? = some x ∧ ts[1]? = some y ∧
        pairType x.fmt y.fmt = some a ∧
        fieldAt b 0 2 ≤ (tileShape d.kind a).1 ∧ fieldAt b 2 2 ≤ (tileShape d.kind a).2 ∧
        u = { tensors := [fieldAt b 8 2, fieldAt b 10 2], ncoord := 2, handle := some (fieldAt b 12 1, d), acc := some a
              engines := enginesOf d }
  | .mmv .. =>
    1 ≤ fieldAt b 2 2 ∧ fieldAt b 2 2 ≤ 8 ∧ fieldAt b 4 4 ≤ 2 ^ 24 ∧ fieldAt b 10 1 ≤ 7 ∧ fieldAt b 11 1 ≤ 1 ∧
      fieldAt b 12 4 % 16 = 0 ∧ fieldAt b 16 4 % 16 = 0 ∧ zeroFrom b 20 12 ∧
      ∃ d a x, boundAs s (fieldAt b 10 1) d ∧ d.kind ≠ .splgrad ∧ ts[0]? = some x ∧ pairType x.fmt x.fmt = some a ∧
        fieldAt b 0 2 ≤ (tileShape d.kind a).1 ∧
        u = { tensors := [fieldAt b 8 2], handle := some (fieldAt b 10 1, d), acc := some a, engines := enginesOf d }
  | .accreduce .. =>
    fieldAt b 0 1 ≤ 7 ∧ 2 ≤ ((List.range 8).countP fun k => bitOf (fieldAt b 1 1) k) ∧ bitOf (fieldAt b 1 1) (s.here % 8) = true ∧
      1 ≤ fieldAt b 2 2 ∧ fieldAt b 2 2 ≤ 128 ∧ 1 ≤ fieldAt b 4 2 ∧ fieldAt b 4 2 ≤ 192 ∧ zeroFrom b 6 2 ∧
      fieldAt b 8 4 % 256 = 0 ∧ zeroFrom b 12 20 ∧
      ∃ d, boundAs s (fieldAt b 0 1) d ∧ d.kind = .single ∧ d.engine = s.here ∧
        u = { handle := some (fieldAt b 0 1, d), engines := [s.here] }
  | .splgrid .. => GridOk b ∧ u = { engines := [s.here] }
  | .splload .. =>
    fieldAt b 0 8 % 8 = 0 ∧ 1 ≤ fieldAt b 10 1 ∧ 1 ≤ fieldAt b 11 1 ∧ fieldAt b 8 1 + fieldAt b 10 1 ≤ 64 ∧
      fieldAt b 9 1 + fieldAt b 11 1 ≤ 64 ∧ zeroFrom b 12 20 ∧ u = { engines := [s.here] }
  | .splmv _ _ _ dx _ =>
    VectorsOk b dx ∧ ∃ d, boundAs s (fieldAt b 15 1) d ∧ d.kind = .single ∧ d.engine = s.here ∧
      u = { handle := some (fieldAt b 15 1, d), acc := some 0, engines := [s.here] }
  | .splgrad .. =>
    VectorsOk b true ∧ fieldAt b 4 4 ≠ 0 ∧ ∃ d, boundAs s (fieldAt b 15 1) d ∧ d.kind = .splgrad ∧ d.engine = s.here ∧
      d.kg = (s.core s.here).eng.kg ∧ d.kord = (s.core s.here).eng.kord ∧
      u = { handle := some (fieldAt b 15 1, d), acc := some 0, engines := [s.here] }
  | .splrefine .. => u = { engines := [s.here] }
  | .accdrain .. =>
    let rows := fieldAt b 4 2
    let cols := fieldAt b 6 2
    let f := fun o n => fieldAt u.params o n
    fieldAt b 2 1 ≤ 7 ∧ fieldAt b 3 1 ≤ 2 ∧ 1 ≤ rows ∧ 1 ≤ cols ∧ zeroFrom b 16 16 ∧ (fieldAt b 3 1 ≠ 2 → zeroFrom b 8 8) ∧
      ∃ d x, boundAs s (fieldAt b 2 1) d ∧ ts[0]? = some x ∧
        (if d.acc = 0 then x.fmt = 2 ∨ x.fmt = 3 ∨ x.fmt = 4 ∨ x.fmt = 5 ∨ x.fmt = 6 ∨ (x.fmt = 7 ∧ fieldAt b 3 1 = 0)
          else if d.acc = 1 then x.fmt = 1 ∨ x.fmt = 2 else x.fmt = 8) ∧
        rows ≤ (tileShape d.kind d.acc).1 ∧ cols ≤ (tileShape d.kind d.acc).2 ∧ Within x (sideAt x cs) cols rows ∧
        (x.fmt = 7 → (sideAt x cs).getD 0 0 % 32 = 0 ∧ cols % 32 = 0) ∧
        u = { tensors := fieldAt b 0 2 :: (if fieldAt b 3 1 = 2 then [fieldAt b 8 2, fieldAt b 10 2] else []), ncoord := x.rank
              handle := some (fieldAt b 2 1, d), engines := enginesOf d, params := u.params } ∧
        (fieldAt b 3 1 ≠ 2 → u.params = []) ∧
        (fieldAt b 3 1 = 2 → d.acc = 0 ∧ fieldAt b 12 4 % 32 = 0 ∧
          (∃ c o, s.vaultAddr s.pk.part s.pk.group (BitVec.ofNat 32 (fieldAt b 12 4)) = some (c, o) ∧
            u.params = (List.range 32).map fun k => byteAt (s.core c).vault (o + k)) ∧
          fin32 (f 0 4) ∧ betaOk (f 4 4) = true ∧ betaOk (f 8 4) = true ∧ less32 0 (f 12 4) ∧ fin32 (f 16 4) ∧ f 20 4 ≠ 0 ∧
          fin32 (f 24 4) ∧ f 28 4 = 0 ∧ x.fmt = 2 ∧ x.paired = true ∧
          ∀ k y, 0 < k → ts[k]? = some y → y.fmt = 2 ∧ ∀ n, n < 5 → y.dim n = x.dim n)
  | _ => False

/-- The command as it enters its queue. -/
def Enters (i : Instr) (s t : State) (b : List Byte) (sig : Signal) (rs : List (List Byte)) (cs : List Word) (u : CommandUse) : Prop :=
  ∃ c : Cmd, t.cmds = tabPut s.cmds s.env.fresh c ∧ c.instr = i ∧ c.core = s.here ∧ c.record = b ∧ c.signal = sig ∧
    c.tensors = rs ∧ c.coords = cs ∧ c.params = u.params ∧ c.engines = u.engines ∧ c.feed = u.feed ∧
    c.handle = u.handle.map (·.2) ∧ (∀ h, u.handle = some h → c.handleNo = h.1) ∧ c.packNo = s.pk.packNo ∧ c.group = s.pk.group ∧
    c.part = s.pk.part ∧ c.priv = s.pk.priv ∧ s.time ≤ c.time ∧ c.state = .queued ∧ c.cursor = 0 ∧ c.fail = 0 ∧ c.staged = false

end Sys2Proof.Claims
end

