-- ==== Sys2Proof/Certificates/Slice0/TermsEvents.lean ====
section
/-! DEFINITION. The terms of the statements about host actions and device events (spec/01_device.md, spec/04_memories.md,
spec/07_queues.md, spec/08_tables.md, spec/09_counters_events.md). -/
namespace Sys2Proof.Claims

open Sys2Proof.Machine

/-- No pack is issuing: an event happens between instructions. -/
def Idle (s : State) : Prop := s.site = none

/-- Tables of cores and packs list each key once. -/
def Listed (s : State) : Prop := tabRising s.cores 0 = true ∧ ∀ c, tabRising (s.core c).packs 0 = true

/-! Reports of the MP (R166, R167, R184, R185). -/

/-- Every unread entry of the error log is of an earlier cycle. -/
def LogPast (s : State) : Prop :=
  ∀ k, k < 64 → s.mp.logvalid.getLsbD k = true → (tabGet s.mp.last s.mp.log k).time.toNat < s.time

/-- Between `s` and `t` one error event has been logged: its class counter has gone up by 1 and no other, and when a slot is
free and no other event of the cycle has been logged the lowest one holds the entry. -/
structure Logged (s t : State) (cls src part addr detail : Nat) : Prop where
  count : ∀ c, tabGet 0 t.mp.counters c = tabGet 0 s.mp.counters c + if c = cls then 1 else 0
  entry : LogPast s → ∀ k, k < 64 → s.mp.logvalid.getLsbD k = false → (∀ j, j < k → s.mp.logvalid.getLsbD j = true) →
    t.mp.logvalid = s.mp.logvalid ||| BitVec.twoPow 64 k ∧
      ∃ e, tabFind t.mp.log k = some e ∧ e.seq = BitVec.ofNat 64 (tabGet 0 s.mp.counters cls + 1) ∧
        e.addr = BitVec.ofNat 64 (addr % 2 ^ 52) ∧ e.detail = BitVec.ofNat 32 detail ∧
        e.info = BitVec.ofNat 32 (src % 2 ^ 12 + cls * 2 ^ 12 + part * 2 ^ 18)

/-- Between `s` and `t` one notification has been sent: it is in the ring when there is room and none waits, else at the end
of the MP's store, else counted in NLOST. -/
def Noted (s t : State) (code part : Nat) (detail : List Byte) : Prop :=
  ∃ n : Notice, n.code = code ∧ n.part = part ∧ n.detail = detail ∧ n.seq = s.mp.nseq + 1 ∧ t.mp.nseq = s.mp.nseq + 1 ∧
    ((s.mp.nhead - s.mp.ntail).toNat < 64 → s.mp.nstore = [] →
      tabFind t.mp.ring (s.mp.nhead.toNat % 64) = some n ∧ t.mp.nhead = s.mp.nhead + 1 ∧
        t.mp.msix = s.mp.msix + if s.mp.nhead = s.mp.ntail then 1 else 0) ∧
    (64 ≤ (s.mp.nhead - s.mp.ntail).toNat → s.mp.nstore.length < 1024 →
      t.mp.nstore = s.mp.nstore ++ [n] ∧ t.mp.nhead = s.mp.nhead) ∧
    (1024 ≤ s.mp.nstore.length → t.mp.nstore = s.mp.nstore ∧ t.mp.nhead = s.mp.nhead ∧
      t.mp.nlost.toNat = min (2 ^ 32 - 1) (s.mp.nlost.toNat + 1))

/-- The mailbox slot holds the end of a command. -/
def Answered (t : State) (code status : Nat) : Prop := t.mp.mailbox.code = code ∧ t.mp.mailbox.status = status

/-- Only the MP's own registers and the time stamps differ. -/
def OnlyMp (s t : State) : Prop := t = { s with mp := t.mp, stamps := t.stamps, env := t.env }

/-- Between `s` and `t` every stack has been trained (R94), in full or by restoring the values of the flash and retraining the lanes
that fail verification: a stack is trained when the lanes of each channel that cannot be trained find spare lanes there, the device
is enabled when all stacks are, and beside this only notifications differ. -/
def Retrained (full : Bool) (s t : State) : Prop :=
  let n := s.mp.training + 1
  let lanes := fun st x =>
    if full then Config.untrainedLanes n st x else min (Config.untrainedLanes n st x) (Config.failedLanes n st x)
  let lost := fun st k => lanes st (2 * k) + lanes st (2 * k + 1)
  let good := fun st => ∀ k, k < 32 → lost st k = 0 ∨ tabGet 0 s.mp.spares (32 * st + k) + lost st k ≤ Config.spareLanes
  (t.mp.enabled = true ↔ ∀ st, st < 8 → good st) ∧ (∀ st, st < 8 → (tabFind t.mp.trained st = some true ↔ good st)) ∧
    (∀ st, st < 8 → tabFind t.mp.delays st =
      if full then some (Config.laneValues n st)
      else (tabFind s.mp.flash (Config.stackSerial st)).map fun v =>
        if (List.range 64).all fun x => Config.failedLanes n st x = 0 then v else Config.retrainedValues n st v) ∧
    t = { s with
      stamps := t.stamps
      mp := { s.mp with
        training := n, enabled := t.mp.enabled, trained := t.mp.trained, flash := t.mp.flash, delays := t.mp.delays
        spares := t.mp.spares, ring := t.mp.ring, nhead := t.mp.nhead, nstore := t.mp.nstore, nlost := t.mp.nlost
        nseq := t.mp.nseq, msix := t.mp.msix } }

/-! Memory. -/

/-- No error mark, in memory or in the elision maps, and no frame still to be zeroed. -/
def Clean (s : State) : Prop :=
  s.home.bad = [] ∧ s.home.soft = [] ∧ s.home.zeroGroups = [] ∧ s.home.mapSoft = [] ∧ s.home.mapBad = []

/-- `n` bytes of memory from `a` up. -/
def heldBytes (s : State) (a n : Nat) : List Byte := (List.range n).map fun k => s.memByte (a + k)

/-- No block of the range is poisoned. -/
def Sound (s : State) (a n : Nat) : Prop := ∀ k, k < n → s.blockCode (a + k) ≠ 3

/-- Physical address of a local offset. -/
def localAt (s : State) (a : Nat) : Nat := s.mp.nodeId * 2 ^ 41 + a

/-! Packs in their slots. -/

/-- Only one pack differs. -/
def OnlySlot (s t : State) (c sl : Nat) : Prop :=
  t = { s with pk := t.pk, cores := t.cores } ∧ (∀ k, t.core k = { s.core k with packs := (t.core k).packs }) ∧
    ∀ k n, ¬(k = c ∧ n = sl) → t.packAt k n = s.packAt k n

/-- The only access in flight of a pack: lane `l` of instruction `i`, with its lane record. -/
structure InFlight (p : Pack) (e : Entry) (l : Nat) (w : LaneAcc) (i : Instr) : Prop where
  only : p.replay = [e]
  code : decode e.w0 e.w1 = .ok i
  lane : l < 32
  mask : e.mask = BitVec.twoPow 32 l
  words : e.lanes = [(l, w)]

/-- The flat address in a lane record (R189). -/
def recordVa (w : LaneAcc) : Nat := (w.words.getD 1 0 ++ w.words.getD 0 0).toNat

/-- The data of `n` bytes in a lane record, 4 or 8. -/
def recordData (w : LaneAcc) (n : Nat) : Nat := (w.words.getD 3 0 ++ w.words.getD 2 0).toNat % 256 ^ n

/-- The pack after the entry of lane `l` has come to phase `ph`. -/
def Moved (p q : Pack) (e : Entry) (l : Nat) (w : LaneAcc) (ph : Phase) : Prop :=
  q = { p with replay := [{ e with lanes := [(l, { w with phase := ph })] }] }

/-- A pack parked by one flat load whose lanes, all on one page, wait for the reply to page request `id` (R191): the entry's lane records,
and the pack's other state. -/
structure Parked (s : State) (c sl : Nat) (p : Pack) (e : Entry) (id : Nat) (q : PageReq) (w : Nat → LaneAcc) (va : Nat → Nat) : Prop where
  slot : s.packAt c sl = some p
  wait : p.wait = .parked
  req : p.req = none
  only : p.replay = [e]
  state : e.state = 2
  some : e.mask ≠ 0
  lanes : ∀ l, tabFind e.lanes l = if hasLane e.mask l then Option.some (w l) else none
  listed : tabRising e.lanes 0 = true
  parked : ∀ l, hasLane e.mask l = true → (w l).phase = .parked (Option.some id) (va l) ∧ (w l).reply = none ∧
    l < p.threads.length ∧ (p.thread l).exited = false
  pool : id < 2048 ∧ tabFind s.pages id = Option.some q ∧ q.waiter = .lanes e.id e.mask ∧ tabRising s.pages 0 = true
  alone : (∀ k r, (k, r) ∈ s.pages → k ≠ id → r.names e.id = false) ∧ s.overflow = []
  others : ∀ k n r, (k, n, r) ∈ s.residents → ¬(k = c ∧ n = sl) → r.replay = []

/-! Staged maps (R163). -/

/-- A record that holds units: valid and not suspended. -/
def holdsUnits (r : PartRec) : Bool := r.valid && !r.susp

/-- What R163 asks of a map: sets of guaranteed and margin units are disjoint; each borrowed unit lies in the margin of a
lender that allows it and has one borrower; guarantees are not empty and hold no retired unit; VFs are distinct. A record whose
SUSP is set needs no guarantee and lends nothing, and a newly borrowed unit is not in use (both the model's reading, log 14). -/
structure MapKept (s : State) (m : List PartRec) : Prop where
  clusters : ∀ k, k < 20 → ((m.filter (·.valid)).flatMap fun r => [r.clg, r.clm]).countP (·.getLsbD k) ≤ 1
  channels : ∀ k, k < 32 → ((m.filter (·.valid)).flatMap fun r => [r.cgg, r.cgm]).countP (·.getLsbD k) ≤ 1
  oneClb : ∀ k, k < 20 → (m.filter holdsUnits).countP (·.clb.getLsbD k) ≤ 1
  oneCgb : ∀ k, k < 32 → (m.filter holdsUnits).countP (·.cgb.getLsbD k) ≤ 1
  borrowedC : ∀ (p : Nat) (r : PartRec) (k : Nat), m[p]? = some r → holdsUnits r = true → k < 20 → r.clb.getLsbD k = true →
    (∃ (q : Nat) (x : PartRec), m[q]? = some x ∧ q ≠ p ∧ holdsUnits x = true ∧ x.lendok = true ∧ x.clm.getLsbD k = true) ∧
      ((s.part p).map.clb.getLsbD k = true ∨ ∀ gid g, (gid, g) ∈ s.groups → g.core / 8 = k → g.part ≠ p → g.away = true)
  borrowedG : ∀ (p : Nat) (r : PartRec) (k : Nat), m[p]? = some r → holdsUnits r = true → k < 32 → r.cgb.getLsbD k = true →
    (∃ (q : Nat) (x : PartRec), m[q]? = some x ∧ q ≠ p ∧ holdsUnits x = true ∧ x.lendok = true ∧ x.cgm.getLsbD k = true) ∧
      ((s.part p).map.cgb.getLsbD k = true ∨ s.groupBusy p k = false)
  least : ∀ r, r ∈ m → holdsUnits r = true → r.clg ≠ 0 ∧ r.cgg ≠ 0
  vfs : ∀ r, r ∈ m → r.valid = true → 1 ≤ r.vf ∧ r.vf ≤ 20
  distinct : ((m.filter (·.valid)).map (·.vf)).Nodup
  retired : ∀ r, r ∈ m → holdsUnits r = true → r.clg &&& s.mp.retiredClusters = 0 ∧ r.cgg &&& s.mp.retiredGroups = 0

/-- Between `s` and `t` the channel groups that the commit under way affects have been made quiet (R168): no line of a memory-side
cache lies on them and no re-tile there is under way; what runs is as before. -/
def UnitsQuiet (s t : State) : Prop :=
  t.groups = s.groups ∧ t.cores = s.cores ∧ t.pages = s.pages ∧
    (∀ x, x ∈ t.home.lines → s.lineOn s.leavingGroups x = false) ∧
    ∀ r, r ∈ t.home.retiles → r.stage = .published ∨ r.stage = .waiting ∨ s.retileLeaving r = false

/-- A clock the governor may set (R10). -/
def ClockOk (x : Nat) : Prop := 1200 ≤ x ∧ x ≤ 3100 ∧ x % 25 = 0

/-! Engine commands at work (R69, R70, R125, R287-R303). -/

/-- No accumulator word of a handle's engines has an error. -/
def AccClean (s : State) (h : Handle) : Prop :=
  ∀ e, e ∈ h.engines → (s.core e).eng.accSoft = [] ∧ (s.core e).eng.accBad = []

/-- No coefficient word of an engine has an error. -/
def CoefClean (s : State) (core : Nat) : Prop := (s.core core).eng.coefSoft = [] ∧ (s.core core).eng.coefBad = []

/-- Coefficient `k` of cell (o, i) of an engine. -/
def coefAt (s : State) (core o i k : Nat) : BitVec 16 := tabGet 0 (s.core core).eng.coef (20 * (64 * o + i) + k)

/-- The first `n` elements of row `r` of K-step `k`. -/
def rowOf (fmt n : Nat) (ks : List KStep) (k r : Nat) : List Machine.Num :=
  match ks[k]? with
  | some st => rowNums fmt n (st.rows.getD r []) (st.scales.getD r [])
  | none => []

/-- Some writes of a command, in order, as a view of memory: bytes, or one nibble of a byte. -/
def putsStored (m : Nat → Byte) (ps : List Put) : Nat → Byte :=
  ps.foldl (fun m p => stored m p.pa (match p.nibble with
    | some (high, x) =>
      let old := (m p.pa).toNat
      [BitVec.ofNat 8 (if high then old % 16 + 16 * x else old / 16 * 16 + x)]
    | none => p.bytes)) m

/-- The places of some writes are memory that takes them: each lies in one block of device memory that is not poisoned, and no byte
is written both whole and by nibbles. -/
structure Placed (s : State) (ps : List Put) : Prop where
  clean : Clean s
  sound : ∀ p, p ∈ ps → s.paKind p.pa = .hbm ∧ s.blockCode p.pa ≠ 3 ∧ p.pa % 128 + p.bytes.length ≤ 128
  apart : ∀ p q, p ∈ ps → q ∈ ps → p.nibble.isSome = true → q.nibble = none → ¬(q.pa ≤ p.pa ∧ p.pa < q.pa + q.bytes.length)

/-- Two partial sums of a reduction; one that no core contributes to passes the other on. -/
def joined : Option Nat → Option Nat → Option Nat
  | some x, some y => some (eAdd x y)
  | some x, none => some x
  | none, y => y

/-- The sum of positions `k * 2 ^ d` to `k * 2 ^ d + 2 ^ d - 1` in the tree of R70. -/
def treeSum (x : Nat → Option Nat) : Nat → Nat → Option Nat
  | 0, k => x k
  | d + 1, k => joined (treeSum x d (2 * k)) (treeSum x d (2 * k + 1))

/-- The sum that position `k` received at the highest level at which it received one (R298): it is the lowest of its subtree, and the
subtree to the right is not empty. -/
def lastReceived (x : Nat → Option Nat) (k : Nat) : Option Nat :=
  [2, 1, 0].findSome? fun d =>
    if k / 2 ^ d % 2 = 0 ∧ ∀ j, j < k → j / 2 ^ d = k / 2 ^ d → x j = none then treeSum x d (k / 2 ^ d + 1) else none

/-! Re-tiling (R105). -/

/-- Element (c, y) of a box under a layout, in a frame. -/
def elemIn (s : State) (frame layout : Nat) (x : BoxShape) (c y : Nat) : Nat :=
  s.frameElem frame x.bits (order layout x.h x.w c y)

/-- The work of a stack's re-tile engine may go on: the page is still mapped on the old frame, and no block of that is
uncorrectable (R107). -/
structure MayRetile (s : State) (r : Retile) : Prop where
  mapped : s.retileMapped r = true
  sound : ∀ segs, (∀ g, g ∈ segs → g < 256) → s.brokenBlock r.oldFrame segs = none

end Sys2Proof.Claims
end

