-- ==== Sys2Proof/Certificates/Slice0/Obligations.lean ====
section
/-! DEFINITION. The statements for the provers, each with the rules of spec/ it formalises. Where a clause rests on a choice
of the model's, its docstring names the log entry. -/
open Sys2Proof Sys2Proof.Machine Sys2Proof.Claims

/-! Lane instructions. -/

/-- R219-R230: the two-operand, one-operand and immediate integer forms write vd and nothing else; the guarded integer forms, the
integer comparisons and pset; the packed and byte forms, the pulls from other threads, and a vote over the active threads. -/
def Obligations.IntegerForms : Prop :=
  ((∀ i d a b f s, intBinary i = some (d, a, b, f) → Ready i s →
    ∃ t, exec i s = .next t ∧
      LaneDone (bytesOf i) unguarded (fun l u => put d (f (s.srcInt l u a) (u.r b.toNat))) 0 s t) ∧
  (∀ i d a f s, intUnary i = some (d, a, f) → Ready i s →
    ∃ t, exec i s = .next t ∧ LaneDone (bytesOf i) unguarded (fun l u => put d (f (s.srcInt l u a))) 0 s t) ∧
  ∀ i d a f s, intImmediate i = some (d, a, f) → Ready i s →
    ∃ t, exec i s = .next t ∧ LaneDone (bytesOf i) unguarded (fun _ u => put d (f (u.r a.toNat))) 0 s t) ∧
  (∀ i g e s, intWide i = some (g, e) → Ready i s →
    ∃ t, exec i s = .next t ∧ LaneDone (bytesOf i) g (fun _ u => e u) 0 s t) ∧
  (∀ i g pd f s, predForm i = some (g, pd, f) → Ready i s →
    ∃ t, exec i s = .next t ∧ LaneDone (bytesOf i) g (fun _ u => putPred pd (f u)) 0 s t) ∧
  ((∀ i d a b f s, packedForm i = some (d, a, b, f) → Ready i s →
    ∃ t, exec i s = .next t ∧
      LaneDone (bytesOf i) unguarded (fun l u => put d (f u (s.srcInt l u a) (u.r b.toNat))) 0 s t) ∧
  ∀ i d a b f s, pullFrom i = some (d, a, b, f) → Ready i s →
    ∃ t, exec i s = .next t ∧
      LaneDone (bytesOf i) unguarded (fun l u => put d (pulled s u b (f l (s.srcInt l u a)))) 0 s t) ∧
  ∀ (g : Guard) (mode : BitVec 2) (d : VReg) (pd p : BitVec 3) (neg : Bool) (s : State), Ready (.vote g mode d pd p neg) s →
    ∃ t, exec (.vote g mode d pd p neg) s = .next t ∧
      LaneDone 8 g (fun _ _ => voteEffect mode d pd (hasLane (activeOf s g)) fun l => (s.pk.thread l).pred p != neg) 0 s t

/-- R231-R233, with R42: the unguarded float forms in a pack in which no thread raises an exception that MODE traps. -/
def Obligations.FloatForms : Prop :=
  ∀ i e s, floatForm i = some e → Ready i s → NoTrap s s.act (fun l => (e s (s.pk.thread l)).2) →
    ∃ t, exec i s = .next t ∧
      LaneDone (bytesOf i) unguarded (fun _ u => (e s u).1) (flagsOf s.act fun l => (e s (s.pk.thread l)).2) s t

/-- R228, R234-R242, with R42: the guarded float forms, where no active thread raises an exception that MODE traps. -/
def Obligations.GuardedFloatForms : Prop :=
  ∀ i g e s, guardedFloat i = some (g, e) → Ready i s →
    NoTrap s (activeOf s g) (fun l => (e s (activeOf s g) l (s.pk.thread l)).2) →
    ∃ t, exec i s = .next t ∧
      LaneDone (bytesOf i) g (fun l u => (e s (activeOf s g) l u).1)
        (flagsOf (activeOf s g) fun l => (e s (activeOf s g) l (s.pk.thread l)).2) s t

/-- R42: threads that raise an exception whose trap MODE enables neither write nor move; the pack takes ARITH for exactly
those, every flag is set in FSTAT, and the other threads have run. -/
def Obligations.ArithTraps : Prop :=
  let trapping := fun (s : State) (on : LaneMask) (fl : Nat → Word) =>
    maskOf fun l => hasLane on l && (fl l &&& ((s.pk.mode >>> 4) &&& 0xF)) != 0
  (∀ i e s g, floatForm i = some e → Ready i s → MayTrap s g →
    let fl := fun l => (e s (s.pk.thread l)).2
    let bad : LaneMask := trapping s s.act fl
    bad ≠ 0 →
    ∃ t p k, exec i s = .next t ∧
      LanesDone (bytesOf i) unguarded (fun _ u => (e s u).1) (flagsOf s.act fl) (s.act &&& ~~~bad) s.pk p ∧
      Trapped p g .arith bad s.ipc.toNat 0 k s t) ∧
  ∀ i gd e s g, guardedFloat i = some (gd, e) → Ready i s → MayTrap s g →
    let on := activeOf s gd
    let fl := fun l => (e s on l (s.pk.thread l)).2
    let bad : LaneMask := trapping s on fl
    bad ≠ 0 →
    ∃ t p k, exec i s = .next t ∧
      LanesDone (bytesOf i) gd (fun l u => (e s on l u).1) (flagsOf on fl) (s.act &&& ~~~bad) s.pk p ∧
      Trapped p g .arith bad s.ipc.toNat 0 k s t

/-- R34, R243-R245, R247, R249: nop, yield, meet, unmeet, meetm, bra and jal; and jr, which goes to the address in its register pair
and writes the return address where it links. -/
def Obligations.LaneControl : Prop :=
  (∀ i g e s, controlForm i = some (g, e) → Ready i s →
    ∃ t, exec i s = .next t ∧ LaneDone (bytesOf i) g (e s.act) 0 s t) ∧
  ∀ (g : Guard) (link : Option VReg) (a : VReg) (s : State), Ready (.jr g link a) s →
    (∀ l, hasLane (activeOf s g) l = true → ((s.pk.thread l).r64 a.toNat).toNat < 2 ^ 52 ∧
      ((s.pk.thread l).r64 a.toNat).toNat % 4 = 0) →
    ∃ t, exec (.jr g link a) s = .next t ∧
      LaneDone 8 g (fun _ u =>
        { regs := match link with
            | some d => (put64 d ((branchTo u 8 0).zeroExtend 64)).regs
            | none => []
          goes := some (BitVec.ofNat 52 (u.r64 a.toNat).toNat) }) 0 s t

/-- R152, R246: the threads whose condition holds have exited, the other issuing threads move on, and every register is as
before; a pack with a live thread stays in its slot, and a pack without one leaves it. -/
def Obligations.ThreadsExit : Prop :=
  ∀ (pg : BitVec 3) (pn : Bool) (s : State) (c sl : Nat), Ready (.exit pg pn) s → s.site = some (c, sl) → s.pk.replay = [] →
    (∀ l, l < 32 → (s.pk.thread l).item = 0xFFFFFFFF) → s.loopAt s.pk.group = none →
    (∀ p, p ∈ s.allPacks → p.wait ≠ .admission) →
    let out := fun l => hasLane s.act l && (pg == 7 || (s.pk.thread l).p.getLsbD pg.toNat != pn)
    ∃ t, exec (.exit pg pn) s = .next t ∧
      ((∃ l, l < 32 ∧ (s.pk.thread l).exited = false ∧ out l = false) →
        t.site = s.site ∧ OnlyThreads s.pk t.pk ∧ t = { s with pk := t.pk, cores := t.cores } ∧
        (∀ k, t.core k = { s.core k with packs := (t.core k).packs }) ∧
        ∀ l, l < s.pk.threads.length →
          let a := s.pk.thread l
          SameButMeet (if out l then { a with exited := true, item := 0xFFFFFFFF, admitted := false, claims := [] }
            else if hasLane s.act l then { a with pc := a.pc + 4 } else a) (t.pk.thread l)) ∧
      ((∀ l, l < 32 → (s.pk.thread l).exited = true ∨ out l = true) →
        t.site = none ∧ t.packAt c sl = none)

/-- R12, R187, R188, R248: brk raises BREAK for its active threads, with its code in DETAIL; the PC of an active thread stays at the
brk, the other issuing threads move on. At a level of 1 or more the parent of the region of the level below handles it, at its own
TRAPBASE where that is not inherited, and the levels below are as before; with four levels in use the partition halts. -/
def Obligations.Breakpoint : Prop :=
  let moved := fun (gd : Guard) (s : State) => s.pk.onLanes (s.act &&& ~~~(activeOf s gd)) fun _ u => { u with pc := u.pc + 8 }
  let still := fun (s : State) => s.pk.replay = [] ∧ s.pk.late = [] ∧ (s.core s.here).stalls = [] ∧ (s.core s.here).allocs = []
  (∀ (gd : Guard) (code : BitVec 16) (s : State) (g : Group), Ready (.brk gd code) s → MayTrap s g → activeOf s gd ≠ 0 →
    ∃ t, exec (.brk gd code) s = .next t ∧
      Trapped (moved gd s) g .brk (activeOf s gd) s.ipc.toNat 0 code.toNat s t) ∧
  (∀ (gd : Guard) (code : BitVec 16) (s s1 s2 : State) (lv : Level) (r h : Rcb), Ready (.brk gd code) s → still s → activeOf s gd ≠ 0 →
    s.pk.priv ≠ .root → s.pk.sb.getLast? = some lv → s.pk.sb.length < 4 →
    State.readRcb { s with pk := moved gd s } s.here s.pk.part (lv.word64 176).toNat = (s1, some r) →
    s1.readRcb s.here s.pk.part r.parent = (s2, some h) → h.parent = 0 ∨ bitOf h.inherit 6 = false →
    ∃ t, exec (.brk gd code) s = .next t ∧ t = { s2 with pk := t.pk } ∧
      Entered (BitVec.ofNat 64 r.parent) (BitVec.ofNat 64 h.trapbase) (h.parent = 0) .brk (activeOf s gd) s.ipc.toNat 0 code.toNat
        (moved gd s) t.pk) ∧
  ∀ (gd : Guard) (code : BitVec 16) (s : State), Ready (.brk gd code) s → still s → activeOf s gd ≠ 0 → s.pk.sb.length = 4 →
    ∃ t, exec (.brk gd code) s = .next t ∧ (t.part s.pk.part).halted = true ∧ t.pk.sb = s.pk.sb ∧
      tabGet 0 t.mp.counters 15 = tabGet 0 s.mp.counters 15 + 1

/-! Lane memory instructions. -/

/-- R250, R251, R253, R258: a flat load of every active lane that passes the checks writes vd with the bytes at its physical
address, and leaves every byte of memory as it was. -/
def Obligations.FlatLoads : Prop :=
  ∀ i x d sg s, flatLoadForm i = some (x, d, sg) → Ready i s → Quiet s → Fresh s → FlatOpen s x .load →
    ∃ t, exec i s = .next t ∧
      LanesDone (bytesOf i) x.g (fun l _ => putWords d (loadWords sg (s.memBytes (flatPa s x l) x.n))) 0 s.act s.pk t.pk ∧
      (∀ p, t.memByte p = s.memByte p) ∧ OnlyMemory s t

/-- R250-R253, R258: a flat store of every active lane that passes the checks stores the low bytes of its data register at
its physical address, a higher lane over a lower one, and no other byte of memory differs. -/
def Obligations.FlatStores : Prop :=
  ∀ i x d s, flatStoreForm i = some (x, d) → Ready i s → Quiet s → FlatOpen s x .store →
    Unchecked s x.g →
    ∃ t, exec i s = .next t ∧ LanesDone (bytesOf i) x.g (fun _ _ => {}) 0 s.act s.pk t.pk ∧
      (∀ p, t.memByte p = storedAll s.memByte ((lanesOf (activeOf s x.g)).map fun l =>
        (flatPa s x l, dataBytes (s.pk.thread l) d.toNat x.n)) p) ∧ OnlyMemory s t

/-- R121, R252, R257, R259-R261, R263: the flat atomics and the reductions without a barrier are done lane by lane, each
reading what the lanes before it left; vd takes what its lane read. -/
def Obligations.FlatAtomics : Prop :=
  ∀ i x d f s, flatAtomic i = some (x, d, f) → Ready i s → Quiet s → FlatOpen s x .rmw →
    Unchecked s x.g → s.granted .atom = true →
    let r := serial x.n (flatPa s x) (fun l => f (s.pk.thread l)) (lanesOf (activeOf s x.g)) s.memByte
    ∃ t, exec i s = .next t ∧ LanesDone (bytesOf i) x.g (fun l _ => oldValue d x.n r.2 l) 0 s.act s.pk t.pk ∧
      (∀ p, t.memByte p = r.1 p) ∧ OnlyMemory s t

/-- R254, R257-R260: vault loads, stores and atomics, lane by lane, in the bytes of the vaults; flat memory is as before. -/
def Obligations.VaultAccesses : Prop :=
  (∀ i x d s, vaultLoadForm i = some (x, d) → Ready i s → Quiet s → VaultsQuiet s → VaultOpen s x →
    ∃ t, exec i s = .next t ∧
      LanesDone (bytesOf i) x.g
        (fun l _ => putWords d (loadWords false ((List.range x.n).map fun k => vaultView s (vaultAt s x l + k))))
        0 s.act s.pk t.pk ∧
      (∀ p, vaultView t p = vaultView s p) ∧ OnlyVaults s t) ∧
  ∀ i x d f s, vaultUpdate i = some (x, d, f) → Ready i s → Quiet s → VaultsQuiet s → VaultOpen s x →
    let r := serial x.n (vaultAt s x) (fun l => f (s.pk.thread l)) (lanesOf (activeOf s x.g)) (vaultView s)
    ∃ t, exec i s = .next t ∧ LanesDone (bytesOf i) x.g (fun l _ => oldValue d x.n r.2 l) 0 s.act s.pk t.pk ∧
      (∀ p, vaultView t p = r.1 p) ∧ OnlyVaults s t

/-- R101, R250-R252, R255, R256, R262: a tensor access of every active lane whose element lies within the extents, to an
unpaired tensor whose record the core holds: loads write vd, stores and read-modify-writes change the elements' bytes only. -/
def Obligations.TensorAccesses : Prop :=
  ∀ i x f r s, tensorForm i = some (x, f) → Ready i s → Quiet s → Fresh s → Described s (x.tid s) r →
    r.paired = false → r.fmt ≠ 7 → f.fits r = true → TensorOpen s r x f.ask → Unchecked s x.g →
    (f.ask = .rmw → s.granted .atom = true) →
    ∃ t, exec i s = .next t ∧
      LanesDone (bytesOf i) x.g (fun l _ => (tensorDone s r x f).2 l) 0 s.act { s.pk with req := none } t.pk ∧
      (∀ p, t.memByte p = (tensorDone s r x f).1 p) ∧ OnlyTensors s t

/-- R178, R179, R263: a reduction that names a barrier is done at its address, and each active lane arrives once at the
barrier; no other vault byte differs. -/
def Obligations.ReductionsWithBarrier : Prop :=
  (∀ (g : Guard) (a b : VReg) (la : BitVec 4) (ty : AtomTy) (op : AtomOp) (ord : MemOrd) (sc : Scope) (x : SReg) (bar : SReg)
      (s : State) (c off : Nat), Ready (.red g a b la ty op ord sc x (some bar)) s → Quiet s → VaultsQuiet s →
    FlatOpen s ⟨g, a, x, atomBytes ty⟩ .rmw → Unchecked s g → s.granted .atom = true →
    barrierPlace s (s.pk.sreg bar.toNat) = some (c, off) →
    let r := serial (atomBytes ty) (flatPa s ⟨g, a, x, atomBytes ty⟩)
      (fun l old => some (atomResult ty op old (dataNat (s.pk.thread l) b.toNat (atomBytes ty)))) (lanesOf (activeOf s g)) s.memByte
    ∃ t, exec (.red g a b la ty op ord sc x (some bar)) s = .next t ∧
      LanesDone 8 g (fun _ _ => {}) 0 s.act s.pk t.pk ∧ (∀ p, t.memByte p = r.1 p) ∧
      barrierAt t c off = (barrierAt s c off).arrivals (lanesOf (activeOf s g)).length ∧ OtherVault s t c off 16) ∧
  ∀ (g : Guard) (a b : VReg) (la : BitVec 4) (op : AtomOp) (ord : MemOrd) (sc : Scope) (x : SReg) (bar : SReg)
      (s : State) (r : TRec) (c off : Nat), Ready (.tred g a b la op ord sc x (some bar)) s → Quiet s → VaultsQuiet s →
    Described s ((s.pk.sreg x.toNat).toNat % 65536) r → r.paired = false → r.fmt ≠ 7 →
    TensorDoes.fits r (.update none b op) = true → TensorOpen s r ⟨g, a, x⟩ .rmw → Unchecked s g → s.granted .atom = true →
    barrierPlace s (s.pk.sreg bar.toNat) = some (c, off) →
    ∃ t, exec (.tred g a b la op ord sc x (some bar)) s = .next t ∧
      LanesDone 8 g (fun _ _ => {}) 0 s.act { s.pk with req := none } t.pk ∧
      (∀ p, t.memByte p = (tensorDone s r ⟨g, a, x⟩ (.update none b op)).1 p) ∧
      barrierAt t c off = (barrierAt s c off).arrivals (lanesOf (activeOf s g)).length ∧ OtherVault s t c off 16

/-- R149, R271: claim and tclaim add the key of each issuing thread's address or element to its item, once. -/
def Obligations.Claims : Prop :=
  let added := fun (i : Instr) (s : State) (key : Nat → DWord) =>
    (∀ l, hasLane s.act l = true → (s.pk.thread l).exited = false ∧ (s.pk.thread l).item ≠ 0xFFFFFFFF ∧
      (s.pk.thread l).admitted = false ∧ (key l ∈ (s.pk.thread l).claims ∨ (s.pk.thread l).claims.length < 64)) →
    ∃ t, exec i s = .next t ∧ OnlyPack s t ∧ OnlyThreads { s.pk with req := t.pk.req } t.pk ∧
      ∀ l, l < s.pk.threads.length →
        let a := s.pk.thread l
        SameButMeet (if hasLane s.act l then
          { a with pc := a.pc + 4, claims := if key l ∈ a.claims then a.claims else a.claims ++ [key l] } else a)
          (t.pk.thread l)
  (∀ (c : VReg) (la : BitVec 4) (x : SReg) (s : State), Ready (.claim c la x) s →
    let va := fun l => ((s.pk.s64 x.toNat).toNat + ((s.pk.thread l).r c.toNat).toNat) % 2 ^ 64
    (∀ l, hasLane s.act l = true → va l < 2 ^ 52) →
    added (.claim c la x) s fun l => BitVec.ofNat 64 (va l / 4)) ∧
  ∀ (c : VReg) (la : BitVec 4) (x : SReg) (s : State) (r : TRec), Ready (.tclaim c la x) s →
    let tid := (s.pk.sreg x.toNat).toNat % 65536
    Described s tid r → r.fmt ≠ 7 →
    (∀ l, hasLane s.act l = true → r.inside (laneCoords s r ⟨unguarded, c, x⟩ l) = true) →
    added (.tclaim c la x) s fun l => BitVec.ofNat 64
      (2 ^ 63 + tid * 2 ^ 47 + r.logical (laneCoords s r ⟨unguarded, c, x⟩ l) * (elemBits r.fmt / 8) / 4 % 2 ^ 47)

/-- R86, R122, R123, R264, R265: a fence waits until the pack's accesses have performed; then, wider than .grp, it empties the
core's L1, at .dev or .sys it waits for the replicas, and at .grp or .cl for those on its own die; no byte of memory or vault differs, and the pack moves on. -/
def Obligations.Fences : Prop :=
  let done := fun (sc : Scope) (s t : State) =>
    (∀ p, t.memByte p = s.memByte p) ∧ (∀ p, vaultView t p = vaultView s p) ∧
      (sc = .cl ∨ sc = .dev ∨ sc = .sys → (t.core s.here).l1 = []) ∧ (sc = .dev ∨ sc = .sys → t.home.replicaLag = []) ∧
      (sc = .grp ∨ sc = .cl → ∀ x, x ∈ t.home.replicaLag ↔ x ∈ s.home.replicaLag ∧ sliceDie (s.slice x.1) = dieOf s.here) ∧
      t = { s with pk := t.pk, home := { s.home with replicaLag := t.home.replicaLag }, cores := t.cores } ∧
      ∀ c, t.core c = { s.core c with l1 := (t.core c).l1 }
  (∀ (g : Guard) (sc : Scope) (s : State), Ready (.fence g sc) s → activeOf s g ≠ 0 →
    if s.pk.replay.all (·.mask == 0) then
      ∃ t, exec (.fence g sc) s = .next t ∧ LanesDone 8 unguarded (fun _ _ => {}) 0 s.act s.pk t.pk ∧ done sc s t
    else ∃ t, exec (.fence g sc) s = .next t ∧ OnlyPack s t ∧ PackWaits .drain s.pk t.pk) ∧
  ∀ (sc : Scope) (s : State), Ready (.sfence sc) s →
    if s.pk.replay.all (·.mask == 0) then
      ∃ t, exec (.sfence sc) s = .next t ∧ PackDone 8 {} s.pk t.pk ∧ done sc s t
    else ∃ t, exec (.sfence sc) s = .next t ∧ OnlyPack s t ∧ PackWaits .drain s.pk t.pk

/-- R187-R192, R251, R253: where flat loads are misaligned in some lanes, those lanes trap together: ALIGN, their mask, the address of
the lowest; the load enters the replay queue for them, FAULT_PENDING, and the other lanes have completed. Where the page of the lanes is
refused recoverably, nothing traps: the load enters the queue for them, one page request is queued that serves them all, and the pack
parks. The reply that resolves it makes the load run again and the pack go on; one that does not is MEMFAULT with the load in the queue. -/
def Obligations.FaultingLoads : Prop :=
  (∀ i x d sg s g, flatLoadForm i = some (x, d, sg) → Ready i s → Quiet s → Fresh s → MayTrap s g →
      let bad : LaneMask := maskOf fun l => hasLane (activeOf s x.g) l && decide (flatVa s x l % x.n ≠ 0)
      bad ≠ 0 → (∀ l, hasLane (activeOf s x.g) l = true → flatVa s x l < 2 ^ 52) →
      (∀ l, hasLane (activeOf s x.g) l = true → hasLane bad l = false →
        Reaches s .load .flat (flatVa s x l) (flatPa s x l)) →
      ∃ t lv e, exec i s = .next t ∧ t.pk.sb = [lv] ∧ lv.entries = [e] ∧ e.state = 2 ∧ e.mask = bad ∧
        encode i = (if hasSecondWord e.w0 then [e.w0, e.w1] else [e.w0]) ∧
        lv.word 0 = BitVec.ofNat 32 (5 + 16 * s.pk.priv.code) ∧ lv.word 1 = bad ∧ lv.word64 2 = s.ipc.zeroExtend 64 ∧
        lv.word64 4 = BitVec.ofNat 64 (flatVa s x ((lanesOf bad).headD 0)) ∧ lv.word 7 = 1 ∧
        t.pk.priv = (if g.root then .root else .handler) ∧
        (∀ l, l < 32 → (s.pk.thread l).exited = false →
          lv.word64 (16 + 2 * l) = ((s.pk.thread l).pc +
            (if hasLane s.act l then BitVec.ofNat 52 (bytesOf i) else 0)).zeroExtend 64 ∧
          (t.pk.thread l).pc = s.pk.trapbase.extractLsb' 0 52 + 0x280) ∧
        (∀ l r, l < s.pk.threads.length → (t.pk.thread l).r r =
          if hasLane (activeOf s x.g) l && !hasLane bad l then
            ((putWords d (loadWords sg (s.memBytes (flatPa s x l) x.n))).regs.lookup r).getD ((s.pk.thread l).r r)
          else (s.pk.thread l).r r) ∧
        ∀ p, t.memByte p = s.memByte p) ∧
  (∀ i x d sg s v ad stage2, flatLoadForm i = some (x, d, sg) → Ready i s → Quiet s → activeOf s x.g ≠ 0 →
    (∀ l, hasLane (activeOf s x.g) l = true → flatVa s x l % x.n = 0 ∧ flatVa s x l / 2 ^ 16 = v) → v < 2 ^ 36 →
    Refused s .load .flat (flatVa s x ((lanesOf (activeOf s x.g)).headD 0)) ad stage2 →
    s.pageMayTake (s.part s.pk.part).map.vf = true → (∃ id, id < 2048 ∧ tabFind s.pages id = none) →
    (∀ k q, (k, q) ∈ s.pages → q.names s.env.fresh = false) → (∀ q, q ∈ s.overflow → q.names s.env.fresh = false) →
    ∃ t id q e, exec i s = .next t ∧ t.pk.wait = .parked ∧ t.pk.replay = [e] ∧ e.state = 2 ∧ e.mask = activeOf s x.g ∧
      encode i = (if hasSecondWord e.w0 then [e.w0, e.w1] else [e.w0]) ∧ e.pc = s.ipc ∧ e.req = id + 1 ∧
      (∀ l, hasLane (activeOf s x.g) l = true → ∃ w, tabFind e.lanes l = some w ∧ recordVa w = flatVa s x l ∧ w.reply = none ∧
        w.phase = .parked (some id) (flatVa s x l)) ∧
      tabFind s.pages id = none ∧ (∀ k, tabFind t.pages k = if k = id then some q else tabFind s.pages k) ∧
      q = { fn := (s.part s.pk.part).map.vf, part := s.pk.part, stage2 := stage2, access := 0, addr := ad, page := ad / 2 ^ 16
            time := q.time, src := s.here, waiter := .lanes e.id (activeOf s x.g) } ∧
      (∀ l, l < s.pk.threads.length → SameButMeet (if hasLane s.act l then
        { s.pk.thread l with pc := (s.pk.thread l).pc + BitVec.ofNat 52 (bytesOf i) } else s.pk.thread l) (t.pk.thread l)) ∧
      ∀ p, t.memByte p = s.memByte p) ∧
  ∀ i x d sg s c sl p e id q w va, flatLoadForm i = some (x, d, sg) → decode e.w0 e.w1 = .ok i → Idle s → Listed s → Clean s →
    s.env.defer = false → Parked s c sl p e id q w va → q.stage2 = true →
    let v : State := { s with site := some (c, sl), pk := { p with priv := e.priv } }
    ((∀ l, hasLane e.mask l = true → recordVa (w l) < 2 ^ 52 ∧ recordVa (w l) % x.n = 0 ∧
        Reaches v .load .flat (recordVa (w l)) (heldPa v (recordVa (w l)))) →
      ∃ t r, exec (.preply (BitVec.ofNat 64 id) false) s = .next t ∧ Answered t 9 0 ∧ tabFind t.pages id = none ∧
        t.packAt c sl = some r ∧ r.wait = .none ∧ r.replay = [] ∧
        (∀ l n, (r.thread l).r n = if hasLane e.mask l then
          ((putWords d (loadWords sg (s.memBytes (heldPa v (recordVa (w l))) x.n))).regs.lookup n).getD ((p.thread l).r n)
          else (p.thread l).r n) ∧
        ∀ a, t.memByte a = s.memByte a) ∧
    ∀ g, MayTrap { v with pk := { p with replay := [] } } g →
      ∃ t r lv f, exec (.preply (BitVec.ofNat 64 (id + 2 ^ 16)) false) s = .next t ∧ Answered t 9 0 ∧ tabFind t.pages id = none ∧
        t.packAt c sl = some r ∧ r.wait = .none ∧ r.replay = [] ∧ r.sb = [lv] ∧ lv.entries = [f] ∧ f.state = 2 ∧ f.mask = e.mask ∧
        f.w0 = e.w0 ∧ f.w1 = e.w1 ∧ lv.word 0 = BitVec.ofNat 32 (3 + 16 * p.priv.code) ∧ lv.word 1 = e.mask ∧
        lv.word64 2 = e.pc.zeroExtend 64 ∧ lv.word64 4 = BitVec.ofNat 64 (va ((lanesOf e.mask).headD 0)) ∧ lv.word 7 = 1 ∧
        ∀ l n, (r.thread l).r n = (p.thread l).r n

/-- R111, R112, R255, R256: on a paired tensor tstp writes each active lane's element into both images; a load reads image B
where the lanes of its page make a YRUN, else A; tst, tatom and tred raise PAIRED in every active lane, and store nothing. -/
def Obligations.PairedTensors : Prop :=
  (∀ (d c : VReg) (la : BitVec 4) (x : SReg) (s : State) (r : TRec), Ready (.tstp d c la x) s → Quiet s → Fresh s →
    let q : TensorPlace := ⟨unguarded, c, x⟩
    Described s (q.tid s) r → r.paired = true → r.fmt ≠ 7 → ImagesOpen s r q .rmw (fun _ _ => True) → Unchecked s unguarded →
    ∃ t, exec (.tstp d c la x) s = .next t ∧ LanesDone 4 unguarded (fun _ _ => {}) 0 s.act { s.pk with req := none } t.pk ∧
      (∀ p, t.memByte p = storedAll s.memByte ((lanesOf s.act).flatMap fun l => [false, true].map fun img =>
        (imagePa s r img (laneCoords s r q l), dataBytes (s.pk.thread l) d.toNat (elemBits r.fmt / 8))) p) ∧
      OnlyTensors s t) ∧
  (∀ (d c : VReg) (la : BitVec 4) (x : SReg) (s : State) (r : TRec), Ready (.tld d c la x) s → Quiet s → Fresh s →
    let q : TensorPlace := ⟨unguarded, c, x⟩
    Described s (q.tid s) r → r.paired = true → r.fmt ≠ 7 →
    ImagesOpen s r q .load (fun l img => img = imageRead s r q l) →
    ∃ t, exec (.tld d c la x) s = .next t ∧
      LanesDone 4 unguarded (fun l _ => putWords d (loadWords (r.fmt = 0x0A ∨ r.fmt = 0x0B)
        (s.memBytes (imagePa s r (imageRead s r q l) (laneCoords s r q l)) (elemBits r.fmt / 8))))
        0 s.act { s.pk with req := none } t.pk ∧
      (∀ p, t.memByte p = s.memByte p) ∧ OnlyTensors s t) ∧
  ∀ i x f r s g, tensorForm i = some (x, f) → (∀ d, f ≠ .load d) → (∀ d c la y, i ≠ .tstp d c la y) →
    Ready i s → Quiet s → Fresh s → MayTrap s g → Described s (x.tid s) r → r.paired = true → r.fmt ≠ 7 → f.fits r = true →
    ImagesOpen s r x f.ask (fun _ img => img = false) → (f.ask = .rmw → s.granted .atom = true) → activeOf s x.g ≠ 0 →
    ∃ t lv e, exec i s = .next t ∧ t.pk.sb = [lv] ∧ lv.entries = [e] ∧ e.state = 2 ∧ e.mask = activeOf s x.g ∧
      encode i = (if hasSecondWord e.w0 then [e.w0, e.w1] else [e.w0]) ∧
      lv.word 0 = BitVec.ofNat 32 (7 + 16 * s.pk.priv.code) ∧ lv.word 1 = activeOf s x.g ∧
      lv.word64 2 = s.ipc.zeroExtend 64 ∧
      (let c := laneCoords s r x ((lanesOf (activeOf s x.g)).headD 0)
       lv.word64 4 = BitVec.ofNat 64 (r.base + r.page c * 65536 + imagePa s r false c % 65536)) ∧ lv.word 7 = 1 ∧
      t.pk.priv = (if g.root then .root else .handler) ∧
      (∀ l, l < 32 → (s.pk.thread l).exited = false →
        lv.word64 (16 + 2 * l) = ((s.pk.thread l).pc +
          (if hasLane s.act l then BitVec.ofNat 52 (bytesOf i) else 0)).zeroExtend 64 ∧
        (t.pk.thread l).pc = s.pk.trapbase.extractLsb' 0 52 + 0x380) ∧
      (∀ l r, l < s.pk.threads.length → (t.pk.thread l).r r = (s.pk.thread l).r r) ∧
      ∀ p, t.memByte p = s.memByte p

/-! Pack instructions. -/

/-- R276-R279: uniform arithmetic, selection, votes and constants. -/
def Obligations.UniformForms : Prop :=
  ∀ i f s, uniformForm i = some f → Ready i s →
    ∃ t, exec i s = .next t ∧ OnlyPack s t ∧ PackDone (bytesOf i) (f s.pk) s.pk t.pk

/-- R280, R281: sbra, scall and sret move every live thread to their target where the condition holds, else to the next
instruction, and scall links in s62:s63; a misaligned target of sret is ALIGN, one with bits 63-52 set MEMFAULT; ssleep
waits from the TIME of its issue. -/
def Obligations.PackBranches : Prop :=
  let moves := fun (i : Instr) (s : State) (e : PackEffect) => ∃ t, exec i s = .next t ∧ OnlyPack s t ∧ PackDone 4 e s.pk t.pk
  (∀ (qg : BitVec 3) (qn : Bool) (off : BitVec 19) (s : State), Ready (.sbra qg qn off) s →
    (packTaken s.pk qg qn → moves (.sbra qg qn off) s { goes := some (packTarget s.ipc off) }) ∧
    (¬packTaken s.pk qg qn → moves (.sbra qg qn off) s {})) ∧
  (∀ (qg : BitVec 3) (qn : Bool) (off : BitVec 19) (s : State), Ready (.scall qg qn off) s →
    (packTaken s.pk qg qn → moves (.scall qg qn off) s
      { putS64 62 ((s.ipc + 4).zeroExtend 64) with goes := some (packTarget s.ipc off) }) ∧
    (¬packTaken s.pk qg qn → moves (.scall qg qn off) s {})) ∧
  (∀ (qg : BitVec 3) (qn : Bool) (s : State), Ready (.sret qg qn) s →
    let a := (s.pk.s64 62).toNat
    (packTaken s.pk qg qn → a % 4 = 0 → a < 2 ^ 52 → moves (.sret qg qn) s { goes := some (BitVec.ofNat 52 a) }) ∧
    (¬packTaken s.pk qg qn → moves (.sret qg qn) s {}) ∧
    ∀ g, packTaken s.pk qg qn → MayTrap s g →
      (a % 4 ≠ 0 → ∃ t, exec (.sret qg qn) s = .next t ∧ Trapped s.pk g .align s.pk.live s.ipc.toNat a 0 s t) ∧
      (a % 4 = 0 → 2 ^ 52 ≤ a → ∃ t, exec (.sret qg qn) s = .next t ∧
        Trapped s.pk g .memfault s.pk.live s.ipc.toNat a 0 s t)) ∧
  ∀ (qg : BitVec 3) (qn : Bool) (n : BitVec 19) (s : State), Ready (.ssleep qg qn n) s →
    (packTaken s.pk qg qn → n ≠ 0 → ∃ t, exec (.ssleep qg qn n) s = .next t ∧ OnlyPack s t ∧
      PackWaits (.sleep (s.time + n.toNat)) s.pk t.pk) ∧
    (¬(packTaken s.pk qg qn ∧ n ≠ 0) → moves (.ssleep qg qn n) s {})

/-- R43, R51, R53, R282: sget reads a special register or a control word; one of MODE, FSTAT and JOINTIME waits until the
pack's accesses have completed. The values of %energy, and of %wave without a loop object, are free (log 6, log 7). -/
def Obligations.SpecialReads : Prop :=
  (∀ (d : SReg) (sel : BitVec 6) (idx : BitVec 4) (ws : List Word) (s : State), Ready (.sget d false sel idx) s →
    specialWords s sel.toNat = some ws →
    ∃ t, exec (.sget d false sel idx) s = .next t ∧ OnlyPack s t ∧ PackDone 4 (putSs d ws) s.pk t.pk) ∧
  (∀ (d : SReg) (idx : BitVec 4) (s : State), Ready (.sget d false 8 idx) s →
    ∃ t x, exec (.sget d false 8 idx) s = .next t ∧ PackDone 4 (putS64 d x) s.pk t.pk) ∧
  (∀ (d : SReg) (idx : BitVec 4) (g : Group) (s : State), Ready (.sget d false 13 idx) s →
    s.group s.pk.group = some g → g.loopObj = none →
    ∃ t x, exec (.sget d false 13 idx) s = .next t ∧ PackDone 4 (putS d x) s.pk t.pk) ∧
  ∀ (d : SReg) (sel : BitVec 6) (idx : BitVec 4) (ws : List Word) (s : State), Ready (.sget d true sel idx) s →
    controlWords s sel.toNat idx.toNat = some ws →
    (Drained s ∨ (sel ≠ 0 ∧ sel ≠ 1 ∧ sel ≠ 3) →
      ∃ t, exec (.sget d true sel idx) s = .next t ∧ OnlyPack s t ∧ PackDone 4 (putSs d ws) s.pk t.pk) ∧
    (¬Drained s → sel = 0 ∨ sel = 1 ∨ sel = 3 →
      ∃ t, exec (.sget d true sel idx) s = .next t ∧ OnlyPack s t ∧ PackWaits .drain s.pk t.pk)

/-- R43, R49, R50, R53: sset writes one control word, but for its reserved bits, and no other; a write of TTBASE drops the
partition's tensor records; a QMIN or QCAP that breaks the limits raises OPERAND and changes nothing. -/
def Obligations.ControlWrites : Prop :=
  ∀ (sel : BitVec 6) (a : SReg) (s : State), Ready (.sset sel a) s →
    let limits := queuesAfter s sel.toNat (s.pk.sreg a.toNat)
    let fits := 7 ≤ sel.toNat → queueLimits limits.1 limits.2
    (Drained s ∨ (sel ≠ 0 ∧ sel ≠ 1 ∧ sel ≠ 3) →
      (fits →
        ∃ t, exec (.sset sel a) s = .next t ∧
          t = { s with pk := t.pk, parts := t.parts, env := { s.env with fresh := t.env.fresh } } ∧
          controlWords t sel.toNat 0 = some (controlKept sel.toNat (s.pk.sreg a.toNat) (s.pk.s64 a.toNat)) ∧
          (∀ k, k < 13 → k ≠ sel.toNat → controlWords t k 0 = controlWords s k 0) ∧
          PackDone 4 {} { s.pk with
            mode := t.pk.mode, fstat := t.pk.fstat, seed := t.pk.seed, jointime := t.pk.jointime, trapbase := t.pk.trapbase } t.pk ∧
          (∀ p, p ≠ s.pk.part → t.part p = s.part p) ∧
          t.part s.pk.part = { s.part s.pk.part with
            ttbase := (t.part s.pk.part).ttbase, joincap := (t.part s.pk.part).joincap, qmin := (t.part s.pk.part).qmin
            qcap := (t.part s.pk.part).qcap, records := if sel = 5 then [] else (s.part s.pk.part).records }) ∧
      ∀ g, ¬fits → MayTrap s g →
        ∃ t, exec (.sset sel a) s = .next t ∧ Trapped s.pk g .operand s.pk.live s.ipc.toNat 0 0 s t) ∧
    (¬Drained s → sel = 0 ∨ sel = 1 ∨ sel = 3 →
      ∃ t, exec (.sset sel a) s = .next t ∧ OnlyPack s t ∧ PackWaits .drain s.pk t.pk)

/-- R283: rdv reads consecutive vault words into consecutive s registers, and wrv writes them; no other vault byte differs. -/
def Obligations.VaultWords : Prop :=
  let place := fun (s : State) (va : Word) (k : Nat) =>
    match s.vaultAddr s.pk.part s.pk.group (va + BitVec.ofNat 32 (4 * k)) with
    | some (c, o) => c * 2 ^ 22 + o
    | none => 0
  let isOpen := fun (s : State) (va : Word) (n : Nat) => va.toNat % 4 = 0 ∧ ∀ k, k < n → ∃ c o,
    s.vaultAddr s.pk.part s.pk.group (va + BitVec.ofNat 32 (4 * k)) = some (c, o) ∧ o + 4 ≤ 2 ^ 22
  (∀ (d a : SReg) (cnt : BitVec 4) (off : BitVec 16) (s : State), Ready (.rdv d a cnt off) s → VaultsQuiet s →
    s.env.defer = false →
    let va := s.pk.sreg a.toNat + off.zeroExtend 32
    isOpen s va (cnt.toNat + 1) →
    ∃ t, exec (.rdv d a cnt off) s = .next t ∧ OnlyPack s t ∧
      PackDone 8 (putSs d ((List.range (cnt.toNat + 1)).map fun k => BitVec.ofNat 32 (numberAt (vaultView s) (place s va k) 4)))
        s.pk t.pk) ∧
  ∀ (a b : SReg) (cnt : BitVec 4) (off : BitVec 16) (s : State), Ready (.wrv a b cnt off) s → VaultsQuiet s →
    let va := s.pk.sreg a.toNat + off.zeroExtend 32
    isOpen s va (cnt.toNat + 1) →
    ∃ t, exec (.wrv a b cnt off) s = .next t ∧ OnlyVaultBytes s t ∧ PackDone 8 {} s.pk t.pk ∧
      ∀ p, vaultView t p = storedAll (vaultView s) ((List.range (cnt.toNat + 1)).map fun k =>
        (place s va k, bytesOfNat 4 (s.pk.sreg (b.toNat + k)).toNat)) p

/-- R140, R178, R179, R266-R268, R270: bar.init writes the object, bar.arrive and bar.expect update it, and stg.done arrives at
its own side's barrier of the stage and advances the cursor; nothing else of any vault differs. A count of 0 is OPERAND. -/
def Obligations.BarrierUpdates : Prop :=
  (∀ (a : SReg) (n : CountSrc) (s : State) (c off : Nat), Ready (.barInit a n) s → VaultsQuiet s →
    barrierPlace s (s.pk.sreg a.toNat) = some (c, off) →
    let k := match n with
      | .imm n => n.toNat
      | .reg b => (s.pk.sreg b.toNat).toNat % 2 ^ 16
    (k ≠ 0 → ∃ t, exec (.barInit a n) s = .next t ∧ PackDone 8 {} s.pk t.pk ∧
      barrierAt t c off = ⟨0, 0, k, 0, false, false, false, 0⟩ ∧ OnlyBarrier s t c off) ∧
    ∀ g, k = 0 → MayTrap s g →
      ∃ t, exec (.barInit a n) s = .next t ∧ Trapped s.pk g .operand s.pk.live s.ipc.toNat 0 0 s t) ∧
  (∀ (sc : Scope) (a : SReg) (s : State) (c off : Nat), Ready (.barArrive sc a) s → VaultsQuiet s → s.env.defer = false →
    barrierPlace s (s.pk.sreg a.toNat) = some (c, off) →
    (Drained s → ∃ t, exec (.barArrive sc a) s = .next t ∧ PackDone 8 {} s.pk t.pk ∧
      barrierAt t c off = (barrierAt s c off).arrive 0 false ∧ OnlyArrival s t c off) ∧
    (¬Drained s → ∃ t, exec (.barArrive sc a) s = .next t ∧ OnlyPack s t ∧ PackWaits .drain s.pk t.pk)) ∧
  (∀ (a b : SReg) (s : State) (c off : Nat), Ready (.barExpect a b) s → VaultsQuiet s → s.env.defer = false →
    barrierPlace s (s.pk.sreg a.toNat) = some (c, off) →
    ∃ t, exec (.barExpect a b) s = .next t ∧ PackDone 8 {} s.pk t.pk ∧
      barrierAt t c off = (barrierAt s c off).expect (s.pk.sreg b.toNat).toNat ∧ OnlyBarrier s t c off) ∧
  ∀ (a b : SReg) (s : State) (c off : Nat), Ready (.stgDone a b) s → VaultsQuiet s → s.env.defer = false → Drained s →
    let cur := s.pk.sreg b.toNat
    cursorOk cur → (s.pk.sreg a.toNat).toNat % 32 = 0 →
    barrierPlace s (ringBarrier (s.pk.sreg a.toNat) cur (cursorConsumer cur)) = some (c, off) →
    ∃ t, exec (.stgDone a b) s = .next t ∧ PackDone 8 (putS b (cursorAdvanced cur)) s.pk t.pk ∧
      barrierAt t c off = (barrierAt s c off).arrive 0 false ∧ OnlyArrival s t c off

/-- R140, R266, R269, R270: bar.wait passes once PHASE differs from sb[0], and stg.wait once the other side's barrier is in the
phase of the pass; until then the pack waits; bar.test reads the object. -/
def Obligations.BarrierWaits : Prop :=
  let stat := fun (d : Option SReg) (b : Barrier) => match d with
    | some d => putS d (BitVec.ofNat 32 ((if b.pfault then 2 else 0) + if b.phase then 1 else 0))
    | none => ({} : PackEffect)
  (∀ (sc : Scope) (d : Option SReg) (a b : SReg) (s : State) (c off : Nat), Ready (.barWait sc d a b) s → VaultsQuiet s →
    barrierPlace s (s.pk.sreg a.toNat) = some (c, off) →
    let odd := (s.pk.sreg b.toNat).getLsbD 0
    ((barrierAt s c off).phase ≠ odd → ∃ t, exec (.barWait sc d a b) s = .next t ∧
      PackDone 8 (stat d (barrierAt s c off)) s.pk t.pk ∧ Acquired sc s t) ∧
    ((barrierAt s c off).phase = odd → ∃ t, exec (.barWait sc d a b) s = .next t ∧ OnlyPack s t ∧
      PackWaits (.barrier c off (!odd)) s.pk t.pk)) ∧
  (∀ (sc : Scope) (d a b : SReg) (s : State) (c off : Nat), Ready (.barTest sc d a b) s → VaultsQuiet s → s.env.defer = false →
    barrierPlace s (s.pk.sreg a.toNat) = some (c, off) →
    let o := barrierAt s c off
    let done := o.phase != (s.pk.sreg b.toNat).getLsbD 0
    ∃ t, exec (.barTest sc d a b) s = .next t ∧ Acquired (if done then sc else .grp) s t ∧
      PackDone 8 (putS d (BitVec.ofNat 32 (o.arr * 2 ^ 16 + (if o.phase then 8 else 0) + (if o.fault then 4 else 0) +
        (if o.pfault then 2 else 0) + if done then 1 else 0))) s.pk t.pk) ∧
  ∀ (d : Option SReg) (a b : SReg) (s : State) (c off : Nat), Ready (.stgWait d a b) s → VaultsQuiet s →
    let cur := s.pk.sreg b.toNat
    cursorOk cur → (s.pk.sreg a.toNat).toNat % 32 = 0 →
    barrierPlace s (ringBarrier (s.pk.sreg a.toNat) cur (!cursorConsumer cur)) = some (c, off) →
    let want := cursorPass cur != cursorConsumer cur
    ((barrierAt s c off).phase = want → ∃ t, exec (.stgWait d a b) s = .next t ∧ OnlyPack s t ∧
      PackDone 8 (stat d (barrierAt s c off)) s.pk t.pk) ∧
    ((barrierAt s c off).phase ≠ want → ∃ t, exec (.stgWait d a b) s = .next t ∧ OnlyPack s t ∧
      PackWaits (.barrier c off want) s.pk t.pk)

/-- R26, R32, R134, R135, R284, R285: acquire by a pack that alone waits on its unit takes the full allotment when the blocks are
free and energy admission allows its group, with new registers 0, and waits where either is not so; release returns to the prologue
allotment once no register above it is pending. -/
def Obligations.Allotments : Prop :=
  (∀ (s : State) (c sl : Nat), Ready .acquire s → s.site = some (c, sl) →
    (s.pk.full = true ∨ s.pk.fullBlocks ≤ s.pk.pro →
      ∃ t, exec .acquire s = .next t ∧ OnlyPack s t ∧ PackDone 8 {} s.pk t.pk) ∧
    (s.pk.full = false → s.pk.pro < s.pk.fullBlocks → (∀ k p, (k, p) ∈ (s.core c).packs → k / 12 = sl / 12 → k ≠ sl → p.wait ≠ .acquire) →
      tabRising (s.core c).packs 0 = true →
      let w := (s.block .acquire).flush
      (s.pk.fullBlocks - s.pk.pro ≤ w.freeBlocks c (sl / 12) ∧ (w.acquireEnergy { s.pk with wait := .acquire }).2 = true →
        ∃ t, exec .acquire s = .next t ∧ t.site = s.site ∧
          PackDone 8 {} { s.pk with
            full := true, wait := .none
            threads := s.pk.threads.map fun u => { u with v := u.v.filter fun (r, _) => decide (r < 8 * s.pk.pro) } } t.pk) ∧
      (w.freeBlocks c (sl / 12) < s.pk.fullBlocks - s.pk.pro ∨ (w.acquireEnergy { s.pk with wait := .acquire }).2 = false →
        ∃ t, exec .acquire s = .next t ∧ t.site = s.site ∧ PackWaits .acquire s.pk t.pk))) ∧
  ∀ (s : State), Ready .release s →
    let upper := s.pk.pend.any fun q => match q.reg with
      | .v n => decide (8 * s.pk.pro ≤ n)
      | _ => false
    (s.pk.full = false → ∃ t, exec .release s = .next t ∧ OnlyPack s t ∧ PackDone 8 {} s.pk t.pk) ∧
    (s.pk.full = true → upper = true → ∃ t, exec .release s = .next t ∧ OnlyPack s t ∧ PackWaits .registers s.pk t.pk) ∧
    (s.pk.full = true → upper = false → ∃ t, exec .release s = .next t ∧ OnlyPack s t ∧
      PackDone 8 {} { s.pk with
        full := false
        threads := s.pk.threads.map fun u => { u with v := u.v.filter fun (r, _) => decide (r < 8 * s.pk.pro) } } t.pk)

/-- R45, R46, R292, R293: accalloc binds the handle to slots chosen by the rule, lowest free slot first, zeroes them, and records
the grid for SPLGRAD; it waits while no placement exists, and behind an earlier one of its core that waits for the same handle; a
bound handle or one too many is ENGINE with DETAIL 2 (the DETAIL of a bound handle is a reading, log 31). accfree unbinds the handle
once no command of its group that names it is unfinished, and waits till then; an unbound one, or one that another pack's accfree is
about to unbind, is ENGINE. -/
def Obligations.HandleAllocation : Prop :=
  (∀ (h : BitVec 3) (kind : AccKind) (s : State) (g : Group) (sl : Nat), Ready (.accalloc h kind) s →
      s.site = some (s.here, sl) → s.group s.pk.group = some g → (s.core s.here).allocs = [] ∨ (s.core s.here).allocs = [sl] →
    let free := (∀ d, tabFind g.handles h.toNat = some d → d.bound = false) ∧
      g.slotsHeld + (if kind = .single then 1 else 4) ≤ g.acc
    let c := s.here
    let e := (s.core c).eng
    let base : Handle := { kind := kind, engine := c, slot := 0, split := [], kg := e.kg, kord := e.kord, audit := 0 }
    let left := s.modCore c fun k => { k with allocs := [] }
    let binds := fun (d : Handle) => ∃ t, exec (.accalloc h kind) s = .next t ∧ PackDone 8 {} s.pk t.pk ∧
      HandleIs left t g h.toNat d d
    let waits := ∃ t, exec (.accalloc h kind) s = .next t ∧ PackWaits (.handle h kind) s.pk t.pk ∧
      t = { s with pk := t.pk, cores := t.cores } ∧ ∀ k, t.core k = if k = c then { s.core k with allocs := [sl] } else s.core k
    (free → kind = .single → ∀ a, FirstChoices s c [a] → binds { base with engine := a, slot := lowSlot s a }) ∧
    (free → kind = .split → ∀ a b x y, FirstChoices s c [a, b, x, y] →
      binds { base with engine := a, slot := lowSlot s a, split := [a, b, x, y].map fun k => (k, lowSlot s k) }) ∧
    (free → kind = .splgrad → ∀ i, i < 3 → (∀ k, k < 4 → slotFree s c (i + k) = true) →
      (∀ j, j < i → ∃ k, k < 4 ∧ slotFree s c (j + k) = false) → binds { base with slot := i }) ∧
    (free → (kind = .single ∧ (∀ a, a / 8 = c / 8 → roomOf s a = 0)) ∨
        (kind = .split ∧ ((List.range 8).countP fun k => decide (0 < roomOf s (c / 8 * 8 + k))) < 4) ∨
        (kind = .splgrad ∧ ∀ i, i < 3 → ∃ k, k < 4 ∧ slotFree s c (i + k) = false) →
      waits) ∧
    (¬free → MayTrap s g →
      ∃ t, exec (.accalloc h kind) s = .next t ∧ Trapped s.pk g .engine s.pk.live s.ipc.toNat 0 2 s t)) ∧
  (∀ (h : BitVec 3) (kind k : AccKind) (s : State) (c sl e : Nat) (q : Pack), Ready (.accalloc h kind) s → s.site = some (c, sl) →
    (s.core c).allocs = [e] → e ≠ sl → s.packAt c e = some q → q.wait = .handle h k → q.group = s.pk.group →
    ∃ t, exec (.accalloc h kind) s = .next t ∧ PackWaits (.handle h kind) s.pk t.pk ∧ t = { s with pk := t.pk, cores := t.cores } ∧
      ∀ n, t.core n = if n = c then { s.core n with allocs := [e, sl] } else s.core n) ∧
  ∀ (h : BitVec 3) (s : State) (g : Group), Ready (.accfree h) s → s.group s.pk.group = some g →
    let busy := s.cmds.any fun (_, k) => k.group = s.pk.group && k.handleNo = h.toNat && k.handle.isSome
    (∀ d, tabFind g.handles h.toNat = some d → d.bound = true →
      (d.freer = none ∨ d.freer = some s.pk.packNo →
        (busy = false → ∃ t, exec (.accfree h) s = .next t ∧ PackDone 8 {} s.pk t.pk ∧
          HandleIs s t g h.toNat { d with bound := false, freer := none } d) ∧
        (busy = true → ∃ t, exec (.accfree h) s = .next t ∧ PackWaits (.freeing h.toNat) s.pk t.pk ∧
          t = { s with pk := t.pk, groups := t.groups } ∧ t.groups = tabPut s.groups s.pk.group { g with
            handles := tabPut g.handles h.toNat { d with freer := some s.pk.packNo } })) ∧
      ∀ n, d.freer = some n → n ≠ s.pk.packNo → MayTrap s g →
        ∃ t, exec (.accfree h) s = .next t ∧ Trapped s.pk g .engine s.pk.live s.ipc.toNat 0 2 s t) ∧
    ((∀ d, tabFind g.handles h.toNat = some d → d.bound = false) → MayTrap s g →
      ∃ t, exec (.accfree h) s = .next t ∧ Trapped s.pk g .engine s.pk.live s.ipc.toNat 0 2 s t)


/-- R17-R19, R304: node.reg registers a node in a free slot of the partition's range when its record keeps R13 and its RCB can
be read, and answers with the slot; a slot outside the range, or in use, is rejected and logged in class 11. -/
def Obligations.NodeRegistration : Prop :=
  ∀ (d a b : SReg) (s : State), Ready (.nodeReg d a b) s →
    let va := (s.pk.s64 a.toNat).toNat
    let slot := (s.pk.sreg b.toNat).toNat % 2 ^ 16
    let mine := (s.part s.pk.part).slotLo ≤ slot ∧ slot < (s.part s.pk.part).slotHi
    (¬Drained s → va % 128 = 0 → ∃ t, exec (.nodeReg d a b) s = .next t ∧ OnlyPack s t ∧ PackWaits .drain s.pk t.pk) ∧
    (∀ g, va % 128 ≠ 0 → MayTrap s g →
      ∃ t, exec (.nodeReg d a b) s = .next t ∧ Trapped s.pk g .align s.pk.live s.ipc.toNat va 0 s t) ∧
    (Drained s → va % 128 = 0 → s.env.defer = false → s.home.replicaLag = [] →
      (¬(mine ∧ tabFind s.sched.nodes slot = none) → ∃ t, exec (.nodeReg d a b) s = .next t ∧
        PackDone 8 (putS d (BitVec.ofNat 32 slot)) s.pk t.pk ∧ t.sched = s.sched ∧
        tabGet 0 t.mp.counters 11 = tabGet 0 s.mp.counters 11 + 1) ∧
      ∀ s1 rec n, mine → tabFind s.sched.nodes slot = none →
        s.readVA s.here s.pk.part .root va 128 = (s1, .ok (rec, false)) → parseNode s.pk.part rec = some n → n.count ≠ 0 →
        (s1.registerRcb (.core s.here s.pk.priv) s.pk.part n).2 = true →
        ∃ t, exec (.nodeReg d a b) s = .next t ∧ PackDone 8 (putS d (BitVec.ofNat 32 (slot + 2 ^ 16))) s.pk t.pk ∧
          t.sched = { s.sched with nodes := tabPut s.sched.nodes slot n })

/-- R19, R22, R305, R306: node.dec takes its amount off the count of a node that is not ready, which becomes ready when that
reaches 0; a slot without such a node is logged in class 11, and an amount of 0 has no effect; node.done completes the issuing group's node. -/
def Obligations.NodeUpdates : Prop :=
  (∀ (a b : SReg) (s : State), Ready (.nodeDec a b) s →
    let slot := (s.pk.sreg a.toNat).toNat % 2 ^ 16
    let k := (s.pk.sreg b.toNat).toNat
    (¬Drained s → ∃ t, exec (.nodeDec a b) s = .next t ∧ OnlyPack s t ∧ PackWaits .drain s.pk t.pk) ∧
    (Drained s → ∃ t, exec (.nodeDec a b) s = .next t ∧ PackDone 8 {} s.pk t.pk ∧ t.home.replicaLag = [] ∧
      (k = 0 → t.sched = s.sched ∧ t.mp = s.mp) ∧
      (k ≠ 0 → (∀ n, tabFind s.sched.nodes slot = some n → n.ready = true) →
        t.sched = s.sched ∧ tabGet 0 t.mp.counters 11 = tabGet 0 s.mp.counters 11 + 1) ∧
      ∀ n, k ≠ 0 → tabFind s.sched.nodes slot = some n → n.ready = false →
        (k < n.count → t.mp = s.mp ∧ tabFind t.sched.nodes slot = some { n with count := n.count - k } ∧
          ∀ j, j ≠ slot → tabFind t.sched.nodes j = tabFind s.sched.nodes j) ∧
        (n.count ≤ k → ∀ m, tabFind t.sched.nodes slot = some m → m.ready = true))) ∧
  ∀ (s : State) (g : Group) (n : Node), Ready .nodeDone s → s.group s.pk.group = some g → tabFind s.sched.nodes g.slot = some n →
    (¬Drained s → ∃ t, exec .nodeDone s = .next t ∧ OnlyPack s t ∧ PackWaits .drain s.pk t.pk) ∧
    (Drained s → ∃ t, exec .nodeDone s = .next t ∧ PackDone 8 {} s.pk t.pk ∧ t.home.replicaLag = [] ∧
      ∀ m, tabFind t.sched.nodes g.slot = some m → m.done = true)

/-- R104, R110: tpin, tunpin and tadvise on one mapped page of an unpaired tiled tensor: the transitions of the page's monitor
record, and the re-tile they queue; other pages' records are as before, and a count of 0 does nothing. tquery answers the record of
a page that the core holds a translation of, and no record changes; 15 for a page of a linear tensor. That a record is listed from
the first time it is looked up, and what it then holds, is R103; the listing itself is the model's way to keep it. -/
def Obligations.LayoutControl : Prop :=
  (let runs := fun (i : Instr) (a b : SReg) (cnt : BitVec 24) (s : State) (r : TRec) (page : Nat) (held : Trans)
      (move : Monitor → State → Monitor → State → Prop) =>
    Ready i s → Described s ((s.pk.sreg a.toNat).toNat % 2 ^ 16) r → (s.pk.sreg b.toNat).toNat = page →
    s.home.monSoft = [] → s.home.monBad = [] →
    (cnt = 0 → ∃ t, exec i s = .next t ∧ OnlyPack s t ∧ PackDone 8 {} { s.pk with req := none } t.pk) ∧
    (cnt = 1 → r.linear = false → r.paired = false → page < r.boxes → PageHeld s r page held →
      ∃ t, exec i s = .next t ∧ PackDone 8 {} { s.pk with req := none } t.pk ∧
        t = { s with pk := t.pk, home := { s.home with monitors := t.home.monitors, retiles := t.home.retiles } } ∧
        (∀ tid p x, ¬(tid = (s.pk.sreg a.toNat).toNat % 2 ^ 16 ∧ p = page) → t.monitor s.pk.part tid p x = s.monitor s.pk.part tid p x) ∧
        move (s.monitor s.pk.part ((s.pk.sreg a.toNat).toNat % 2 ^ 16) page r) s
          (t.monitor s.pk.part ((s.pk.sreg a.toNat).toNat % 2 ^ 16) page r) t)
  let same := fun (s t : State) => t.home.retiles = s.home.retiles
  (∀ (a b : SReg) (l : BitVec 4) (cnt : BitVec 24) (s : State) (r : TRec) (page : Nat) (x : Trans),
    (l = 8 → r.square = true) →
    runs (.tpin a b l cnt) a b cnt s r page x fun m s n t =>
      (m.state = 1 → n.state = 1 ∧ n.pinreq = true ∧ n.pinl = l.toNat ∧ same s t) ∧
      (m.state ≠ 1 → l.toNat = x.layout → n.state = 3 ∧ n.pinreq = false ∧ same s t) ∧
      (m.state ≠ 1 → l.toNat ≠ x.layout → n.state = 1 ∧ n.pinreq = true ∧ n.pinl = l.toNat ∧
        t.home.retiles = s.home.retiles ++ [asksFor m r.fmt .pin l.toNat x.frame x.layout x.leaf])) ∧
  (∀ (a b : SReg) (cnt : BitVec 24) (s : State) (r : TRec) (page : Nat) (x : Trans),
    runs (.tunpin a b cnt) a b cnt s r page x fun m s n t =>
      same s t ∧ (m.state = 3 → r.pinned = false → n.state = 0 ∧ Cleared m n) ∧
      (m.state = 1 → n.state = 1 ∧ n.pinreq = false) ∧ (m.state = 0 ∨ m.state = 2 ∨ (m.state = 3 ∧ r.pinned = true) → n = m)) ∧
  ∀ (a b : SReg) (cls : BitVec 3) (un : Bool) (cnt : BitVec 24) (s : State) (r : TRec) (page : Nat) (x : Trans),
    runs (.tadvise a b cls un cnt) a b cnt s r page x fun m s n t =>
      let cool := if m.state = 2 then 0 else m.cool
      let asked := adviceLayout cls.toNat
      let stable := m.state = 0 ∨ (m.state = 2 ∧ un = true)
      (¬stable → n = m ∧ same s t) ∧
      (stable → 0 < cool → n.state = 0 ∧ n.cool = cool - 1 ∧ same s t) ∧
      (stable → cool = 0 → asked = none ∨ asked = some x.layout → n.state = 0 ∧ n.cool = 0 ∧ same s t) ∧
      ∀ l, stable → cool = 0 → asked = some l → l ≠ x.layout →
        (s.retileCount (s.stackOfFrame x.frame) < 128 →
          n.state = 1 ∧ t.home.retiles = s.home.retiles ++ [asksFor m r.fmt .monitor l x.frame x.layout x.leaf]) ∧
        (128 ≤ s.retileCount (s.stackOfFrame x.frame) → n.state = 0 ∧ same s t)) ∧
  ∀ (d a b : SReg) (img : Bool) (s : State) (r : TRec) (x : Trans), Ready (.tquery d a b img) s → s.env.defer = false →
    let tid := (s.pk.sreg a.toNat).toNat % 2 ^ 16
    let page := (s.pk.sreg b.toNat).toNat
    let m := s.monitor s.pk.part tid page r
    Described s tid r → page < r.boxes → (img = true → r.paired = true) → s.home.monSoft = [] → s.home.monBad = [] →
    (s.core s.here).tlb.find? (fun t => t.part = s.pk.part && t.vpn = (r.image img + page * 65536) / 65536) = some x →
    x.misused r.use = false → x.allows .load s.pk.priv = true →
    ∃ t, exec (.tquery d a b img) s = .next t ∧ t = { s with pk := t.pk, home := { s.home with monitors := t.home.monitors } } ∧
      (r.linear = true → t.home.monitors = s.home.monitors) ∧
      (r.linear = false → ∀ tid' p x, t.monitor s.pk.part tid' p x =
        if tid' = tid ∧ p = page then m else s.monitor s.pk.part tid' p x) ∧
      PackDone 8 (putS d (BitVec.ofNat 32 (if r.linear then 15 else m.cool * 2 ^ 10 + m.flips * 2 ^ 6 +
        (if r.paired ∨ r.pinned then 3 else if r.notrack then 0 else m.state) * 2 ^ 4 + x.layout))) { s.pk with req := none } t.pk

/-- R99, R200, R307, R308: tdef drops the cached record of one tensor after a release; icinv removes the lines of the range from
the instruction caches in its scope, and nothing else from them. -/
def Obligations.CodeAndRecords : Prop :=
  (∀ (a : SReg) (s : State), Ready (.tdef a) s →
    (¬Drained s → ∃ t, exec (.tdef a) s = .next t ∧ OnlyPack s t ∧ PackWaits .drain s.pk t.pk) ∧
    (Drained s → ∃ t, exec (.tdef a) s = .next t ∧ PackDone 8 {} s.pk t.pk ∧
      t = { s with pk := t.pk, parts := t.parts, home := { s.home with replicaLag := [] } } ∧
      (∀ p, p ≠ s.pk.part → t.part p = s.part p) ∧
      t.part s.pk.part = { s.part s.pk.part with records := (t.part s.pk.part).records } ∧
      ∀ tid, tabFind (t.part s.pk.part).records tid =
        if tid = (s.pk.sreg a.toNat).toNat % 2 ^ 16 then none else tabFind (s.part s.pk.part).records tid)) ∧
  ∀ (sc : Scope) (a b : SReg) (s : State), Ready (.icinv sc a b) s →
    let va := (s.pk.s64 a.toNat).toNat
    let n := (s.pk.sreg b.toNat).toNat
    ∃ t, exec (.icinv sc a b) s = .next t ∧ PackDone 8 {} s.pk t.pk ∧
      t = { s with pk := t.pk, cores := t.cores } ∧
      ∀ c, t.core c = { s.core c with icache := (t.core c).icache, loops := (t.core c).loops } ∧
        ∀ p line, p < 2 ^ 7 → line < 2 ^ 45 → tabFind (t.core c).icache (p * 2 ^ 45 + line) =
          if n ≠ 0 ∧ p = s.pk.part ∧ va / 128 ≤ line ∧ line ≤ (va + n - 1) / 128 ∧
            (sc = .dev ∨ (sc = .cl ∧ c / 8 = s.here / 8) ∨ (sc = .grp ∧ c = s.here)) then none
          else tabFind (s.core c).icache (p * 2 ^ 45 + line)

/-- R187, R309: below ROOT every sys raises SYSCALL with its number; at ROOT a number without a service halts the partition. -/
def Obligations.SystemCalls : Prop :=
  (∀ (i : Instr) (n : Nat) (s : State) (g : Group), serviceNumber i = some n → Ready i s → MayTrap s g →
    ∃ t, exec i s = .next t ∧ Trapped s.pk g .syscall s.pk.live s.ipc.toNat 0 n s t) ∧
  ∀ (d a b : SReg) (n : BitVec 16) (s : State), Ready (.sys d a b n) s → s.pk.priv = .root → s.pk.replay = [] → s.pk.late = [] →
    ∃ t, exec (.sys d a b n) s = .next t ∧ (t.part s.pk.part).halted = true ∧ t.pk.s = s.pk.s ∧
      (∀ l, SameButMeet (s.pk.thread l) (t.pk.thread l)) ∧ tabGet 0 t.mp.counters 15 = tabGet 0 s.mp.counters 15 + 1

/-- R161, R166, R191, R192, R309: the services of sys at ROOT and their answers. A stage-1 root is accepted by its alignment alone: that
an address at or above 2^48 is accepted too, and faults where the walk reads it, is the model's choice (log 21). -/
def Obligations.RootServices : Prop :=
  (∀ (d a b : SReg) (s : State), Ready (.stage1Invalidate d a b) s → s.pk.priv = .root →
    let va := (s.pk.s64 a.toNat).toNat
    let n := (s.pk.sreg b.toNat).toNat
    (va % 2 ^ 16 ≠ 0 → ∃ t, exec (.stage1Invalidate d a b) s = .next t ∧ OnlyPack s t ∧ PackDone 8 (putS d 1) s.pk t.pk) ∧
    (va % 2 ^ 16 = 0 → s.env.defer = false → ∃ t, exec (.stage1Invalidate d a b) s = .next t ∧ PackDone 8 (putS d 0) s.pk t.pk ∧
      ∀ x, x.part = s.pk.part → n = 0 ∨ (va / 2 ^ 16 ≤ x.vpn ∧ x.vpn < va / 2 ^ 16 + n) →
        (∀ c, x ∉ (t.core c).tlb) ∧ ∀ k, (k, x) ∉ t.clusterTlb)) ∧
  (∀ (d a b : SReg) (s : State), Ready (.stage1Root d a b) s → s.pk.priv = .root →
    let gpa := s.pk.s64 a.toNat
    (gpa.toNat % 2 ^ 16 ≠ 0 → ∃ t, exec (.stage1Root d a b) s = .next t ∧ OnlyPack s t ∧ PackDone 8 (putS d 1) s.pk t.pk) ∧
    (gpa.toNat % 2 ^ 16 = 0 → ∃ t, exec (.stage1Root d a b) s = .next t ∧ PackDone 8 (putS d 0) s.pk t.pk ∧
      t = { s with pk := t.pk, mp := { s.mp with commits := t.mp.commits } } ∧
      ∃ c : Commit, t.mp.commits = s.mp.commits ++ [c] ∧ c.why = .root s.pk.part gpa)) ∧
  (∀ (d a b : SReg) (s : State) (c off : Nat), Ready (.takePageRequest d a b) s → s.pk.priv = .root → VaultsQuiet s →
    (s.pk.sreg b.toNat).toNat % 32 = 0 → s.vaultAddr s.pk.part s.pk.group (s.pk.sreg b.toNat) = some (c, off) →
    let mine := fun (q : PageReq) => q.part = s.pk.part ∧ q.stage2 = false ∧ q.taken = false
    ((∀ id q, (id, q) ∈ s.pages → ¬mine q) →
      ∃ t, exec (.takePageRequest d a b) s = .next t ∧ OnlyPack s t ∧ PackWaits .pageTake s.pk t.pk) ∧
    ∀ id q, (id, q) ∈ s.pages → mine q →
      (∀ j r, (j, r) ∈ s.pages → mine r → (j, r) ≠ (id, q) → q.time < r.time ∨ (q.time = r.time ∧ q.src < r.src) ∨
        (q.time = r.time ∧ q.src = r.src ∧ id < j)) →
      ∃ t, exec (.takePageRequest d a b) s = .next t ∧ PackDone 8 (putS d (BitVec.ofNat 32 id)) s.pk t.pk ∧
        tabFind t.pages id = some { q with taken := true } ∧
        numberAt (byteAt (t.core c).vault) off 8 = q.addr % 2 ^ 64 ∧ numberAt (byteAt (t.core c).vault) (off + 8) 8 = q.time % 2 ^ 64 ∧
        numberAt (byteAt (t.core c).vault) (off + 16) 2 = id % 2 ^ 16 ∧ OtherVault s t c off 32) ∧
  (∀ (d a b : SReg) (s : State), Ready (.reply d a b) s → s.pk.priv = .root →
    let id := (s.pk.sreg a.toNat).toNat
    let st := (s.pk.sreg b.toNat).toNat
    let mine := fun (q : PageReq) => q.part = s.pk.part ∧ q.stage2 = false
    (2 ≤ st → ∃ t, exec (.reply d a b) s = .next t ∧ OnlyPack s t ∧ PackDone 8 (putS d 2) s.pk t.pk) ∧
    (st < 2 → (∀ q, tabFind s.pages id = some q → ¬mine q) → ∃ t, exec (.reply d a b) s = .next t ∧
      PackDone 8 (putS d 1) s.pk t.pk ∧ t.pages = s.pages ∧ tabGet 0 t.mp.counters 13 = tabGet 0 s.mp.counters 13 + 1) ∧
    ∀ q, st < 2 → tabFind s.pages id = some q → mine q → q.waiter = .idle → s.overflow = [] →
      ∃ t, exec (.reply d a b) s = .next t ∧ PackDone 8 (putS d 0) s.pk t.pk ∧
        ∀ j, tabFind t.pages j = if j = id then none else tabFind s.pages j) ∧
  ∀ (d a b : SReg) (s : State), Ready (.donateRetileFrames d a b) s → s.pk.priv = .root →
    ∃ t k, exec (.donateRetileFrames d a b) s = .next t ∧ k ≤ (s.pk.sreg b.toNat).toNat ∧
      PackDone 8 (putS d (BitVec.ofNat 32 k)) s.pk t.pk ∧
      (t.part s.pk.part).pool.length = (s.part s.pk.part).pool.length + k

/-- R188-R190, R310, R311: sbget and rqget read a word of a side-buffer level and of an entry of the level whose handler runs; rqput
writes one of the words it may, and no other. rti restores the privilege, the PC, MEET and JMASK of every thread and s56-s63 from
the last level, which it frees (here no entry is left to issue again). -/
def Obligations.SavedState : Prop :=
  ((∀ (d a b : SReg) (s : State), Ready (.sbget d a b) s →
    let w := (s.pk.sreg b.toNat).toNat
    ∀ lv, s.pk.sb[(s.pk.sreg a.toNat).toNat]? = some lv → w ≤ 255 →
      ∃ t, exec (.sbget d a b) s = .next t ∧ OnlyPack s t ∧ PackDone 8 (putS d (lv.word w)) s.pk t.pk) ∧
  (∀ (d a b : SReg) (s : State), Ready (.rqget d a b) s →
    let w := (s.pk.sreg b.toNat).toNat
    ∀ lv e, s.pk.sb.getLast? = some lv → lv.entries[(s.pk.sreg a.toNat).toNat]? = some e → w ≤ 263 →
      ∃ t, exec (.rqget d a b) s = .next t ∧ OnlyPack s t ∧ PackDone 8 (putS d (entryWord e w)) s.pk t.pk) ∧
  (∀ (d a b : SReg) (s : State), Ready (.rqput d a b) s →
    let x := s.pk.sreg d.toNat
    let k := (s.pk.sreg a.toNat).toNat
    let w := (s.pk.sreg b.toNat).toNat
    ∀ lv, s.pk.sb.getLast? = some lv →
      (k = 16 → 8 ≤ w → w ≤ 177 → ∃ t nl, exec (.rqput d a b) s = .next t ∧ OnlyPack s t ∧
        PackDone 8 {} { s.pk with sb := s.pk.sb.dropLast ++ [nl] } t.pk ∧ nl.entries = lv.entries ∧
        ∀ j, nl.word j = if j = w then levelKept w x else lv.word j) ∧
      ∀ e, k < 16 → lv.entries[k]? = some e → (w = 0 ∧ x = 0) ∨ w = 1 ∨ (8 ≤ w ∧ w ≤ 263) →
        ∃ t ne, exec (.rqput d a b) s = .next t ∧ OnlyPack s t ∧
          PackDone 8 {} { s.pk with sb := s.pk.sb.dropLast ++ [{ lv with entries := lv.entries.set k ne }] } t.pk ∧
          ∀ j, j < 264 → entryWord ne j = if j = w then (if w = 1 then e.mask &&& x else x) else entryWord e j)) ∧
  ∀ (s : State) (lv : Level), Ready .rti s → s.pk.sb.getLast? = some lv → (∀ e, e ∈ lv.entries → e.mask = 0) → s.pk.replay = [] →
    ∃ t, exec .rti s = .next t ∧ OnlyPack s t ∧
      t.pk = { s.pk with
        sb := s.pk.sb.dropLast
        priv := (if (lv.word 0).toNat / 16 % 4 = 0 then .user else if (lv.word 0).toNat / 16 % 4 = 1 then .handler else .root)
        s := t.pk.s, threads := t.pk.threads, windows := [], portB := none, pend := t.pk.pend, meets := t.pk.meets } ∧
      (∀ r, t.pk.sreg r = if 56 ≤ r ∧ r < 64 then lv.word (8 + (r - 56)) else s.pk.sreg r) ∧
      t.pk.threads.length = s.pk.threads.length ∧
      ∀ l, l < s.pk.threads.length → l < 32 → SameButMeet { s.pk.thread l with
        pc := (lv.word64 (16 + 2 * l)).extractLsb' 0 52 &&& 0xFFFFFFFFFFFFC#52
        meet := lv.word64 (80 + 2 * l) &&& 0x800FFFFFFFFFFFFC#64, jmask := lv.word (144 + l) } (t.pk.thread l)

/-- R199, R312: the first ctxsave of a group none of whose packs is on a core writes a header with direction 0, takes the group
off its core and answers with cursor 1 (the number of chunks is a free value, log 7); a ctxrest under way, with its group
placed, moves one chunk and counts it. -/
def Obligations.ContextSwitch : Prop :=
  let named := fun (s : State) (b : SReg) (gid : Nat) (g : Group) =>
    s.groups.find? (fun x => x.2.part = s.pk.part && x.2.slot = (s.pk.sreg b.toNat).toNat % 2 ^ 16 &&
      x.2.index = (s.pk.sreg (b.toNat + 1)).toNat) = some (gid, g) ∧ gid ≠ s.pk.group ∧ tabFind s.groups gid = some g
  let isOpen := fun (s : State) (va : Nat) => Reaches s .load .flat va (heldPa s va) ∧ Reaches s .store .flat va (heldPa s va)
  let field := fun (s : State) (va o : Nat) => numberAt s.memByte (heldPa s va + o) 4
  (∀ (d a b : SReg) (s : State) (gid : Nat) (g : Group), Ready (.ctxsave d a b) s → Quiet s → named s b gid g →
    let va := (s.pk.s64 a.toNat).toNat
    va % 4096 = 0 → va + 8192 ≤ 2 ^ 52 → isOpen s va → isOpen s (va + 4096) → field s va 0 ≠ 0x4B435331 →
    s.context gid = none → s.packsAway gid = true → tabRising s.cores 0 = true →
    ∃ t total, exec (.ctxsave d a b) s = .next t ∧ 1 ≤ total ∧ total < 65536 ∧
      PackDone 8 (putS d (BitVec.ofNat 32 (1 + if total = 1 then 2 ^ 31 else 0))) { s.pk with req := none } t.pk ∧
      field t va 0 = 0x4B435331 ∧ field t va 4 = total ∧ field t va 8 = 1 ∧ field t va 12 = 0 ∧
      t.group gid = some { g with held := true, away := true }) ∧
  ∀ (d a b : SReg) (s : State) (gid : Nat) (g : Group) (x : Context), Ready (.ctxrest d a b) s → Quiet s → named s b gid g →
    let va := (s.pk.s64 a.toNat).toNat
    let cur := field s va 8
    let from' := va + 4096 * (cur + 1)
    va % 4096 = 0 → from' + 4096 ≤ 2 ^ 52 → isOpen s va → isOpen s from' → field s va 0 = 0x4B435331 → field s va 12 ≠ 0 →
    cur + 1 < field s va 4 → s.context gid = some x → x.out = true → x.placed = true →
    (∀ k, k < 4096 → s.blockCode (heldPa s from' + k) ≠ 3) →
    ∃ t, exec (.ctxrest d a b) s = .next t ∧ PackDone 8 (putS d (BitVec.ofNat 32 ((cur + 1) % 2 ^ 16))) { s.pk with req := none } t.pk ∧
      field t va 8 = cur + 1 ∧ t.group gid = some g

/-- R147, R148, R272: item hands out the indexes NEXT, NEXT + 1, ... below COUNT to the live threads without an item in lane
order; p6 says which threads hold one; NEXT and PENDING count what was handed out. -/
def Obligations.ItemsHandedOut : Prop :=
  ∀ (r : SReg) (s : State) (g : Group) (c off : Nat), Ready (.item r) s → LoopAt s r g c off →
    let nx := loopField s c off 0 4
    let cnt := loopField s c off 4 4
    let before := fun l => (List.range l).countP (asks s.pk)
    let given := min (before s.pk.threads.length) (cnt - nx)
    ∃ t, exec (.item r) s = .next t ∧ OnlyThreads s.pk t.pk ∧
      loopField t c off 0 4 = nx + given ∧ loopField t c off 4 4 = cnt ∧
      loopField t c off 8 4 = loopField s c off 8 4 ∧ loopField t c off 12 4 = (loopField s c off 12 4 + given) % 2 ^ 32 ∧
      t = { s with pk := t.pk, cores := t.cores, groups := t.groups } ∧
      t.groups = tabPut s.groups s.pk.group { g with loopObj := some (s.pk.sreg r.toNat).toNat } ∧
      (∀ k, t.core k = { s.core k with vault := (t.core k).vault }) ∧ OtherVault s t c off 16 ∧
      ∀ l, l < s.pk.threads.length → ∃ b,
        SameButMeet b (t.pk.thread l) ∧
          let a := s.pk.thread l
          if a.exited then b = a
          else b = { a with
            item := b.item, admitted := b.admitted, claims := b.claims, p := b.p
            pc := if l < 32 then a.pc + 4 else a.pc } ∧
            (∀ k, k < 6 → b.p.getLsbD k = a.p.getLsbD k) ∧
            (asks s.pk l = false → b.item = a.item ∧ b.admitted = a.admitted ∧ b.claims = a.claims ∧ b.p.getLsbD 6 = true) ∧
            (asks s.pk l = true → nx + before l < cnt →
              b.item = BitVec.ofNat 32 (nx + before l) ∧ b.admitted = false ∧ b.claims = [] ∧ b.p.getLsbD 6 = true) ∧
            (asks s.pk l = true → cnt ≤ nx + before l → b.item = a.item ∧ b.admitted = a.admitted ∧ b.p.getLsbD 6 = false)

/-- R150, R151, R273: an admit of the only pack of its group with pending items forms a wave when none is open and signature
entries are free: p5 and admission are those of the wave, WAVE and INWAVE are counted and OPEN is set; with a wave open the
pack waits; without pending items admit passes. -/
def Obligations.WavesFormed : Prop :=
  ∀ (r : SReg) (s : State) (g : Group) (c off h sl : Nat), Ready (.admitWave r) s → LoopAt s r g c off → s.site = some (h, sl) →
    g.core = h → (∀ l, admittedLane s.pk l = false) → s.pk.threads.length = 32 → s.pk.wait = .none →
    ((∀ l, pendingLane s.pk l = false) → ∃ t, exec (.admitWave r) s = .next t ∧ PackDone 4 {} s.pk t.pk ∧
      (t.core s.here).l1 = [] ∧ ∀ k o, byteAt (t.core k).vault o = byteAt (s.core k).vault o) ∧
    ((∃ l, pendingLane s.pk l = true) → tabRising s.cores 0 = true → tabRising (s.core h).packs 0 = true →
      (s.packAt h sl).isSome = true →
      (∀ k x n p, (k, x) ∈ s.cores → (n, p) ∈ x.packs → (k, n) ≠ (h, sl) → p.group = s.pk.group → p.hasPending = false ∧ p.wait ≠ .admission) →
      (∀ k x v, (k, x) ∈ s.parts → v ∈ x.saved → v.pack.group = s.pk.group → v.pack.hasPending = false ∧ v.pack.wait ≠ .admission) →
      (∀ l m, pendingLane s.pk l = true → pendingLane s.pk m = true → l ≠ m → (s.pk.thread l).item ≠ (s.pk.thread m).item) →
      (loopField s c off 20 4 % 2 = 1 → ∃ t, exec (.admitWave r) s = .next t ∧ PackWaits .admission s.pk t.pk) ∧
      (loopField s c off 20 4 % 2 = 0 →
        let free := 64 - ((((s.core h).packs.filter fun x => x.1 ≠ sl).map fun x =>
          (x.2.threads.filter fun t => !t.exited && t.admitted).length).sum)
        ∀ W, 0 < free → WaveOf s.pk free W →
          ∃ t, exec (.admitWave r) s = .next t ∧ t.site = s.site ∧ t.pk.wait = .none ∧ t.pk.s = s.pk.s ∧ t.pk.sb = s.pk.sb ∧
            loopField t c off 8 4 = (loopField s c off 8 4 + 1) % 2 ^ 32 ∧ loopField t c off 16 2 = (lanesOf W).length ∧
            loopField t c off 12 4 = loopField s c off 12 4 ∧ loopField t c off 18 2 = loopField s c off 18 2 ∧
            loopField t c off 20 4 = loopField s c off 20 4 + 1 ∧ OtherVault s t c (off + 8) 16 ∧ (t.core h).l1 = [] ∧
            ∀ l, l < 32 →
              let a := s.pk.thread l
              SameButMeet (if a.exited then a else { a with
                admitted := hasLane W l
                p := (t.pk.thread l).p, pc := a.pc + 4 }) (t.pk.thread l) ∧
              (a.exited = false → ∀ k, k < 7 → (t.pk.thread l).p.getLsbD k = if k = 5 then hasLane W l else a.p.getLsbD k)))

/-- R152, R274: iret waits for the pack's accesses; then each admitted item is retired: %item, p5 and the claims are cleared, and
INWAVE and PENDING are reduced; OPEN is cleared when INWAVE reaches 0. -/
def Obligations.ItemsRetired : Prop :=
  ∀ (r : SReg) (s : State) (g : Group) (c off : Nat), Ready (.iret r) s → LoopAt s r g c off →
    (¬Drained s → ∃ t, exec (.iret r) s = .next t ∧ OnlyPack s t ∧ PackWaits .drain s.pk t.pk) ∧
    (Drained s → s.pk.wait = .none → tabRising s.cores 0 = true → s.pk.threads.length = 32 →
      (∀ p, p ∈ s.allPacks → p.wait ≠ .admission) →
      let k := (List.range 32).countP (admittedLane s.pk)
      ∃ t, exec (.iret r) s = .next t ∧ OnlyThreads s.pk t.pk ∧ t.home.replicaLag = [] ∧
        loopField t c off 12 4 = loopField s c off 12 4 - k ∧ loopField t c off 16 2 = loopField s c off 16 2 - k ∧
        (loopField t c off 20 4 = if k ≠ 0 ∧ loopField s c off 16 2 ≤ k then loopField s c off 20 4 / 2 * 2
          else loopField s c off 20 4) ∧ loopField t c off 18 2 = loopField s c off 18 2 ∧ OtherVault s t c (off + 12) 12 ∧
        ∀ l, l < 32 →
          let a := s.pk.thread l
          SameButMeet (if a.exited then a else if admittedLane s.pk l then { a with
              item := 0xFFFFFFFF, admitted := false, claims := [], p := (t.pk.thread l).p, pc := a.pc + 4 }
            else { a with pc := a.pc + 4 }) (t.pk.thread l) ∧
          (admittedLane s.pk l = true → ∀ j, j < 7 → (t.pk.thread l).p.getLsbD j = if j = 5 then false else a.p.getLsbD j))

/-- R45, R48, R136, R286-R303: a command whose record and tensors keep its limits enters its queue with what it captured, and the
pack moves on; a matrix or spline command sets the accumulator type of its handle. A grid record that breaks the limits raises
ENGINE with DETAIL 1 at issue, and every engine register is as it was. Choices of the model's: the ADDR of that trap is 0 (log 15), a
splmv.dx whose DY is 0 is accepted (log 28), and the accumulator type of a handle is that of the last mma or mmv (log 29). -/
def Obligations.CommandsEnter : Prop :=
  (∀ i x s b sig rs ts u, commandForm i = some x → Ready i s → VaultsQuiet s → (s.core s.here).stalls = [] → s.pk.req = none →
    s.granted (if x.copies then .cpy else .tile) = true → SignalIs s x sig → RecordIs s x b →
    rs.length = ts.length → u.tensors.length = ts.length →
    (∀ k, k < ts.length → ∃ tid bytes r, u.tensors[k]? = some tid ∧ rs[k]? = some bytes ∧ ts[k]? = some r ∧ tid ≠ 0xFFFF ∧
      tabFind (s.part s.pk.part).records tid = some bytes ∧ parseTRec bytes = some r) →
    (u.ncoord = 0 → x.coords = 0) → x.coords.toNat + u.ncoord ≤ 64 →
    (∀ q, q ∈ s.pk.pend → ∀ k, x.coords.toNat ≤ k → k < x.coords.toNat + u.ncoord → q.reg ≠ .s k) →
    let cs := (List.range u.ncoord).map fun k => s.pk.sreg (x.coords.toNat + k)
    CommandOk i s b ts cs u →
    ∃ t, exec i s = .next t ∧ Enters i s t b sig rs cs u ∧ PackDone 4 {} { s.pk with req := none } t.pk ∧
      t = { s with
        pk := t.pk, cmds := t.cmds, groups := t.groups, stamps := t.stamps
        env := { s.env with fresh := s.env.fresh + 1 } } ∧
      t.groups = (match u.handle, u.acc with
        | some (h, d), some a => (match s.group s.pk.group with
          | some g => tabPut s.groups s.pk.group { g with handles := tabPut g.handles h { d with acc := a } }
          | none => s.groups)
        | _, _ => s.groups)) ∧
  ∀ (r bar : SReg) (la : BitVec 4) (tok : Bool) (s : State) (g : Group) (sig : Signal) (b : List Byte),
    let i : Instr := .splgrid r bar la tok
    let x : CommandForm := ⟨some r, bar, tok, 0, false⟩
    Ready i s → VaultsQuiet s → MayTrap s g → SignalIs s x sig → RecordIs s x b → ¬GridOk b →
    ∃ t, exec i s = .next t ∧ Trapped s.pk g .engine s.pk.live s.ipc.toNat 0 1 s t ∧ ∀ c, (t.core c).eng = (s.core c).eng


/-! Host actions and device events: what each does between instructions, with no pack issuing. -/

/-- R3, R17-R19, R167, R184, R185: the device registers the host writes (LOGVALID, NLOST, NTAIL, and those it only reads: the error
counters, LAST, LASTSEQ, the slots of the error log and NHEAD), and the node windows: a decrement within reach, a registration, and what
is logged in class 11 and discarded. The DETAIL of a bad window access is a reading (log 34); that the DETAIL of a decrement beyond the
window's reach is the slot is the model's choice (log 47). -/
def Obligations.HostRegistersAndNodes : Prop :=
  ∀ s : State, Idle s →
    (∀ w, exec (.logvalidWrite w) s = .next { s with mp := { s.mp with logvalid := s.mp.logvalid &&& ~~~w } }) ∧
    (∀ w, exec (.nlostClear w) s = .next { s with mp := { s.mp with nlost := if w = 0 then 0 else s.mp.nlost } }) ∧
    (∀ off w, (0x1000 ≤ off ∧ off < 0x1080) ∨ (0x1100 ≤ off ∧ off < 0x1120) ∨ (0x1128 ≤ off ∧ off < 0x1130) ∨
        (0x1800 ≤ off ∧ off < 0x2000) ∨ (0x3000 ≤ off ∧ off < 0x3004) →
      exec (.registerWrite off w) s = .next s) ∧
    (∀ w : Word, (∀ id q, (id, q) ∈ s.pages → q.stage2 = true → q.taken = true) →
      let k := min s.mp.nstore.length (64 - (s.mp.nhead - w).toNat)
      ∃ t, exec (.ntailWrite w) s = .next t ∧ t.mp.ntail = w ∧ t.mp.nhead = s.mp.nhead + BitVec.ofNat 32 k ∧
        t.mp.nstore = s.mp.nstore.drop k ∧
        (∀ i, i < k → tabFind t.mp.ring ((s.mp.nhead + BitVec.ofNat 32 i).toNat % 64) = s.mp.nstore[i]?) ∧
        t = { s with mp := { s.mp with
          ntail := w, nhead := t.mp.nhead, nstore := t.mp.nstore, ring := t.mp.ring, msix := t.mp.msix } }) ∧
    (∀ fn off, ∃ t, exec (.nodeWindowBadAccess fn off) s = .next t ∧ OnlyMp s t ∧
      Logged s t 11 2049 (match s.partOfFn fn with | some p => p + 1 | none => 0) 0 off) ∧
    ∀ fn slot, let near := slot < 65536 ∧ (fn = 0 ∨ ∃ p, s.partOfFn fn = some p ∧ (s.part p).slotLo ≤ slot ∧ slot < (s.part p).slotHi)
      (∀ d, (¬near → ∃ t, exec (.nodeDecrement fn slot d) s = .next t ∧ OnlyMp s t ∧
          Logged s t 11 2049 (match s.partOfFn fn with | some p => p + 1 | none => 0) 0 slot) ∧
        ∀ n, near → tabFind s.sched.nodes slot = some n → n.ready = false → d.toNat < n.count →
          ∃ t, exec (.nodeDecrement fn slot d) s = .next t ∧
            t = { s with sched := { s.sched with nodes := t.sched.nodes }, home := { s.home with replicaLag := [] } } ∧
            ∀ j, tabFind t.sched.nodes j = if j = slot then some { n with count := n.count - d.toNat } else tabFind s.sched.nodes j) ∧
      ∀ (p va : Nat) (s1 : State) (rec : List Byte) (n : Node), near → s.partOfFn fn = some p → tabFind s.sched.nodes slot = none →
        va % 128 = 0 → va < 2 ^ 52 → s.readVA agentMp p .root va 128 = (s1, .ok (rec, false)) → parseNode p rec = some n → n.count ≠ 0 →
        ∃ t, exec (.registration fn (BitVec.ofNat 64 (slot * 2 ^ 48 + va / 128))) s = .next t ∧
          t.sched = { s.sched with
            nodes := tabPut s.sched.nodes slot n
            lastReg := tabPut s.sched.lastReg fn (BitVec.ofNat 32 (slot + 2 ^ 16)) }

/-- R28, R87, R97, R128, R155-R157: the host writes and reads memory through its windows, and takes granules back from the memory-side
cache; a virtual function reaches what its stage-2 leaf allows (R, W, and no tensor page), and nothing else. That a write it may not
make is dropped is the model's reading (log 36). -/
def Obligations.HostMemory : Prop :=
  ∀ s : State, Idle s → Clean s →
    (∀ addr data, addr + data.length ≤ Config.hbmBytes → Sound s (localAt s addr) data.length →
      ∃ t, exec (.hostMemWrite 0 addr data) s = .next t ∧ ∀ p, t.memByte p = stored s.memByte (localAt s addr) data p) ∧
    (∀ addr data, bitOf addr 51 = true → addr + data.length ≤ 2 ^ 52 → Sound s addr data.length →
      ∃ t, exec (.hostMemWrite 0 addr data) s = .next t ∧ (∀ p, t.memByte p = stored s.memByte addr data p)) ∧
    (∀ addr n, addr + n ≤ Config.hbmBytes → Sound s (localAt s addr) n →
      ∃ t, exec (.hostMemRead 0 addr n) s = .next t ∧ t.mp.mailbox.readData = heldBytes s (localAt s addr) n ∧
        t.mp.mailbox.poison = false ∧ ∀ p, t.memByte p = s.memByte p) ∧
    (∀ fn addr data p s1 e a, fn ≠ 0 → s.partOfFn fn = some p → addr < 2 ^ 48 → addr % 128 + data.length ≤ 128 → data ≠ [] →
      s.leaf2 (dieOf agentHost) p addr = (s1, .ok (e, a)) →
      let pa := bits e 51 16 * 2 ^ 16 + addr % 2 ^ 16
      (bitOf e 2 = true → bitOf e 11 = false → s.paKind pa = .hbm → Sound s pa data.length →
        ∃ t, exec (.hostMemWrite fn addr data) s = .next t ∧ ∀ q, t.memByte q = stored s.memByte pa data q) ∧
      (bitOf e 2 = false ∨ bitOf e 11 = true →
        ∃ t, exec (.hostMemWrite fn addr data) s = .next t ∧ ∀ q, t.memByte q = s.memByte q) ∧
      (bitOf e 1 = true → bitOf e 11 = false → s.paKind pa = .hbm → Sound s pa data.length →
        ∃ t, exec (.hostMemRead fn addr data.length) s = .next t ∧ t.mp.mailbox.readData = heldBytes s pa data.length)) ∧
    ∀ addr, let g := (2 ^ 51 + addr % 2 ^ 51) / 256
      ∃ t, exec (.hostSnoop addr) s = .next t ∧
        t = { s with home := { s.home with hostOwned := t.home.hostOwned, lines := t.home.lines } } ∧
        g ∉ t.home.hostOwned ∧ g ∉ t.home.lines ∧
        ∀ k, k ≠ g → (k ∈ t.home.lines ↔ k ∈ s.home.lines) ∧ (k ∈ t.home.hostOwned ↔ k ∈ s.home.hostOwned)

/-- R162, R163, R166: STAGE copies the map image to the area PTSHADOW names; a map that keeps the rules is staged, and any
other is refused without effect and logged. Which record holds units when SUSP is set, one borrower for each unit, and what
'in use' means are readings (log 35). And each other command of the mailbox completes, with its status in the slot; the status 0
of a command that is done is a reading (log 36). -/
def Obligations.StagedMaps : Prop :=
  (∀ (s : State) (hpa : Nat), Idle s → Clean s → Sound s hpa 1344 → hpa + 1344 ≤ 2 ^ 52 →
    Sound s s.mp.ptshadow.toNat 1344 → s.mp.ptshadow.toNat + 1344 ≤ 2 ^ 52 →
    let b := heldBytes s hpa 1344
    ∃ t, exec (.stage hpa) s = .next t ∧ (∀ p, t.memByte p = stored s.memByte s.mp.ptshadow.toNat b p) ∧ t.parts = s.parts ∧
      t.mp.commits = s.mp.commits ∧ t.mp.mailbox.code = 1 ∧
      (∀ m, parseMap b = some m → MapKept s m → Answered t 1 0 ∧ t.mp.staged = some m) ∧
      ((∀ m, parseMap b = some m → ¬MapKept s m) → t.mp.staged = s.mp.staged ∧
        tabGet 0 t.mp.counters 14 = tabGet 0 s.mp.counters 14 + 1)) ∧
  ∀ s : State, Idle s →
    ((s.mp.staged ≠ none ∨ ∃ p, p < 20 ∧ (s.part p).staged ≠ none) →
      ∃ t c, exec .commit s = .next t ∧ Answered t 2 0 ∧ t.mp.commits = s.mp.commits ++ [c]) ∧
    (∀ part gpa n, ∃ t, exec (.xlinv part gpa n) s = .next t ∧ Answered t 3 0) ∧
    (∀ part group list n, ∃ t, exec (.frames part group list n) s = .next t ∧ Answered t 4 0) ∧
    (∀ part group list n, (∀ r, r ∈ s.home.retiles → r.part = part → r.stage = .waiting) →
      ∃ t, exec (.framesTakeBack part group list n) s = .next t ∧ Answered t 0x84 0) ∧
    (∀ part tenant nonce, part < 20 → ∃ t, exec (.assign part tenant nonce) s = .next t ∧ Answered t 5 0 ∧
      (t.part part).staged = some (tenant, nonce)) ∧
    (∀ part hpa b, (s.part part).token = some (hpa, b) → ∃ t, exec (.token part) s = .next t ∧ Answered t 6 0 ∧
      t.mp.mailbox.value = BitVec.ofNat 64 hpa) ∧
    (∃ t, exec .cert s = .next t ∧ Answered t 7 0 ∧ t.mp.mailbox.cert = Config.certificateChain) ∧
    (∀ hpa, hpa % 32 = 0 → ∃ t, exec (.preq hpa false) s = .next t ∧
      Answered t 8 (if s.pages.any fun (_, q) => q.stage2 && !q.taken then 0 else 1)) ∧
    (∀ (arg : DWord) q, arg.toNat / 2 ^ 16 < 2 → tabFind s.pages (arg.toNat % 2 ^ 16) = some q → q.stage2 = true →
      ∃ t, exec (.preply arg false) s = .next t ∧ Answered t 9 0) ∧
    (∀ part grace, (s.part part).map.valid = true → grace ≤ 1000 → (s.part part).preempt = .none →
      ∃ t, exec (.preempt part grace) s = .next t ∧ Answered t 10 0) ∧
    ∀ part, (s.part part).preempt ≠ .none → ∃ t, exec (.resume part) s = .next t ∧ Answered t 11 0

/-- R161, R164-R166, R174, R191, R192, R195, R316: the other commands of the mailbox, and the status each leaves in its slot. A
status that no rule states is free (log 7), and the status 0 of a command that is done is a reading (log 36), as is the status 1 of a
PREPLY to the id of a stage-1 request. The format of a FRAMES list, which of its frames join the pool and how a frame in use is
marked for its return are readings too (log 13). -/
def Obligations.MailboxCommands : Prop :=
  ∀ s : State, Idle s →
    ((s.mp.staged ≠ none ∨ ∃ p, p < 20 ∧ (s.part p).staged ≠ none) →
      ∃ t c, exec .commit s = .next t ∧ Answered t 2 0 ∧ t.mp.staged = none ∧ t.mp.commits = s.mp.commits ++ [c] ∧
        c.why = .host ∧ c.stage = .waiting ∧ ∀ p, p < 20 → (s.mp.staged.all fun m => m.length = 20) →
          c.map[p]? = some (match (s.part p).staged with
            | some x => { ((s.mp.staged.map (·.getD p {})).getD (s.part p).map) with tenant := x.1 }
            | none => (s.mp.staged.map (·.getD p {})).getD (s.part p).map)) ∧
    (∀ part gpa n, s.home.retiles = [] → s.env.defer = false → ∃ t, exec (.xlinv part gpa n) s = .next t ∧ Answered t 3 0 ∧
      ∀ x, (∀ c, x ∈ (t.core c).tlb ↔ x ∈ (s.core c).tlb ∧
        ¬(x.part = part ∧ (n = 0 ∨ (gpa / 2 ^ 16 ≤ x.gfn ∧ x.gfn < gpa / 2 ^ 16 + n)))) ∧
        ∀ k, (k, x) ∈ t.clusterTlb ↔ (k, x) ∈ s.clusterTlb ∧
          ¬(x.part = part ∧ (n = 0 ∨ (gpa / 2 ^ 16 ≤ x.gfn ∧ x.gfn < gpa / 2 ^ 16 + n)))) ∧
    (∀ part group list n, Clean s → list + 8 * n ≤ 2 ^ 52 → list % 8 = 0 → Sound s list (8 * n) →
      let listed := fun f => ∃ k, k < n ∧ numberAt s.memByte (list + 8 * k) 8 = f * 2 ^ 16
      (∃ t, exec (.frames part group list n) s = .next t ∧ Answered t 4 0 ∧
        ∀ f, f ∈ (t.part part).pool ↔ f ∈ (s.part part).pool ∨ (listed f ∧ f < 2 ^ 36 ∧ s.paKind (f * 2 ^ 16) = .hbm ∧
          s.frameGroup f = group ∧ ((s.part part).map.cgg ||| (s.part part).map.cgm).getLsbD group = true ∧ s.pooled f = false)) ∧
      ∃ t, exec (.framesTakeBack part group list n) s = .next t ∧
        ((∀ r, r ∈ s.home.retiles → r.part = part → r.stage = .waiting ∨ s.frameGroup r.newFrame ≠ group) → Answered t 0x84 0) ∧
        ∀ f, f < 2 ^ 36 → (f ∈ (t.part part).pool → f ∈ (s.part part).pool) ∧
          (listed f → s.frameGroup f = group → f ∉ (t.part part).pool) ∧
          (s.frameGroup f ≠ group → f ∈ (s.part part).pool → f ∈ (t.part part).pool)) ∧
    (∀ part tenant nonce, part < 20 → ∃ t, exec (.assign part tenant nonce) s = .next t ∧ Answered t 5 0 ∧
      t = { s with parts := t.parts, mp := { s.mp with mailbox := t.mp.mailbox } } ∧
      ∀ p, t.part p = if p = part then { s.part p with staged := some (tenant, nonce) } else s.part p) ∧
    (∀ part hpa b, (s.part part).token = some (hpa, b) → exec (.token part) s =
      .next { s with mp := { s.mp with mailbox := { s.mp.mailbox with code := 6, status := 0, value := BitVec.ofNat 64 hpa } } }) ∧
    (exec .cert s =
      .next { s with mp := { s.mp with mailbox := { s.mp.mailbox with code := 7, status := 0, cert := Config.certificateChain } } }) ∧
    (∀ hpa reserved, let waits := fun (q : PageReq) => q.stage2 = true ∧ q.taken = false
      (reserved = true ∨ hpa % 32 ≠ 0 → ∃ t, exec (.preq hpa reserved) s = .next t ∧ Answered t 8 2 ∧ t.pages = s.pages ∧ t.mem = s.mem) ∧
      (reserved = false → hpa % 32 = 0 → (∀ id q, (id, q) ∈ s.pages → ¬waits q) →
        ∃ t, exec (.preq hpa reserved) s = .next t ∧ Answered t 8 1 ∧ t.pages = s.pages ∧ t.mem = s.mem) ∧
      ∀ id q, reserved = false → hpa % 32 = 0 → hpa + 32 ≤ 2 ^ 52 → Clean s → Sound s hpa 32 → (id, q) ∈ s.pages → waits q →
        (∀ j r, (j, r) ∈ s.pages → waits r → (j, r) ≠ (id, q) → q.time < r.time ∨ (q.time = r.time ∧ q.src < r.src) ∨
          (q.time = r.time ∧ q.src = r.src ∧ id < j)) →
        ∃ t, exec (.preq hpa reserved) s = .next t ∧ Answered t 8 0 ∧ tabFind t.pages id = some { q with taken := true } ∧
          numberAt t.memByte hpa 8 = q.addr % 2 ^ 64 ∧ numberAt t.memByte (hpa + 8) 8 = q.time % 2 ^ 64 ∧
          numberAt t.memByte (hpa + 16) 2 = id % 2 ^ 16 ∧ ∀ p, ¬(hpa ≤ p ∧ p < hpa + 32) → t.memByte p = s.memByte p) ∧
    (∀ (arg : DWord) reserved, let id := arg.toNat % 2 ^ 16
      let st := arg.toNat / 2 ^ 16 % 2 ^ 8
      (reserved = true ∨ 2 ^ 24 ≤ arg.toNat ∨ 2 ≤ st → ∃ t, exec (.preply arg reserved) s = .next t ∧ Answered t 9 2 ∧ t.pages = s.pages) ∧
      (reserved = false → arg.toNat < 2 ^ 24 → st < 2 →
        ((∀ q, tabFind s.pages id = some q → q.stage2 = false) →
          ∃ t, exec (.preply arg reserved) s = .next t ∧ Answered t 9 1 ∧ t.pages = s.pages ∧
            tabGet 0 t.mp.counters 13 = tabGet 0 s.mp.counters 13 + 1) ∧
        ∀ q, tabFind s.pages id = some q → q.stage2 = true → q.waiter = .idle → s.overflow = [] →
          ∃ t, exec (.preply arg reserved) s = .next t ∧ Answered t 9 0 ∧
            ∀ j, tabFind t.pages j = if j = id then none else tabFind s.pages j)) ∧
    (∀ part grace, (s.part part).map.valid = true → grace ≤ 1000 → (s.part part).preempt = .none →
      (s.evictable fun _ _ => false) = [] →
      (∀ c sl p, (c, sl, p) ∈ s.residents → p.part = part → p.wait.blocking = false ∧ s.awaitsRemote p = false) →
      ∃ t, exec (.preempt part grace) s = .next t ∧ Answered t 10 0 ∧
        t = { s with parts := t.parts, mp := { s.mp with mailbox := t.mp.mailbox } } ∧
        ∀ p, t.part p = if p = part then { s.part p with preempt := .grace (s.time + 1000 * grace) } else s.part p) ∧
    ∀ part, (s.part part).preempt ≠ .none → tabRising s.groups 0 = true →
      (∀ gid g, (gid, g) ∈ s.groups → g.part = part → g.away = false) → (s.part part).saved = [] →
      ∃ t, exec (.resume part) s = .next t ∧ Answered t 11 0 ∧
        t = { s with parts := t.parts, mp := { s.mp with mailbox := t.mp.mailbox } } ∧
        ∀ p, t.part p = if p = part then { s.part p with preempt := .none } else s.part p

/-- R15, R44, R135, R136, R141, R146, R247, R281, R283, R319, R320: timers that come due, grants to what waits, and replies to a
pack's own accesses. -/
def Obligations.TimersAndGrants : Prop :=
  ∀ (s : State) (c sl : Nat) (p : Pack), Idle s → s.packAt c sl = some p →
    (∀ r, p.meets.find? (fun m => (match m.deadline with | some d => decide (d ≤ s.time) | none => false) && p.heldAt m.addr != 0)
        = some r →
      ∃ t q, exec (.joinTimeout c sl) s = .next t ∧ OnlySlot s t c sl ∧ t.packAt c sl = some q ∧
        q = { p with fstat := p.fstat ||| 0x40, threads := q.threads, meets := q.meets } ∧ q.threads.length = p.threads.length ∧
        ∀ l, SameButMeet (p.thread l) (q.thread l) ∧
          ((p.thread l).held = true → (p.thread l).pc = r.addr → l < 32 → l < p.threads.length → (q.thread l).held = false)) ∧
    (∀ l, l < 32 → l < p.threads.length → ∃ t q, exec (.yieldWindowEnd c sl l) s = .next t ∧ OnlySlot s t c sl ∧ t.packAt c sl = some q ∧
      q = { p with threads := q.threads } ∧
      ∀ k, q.thread k = if k = l ∧ (p.thread k).yield = 1 then { p.thread k with yield := 0 } else p.thread k) ∧
    (∀ d, p.wait = .sleep d →
      (s.time < d → ∃ t, exec (.ssleepWake c sl) s = .next t ∧ OnlySlot s t c sl ∧ t.packAt c sl = some p) ∧
      (d ≤ s.time → ∃ t q, exec (.ssleepWake c sl) s = .next t ∧ OnlySlot s t c sl ∧ t.packAt c sl = some q ∧
        PackDone 4 {} { p with wait := .none } q)) ∧
    (p.wait = .acquire → Listed s →
      (∀ k q, (k, q) ∈ (s.core c).packs → k / 12 = sl / 12 → k ≠ sl → q.wait ≠ .acquire) →
      p.fullBlocks - p.pro ≤ s.freeBlocks c (sl / 12) → (s.acquireEnergy p).2 = true → p.full = false →
      ∃ t q, exec (.acquireGrant c (sl / 12)) s = .next t ∧ t.packAt c sl = some q ∧
        PackDone 8 {} { p with
          full := true, wait := .none
          threads := p.threads.map fun u => { u with v := u.v.filter fun (r, _) => decide (r < 8 * p.pro) } } q) ∧
    (∀ Q rest, p.wait = .queue Q → (s.core c).stalls = (Q, sl) :: rest → (∀ x, x ∈ rest → x ≠ (Q, sl)) →
      (∀ e, e ∈ p.replay → e.queued = e.mask) → s.mayTake c p.part Q = true →
      ∃ t, exec (.queueEntryGrant c Q) s = .next t ∧ t.packAt c sl = some { p with wait := .none } ∧ (t.core c).stalls = (s.core c).stalls) ∧
    (State.fetchLate { s with site := some (c, sl), pk := p } c sl = true →
      ∃ t, exec (.fetchReply c sl) s = .next t ∧ OnlySlot s t c sl ∧ t.packAt c sl = some { p with filled := true }) ∧
    (∀ x rest, p.late = x :: rest → (∀ y, y ∈ rest → y.id ≠ x.id) →
      ∃ t q, exec (.packAccessReply c sl) s = .next t ∧ OnlySlot s t c sl ∧ t.packAt c sl = some q ∧
        q = { p with s := q.s, pend := q.pend, late := rest } ∧ (∀ w, w ∈ q.pend → w.owner ≠ x.id) ∧
        ∀ r, q.sreg r = (x.s.reverse.lookup r).getD (p.sreg r)) ∧
    (∀ g n (x : Trans), s.group p.group = some g → p.args = .pending → p.wait ≠ .parked → p.req = none →
      (s.part p.part).halted = false → Clean s → s.home.replicaLag = [] → g.arg.toNat = n * 64 → n * 64 + 64 ≤ 2 ^ 52 →
      (s.core c).tlb.find? (fun y => y.part = p.part && y.vpn = n * 64 / 2 ^ 16) = some x → x.misused .flat = false →
      x.allows .load p.priv = true →
      let pa := x.frame * 2 ^ 16 + n * 64 % 2 ^ 16
      s.paKind pa = .hbm → Sound s pa 64 →
      ∃ t q, exec (.argumentLoadReply c sl) s = .next t ∧ t.packAt c sl = some q ∧
        q = { p with s := q.s, pend := q.pend, args := .done } ∧ (∀ w, w ∈ q.pend → w.owner ≠ argOwner) ∧
        ∀ r, q.sreg r = if r < 16 then BitVec.ofNat 32 (numberAt s.memByte (pa + 4 * r) 4) else p.sreg r) ∧
    ∀ r rest, s.overflow = r :: rest → s.pageMayTake r.fn = true → r.waiter = .idle → r.stage2 = false →
      ∃ t id, exec (.pageRequestEntryGrant r.fn) s = .next t ∧ t.overflow = rest ∧ id ≤ 2048 ∧
        ∀ j, tabFind t.pages j = if j = id then some r else tabFind s.pages j


/-- R85, R90, R114, R120, R121, R158, R250-R253, R314: the stations of a flat load and of an atomic in flight: its walk ends, its
home slice answers or asks memory, memory answers, the value returns, unless a promotion it needs is still to be answered, and
replaces an error mark of its register (R97); an atomic performs at its home slice. -/
def Obligations.AccessesInFlight : Prop :=
  ∀ (s : State) (c sl : Nat) (p : Pack) (e : Entry) (l : Nat) (w : LaneAcc) (i : Instr), Idle s → Listed s → Clean s →
    s.env.defer = true → s.packAt c sl = some p → InFlight p e l w i → (s.part p.part).halted = false →
    s.home.paused = none → (∀ b, b ∈ (s.core c).l1 → b.odd = []) →
    (∀ x d sg, flatLoadForm i = some (x, d, sg) → (encode i).length = 1 →
      (∀ y : Trans, w.phase = .walk → s.hasWalker c e.id = true → recordVa w < 2 ^ 52 → recordVa w % x.n = 0 →
        (s.core c).tlb.find? (fun y => y.part = p.part && y.vpn = recordVa w / 2 ^ 16) = some y → y.misused .flat = false →
        y.allows .load e.priv = true →
        let pa := y.frame * 2 ^ 16 + recordVa w % 2 ^ 16
        s.paKind pa = .hbm →
        ∃ t q, exec (.walkComplete c sl e.id l) s = .next t ∧ t.packAt c sl = some q ∧
          Moved p q e l w (.ready [(pa, y.attr + if y.elide then 4 else 0)]) ∧ ∀ a, t.memByte a = s.memByte a) ∧
      (∀ pa at', w.phase = .ready [(pa, at')] → s.paKind pa = .hbm → pa % x.n = 0 → Sound s pa x.n →
        (∀ sec bs, (s.core c).sector sec = some bs → bs = s.memBytes (sec * 16) 16) →
        ((pa / 256 ∈ s.home.lines → at' % 4 ≠ 1 → ∃ t q, exec (.homeSliceRequest c sl e.id l) s = .next t ∧ t.packAt c sl = some q ∧
            Moved p q e l w (.done (loadWords sg (heldBytes s pa x.n))) ∧ ∀ a, t.memByte a = s.memByte a) ∧
          (pa / 256 ∉ s.home.lines → s.blockCode pa = 0 → at' % 4 ≠ 1 → (s.core c).sector (pa / 16) = none →
            ∃ t q, exec (.homeSliceRequest c sl e.id l) s = .next t ∧ t.packAt c sl = some q ∧
              Moved p q e l w (.sent [(pa, at')]) ∧ ∀ a, t.memByte a = s.memByte a))) ∧
      (∀ pa at', w.phase = .sent [(pa, at')] → s.paKind pa = .hbm → pa % x.n = 0 → Sound s pa x.n → at' % 4 ≠ 1 →
        (s.core c).sector (pa / 16) = none → s.home.arrivals = [(e.id, l)] →
        (∀ k n q, (k, n, q) ∈ s.residents → ¬(k = c ∧ n = sl) → q.replay = []) →
        ∃ t q, exec (.hbmReadReply (s.slice pa)) s = .next t ∧ t.packAt c sl = some q ∧
          Moved p q e l w (.done (loadWords sg (heldBytes s pa x.n))) ∧ ∀ a, t.memByte a = s.memByte a) ∧
      ∀ vs, w.phase = .done vs → (p.thread l).exited = false → l < p.threads.length →
        let mine := fun (y : Promotion) => y.entry = e.id ∧ y.lane = l
        ((∃ y, y ∈ s.home.promoting ∧ mine y) → (∀ y, y ∈ s.home.promoting → mine y → y.replied = false) →
          ∃ t, exec (.laneReply c sl e.id l) s = .next t ∧ t.packAt c sl = some p ∧ t.home = s.home) ∧
        ((∀ y, y ∈ s.home.promoting → mine y → y.replied = true) →
        ∃ t q, exec (.laneReply c sl e.id l) s = .next t ∧ t.packAt c sl = some q ∧ q.replay = [] ∧
          (∀ y, y ∈ t.home.promoting ↔ y ∈ s.home.promoting ∧ ¬mine y) ∧
          q = { p with threads := q.threads, pend := q.pend, replay := [], soft := q.soft, bad := q.bad } ∧
          (∀ y, y ∈ q.bad ↔ y ∈ p.bad ∧ ¬(y.1 = l ∧ d.toNat ≤ y.2 ∧ y.2 < d.toNat + vs.length)) ∧
          (∀ y, y ∈ q.pend → y.owner = e.id → hasLane y.lanes l = false) ∧
          ∀ k r, (q.thread k).r r = if k = l then ((putWords d vs).regs.lookup r).getD ((p.thread k).r r) else (p.thread k).r r)) ∧
    ∀ g d a b la ty op ord sc x pa, i = .atom g d a b la ty op ord sc x → w.phase = .ready [(pa, 0)] → e.queued = e.mask →
      s.paKind pa = .hbm → pa % atomBytes ty = 0 → Sound s pa (atomBytes ty) →
      let old := numberAt s.memByte pa (atomBytes ty)
      ∃ t q, exec (.atomicPerform c sl e.id l) s = .next t ∧ t.packAt c sl = some q ∧
        Moved p q e l w (.done (loadWords false (bytesOfNat (atomBytes ty) old))) ∧
        ∀ y, t.memByte y = stored s.memByte pa (bytesOfNat (atomBytes ty) (atomResult ty op old (recordData w (atomBytes ty)))) y

/-- R29, R120, R121, R128, R179: what arrives at the units of the memory system: a barrier update at its vault bank, a request of
another device, and the two halves of a promotion: each takes the first promotion of the slice that waits for it, and the reply brings
the replicas up to date. That the two are steps of their own, in that order, is the model's choice (log 8). -/
def Obligations.MemorySystemEvents : Prop :=
  ∀ s : State, Idle s →
    (∀ c off rest, (s.core c).vaultBad = [] → (s.core c).vaultSoft = [] →
      (∀ n f, (s.core c).bank = .arrive off n f :: rest → ∃ t, exec (.vaultBankUpdate c) s = .next t ∧
        barrierAt t c off = (barrierAt s c off).arrive n f ∧ (t.core c).bank = rest ∧ OtherVault s t c off 16) ∧
      ∀ n, (s.core c).bank = .expect off n :: rest → ∃ t, exec (.vaultBankUpdate c) s = .next t ∧
        barrierAt t c off = (barrierAt s c off).expect n ∧ (t.core c).bank = rest ∧ OtherVault s t c off 16) ∧
    (Clean s →
      (∀ a n, a + n ≤ Config.hbmBytes → Sound s (localAt s a) n → ∃ t, exec (.remoteRequest (.load a n)) s = .next t ∧
        t.home.remoteData = heldBytes s (localAt s a) n ∧ t.home.remoteError = false ∧ ∀ y, t.memByte y = s.memByte y) ∧
      (∀ a bs, a + bs.length ≤ Config.hbmBytes → Sound s (localAt s a) bs.length →
        ∃ t, exec (.remoteRequest (.store a bs)) s = .next t ∧ ∀ y, t.memByte y = stored s.memByte (localAt s a) bs y) ∧
      ∀ a ty op v, a + atomBytes ty ≤ Config.hbmBytes → a % atomBytes ty = 0 → op.okFor ty = true →
        Sound s (localAt s a) (atomBytes ty) →
        let old := numberAt s.memByte (localAt s a) (atomBytes ty)
        ∃ t, exec (.remoteRequest (.rmw a ty op v)) s = .next t ∧ t.home.remoteError = false ∧
          t.home.remoteData = heldBytes s (localAt s a) (atomBytes ty) ∧
          ∀ y, t.memByte y = stored s.memByte (localAt s a)
            (bytesOfNat (atomBytes ty) (atomResult ty op old (v.toNat % 256 ^ atomBytes ty))) y) ∧
    ∀ slice pre x post, s.home.promoting = pre ++ x :: post → x.slice = slice →
      (x.asked = false → (∀ y, y ∈ pre → ¬(y.slice = slice ∧ y.asked = false)) →
        exec (.promotionRequest slice) s =
          .next { s with home := { s.home with promoting := pre ++ { x with asked := true } :: post } }) ∧
      (x.asked = true → x.replied = false → (∀ y, y ∈ pre → ¬(y.slice = slice ∧ y.asked = true ∧ y.replied = false)) →
        exec (.promotionReply slice) s =
          .next { s with home := { s.home with promoting := pre ++ { x with replied := true } :: post, replicaLag := [] } })

/-- R90, R91, R94-R97, R171, R174, R177, R184, R201: upkeep of the memory, the links and the ports, and what a cold boot, a warm
reset and a reload of the firmware leave. What a cold boot keeps of the MP, and what else a warm reset does, are readings (log 33);
that a recalibration pauses for the whole of its 200 ns is the model's choice (log 45). -/
def Obligations.UpkeepAndBoot : Prop :=
  ∀ s : State, Idle s →
    (∀ a, s.paKind (a / 256 * 256) = .hbm →
      let mine := fun u => u / 8 = a / 256
      ∃ t, exec (.patrol (s.slice (a / 256 * 256)) a) s = .next t ∧ t.mem = s.mem ∧ t.home.bad = s.home.bad ∧
        (∀ u, u ∈ t.home.soft ↔ u ∈ s.home.soft ∧ ¬mine u) ∧
        tabGet 0 t.mp.counters 0 = tabGet 0 s.mp.counters 0 + (List.range 8).countP (fun k => s.home.soft.contains (a / 256 * 8 + k)) ∧
        tabGet 0 t.mp.counters 1 = tabGet 0 s.mp.counters 1 + (List.range 8).countP (fun k => s.home.bad.contains (a / 256 * 8 + k))) ∧
    (∀ k, k < 256 → let due := k = s.home.recals % 256 ∧ s.home.recals * 1000000 / 256 ≤ s.time ∧
        ∀ x, s.home.paused = some x → x.2 ≤ s.time
      (due → exec (.hbmRecalibration k) s =
        .next { s with home := { s.home with paused := some (k, s.time + 200), recals := s.home.recals + 1 } }) ∧
      (¬due → exec (.hbmRecalibration k) s = .next s)) ∧
    (∀ src, 2048 ≤ src → src ≤ 2067 → ∃ t, exec (.linkRetrain src) s = .next t ∧ OnlyMp s t ∧ Logged s t 10 src 0 0 0) ∧
    (∀ sel, exec (.refresh sel) s = .next s) ∧
    (∀ port, port < 18 → ∃ t, exec (.ralvanPortLoss port) s = .next t ∧ t = { s with mp := { s.mp with lostPorts := t.mp.lostPorts } } ∧
      ∀ k, k ∈ t.mp.lostPorts ↔ k ∈ s.mp.lostPorts ∨ k = port) ∧
    (∃ t, exec .coldBoot s = .next t ∧ Retrained true { State.reset with
        env := s.env
        mp := { State.reset.mp with
          serial := s.mp.serial, nodeId := s.mp.nodeId, scrubSeq := s.mp.scrubSeq, training := s.mp.training
          flash := s.mp.flash } } t) ∧
    ((∀ st, st < 8 → tabFind s.mp.flash (Config.stackSerial st) ≠ none) →
      ∃ t, exec .warmReset s = .next t ∧ Retrained false s t) ∧
    exec .firmwareReload s = .next { s with mp := { s.mp with retiredClusters := 0, retiredGroups := 0 } }


/-- R10, R21-R27, R131-R133, R175, R183, R193: the scheduler and the MP's admission work: the first group that a walk places and the
rest of the walk, a reservation, an overflow list, the planning interval, the energy correction, tokens at regions, a hold of 10 ms
without one, and a region torn down. The measured power of an interval and the energy of a reading are free values, and a reading
charges the one group of its core: these are the model's choices (log 6). No energy already counted is taken back. -/
def Obligations.Scheduling : Prop :=
  ∀ s : State, Idle s →
    (∀ die s1 slot rest n s2, die < 2 → s.waitingBack = [] → s.waitingRest = [] → s.poolOf die = (s1, slot :: rest) →
      tabFind (s1.unstick rest).sched.nodes slot = some n → n.flags % 2 = 0 → (s1.unstick rest).tryPlace die slot n = (s2, .yes) →
      exec (.groupDispatch die) s = .next (s2.walkPool die false rest).1 ∧
        ∃ gid g, tabFind s2.groups gid = some g ∧ g.part = n.part ∧ g.slot = slot ∧
        g.index = n.next ∧ g.core / 80 = die ∧ g.rcb = n.rcb ∧ g.arg = n.arg ∧ g.vbytes = n.vbytes ∧ g.acc = n.acc ∧
        tabFind s2.sched.nodes slot = some { n with next := n.next + 1, stuck := 0 }) ∧
    (∀ die s1 slot rest n k, die < 2 → tabFind s.sched.reserved die = none → s.poolOf die = (s1, slot :: rest) →
      tabFind s1.sched.nodes slot = some n → 10 < n.stuck → n.flags % 2 = 0 → k / 80 = die → s1.mayPlace n.part k = true →
      (∀ j, j / 80 = die → s1.mayPlace n.part j = true → s1.lacking n k < s1.lacking n j ∨ (s1.lacking n k = s1.lacking n j ∧ k ≤ j)) →
      ∃ t, exec (.reservation die) s = .next t ∧ t.sched.reserved = tabPut s.sched.reserved die (slot, k) ∧
        t.groups = s.groups) ∧
    (∀ slot n s1, tabFind s.sched.nodes slot = some n → n.done = true → n.listing = true → n.next ≤ n.ended →
      s.schedRead n.part n.overflow.toNat 4 = (s1, some 0) →
      ∃ t, exec (.overflowListRead slot) s = .next t ∧
        ∀ j, tabFind t.sched.nodes j = if j = slot then none else tabFind s.sched.nodes j) ∧
    ((s.time < (s.mp.planning + 1) * 10000 → exec .planningInterval s = .next s) ∧
      ((s.mp.planning + 1) * 10000 ≤ s.time → ∃ t, exec .planningInterval s = .next t ∧ t.mp.planning = s.mp.planning + 1 ∧
        t.mp.measured = Config.measuredMilliwatt (s.mp.planning + 1) ∧
        ∀ c, c < 160 → (t.core c).mhz = (s.core c).mhzNext ∧
          (ClockOk (s.core c).mhzNext → ClockOk (t.core c).mhzNext))) ∧
    ((s.time < (s.mp.corrections + 1) * 1000000 → exec .energyCorrection s = .next s) ∧
      ((s.mp.corrections + 1) * 1000000 ≤ s.time →
        ∃ t, exec .energyCorrection s = .next t ∧ t.mp.corrections = s.mp.corrections + 1 ∧ t.sched = s.sched ∧
          (∀ p, (s.part p).energy ≤ (t.part p).energy) ∧
          ((∀ gid g, (gid, g) ∈ s.groups → g.away = true) → t = { s with mp := { s.mp with corrections := s.mp.corrections + 1 } }) ∧
          ∀ gid g, s.groups = [(gid, g)] → g.away = false →
            (t.part g.part).energy = (s.part g.part).energy +
              (g.nanoPart + (s.part g.part).carry + Config.energyPicojoules g.core s.env.free) / 1000000 ∧
            (t.part g.part).carry = 0)) ∧
    (∀ part rcb s1 r hpa b, s.tokenDue part rcb.toNat = (s1, some r) → (s1.part part).token = some (hpa, b) →
      (s1.takesWrite agentMp part .root r.tokbuf).2 = true →
      ∃ t, exec (.scrubTokenDelivery part rcb) s = .next t ∧ (t.region part rcb.toNat).hold = none ∧
        (t.region part rcb.toNat).token ≠ none ∧ t.home.replicaLag = []) ∧
    (∀ part rcb t0, (s.region part rcb.toNat).hold = some t0 → (s.region part rcb.toNat).holdLogged = false →
      (s.time < t0 + 10000000 → exec (.scrubholdTimeout part rcb) s = .next s) ∧
      ((s.tokenDue part rcb.toNat).2 ≠ none → exec (.scrubholdTimeout part rcb) s = .next s) ∧
      (t0 + 10000000 ≤ s.time → (s.tokenDue part rcb.toNat).2 = none →
        ∃ t, exec (.scrubholdTimeout part rcb) s = .next t ∧ (t.region part rcb.toNat).holdLogged = true ∧
          (t.region part rcb.toNat).hold = some t0 ∧ t.mp.nseq = (s.tokenDue part rcb.toNat).1.mp.nseq + 1)) ∧
    ∀ part rcb, (∀ id c, (id, c) ∈ s.cmds → ¬(c.orphan = true ∧ c.part = part ∧ c.rcb = rcb)) →
      ∃ t, exec (.regionTeardown part rcb) s = .next t ∧ (t.region part rcb.toNat).torn = true ∧
        (t.region part rcb.toNat).hold = none ∧ ∀ n o, tabFind t.orphans n = some o → ¬(o.part = part ∧ o.rcb = rcb)

/-- R102-R107: the steps of a re-tile: a frame of equal colour is taken, the copy holds every element at its place under the new
layout, a publish is scheduled 400 ns ahead, at which the leaf names the new frame and layout, and the old frame goes back. At which
of these steps the bytes move is the model's choice (log 39): every element, of dirty segments too, is in place when the copy ends.
And a report at the page's record: its class is counted, the window ends, the cool-down runs, and a dominant class whose layout
differs from the page's asks for a re-tile; a page that is not tracked, or not stable, discards it. -/
def Obligations.Retiling : Prop :=
  ∀ (s : State) (stack : Nat) (r : Retile), Idle s → s.retileNow stack = some r →
    let x := r.shape
    (r.stage = .waiting → s.retileMapped r = true → s.retileLeaving r = false →
      let fits := fun f => f ∈ (s.part r.part).pool ∧ s.colour f = s.colour r.oldFrame ∧ f ∉ (s.part r.part).marked
      ((∀ f, ¬fits f) → exec (.retileStart stack) s = .next s) ∧
      ((∃ f, fits f) → ∃ t f, exec (.retileStart stack) s = .next t ∧ fits f ∧ (∀ k, k ∈ (t.part r.part).pool ↔
          k ∈ (s.part r.part).pool ∧ k ≠ f) ∧
        t.retileNow stack = some { r with stage := .copying, newFrame := f, dirty := [] })) ∧
    (MayRetile s r → (∀ g, g ∈ r.dirty → g < 256) → Clean s → r.newFrame ≠ r.oldFrame → r.leaf / 2 ^ 16 ≠ r.newFrame → Sound s (r.newFrame * 2 ^ 16) (2 ^ 16) →
      x.bits * x.h * x.w = 2 ^ 19 → 8 ∣ x.bits ∨ x.bits = 4 → 32 ∣ x.h → 32 ∣ x.w → (r.layout = 8 ∨ r.oldLayout = 8 → x.h = x.w ∧ x.h ≤ 512) →
      r.layout ≤ 8 → r.oldLayout ≤ 8 →
      (r.stage = .copying →
        ∃ t, exec (.retileCopyEnd stack) s = .next t ∧
          (∀ a, a / 2 ^ 16 ≠ r.newFrame → t.memByte a = s.memByte a) ∧
          (∀ c y, c < x.w → y < x.h → elemIn t r.newFrame r.layout x c y = elemIn s r.oldFrame r.oldLayout x c y) ∧
          (r.dirty = [] → t.retileNow stack = some { r with stage := .scheduled (s.time + 400) }) ∧
          (r.dirty ≠ [] → t.retileNow stack = some { r with stage := .pass 1, dirty := [] })) ∧
      (∀ n, r.stage = .pass n →
        ∃ t, exec (.retileDirtyPassEnd stack) s = .next t ∧
          (n = 1 → r.dirty ≠ [] → t.retileNow stack = some { r with stage := .pass 2, dirty := [] }) ∧
          (n ≠ 1 ∨ r.dirty = [] → r.dirty.length ≤ 64 → t.retileNow stack = some { r with stage := .scheduled (s.time + 400) })) ∧
      ∀ tp, r.stage = .scheduled tp →
        (∃ t, exec (.retileDirtyCopyDone stack) s = .next t ∧ t.retileNow stack = some { r with dirty := [] } ∧
          ∀ a, a / 2 ^ 16 ≠ r.newFrame → t.memByte a = s.memByte a) ∧
        (s.time < tp → exec (.retilePublish stack) s = .next s) ∧
        (tp ≤ s.time → r.leaf % 8 = 0 → Sound s r.leaf 8 → r.newFrame < 2 ^ 36 →
          ∃ t, exec (.retilePublish stack) s = .next t ∧ t.retileNow stack = some { r with stage := .published, dirty := [] } ∧
            (let e := numberAt s.memByte r.leaf 8
              let e' := numberAt t.memByte r.leaf 8
              e' / 2 ^ 16 % 2 ^ 36 = r.newFrame ∧ e' / 2 ^ 6 % 2 ^ 4 = r.layout ∧ e' % 2 ^ 6 = e % 2 ^ 6 ∧
                e' / 2 ^ 10 % 2 ^ 6 = e / 2 ^ 10 % 2 ^ 6 ∧ e' / 2 ^ 52 = e / 2 ^ 52) ∧
            (∀ a, a / 2 ^ 16 ≠ r.newFrame → ¬(r.leaf ≤ a ∧ a < r.leaf + 8) → t.memByte a = s.memByte a) ∧
            ∀ c y, y ∈ (t.core c).tlb → y.leaf = r.leaf → y.frame = r.newFrame ∧ y.layout = r.layout)) ∧
    (r.stage = .published → r.oldFrame ∉ (s.part r.part).marked →
      ∃ t, exec (.retileRelease stack) s = .next t ∧ (t.part r.part).pool = (s.part r.part).pool ++ [r.oldFrame]) ∧
    ∀ slice y rest r pl, s.home.reports = y :: rest → y.slice = slice → y.tid ≠ 0xFFFF → y.cls < 4 → y.size < 4 →
      s.home.monSoft = [] → s.home.monBad = [] →
      (∃ b, tabFind (s.part y.part).records y.tid = some b ∧ parseTRec b = some r) →
      State.pageLeaf { s with home := { s.home with reports := rest } } r y.part y.page = some pl →
      let m := s.monitor y.part y.tid y.page r
      let window := 2 ^ r.window
      let count := fun k => min 255 (m.get (63 - 8 * k) (56 - 8 * k) + if k = y.cls then 1 else 0)
      let size := max (m.get 12 11) y.size
      let dominant := fun k => 3 * window ≤ 4 * count k
      let cand := if dominant 0 then some 0 else if dominant 1 then some 1
        else if dominant 2 ∧ size ≠ 0 then some (size + 1) else none
      ∃ t, exec (.monitorReport slice) s = .next t ∧ t.home.reports = rest ∧
        (∀ part tid page x, ¬(part = y.part ∧ tid = y.tid ∧ page = y.page) → t.monitor part tid page x = s.monitor part tid page x) ∧
        let n := t.monitor y.part y.tid y.page r
        let same := t.home.retiles = s.home.retiles
        let untracked := r.linear = true ∨ r.pinned = true ∨ r.notrack = true ∨ r.paired = true ∨ m.state ≠ 0
        (untracked → n = m ∧ same) ∧
        (¬untracked → m.get 31 24 + 1 < window → n.state = 0 ∧ n.get 31 24 = m.get 31 24 + 1 ∧
          (∀ k, k < 4 → n.get (63 - 8 * k) (56 - 8 * k) = count k) ∧ n.get 12 11 = size ∧ n.cool = m.cool ∧ n.flips = m.flips ∧ same) ∧
        (¬untracked → window ≤ m.get 31 24 + 1 → n.get 63 24 = 0 ∧ n.get 12 11 = 0 ∧ n.flips = m.flips ∧
          (0 < m.cool → n.state = 0 ∧ n.cool = m.cool - 1 ∧ same) ∧
          (m.cool = 0 → n.cool = 0 ∧
            (cand = none ∨ cand = some pl.layout → n.state = 0 ∧ same) ∧
            ∀ l, cand = some l → l ≠ pl.layout →
              (s.retileCount (s.stackOfFrame pl.frame) < 128 → n.state = 1 ∧
                t.home.retiles = s.home.retiles ++ [asksFor m r.fmt .monitor l pl.frame pl.layout pl.leaf]) ∧
              (128 ≤ s.retileCount (s.stackOfFrame pl.frame) → n.state = 0 ∧ same)))

/-- R48, R125, R137-R139, R286, R287, R291, R299: a command starts, feeds a K-step, and completes: it leaves its queue and signals
its bytes, or its failure, at its barrier or in its token register. -/
def Obligations.EngineEvents : Prop :=
  ∀ (s : State) (core id : Nat) (c : Cmd), Idle s → tabFind s.cmds id = some c → c.core = core →
    (∀ (rec bar : SReg) (la : BitVec 4) (tok : Bool), c.instr = .splgrid rec bar la tok → s.mayStart core id = true → s.home.paused = none →
      ∃ t x, exec (.engineCommandStart core id) s = .next t ∧ tabFind t.cmds id = some x ∧ x.state = .ready ∧ x.fail = c.fail ∧
        (t.core core).eng.klo = BitVec.ofNat 32 (fieldAt c.record 0 4) ∧ (t.core core).eng.khi = BitVec.ofNat 32 (fieldAt c.record 4 4) ∧
        (t.core core).eng.kg = fieldAt c.record 8 1 ∧ (t.core core).eng.kord = fieldAt c.record 9 1 ∧
        (t.core core).eng.kclamp = fieldAt c.record 10 1 ∧ (t.core core).eng.koog = 0 ∧
        (t.core core).eng.acc = (s.core core).eng.acc ∧ (t.core core).eng.coef = (s.core core).eng.coef) ∧
    (s.mayStart core id = false → exec (.engineCommandStart core id) s = .next s) ∧
    (s.mayFeed core id = false → exec (.kstepWrite core id) s = .next s) ∧
    (∀ (h : Handle) (r : TRec) (ts : List TRec) (s1 : State) rows, s.mayFeed core id = true → s.home.paused = none → c.handle = some h →
      c.recs = r :: ts → h.kind = .single → (∀ j d, (j, d) ∈ s.cmds → j ≠ id → d.state ≠ .running) → tabRising s.cmds 0 = true →
      c.isMma = false → c.isMmv = false →
      collect (fun s k => s.readOperandRow c r (fieldAt c.record 2 1 ≠ 0) c.cursor k) s (List.range (fieldAt c.record 4 4)) = (s1, .ok rows) →
      ∃ t x, exec (.kstepWrite core id) s = .next t ∧ tabFind t.cmds id = some x ∧ x.cursor = c.cursor + 1 ∧
        x.state = (if c.cursor + 1 = (if c.upto = 0 then fieldAt c.record 8 4 else c.upto) then .ready else .running) ∧
        (if c.feed = 1 then (t.core h.engine).eng.fifoB.length = (s1.core h.engine).eng.fifoB.length + 1
          else (t.core h.engine).eng.fifoA.length = (s1.core h.engine).eng.fifoA.length + 1)) ∧
    (c.state = .ready → c.orphan = false → s.home.paused = none → s.enginesRun c.part = true → s.livePacks c.group = true →
      (c.fail ≠ 0 ∨ s.cutOne c = (s, .ok c)) →
      (∀ k off, c.signal = .barrier k off → s.env.defer = false → (s.core k).vaultBad = [] → (s.core k).vaultSoft = [] →
        ∃ t, exec (.engineCommandCompletion core id) s = .next t ∧
          barrierAt t k off = (barrierAt s k off).arrive c.bytes (decide (c.fail ≠ 0)) ∧ OtherVault s t k off 16 ∧
          ∀ j, tabFind t.cmds j = if j = id then none else tabFind s.cmds j) ∧
      (∀ r k n p, c.signal = .token r → r < 64 → s.packAt k n = some p → p.group = c.group → p.packNo = c.packNo →
        ∃ t q, exec (.engineCommandCompletion core id) s = .next t ∧ t.packAt k n = some q ∧
          (∀ w, q.sreg w = if w = r then BitVec.ofNat 32 (2 ^ 31 + if c.fail ≠ 0 then 2 ^ 30 + c.fail else 0) else p.sreg w) ∧
          (∀ w, w ∈ q.pend → w.owner ≠ id) ∧ ∀ j, tabFind t.cmds j = if j = id then none else tabFind s.cmds j) ∧
      (c.signal = .nothing → 2 ≤ c.feed ∨ s.fedBy id = [] →
        exec (.engineCommandCompletion core id) s = .next { s with cmds := tabDel s.cmds id }))

/-- R48, R69, R72-R77, R287, R294, R295, R300-R303: what the commands that compute in a matrix engine leave there. A matrix command
all of whose K-steps stand in its FIFOs takes them and leaves their products in its handle; a spline command leaves its
coefficients, its sums or its gradients. The arithmetic is that of the model's float operations. -/
def Obligations.EngineResults : Prop :=
  ∀ (s : State) (core id : Nat) (c : Cmd), Idle s → tabFind s.cmds id = some c → c.core = core → c.state = .queued →
    s.mayStart core id = true →
    let b := c.record
    let e := (s.core core).eng
    let starts := fun (P : State → Cmd → Prop) => ∃ t x, exec (.engineCommandStart core id) s = .next t ∧ tabFind t.cmds id = some x ∧ P t x
    let nin := fieldAt b 12 1
    let nout := fieldAt b 13 1
    (∀ (h : Handle) (r : State) (vs : List Byte) (ka kb ra rb : Nat → List KStep), c.isMma = true ∨ c.isMmv = true → c.tile = [] → c.cursor = 0 → c.handle = some h → h.kind ≠ .splgrad →
      (h.kind = .split → h.split.length = 4) → h.engines.Nodup → c.engines = h.engines → AccClean s h →
      let d := c.dims
      let (rows, cols) := h.shape d.ty
      d.m ≤ rows → d.n ≤ cols → s.readVectors c d = (r, .ok vs) →
      (d.m = 0 ∨ d.n = 0 → starts fun t x => x.state = .ready ∧ x.fail = c.fail ∧ ∀ k, (t.core k).eng = (s.core k).eng) ∧
      (0 < d.m → 0 < d.n → (∀ q k, h.engines[q]? = some k →
          let en := (s.core k).eng
          en.fifoA = ka q ++ ra q ∧ (ka q).length = d.steps ∧ (c.isMma = true → en.fifoB = kb q ++ rb q ∧ (kb q).length = d.steps) ∧
            ∀ st, (st ∈ ka q → st.soft = false ∧ st.bad = false ∧ (needRows h d q).1 ≤ st.rows.length) ∧
              (c.isMma = true → st ∈ kb q → st.soft = false ∧ st.bad = false ∧ (needRows h d q).2 ≤ st.rows.length)) →
        starts fun t x => x.state = .ready ∧ x.fail = c.fail ∧
          (∀ q k, h.engines[q]? = some k → (t.core k).eng.fifoA = ra q ∧ (c.isMma = true → (t.core k).eng.fifoB = rb q)) ∧
          ∀ i j, i < rows → j < cols → t.tileGet h d.ty i j =
            if i < d.m ∧ j < d.n then
              let (q, y, z) := h.quarter d.ty i j
              (List.range d.steps).foldl (fun acc k =>
                let n := min (kper d.fa) (d.k - k * kper d.fa)
                kstepElem d.ty d.fa acc (rowOf d.fa n (ka q) k y)
                  (if c.isMma then rowOf d.fb n (kb q) k z
                    else vectorNums d.fa (k * kper d.fa) n ((vs.drop (j * d.vectorBytes)).take d.vectorBytes)))
                (if d.acc then s.tileGet h d.ty i j else 0) % 2 ^ (if d.ty = 1 then 64 else 32)
            else s.tileGet h d.ty i j)) ∧
    (∀ rec bar la tok r bs, c.instr = .splload rec bar la tok →
      let o0 := fieldAt b 8 1
      let i0 := fieldAt b 9 1
      let no := fieldAt b 10 1
      let ni := fieldAt b 11 1
      o0 + no ≤ 64 → i0 + ni ≤ 64 → s.engFlat c (fieldAt b 0 8) (40 * no * ni) = (r, .ok bs) →
      starts fun t x => x.state = .ready ∧ x.fail = c.fail ∧ ∀ o i k, o < 64 → i < 64 → k < 20 →
        coefAt t core o i k = if o0 ≤ o ∧ o < o0 + no ∧ i0 ≤ i ∧ i < i0 + ni
          then BitVec.ofNat 16 (fieldAt bs (40 * ((o - o0) * ni + (i - i0)) + 2 * k) 2) else coefAt s core o i k) ∧
    (∀ bar la tok, c.instr = .splrefine bar la tok →
      (¬(e.kord = 3 ∧ 2 * e.kg + 3 ≤ 19) → starts fun t x => x.state = .ready ∧ x.fail = 13 ∧ (t.core core).eng = e) ∧
      (e.kord = 3 → 2 * e.kg + 3 ≤ 19 → CoefClean s core → starts fun t x => x.state = .ready ∧ x.fail = c.fail ∧
        (t.core core).eng = { e with coef := (t.core core).eng.coef, kg := 2 * e.kg, kscale := gridScale e.klo e.khi (2 * e.kg) } ∧
        ∀ o i k, o < 64 → i < 64 → k < 20 →
          coefAt t core o i k = if k < 2 * e.kg + 3 then e.refined (64 * o + i) k else 0)) ∧
    (∀ rec bar la dx tok h r xs ys, c.instr = .splmv rec bar la dx tok → c.handle = some h → h.kind = .single → nin ≤ 64 → nout ≤ 64 →
      fieldAt b 14 1 ≤ 8 → CoefClean s core → AccClean s h → s.splineInputs c dx = (r, .ok (xs, ys)) →
      starts fun t x => x.state = .ready ∧ x.fail = c.fail ∧
        (t.core core).eng.koog =
          BitVec.ofNat 32 (min (2 ^ 32 - 1) (e.koog.toNat + (xs.flatten.filter fun v => (e.edge v).out || (e.edge v).nan).length)) ∧
        (∀ o i k, coefAt t core o i k = coefAt s core o i k) ∧
        ∀ i v, i < 128 → v < 192 → t.tileGet h 0 i v =
          if i < (if dx then nin else nout) ∧ v < fieldAt b 14 1 then
            let old := if fieldAt b 16 1 = 1 then s.tileGet h 0 i v else 0
            let ps := (xs.getD v []).map e.edge
            (if dx then e.backward i old (e.edge ((xs.getD v []).getD i 0)) (ys.getD v []) else e.forward i old ps) % 2 ^ 32
          else s.tileGet h 0 i v) ∧
    ∀ rec bar la tok h r xs ys, c.instr = .splgrad rec bar la tok → c.handle = some h → h.kind = .splgrad → h.bound = true →
      nin ≤ 64 → nout ≤ 64 → AccClean s h → s.splineInputs c true = (r, .ok (xs, ys)) →
      (¬(h.kg = e.kg ∧ h.kord = e.kord) → starts fun t x => x.state = .ready ∧ x.fail = 13 ∧ ∀ i k, t.tileGet h 0 i k = s.tileGet h 0 i k) ∧
      (h.kg = e.kg → h.kord = e.kord → 1 ≤ e.kord → e.kord ≤ 3 → e.kg + e.kord ≤ 20 → starts fun t x => x.state = .ready ∧ x.fail = c.fail ∧
        ∀ o i k, o < 64 → i < 64 → k < 20 → t.tileGet h 0 (64 * o + i) k =
          let old := if fieldAt b 16 1 = 1 then s.tileGet h 0 (64 * o + i) k else 0
          if o < nout ∧ i < nin then
            (xs.zip ys).foldl (fun a (x, y) =>
              match (e.gradTerms (e.edge (x.getD i 0))).lookup k with
              | some bm => eFma (y.getD o 0) bm a % 2 ^ 32
              | none => a) old
          else old)

/-- R70, R112, R125, R126, R289, R290, R296-R298: what the commands that move data leave. A copy moves piece after piece: what it reads goes
into a vault at once, or stands ready and is written at its cut; cpyg reads its indices first. A drain takes its tile when it
starts and writes every element at its cut, the elements of ADAM with m and v. A reduction leaves the sum of the tree in
its lowest participant. -/
def Obligations.EngineTransfers : Prop :=
  ∀ (s : State) (core id : Nat) (c : Cmd), Idle s → tabFind s.cmds id = some c → c.core = core →
    let b := c.record
    let (n, rows) := c.copySize
    let y := c.copyDst
    let starts := fun (P : State → Cmd → Prop) => ∃ t x, exec (.engineCommandStart core id) s = .next t ∧ tabFind t.cmds id = some x ∧ P t x
    let gather := match c.instr with | .cpyg .. => true | _ => false
    let first := gather = true ∧ c.cursor = 0 ∧ c.state = .queued
    (c.isCopy = true → s.mayStart core id = true →
      (∀ t ts r ix, first → c.recs = t :: ts → s.engVault c (fieldAt b 12 4) (4 * fieldAt b 16 4) = (r, .ok ix) →
        (∃ w, w ∈ wordsOfBytes ix ∧ t.dim 1 ≤ w.toNat) →
        starts fun u x => x.state = .ready ∧ x.fail = 4 ∧ ∀ a, u.memByte a = s.memByte a ∧ vaultView u a = vaultView r a) ∧
      ∀ p c1 s1 r bs sp, c.piece = some p → (if first then s.readIndices c else (s, .ok c)) = (s1, .ok c1) →
        (if gather then s1.gatherPiece c1 p else s1.readPiece c1 p) = (r, .ok (bs, sp)) →
        let moved := fun (x : Cmd) => x.cursor = c.cursor + p.n ∧ x.fail = c.fail ∧
          (if n * rows ≤ c.cursor + p.n then x.state = .ready ∧ x.bytes = n * rows else x.state = .running)
        (p.row * n + p.off = c.cursor ∧ p.row < rows ∧ 0 < p.n ∧ p.off + p.n ≤ n ∧
          (y.kind ≠ 2 → p.dst = y.base + p.row * y.pitch + p.off)) ∧
        (y.kind ≠ 1 → starts fun t x => moved x ∧ x.shadow = c.shadow ++ bs ∧
          ∀ a, t.memByte a = r.memByte a ∧ vaultView t a = vaultView r a) ∧
        ∀ k o, y.kind = 1 → r.vaultSpan c.part c.group p.dst p.n = some (k, o) →
          (gather = true ∨ (cpySide c false).kind ≠ 1 → starts fun t x => moved x ∧ (∀ a, t.memByte a = r.memByte a) ∧
            (∀ a, byteAt (t.core k).vault a = stored (byteAt (r.core k).vault) o bs a) ∧ OtherVault r t k o bs.length) ∧
          ∀ j q, gather = false → (cpySide c false).kind = 1 →
            r.vaultSpan c.part c.group ((cpySide c false).base + p.row * (cpySide c false).pitch + p.off) p.n = some (j, q) →
            o + p.n ≤ 2 ^ 22 → q + p.n ≤ 2 ^ 22 → starts fun t x => moved x ∧ (∀ a, t.memByte a = r.memByte a) ∧
              ∀ a, vaultView t a = (List.range p.n).foldl (fun m i =>
                stored m (k * 2 ^ 22 + o + i) [m (j * 2 ^ 22 + q + i)]) (vaultView r) a) ∧
    (c.isCopy = true → s.mayComplete core id = true → s.livePacks c.group = true → c.fail = 0 → c.shadow.length = n * rows → 0 < n →
      let row := fun k => (c.shadow.drop (k * n)).take n
      (∀ r ps, y.kind = 0 → collect (fun s k => s.engPlace c (y.base + k * y.pitch) (row k)) s (List.range rows) = (r, .ok ps) →
        Placed r ps.flatten →
        ∃ t, exec (.engineCommandCompletion core id) s = .next t ∧ ∀ a, t.memByte a = putsStored r.memByte ps.flatten a) ∧
      ∀ r ps d o, y.kind = 2 → y.tensor = some (d, o) →
        let w := fieldAt b 20 4
        s.elemPuts c d (((positions rows w).map fun (k, e) => tileAt o e k).zip
          ((List.range rows).flatMap fun k => unpackElems (elemBits d.fmt) w (row k))) = (r, .ok ps) → Placed r (ps.map (·.1)) →
        ∃ t, exec (.engineCommandCompletion core id) s = .next t ∧ ∀ a, t.memByte a = putsStored r.memByte (ps.map (·.1)) a) ∧
    (∀ h, isDrain c.instr = true → c.handle = some h → AccClean s h →
      let (dr, dc) := c.drainShape
      (c.state = .queued → s.mayStart core id = true → starts fun t x => x.state = .ready ∧ x.fail = c.fail ∧
        x.tile = (positions dr dc).map (fun (i, j) => s.tileGet h h.acc i j) ∧ ∀ k, (t.core k).eng = (s.core k).eng) ∧
      (s.mayComplete core id = true → s.livePacks c.group = true → c.fail = 0 → c.tile.length = dr * dc →
        (s.group c.group).isSome = true → dr ≤ (h.shape h.acc).1 → dc ≤ (h.shape h.acc).2 →
        let published := fun (P : State → Prop) => ∃ t, exec (.engineCommandCompletion core id) s = .next t ∧ P t ∧
          (c.drainZero = true → ∀ i j, i < dr → j < dc → t.tileGet h h.acc i j = 0) ∧
          (c.drainZero = false → ∀ i j, t.tileGet h h.acc i j = s.tileGet h h.acc i j)
        (∀ w r ps, c.recs = [w] → s.drainPuts c h w = (r, .ok ps) → Placed r (ps.map (·.1)) →
          published (fun t => ∀ a, t.memByte a = putsStored r.memByte (ps.map (·.1)) a) ∧
          let images := fun (l : List Nat) =>
            ps.map (fun p => p.1.bytes) = (let l' := l.map (bytesOfNat w.bytes); if w.paired then l' ++ l' else l')
          (w.fmt ≠ 7 → c.drainMode = 0 → images (c.tile.map (drainConv h.acc w.fmt))) ∧
          (∀ s1 old, w.fmt ≠ 7 → c.drainMode ≠ 0 → s.engElems c w false (c.drainCoords w) = (s1, .ok old) →
            images ((old.zip c.tile).map fun (o, x) => drainAdd h.acc w.fmt o.1 x)) ∧
          (w.fmt = 7 → w.paired = false → dr * dc % 32 = 0 → 0 < dr * dc →
            let blocks := (List.range (dr * dc / 32)).map fun k => (f4xEncode (((c.tile.drop (32 * k)).take 32).map fp32.decode)).1
            (ps.filterMap fun p => p.1.nibble.map (·.2)) = blocks.flatMap (·.codes) ∧
            (ps.filter fun p => p.1.nibble.isNone).flatMap (fun p => p.1.bytes) =
              blocks.flatMap fun k => [BitVec.ofNat 8 k.scale, BitVec.ofNat 8 k.spare])) ∧
        ∀ w m v s1 ws ms vs r ps, c.recs = [w, m, v] →
          collect (fun s (t : TRec) => s.engElems c t false (c.drainCoords w)) s [w, m, v] = (s1, .ok [ws, ms, vs]) →
          let new := ((c.tile.zip ws).zip (ms.zip vs)).map fun ((x, a), (d, f)) => adamStep c.params x a.1 d.1 f.1
          let pick := fun (f : Nat × Nat × Nat → Nat) => ((c.drainCoords w).zip new).filterMap fun (cs, u) => u.map fun u => (cs, f u)
          let skipped := (new.filter (·.isNone)).length
          collect (fun s (x : TRec × List (List Nat × Nat)) => s.elemPuts c x.1 x.2) s1
            [(w, pick (·.1)), (m, pick (·.2.1)), (v, pick (·.2.2))] = (r, .ok ps) → Placed r (ps.flatten.map (·.1)) →
          published fun t => ∃ u : State, (∀ a, u.memByte a = putsStored r.memByte (ps.flatten.map (·.1)) a) ∧
            t.mem = (if skipped = 0 then u else
              let (v, k) := u.rcbField agentMp c.part c.rcb.toNat 132 4
              v.setRcbField agentMp c.part c.rcb.toNat 132 4 (min (2 ^ 32 - 1) (k + skipped))).mem)) ∧
    (c.isReduce = true → c.staged = false → c.state = .queued → s.mayStart core id = true →
      ∀ w : Nat → Option (Nat × Cmd),
        let base := core / 8 * 8
        (∀ k, k < 8 → State.reducing { s with cmds := tabPut s.cmds id { c with state := .running } } (base + k) = w k) →
        w (core % 8) = some (id, { c with state := .running }) → core % 8 ∈ partsOf b → tabRising s.cmds 0 = true →
        let fields := fun (d : Cmd) => (d.record.drop 1).take 11
        let agree := (∃ nd, tabFind s.sched.nodes c.slotNo = some nd ∧ bitOf nd.flags 0 = true) ∧
          ∀ k j d, w k = some (j, d) → k ∈ partsOf b → fields d = fields c ∧ d.part = c.part ∧ d.slotNo = c.slotNo
        let held := fun (k : Nat) => (w k).bind fun x => x.2.handle
        (∀ k, k ∈ partsOf b → w k ≠ none) →
        (¬agree → ∃ t, exec (.engineCommandStart core id) s = .next t ∧
          ∀ k j d, k ∈ partsOf b → w k = some (j, d) → ∃ x, tabFind t.cmds j = some x ∧ x.state = .ready ∧ x.fail = 13) ∧
        (agree → (∀ k, k < 8 → k ∉ partsOf b → w k = none) → fieldAt b 2 2 ≤ 128 → fieldAt b 4 2 ≤ 192 →
          (∀ k j d, k ∈ partsOf b → w k = some (j, d) → s.reduceBuffer d (fieldAt b 2 2 * fieldAt b 4 2 * 4) ≠ none ∧
            ∃ h, d.handle = some h ∧ h.kind = .single ∧ AccClean s h) →
          let x := fun (i j k : Nat) => (held k).map fun h => s.tileGet h 0 i j
          ∃ t, exec (.engineCommandStart core id) s = .next t ∧
            (∀ k h, k ∈ partsOf b → (∀ j, j ∈ partsOf b → k ≤ j) → held k = some h →
              (∀ i j, i < fieldAt b 2 2 → j < fieldAt b 4 2 → some (t.tileGet h 0 i j) = (treeSum (x i j) 3 0).map (· % 2 ^ 32)) ∧
                ∀ e, e ≠ h.engine → (t.core e).eng = (s.core e).eng) ∧
            ∀ k j d, k ∈ partsOf b → w k = some (j, d) → ∃ z, tabFind t.cmds j = some z ∧ z.staged = true ∧ z.fail = d.fail ∧
              (lastReceived (x 0 0) k = none → z.state = .ready) ∧
              (lastReceived (x 0 0) k ≠ none → z.state = .running ∧ z.cursor = d.cursor ∧
                z.shadow = (positions (fieldAt b 2 2) (fieldAt b 4 2)).flatMap fun (i, j) => bytesOfNat 4 ((lastReceived (x i j) k).getD 0)))) ∧
    ∀ k o, c.isReduce = true → c.staged = true → c.state = .running → s.mayStart core id = true → s.reduceBuffer c c.shadow.length = some (k, o) →
      starts fun t x => x.cursor = c.cursor + 1 ∧ x.fail = c.fail ∧
        x.state = (if c.shadow.length ≤ 8 * (c.cursor + 1) then .ready else .running) ∧
        let word := (c.shadow.drop (8 * c.cursor)).take 8
        (∀ a, byteAt (t.core k).vault a = stored (byteAt (s.core k).vault) (o + 8 * c.cursor) word a) ∧
          OtherVault s t k (o + 8 * c.cursor) word.length

/-- R163-R165, R168, R169, R171-R174, R195-R197: the phases of a commit, its tick, revocation and retirement, scrub and its token,
and the stop, swap and drain of a pre-empted partition, whose groups' vault bytes then stand in its SAVE area. The layout of an image
there is the model's choice (log 19), as is the place of a token (log 10). -/
def Obligations.CommitEvents : Prop :=
  ∀ s : State, Idle s →
    (∀ part d, (s.part part).preempt = .grace d →
      (s.time < d → exec (.graceExpiry part) s = .next s) ∧
      (d ≤ s.time → Listed s → ∃ t, exec (.graceExpiry part) s = .next t ∧ (t.part part).preempt = .stopped ∧
        ∀ k n p, t.packAt k n = some p → s.packAt k n ≠ none → p.part ≠ part)) ∧
    (∀ part, (s.part part).preempt = .stopped → tabRising s.groups 0 = true →
      (∀ k n p, (k, n, p) ∈ s.residents → p.part ≠ part ∧ ∀ gid g, tabFind s.groups gid = some g → g.part = part → p.group ≠ gid) →
      ∃ t, exec (.shadowSwapDone part) s = .next t ∧ (t.part part).preempt = .swapped ∧
        ∀ gid g, tabFind t.groups gid = some g → g.part = part → g.away = true) ∧
    (∀ part, (s.part part).preempt = .swapped → ∃ t, exec (.saveDrainDone part) s = .next t ∧
      t = { s with parts := t.parts, mem := t.mem, home := t.home, mp := t.mp, stamps := t.stamps, env := t.env } ∧
      (∀ p, t.part p = if p = part then
          { s.part p with preempt := .drained, images := (t.part p).images, written := (t.part p).written }
        else s.part p) ∧
      (∀ gid g, (gid, g) ∈ s.groups → g.part = part → g.away = true → ∃ i, i ∈ (t.part part).images ∧ i.gid = gid) ∧
      ∀ gid g, s.groups = [(gid, g)] → g.part = part → g.away = true → (s.part part).images = [] →
        let save := (s.part part).map.save.toNat
        Clean s → save + imageSize g.vbytes ≤ 2 ^ 51 →
        (∀ a, save ≤ a → a < save + imageSize g.vbytes → s.paKind a = .hbm ∧ s.blockCode a ≠ 3) →
        ∀ k, k < g.vbytes → t.memByte (save + 4096 + k) = byteAt (tabGet [] (s.part part).savedVault gid) k) ∧
    (∀ c rest, s.mp.commits = c :: rest →
      (c.stage = .waiting → c.why = .host → s.mp.enabled = true → MapKept s c.map → ∃ t c', exec .commitPhase s = .next t ∧
        t.mp.commits = c' :: rest ∧ c'.map = c.map ∧ c'.stage = .prepare (s.time + 20000) ∧
        ∀ u, u ∈ c'.scrubs ↔ (match u with | .cluster k => k < 20 | .group k => k < 32) ∧
          ((heldIn c.map u).2.2 ≠ (heldIn s.map u).2.2 ∨ ((heldIn s.map u).2.1 < 20 ∧ (heldIn c.map u).2.1 ≠ (heldIn s.map u).2.1))) ∧
      (∀ d, c.stage = .prepare d → s.quiesced = true → ∃ t, exec .commitPhase s = .next t ∧
        t.mp.commits = { c with stage := .cleared } :: rest ∧ UnitsQuiet s t) ∧
      (c.stage = .cleared → c.scrubs = [] → c.clearing = [] → s.unitsQuiet = true → ∃ t, exec .commitPhase s = .next t ∧
        t.mp.commits = { c with stage := .ticking (s.time + 400) } :: rest ∧ UnitsQuiet s t) ∧
      (∀ d, c.stage = .ticking d →
        (s.time < d → exec .layoutVersionTick s = .next s) ∧
        (d ≤ s.time → c.map.length = 20 → ∃ t, exec .layoutVersionTick s = .next t ∧ t.mp.layoutver = s.mp.layoutver + 1 ∧
          t.mp.lastTick = d ∧ t.mp.commits = rest ∧ ∀ p, p < 20 → c.map[p]? = some (t.part p).map)) ∧
      (∀ u, c.stage = .cleared → u ∈ c.clearing → exec (.scrubDone u) s = .next { s with mp := { s.mp with
        commits := { c with
          clearing := c.clearing.erase u, scrubbed := c.scrubbed ++ [u], doneTime := max c.doneTime s.time } :: rest } }) ∧
      (∀ k, c.stage = .cleared → k < 20 → UnitRef.cluster k ∈ c.scrubs → ∃ t, exec (.scrub (.cluster k)) s = .next t ∧
        t.mp.commits = { c with
          scrubs := c.scrubs.erase (.cluster k), clearing := c.clearing ++ [.cluster k]
          nonces := if c.nonces = [] then s.assigned else c.nonces } :: rest ∧
        ∀ n, n / 8 = k → (t.core n).packs = [] ∧ (t.core n).vault = [] ∧ (t.core n).eng = {} ∧ (t.core n).l1 = [] ∧
          (t.core n).icache = [] ∧ (t.core n).loops = [] ∧ (t.core n).tlb = []) ∧
      ∀ k, c.stage = .cleared → k < 32 → UnitRef.group k ∈ c.scrubs → ∃ t, exec (.scrub (.group k)) s = .next t ∧
        t.mp.commits = { c with
          scrubs := c.scrubs.erase (.group k), clearing := c.clearing ++ [.group k]
          nonces := if c.nonces = [] then s.assigned else c.nonces } :: rest ∧
        ∀ a n, s.paKind a = .hbm → groupOf (s.sel a) = k → a % 128 + n ≤ 128 →
          (∀ p, p < 20 → a / 2 ^ 16 ∉ s.saveFrames p) → (t.homeRead a n).1 = List.replicate n 0) ∧
    (∀ u, s.mp.commits = [] → isLent s.map u = true → exec (.revocation u) s =
      .next { s with mp := { s.mp with commits := [{ why := .lend, map := [], scrubs := [u] }] } }) ∧
    (∀ k, k < 20 → s.mp.retiredClusters.getLsbD k = false → s.mp.commits = [] → ∃ t, exec (.retirement (.cluster k)) s = .next t ∧
      t.mp.retiredClusters = s.mp.retiredClusters ||| BitVec.twoPow 32 k ∧ t.mp.commits = [{ why := .retire, map := [] }] ∧
      Noted s t 0x87 (s.clusterOwner k) (bytesOfNat 1 0 ++ bytesOfNat 1 k ++ bytesOfNat 38 0)) ∧
    (∀ k, k < 32 → s.mp.retiredGroups.getLsbD k = false → s.mp.commits = [] → ∃ t, exec (.retirement (.group k)) s = .next t ∧
      t.mp.retiredGroups = s.mp.retiredGroups ||| BitVec.twoPow 32 k ∧ t.mp.commits = [{ why := .retire, map := [] }] ∧
      Noted s t 0x87 (s.groupOwner k) (bytesOfNat 1 1 ++ bytesOfNat 1 k ++ bytesOfNat 38 0)) ∧
    ∀ part b rest, s.mp.tokens = (part, b) :: rest → ∃ t hpa sig, exec (.scrubTokenSigned part) s = .next t ∧ sig.length = 96 ∧
      t.mp.tokens = rest ∧ (∀ k, k < b.length + 96 → t.memByte (hpa + k) = (b ++ sig).getD k 0) ∧ ∀ p,
        t.part p = if p = part ∧ part < 20 then { s.part p with token := some (hpa, b ++ sig) } else s.part p

/-! Encoding, issue, and the machine as a whole. -/

/-- R202-R206: an instruction decodes from the words of its encoding, and from no others: a well-formed instruction comes back
with every operand, and what a pair of words decodes to is well formed and has those words for its encoding. -/
def Obligations.DecodeEncode : Prop :=
  (∀ i w rest, i.wf = true → encode i = w :: rest →
    hasSecondWord w = !rest.isEmpty ∧ rest.length ≤ 1 ∧ decode w (rest.headD 0) = .ok i) ∧
  ∀ w0 w1 i, decode w0 w1 = .ok i → i.wf = true ∧ encode i = if hasSecondWord w0 then [w0, w1] else [w0]

/-- The example words of spec/11, spec/12 and spec/13, one or two for each format and family. -/
def Obligations.DecodedWords : Prop :=
  let none' : Guard := unguarded
  decode 0x0103040A 0 = .ok (.subI32 3 (.v 4) 5) ∧
  decode 0x0083040B 0 = .ok (.addI32Sat 3 (.v 4) 5) ∧
  decode 0x0503FE08 0x000001FF = .ok (.andB32 3 (.lit 0x1FF) 4) ∧
  decode 0x20810403 0 = .ok (.muliI32 1 2 3) ∧
  decode 0x60008206 0x081C0000 = .ok (.madI32 none' 1 2 3 4) ∧
  decode 0x62C00206 0x001C0011 = .ok (.cmpI32 none' 1 2 3 .lt) ∧
  decode 0x6C000000 0x001C0050 = .ok (.vote none' 1 0 1 0 false) ∧
  decode 0x30000002 0 = .ok (.bra 0 false 2) ∧
  decode 0x1F800000 0 = .ok .nop ∧
  decode 0x64450B18 0x1A0C0000 = .ok (.ffmaF32 ⟨3, false⟩ 10 11 12 13 false false) ∧
  decode 0x6B000000 0x001C00C0 = .ok (.fence none' .dev) ∧
  decode 0x6B810400 0x001C0001 = .ok (.jr none' (some 2) 4) ∧
  decode 0x80821060 0 = .ok (.sadd 1 2 3) ∧
  decode 0x86821062 0 = .ok (.scmp 1 2 3 .lt false false) ∧
  decode 0xA003FFFF 0 = .ok (.smovi 1 0x1FFFF) ∧
  decode 0xB077FFFB 0 = .ok (.sbra 7 false 0x7FFFB) ∧
  decode 0xC020C781 0 = .ok (.cpy 8 12 30 0 true) ∧
  decode 0xC8300240 0 = .ok (.splload 12 9 0 false) ∧
  decode 0xE0010000 0x12345678 = .ok (.smovl 1 0x12345678) ∧
  decode 0xE3C00830 0 = .ok (.nodeDec 2 3) ∧
  decode 0xE6400000 0 = .ok .rti ∧
  (match decode 0 0 with | .ok _ => False | .error _ => True)

/-- R143, R144, R202, R320: a step in which a pack has the turn is `exec` of the instruction its fetched words decode to, in the
state with that pack in the latch, and the latch then goes back; where a channel pauses or a channel group changes hands, a turn that
would send a request there leaves the step to another (R95, R168; that it does so is the model's choice, log 4). A word that no cache
holds is fetched from memory through the translation of its address. The threads that issue on port A are live, not held, and at the
PC that issues; there is at least one; and a pack instruction issues with every live thread. -/
def Obligations.StepRunsDecoded : Prop :=
  let runs := fun (s r : State) (c slot : Nat) (m : LaneMask) (pc : BitVec 52) =>
    ∀ q w0 w1 i,
      let now := s.unload.clockTick
      let b : State := { r with act := m, ipc := pc, pk := { r.pk with wait := .none } }
      let outcome := match exec i { q with pk := { q.pk with filled := false } } with
        | .next v => .next (v.finish c slot i pc m)
        | o => o
      b.fetchInstr c slot b.pk (!b.env.defer || b.pk.filled) pc = (q, .words w0 w1) → decode w0 w1 = .ok i →
      now.holding = false ∨ (∀ v, outcome = .next v → now.sendsHeld v = false) → step s = outcome
  (∀ (s : State) (c u : Nat) (cs : List Cand) (k : Cand), s.unload.clockTick.turn = .portA c u cs k →
    runs s (s.unload.clockTick.loadA c u cs k) c k.slot k.vote.lanesA k.vote.pcA) ∧
  (∀ (s r : State) (c slot : Nat) (pc : BitVec 52) (m : LaneMask), s.unload.clockTick.turn = .portB c slot pc → s.unload.clockTick.loadB c slot pc = (r, m) → m ≠ 0 →
    runs s r c slot m pc) ∧
  (∀ (s : State) (slot va : Nat), Clean s → s.home.replicaLag = [] → va % 4 = 0 → Reaches s .fetch .flat va (heldPa s va) → (s.core s.here).loops = [] →
    tabFind (s.core s.here).icache (lineKey s.pk.part va) = none →
    (s.fetchWord s.here slot s.pk.part s.pk.priv true va).2 = .word (BitVec.ofNat 32 (numberAt s.memByte (heldPa s va) 4))) ∧
  ∀ (s : State) (c u : Nat) (cs : List Cand) (k : Cand), s.turn = .portA c u cs k →
    ∃ p, s.packAt c k.slot = some p ∧ k.slot / 12 = u ∧ s.mayIssue p = true ∧ k.vote.lanesA ≠ 0 ∧
      (∀ l, hasLane k.vote.lanesA l = true →
        (p.thread l).exited = false ∧ (p.thread l).held = false ∧ (p.thread l).pc = k.vote.pcA) ∧
      let word := State.peek { s with site := some (c, k.slot), pk := p } c k.slot p k.vote.pcA
      (word = .packWord → k.vote.lanesA = p.live) ∧ ∀ i, word = .instr i → pipeOf i = .uniform → k.vote.lanesA = p.live

/-- No run stops: every state has a next one. -/
def Obligations.EveryStepGoesOn : Prop := ∀ s, Completes s

/-- R3, R10, R47, R49, R185: the values at reset that the spec gives. By the model's choice memory reads 0 and is canonical (log 2), no
pack, group, node, command or page request exists, and no partition is halted (log 1). -/
def Obligations.ResetValues : Prop :=
  let s := State.reset
  s.mp.layoutver = 0 ∧ s.mp.envelope = 2400000 ∧ s.mp.logvalid = 0 ∧ s.mp.nhead = 0 ∧ s.mp.ntail = 0 ∧ s.mp.nlost = 0 ∧
  (∀ k, k < 9 → s.mp.hmask.getD k 0 = BitVec.twoPow 64 (17 + k)) ∧
  (∀ c, (s.core c).eng.klo = 0xBF800000 ∧ (s.core c).eng.khi = 0x3F800000 ∧ (s.core c).eng.kg = 1 ∧ (s.core c).eng.kord = 3 ∧
    (s.core c).eng.kclamp = 0 ∧ (s.core c).eng.kscale = 0x3F000000 ∧ (s.core c).eng.koog = 0 ∧ ∀ sl, s.packAt c sl = none) ∧
  (∀ p, (s.part p).ttbase = 0 ∧ (s.part p).joincap = 0 ∧ (s.part p).qmin = (64, 32, 128) ∧ (s.part p).qcap = (512, 256, 768) ∧
    (s.part p).halted = false) ∧
  (∀ a, s.memByte a = 0) ∧ Memory.wf s.mem = true ∧ s.groups = [] ∧ s.sched.nodes = [] ∧ s.cmds = [] ∧ s.pages = []

/-- Memory keeps its canonical form: whatever a step does, addresses are listed in rising order, once each, and no byte that
reads 0 is listed. So two states whose memories read the same hold the same memory. -/
def Obligations.MemoryStaysCanonical : Prop := ∀ s t : State, Memory.wf s.mem = true → step s = .next t → Memory.wf t.mem = true

/-- R14, R187, R202, R205-R211: the checks at issue in their order: ILLEGAL for a reserved form or below the privilege, ROLE, OPERAND,
LOOKAHEAD, each a trap with no other effect; then an instruction that names a pending register waits. Each check has its
example. A word that is no instruction is ILLEGAL; and a trap at ROOT halts the partition, none of whose packs may then
issue. -/
def Obligations.ChecksInOrder : Prop :=
  (∀ (i : Instr) (s : State) (g : Group), encode i ≠ [] → s.site.isSome = true → MayTrap s g →
    let traps := fun (c : TrapClass) (m : LaneMask) => ∃ t, exec i s = .next t ∧ Trapped s.pk g c m s.ipc.toNat 0 0 s t
    let legal := i.wf = true ∧ privAllows i s.pk.priv s.pk.sb.length = true
    let played := legal ∧ roleAllows i s.pk.role = true
    let named := played ∧ s.operandBad i = false
    (¬legal → traps .illegal s.act) ∧
    (legal → roleAllows i s.pk.role = false → traps .role s.act) ∧
    (played → s.operandBad i = true → traps .operand s.act) ∧
    (named → ∀ m, s.lookaheadLanes i = m → m ≠ 0 → s.act &&& ~~~m = 0 → traps .lookahead m) ∧
    (named → s.lookaheadLanes i = 0 → s.mustWait i = true → exec i s = .next s)) ∧
  (∀ s : State, s.pk.priv ≠ .root → (∀ a, privAllows (.tdef a) s.pk.priv s.pk.sb.length = false) ∧
    ∀ d a b, privAllows (.ctxsave d a b) s.pk.priv s.pk.sb.length = false ∧
      privAllows (.ctxrest d a b) s.pk.priv s.pk.sb.length = false) ∧
  (∀ s : State, s.pk.priv = .user ∨ s.pk.sb = [] → privAllows .rti s.pk.priv s.pk.sb.length = false) ∧
  (∀ r, (roleAllows (.accalloc 0 .single) r = true ↔ r = .mtx) ∧ (roleAllows (.addI32 0 (.v 0) 0) r = true ↔ r = .gen ∨ r = .epi) ∧
    (roleAllows (.cpy 0 0 0 0 false) r = true ↔ r = .gen ∨ r = .cpy) ∧ roleAllows (.sadd 0 0 0) r = true ∧ roleAllows .nop r = true) ∧
  (∀ (d : VReg) (a : Src) (s : State), 8 * (if s.pk.full then s.pk.fullBlocks else s.pk.pro) ≤ d.toNat →
    s.operandBad (.movB32 d a) = true) ∧
  (∀ (s : State) (c sl : Nat) (m : LaneMask) (pc : BitVec 52) (q : State) (w0 w1 : Word) (g : Group),
    let b : State := { s with act := m, ipc := pc, pk := { s.pk with wait := .none } }
    let r : State := { q with pk := { q.pk with filled := false } }
    b.fetchInstr c sl b.pk (!b.env.defer || b.pk.filled) pc = (q, .words w0 w1) →
    (match decode w0 w1 with | .ok _ => False | .error _ => True) → MayTrap r g →
    ∃ t, s.begin c sl m pc = (t, .stop) ∧ Trapped r.pk g .illegal m q.ipc.toNat 0 0 r t) ∧
  ∀ (i : Instr) (s : State), encode i ≠ [] → s.site.isSome = true → s.pk.priv = .root → s.pk.replay = [] → s.pk.late = [] → i.wf = false →
    ∃ t, exec i s = .next t ∧ (t.part s.pk.part).halted = true ∧ Logged s t 15 s.here (s.pk.part + 1) 0 0 ∧
      t.pk = s.pk ∧ ∀ p, p.part = s.pk.part → t.mayIssue p = false

/-- R61: a rounded finite value that does not overflow is the one its attribute asks for: the nearest of the format (of two
equally near the one with an even code), or the nearest towards zero, above, or below; INEXACT says whether it differs from the
exact value, and UNDERFLOW that it was tiny besides. -/
def Obligations.RoundingIsCorrect : Prop :=
  let le := fun (x y : Machine.Num) => match x.cmp y with
    | some d => d ≤ 0
    | none => False
  let abs := fun (x : Machine.Num) => match x with
    | .fin _ m e => Machine.Num.fin false m e
    | x => x
  ∀ (f : Fmt) (r : Rnd) (neg : Bool) (m : Nat) (e : Int), f ∈ [fp64, fp32, fp16, bf16, e4m3, e5m2] →
    let v := Machine.Num.fin neg m e
    let x := (f.round r false v).1
    let fl := (f.round r false v).2
    fl &&& fOverflow = 0 →
    ∃ k u, f.decode x = .fin neg k u ∧
      (fl &&& fInexact = 0 ↔ v.cmp (f.decode x) = some 0) ∧
      (fl &&& fUnderflow ≠ 0 ↔ fl &&& fInexact ≠ 0 ∧ f.tiny m e = true) ∧
      ∀ y, y < 2 ^ f.width → ∀ n j w, f.decode y = .fin n j w →
        match r with
        | .rne => le (distance v (f.decode x)) (distance v (f.decode y)) ∧
          (le (distance v (f.decode y)) (distance v (f.decode x)) → (f.decode x).cmp (f.decode y) = some 0 ∨ x % 2 = 0)
        | .rtz => le (abs (f.decode x)) (abs v) ∧ (le (abs (f.decode y)) (abs v) → le (abs (f.decode y)) (abs (f.decode x)))
        | .rup => le v (f.decode x) ∧ (le v (f.decode y) → le (f.decode x) (f.decode y))
        | .rdn => le (f.decode x) v ∧ (le (f.decode y) v → le (f.decode y) (f.decode x))
end

