-- ==== Sys2Proof/Laws/Tables.lean ====
section
/-! SUPPORT. Laws of tables by key, of one byte of memory and of its canonical form, of lane masks, and of little-endian
bytes. -/
namespace Sys2Proof.Machine

/-! Tables. -/

section Tab
variable {α : Type}

@[simp] theorem tabFind_nil (k : Nat) : tabFind ([] : Tab α) k = none := rfl

@[simp] theorem tabFind_cons (j : Nat) (x : α) (m : Tab α) (k : Nat) :
    tabFind ((j, x) :: m) k = if j = k then some x else tabFind m k := rfl

theorem tabFind_tabPut (m : Tab α) (k : Nat) (x : α) (j : Nat) :
    tabFind (tabPut m k x) j = if k = j then some x else tabFind m j := by
  induction m with
  | nil => rfl
  | cons e m ih =>
    obtain ⟨i, y⟩ := e
    unfold tabPut
    split
    · subst_vars; simp only [tabFind_cons]; split <;> rfl
    · split
      · simp
      · simp only [tabFind_cons, ih]
        by_cases h : i = j
        · subst h; simp [Ne.symm ‹_›]
        · simp [h]

theorem tabFind_tabDel (m : Tab α) (k j : Nat) : tabFind (tabDel m k) j = if k = j then none else tabFind m j := by
  induction m with
  | nil => simp [tabDel]
  | cons e m ih =>
    obtain ⟨i, y⟩ := e
    unfold tabDel at ih ⊢
    by_cases h : i = k
    · subst h
      rw [List.filter_cons_of_neg (by simp), ih, tabFind_cons]
      split <;> rfl
    · simp only [List.filter_cons, h, ne_eq, not_false_eq_true, decide_true, if_true, tabFind_cons, ih]
      by_cases h2 : i = j
      · subst h2; simp [Ne.symm h]
      · simp [h2]

theorem tabGet_tabSet [DecidableEq α] (d : α) (m : Tab α) (k : Nat) (x : α) (j : Nat) :
    tabGet d (tabSet d m k x) j = if k = j then x else tabGet d m j := by
  unfold tabGet tabSet
  split
  · subst_vars; rw [tabFind_tabDel]; split <;> rfl
  · rw [tabFind_tabPut]; split <;> rfl

@[simp] theorem tabGet_tabSet_same [DecidableEq α] (d : α) (m : Tab α) (k : Nat) (x : α) :
    tabGet d (tabSet d m k x) k = x := by simp [tabGet_tabSet]

theorem tabGet_tabSet_other [DecidableEq α] (d : α) (m : Tab α) {k j : Nat} (x : α) (h : k ≠ j) :
    tabGet d (tabSet d m k x) j = tabGet d m j := by simp [tabGet_tabSet, h]

theorem tabRising_mono (m : Tab α) {a b : Nat} (h : tabRising m b = true) (hab : a ≤ b) : tabRising m a = true := by
  cases m with
  | nil => rfl
  | cons e m => obtain ⟨i, y⟩ := e; simp [tabRising] at h ⊢; exact ⟨by omega, h.2⟩

theorem tabRising_filter (m : Tab α) (p : Nat × α → Bool) (lo : Nat) (h : tabRising m lo = true) :
    tabRising (m.filter p) lo = true := by
  induction m generalizing lo with
  | nil => rfl
  | cons e m ih =>
    obtain ⟨i, y⟩ := e
    simp only [tabRising, Bool.and_eq_true, decide_eq_true_eq] at h
    rw [List.filter_cons]
    split
    · simp only [tabRising, Bool.and_eq_true, decide_eq_true_eq]; exact ⟨h.1, ih _ h.2⟩
    · exact tabRising_mono _ (ih _ h.2) (by omega)

theorem tabRising_tabPut (m : Tab α) (k : Nat) (x : α) (lo : Nat) (h : tabRising m lo = true) (hk : lo ≤ k) :
    tabRising (tabPut m k x) lo = true := by
  induction m generalizing lo with
  | nil => simp [tabPut, tabRising, hk]
  | cons e m ih =>
    obtain ⟨i, y⟩ := e
    simp only [tabRising, Bool.and_eq_true, decide_eq_true_eq] at h
    unfold tabPut
    split
    · subst_vars; simp [tabRising, h.1, h.2]
    · split
      · simp only [tabRising, Bool.and_eq_true, decide_eq_true_eq]
        exact ⟨hk, by omega, h.2⟩
      · simp only [tabRising, Bool.and_eq_true, decide_eq_true_eq]
        exact ⟨h.1, ih _ h.2 (by omega)⟩

theorem tabPut_values (m : Tab α) (k : Nat) (x : α) (p : α → Bool) (hx : p x = true) (h : (m.all fun e => p e.2) = true) :
    ((tabPut m k x).all fun e => p e.2) = true := by
  induction m with
  | nil => simp [tabPut, hx]
  | cons e m ih =>
    obtain ⟨i, y⟩ := e
    simp only [List.all_cons, Bool.and_eq_true] at h
    unfold tabPut
    split
    · simp [hx]; simpa using h.2
    · split
      · simp [hx, h.1]; simpa using h.2
      · simp only [List.all_cons, Bool.and_eq_true]; exact ⟨h.1, ih h.2⟩

/-- A write of the default takes the entry out and any other write lists it: the canonical form stays. -/
theorem tabWf_tabSet [DecidableEq α] (d : α) (m : Tab α) (k : Nat) (x : α) (h : tabWf d m = true) :
    tabWf d (tabSet d m k x) = true := by
  simp only [tabWf, Bool.and_eq_true] at h ⊢
  unfold tabSet
  split
  · refine ⟨tabRising_filter _ _ _ h.1, ?_⟩
    simp only [List.all_eq_true, tabDel] at h ⊢
    intro e he
    exact h.2 e (List.mem_filter.1 he).1
  · rename_i hx
    exact ⟨tabRising_tabPut _ _ _ _ h.1 (Nat.zero_le _), tabPut_values _ _ _ (fun v => decide (v ≠ d)) (by simp [hx]) h.2⟩

end Tab

/-! Memory by bytes. -/

theorem byteAt_setByte (m : List Host.Cell) (a : Nat) (b : Byte) (c : Nat) :
    byteAt (setByte m a b) c = if a = c then b else byteAt m c := tabGet_tabSet _ _ _ _ _

@[simp] theorem byteAt_setByte_same (m : List Host.Cell) (a : Nat) (b : Byte) : byteAt (setByte m a b) a = b := by
  simp [byteAt_setByte]

/-- A store leaves every other byte alone. -/
theorem byteAt_setByte_other (m : List Host.Cell) {a c : Nat} (b : Byte) (h : a ≠ c) :
    byteAt (setByte m a b) c = byteAt m c := by simp [byteAt_setByte, h]

theorem setByte_wf (m : List Host.Cell) (a : Nat) (b : Byte) (h : Memory.wf m = true) : Memory.wf (setByte m a b) = true :=
  tabWf_tabSet _ _ _ _ h

theorem setBytes_wf (bs : List Byte) : ∀ (m : List Host.Cell) (a : Nat), Memory.wf m = true → Memory.wf (setBytes m a bs) = true := by
  induction bs with
  | nil => intro m a h; exact h
  | cons b bs ih => intro m a h; exact ih _ _ (setByte_wf _ _ _ h)

theorem foldl_setByte_wf (bs : Tab Byte) (m : List Host.Cell) (h : Memory.wf m = true) :
    Memory.wf (bs.foldl (fun m e => setByte m e.1 e.2) m) = true := by
  induction bs generalizing m with
  | nil => exact h
  | cons e bs ih => exact ih _ (setByte_wf _ _ _ h)

/-- Storing bytes from `a` up: a byte of the run is the stored one, every other is as before. -/
theorem byteAt_setBytes (bs : List Byte) : ∀ (m : List Host.Cell) (a c : Nat),
    byteAt (setBytes m a bs) c = if a ≤ c ∧ c < a + bs.length then bs.getD (c - a) 0 else byteAt m c := by
  induction bs with
  | nil => intro m a c; simp [setBytes]
  | cons b bs ih =>
    intro m a c
    rw [setBytes, ih, byteAt_setByte]
    by_cases h0 : c = a
    · subst h0
      rw [if_neg (by omega), if_pos rfl, if_pos ⟨Nat.le_refl _, by simp⟩]
      simp
    · have hl : (b :: bs).length = bs.length + 1 := rfl
      by_cases h1 : a + 1 ≤ c ∧ c < a + 1 + bs.length
      · have : c - a = (c - (a + 1)) + 1 := by omega
        rw [if_pos h1, if_pos ⟨by omega, by omega⟩, this, List.getD_cons_succ]
      · rw [if_neg h1, if_neg (by omega), if_neg (by omega)]

@[simp] theorem bytesAt_length (m : List Host.Cell) (n : Nat) : ∀ a, (bytesAt m a n).length = n := by
  induction n with
  | zero => intro a; rfl
  | succ n ih => intro a; simp [bytesAt, ih]

@[simp] theorem bytesOfNat_length (n : Nat) : ∀ x, (bytesOfNat n x).length = n := by
  induction n with
  | zero => intro x; rfl
  | succ n ih => intro x; simp [bytesOfNat, ih]

/-- Bytes of a number and back (R56). -/
theorem natOfBytes_bytesOfNat (n : Nat) : ∀ x, natOfBytes (bytesOfNat n x) = x % 256 ^ n := by
  induction n with
  | zero => intro x; simp [bytesOfNat, natOfBytes, Nat.mod_one]
  | succ n ih =>
    intro x
    have h := Nat.mod_mul (x := x) (a := 256) (b := 256 ^ n)
    rw [← Nat.pow_succ'] at h
    rw [bytesOfNat, natOfBytes, ih, BitVec.toNat_ofNat, h]

/-! Lanes. -/

theorem maskOf_aux (f : Nat → Bool) (n : Nat) (l : Nat) (hl : l < 32) :
    (((List.range n).foldl (fun m k => if f k then m ||| (1#32 <<< k) else m) (0 : LaneMask))).getLsbD l
      = (decide (l < n) && f l) := by
  induction n with
  | zero => simp
  | succ n ih =>
    rw [List.range_succ, List.foldl_append]
    simp only [List.foldl_cons, List.foldl_nil]
    by_cases hn : l = n
    · subst hn
      split <;> simp_all
    · have : (decide (l < n + 1)) = decide (l < n) := by simp; omega
      split
      · rw [BitVec.getLsbD_or, ih, this, BitVec.getLsbD_shiftLeft]
        simp only [hl, decide_true, Bool.true_and]
        have : ((!decide (l < n)) && BitVec.getLsbD (1#32) (l - n)) = false := by
          by_cases h : l < n
          · simp [h]
          · have : l - n ≠ 0 := by omega
            simp [BitVec.getLsbD_one, h]; omega
        rw [this]; simp
      · rw [ih, this]

/-- A lane is in `maskOf f` when it is one of 0-31 and `f` holds of it. -/
@[simp] theorem hasLane_maskOf (f : Nat → Bool) (l : Nat) : hasLane (maskOf f) l = (decide (l < 32) && f l) := by
  unfold hasLane maskOf
  by_cases hl : l < 32
  · rw [maskOf_aux f 32 l hl]
  · rw [BitVec.getLsbD_of_ge _ _ (by omega)]; simp [hl]

theorem hasLane_lt {m : LaneMask} {l : Nat} (h : hasLane m l = true) : l < 32 := by
  unfold hasLane at h; exact BitVec.lt_of_getLsbD h

@[simp] theorem mem_lanesOf (m : LaneMask) (l : Nat) : l ∈ lanesOf m ↔ hasLane m l = true := by
  simp only [lanesOf, List.mem_filter, List.mem_range]
  exact ⟨fun h => h.2, fun h => ⟨hasLane_lt h, h⟩⟩

theorem lanesOf_eq_nil {m : LaneMask} : lanesOf m = [] ↔ m = 0 := by
  constructor
  · intro h
    apply BitVec.eq_of_getLsbD_eq
    intro l hl
    have : l ∉ lanesOf m := by rw [h]; simp
    rw [mem_lanesOf] at this
    simpa [hasLane] using this
  · rintro rfl; rfl

@[simp] theorem hasLane_zero (l : Nat) : hasLane 0 l = false := by simp [hasLane]

@[simp] theorem hasLane_and (a b : LaneMask) (l : Nat) : hasLane (a &&& b) l = (hasLane a l && hasLane b l) := by
  simp [hasLane]

@[simp] theorem hasLane_or (a b : LaneMask) (l : Nat) : hasLane (a ||| b) l = (hasLane a l || hasLane b l) := by
  simp [hasLane]

theorem hasLane_andNot (a b : LaneMask) (l : Nat) : hasLane (a &&& ~~~b) l = (hasLane a l && !hasLane b l) := by
  by_cases h : l < 32
  · simp [hasLane, h]
  · simp [hasLane, BitVec.getLsbD_of_ge _ _ (Nat.le_of_not_lt h)]

theorem LaneMask.ext_lanes {a b : LaneMask} (h : ∀ l, l < 32 → hasLane a l = hasLane b l) : a = b :=
  BitVec.eq_of_getLsbD_eq fun l hl => h l hl

end Sys2Proof.Machine
end

