-- ==== Sys2Proof/Laws/State.lean ====
section
/-! SUPPORT. What each update of a state, a pack and a thread leaves as it was: one lemma per update and field, each true by
`rfl`, so that no later proof unfolds a record update. -/
namespace Sys2Proof.Machine

/-! `State.onLanes`: threads of the issuing pack. -/

@[simp] theorem State.onLanes_time (s : State) (m : LaneMask) (f : Nat → Thread → Thread) :
    (s.onLanes m f).time = s.time := rfl
@[simp] theorem State.onLanes_stamps (s : State) (m : LaneMask) (f : Nat → Thread → Thread) :
    (s.onLanes m f).stamps = s.stamps := rfl
@[simp] theorem State.onLanes_env (s : State) (m : LaneMask) (f : Nat → Thread → Thread) :
    (s.onLanes m f).env = s.env := rfl
@[simp] theorem State.onLanes_site (s : State) (m : LaneMask) (f : Nat → Thread → Thread) :
    (s.onLanes m f).site = s.site := rfl
@[simp] theorem State.onLanes_act (s : State) (m : LaneMask) (f : Nat → Thread → Thread) :
    (s.onLanes m f).act = s.act := rfl
@[simp] theorem State.onLanes_ipc (s : State) (m : LaneMask) (f : Nat → Thread → Thread) :
    (s.onLanes m f).ipc = s.ipc := rfl
@[simp] theorem State.onLanes_mem (s : State) (m : LaneMask) (f : Nat → Thread → Thread) :
    (s.onLanes m f).mem = s.mem := rfl
@[simp] theorem State.onLanes_home (s : State) (m : LaneMask) (f : Nat → Thread → Thread) :
    (s.onLanes m f).home = s.home := rfl
@[simp] theorem State.onLanes_cores (s : State) (m : LaneMask) (f : Nat → Thread → Thread) :
    (s.onLanes m f).cores = s.cores := rfl
@[simp] theorem State.onLanes_clusterTlb (s : State) (m : LaneMask) (f : Nat → Thread → Thread) :
    (s.onLanes m f).clusterTlb = s.clusterTlb := rfl
@[simp] theorem State.onLanes_s1u (s : State) (m : LaneMask) (f : Nat → Thread → Thread) :
    (s.onLanes m f).s1u = s.s1u := rfl
@[simp] theorem State.onLanes_s2u (s : State) (m : LaneMask) (f : Nat → Thread → Thread) :
    (s.onLanes m f).s2u = s.s2u := rfl
@[simp] theorem State.onLanes_groups (s : State) (m : LaneMask) (f : Nat → Thread → Thread) :
    (s.onLanes m f).groups = s.groups := rfl
@[simp] theorem State.onLanes_cmds (s : State) (m : LaneMask) (f : Nat → Thread → Thread) :
    (s.onLanes m f).cmds = s.cmds := rfl
@[simp] theorem State.onLanes_sched (s : State) (m : LaneMask) (f : Nat → Thread → Thread) :
    (s.onLanes m f).sched = s.sched := rfl
@[simp] theorem State.onLanes_parts (s : State) (m : LaneMask) (f : Nat → Thread → Thread) :
    (s.onLanes m f).parts = s.parts := rfl
@[simp] theorem State.onLanes_pages (s : State) (m : LaneMask) (f : Nat → Thread → Thread) :
    (s.onLanes m f).pages = s.pages := rfl
@[simp] theorem State.onLanes_overflow (s : State) (m : LaneMask) (f : Nat → Thread → Thread) :
    (s.onLanes m f).overflow = s.overflow := rfl
@[simp] theorem State.onLanes_orphans (s : State) (m : LaneMask) (f : Nat → Thread → Thread) :
    (s.onLanes m f).orphans = s.orphans := rfl
@[simp] theorem State.onLanes_mp (s : State) (m : LaneMask) (f : Nat → Thread → Thread) :
    (s.onLanes m f).mp = s.mp := rfl

/-! `State.setS`: one s register. -/

@[simp] theorem State.setS_time (s : State) (n : Nat) (x : Word) :
    (s.setS n x).time = s.time := rfl
@[simp] theorem State.setS_stamps (s : State) (n : Nat) (x : Word) :
    (s.setS n x).stamps = s.stamps := rfl
@[simp] theorem State.setS_env (s : State) (n : Nat) (x : Word) :
    (s.setS n x).env = s.env := rfl
@[simp] theorem State.setS_site (s : State) (n : Nat) (x : Word) :
    (s.setS n x).site = s.site := rfl
@[simp] theorem State.setS_act (s : State) (n : Nat) (x : Word) :
    (s.setS n x).act = s.act := rfl
@[simp] theorem State.setS_ipc (s : State) (n : Nat) (x : Word) :
    (s.setS n x).ipc = s.ipc := rfl
@[simp] theorem State.setS_mem (s : State) (n : Nat) (x : Word) :
    (s.setS n x).mem = s.mem := rfl
@[simp] theorem State.setS_home (s : State) (n : Nat) (x : Word) :
    (s.setS n x).home = s.home := rfl
@[simp] theorem State.setS_cores (s : State) (n : Nat) (x : Word) :
    (s.setS n x).cores = s.cores := rfl
@[simp] theorem State.setS_clusterTlb (s : State) (n : Nat) (x : Word) :
    (s.setS n x).clusterTlb = s.clusterTlb := rfl
@[simp] theorem State.setS_s1u (s : State) (n : Nat) (x : Word) :
    (s.setS n x).s1u = s.s1u := rfl
@[simp] theorem State.setS_s2u (s : State) (n : Nat) (x : Word) :
    (s.setS n x).s2u = s.s2u := rfl
@[simp] theorem State.setS_groups (s : State) (n : Nat) (x : Word) :
    (s.setS n x).groups = s.groups := rfl
@[simp] theorem State.setS_cmds (s : State) (n : Nat) (x : Word) :
    (s.setS n x).cmds = s.cmds := rfl
@[simp] theorem State.setS_sched (s : State) (n : Nat) (x : Word) :
    (s.setS n x).sched = s.sched := rfl
@[simp] theorem State.setS_parts (s : State) (n : Nat) (x : Word) :
    (s.setS n x).parts = s.parts := rfl
@[simp] theorem State.setS_pages (s : State) (n : Nat) (x : Word) :
    (s.setS n x).pages = s.pages := rfl
@[simp] theorem State.setS_overflow (s : State) (n : Nat) (x : Word) :
    (s.setS n x).overflow = s.overflow := rfl
@[simp] theorem State.setS_orphans (s : State) (n : Nat) (x : Word) :
    (s.setS n x).orphans = s.orphans := rfl
@[simp] theorem State.setS_mp (s : State) (n : Nat) (x : Word) :
    (s.setS n x).mp = s.mp := rfl

/-! `State.setS64`: a pair of s registers. -/

@[simp] theorem State.setS64_time (s : State) (n : Nat) (x : DWord) :
    (s.setS64 n x).time = s.time := rfl
@[simp] theorem State.setS64_stamps (s : State) (n : Nat) (x : DWord) :
    (s.setS64 n x).stamps = s.stamps := rfl
@[simp] theorem State.setS64_env (s : State) (n : Nat) (x : DWord) :
    (s.setS64 n x).env = s.env := rfl
@[simp] theorem State.setS64_site (s : State) (n : Nat) (x : DWord) :
    (s.setS64 n x).site = s.site := rfl
@[simp] theorem State.setS64_act (s : State) (n : Nat) (x : DWord) :
    (s.setS64 n x).act = s.act := rfl
@[simp] theorem State.setS64_ipc (s : State) (n : Nat) (x : DWord) :
    (s.setS64 n x).ipc = s.ipc := rfl
@[simp] theorem State.setS64_mem (s : State) (n : Nat) (x : DWord) :
    (s.setS64 n x).mem = s.mem := rfl
@[simp] theorem State.setS64_home (s : State) (n : Nat) (x : DWord) :
    (s.setS64 n x).home = s.home := rfl
@[simp] theorem State.setS64_cores (s : State) (n : Nat) (x : DWord) :
    (s.setS64 n x).cores = s.cores := rfl
@[simp] theorem State.setS64_clusterTlb (s : State) (n : Nat) (x : DWord) :
    (s.setS64 n x).clusterTlb = s.clusterTlb := rfl
@[simp] theorem State.setS64_s1u (s : State) (n : Nat) (x : DWord) :
    (s.setS64 n x).s1u = s.s1u := rfl
@[simp] theorem State.setS64_s2u (s : State) (n : Nat) (x : DWord) :
    (s.setS64 n x).s2u = s.s2u := rfl
@[simp] theorem State.setS64_groups (s : State) (n : Nat) (x : DWord) :
    (s.setS64 n x).groups = s.groups := rfl
@[simp] theorem State.setS64_cmds (s : State) (n : Nat) (x : DWord) :
    (s.setS64 n x).cmds = s.cmds := rfl
@[simp] theorem State.setS64_sched (s : State) (n : Nat) (x : DWord) :
    (s.setS64 n x).sched = s.sched := rfl
@[simp] theorem State.setS64_parts (s : State) (n : Nat) (x : DWord) :
    (s.setS64 n x).parts = s.parts := rfl
@[simp] theorem State.setS64_pages (s : State) (n : Nat) (x : DWord) :
    (s.setS64 n x).pages = s.pages := rfl
@[simp] theorem State.setS64_overflow (s : State) (n : Nat) (x : DWord) :
    (s.setS64 n x).overflow = s.overflow := rfl
@[simp] theorem State.setS64_orphans (s : State) (n : Nat) (x : DWord) :
    (s.setS64 n x).orphans = s.orphans := rfl
@[simp] theorem State.setS64_mp (s : State) (n : Nat) (x : DWord) :
    (s.setS64 n x).mp = s.mp := rfl

/-! `State.block`: what the issuing pack waits for. -/

@[simp] theorem State.block_time (s : State) (w : Wait) :
    (s.block w).time = s.time := rfl
@[simp] theorem State.block_stamps (s : State) (w : Wait) :
    (s.block w).stamps = s.stamps := rfl
@[simp] theorem State.block_env (s : State) (w : Wait) :
    (s.block w).env = s.env := rfl
@[simp] theorem State.block_site (s : State) (w : Wait) :
    (s.block w).site = s.site := rfl
@[simp] theorem State.block_act (s : State) (w : Wait) :
    (s.block w).act = s.act := rfl
@[simp] theorem State.block_ipc (s : State) (w : Wait) :
    (s.block w).ipc = s.ipc := rfl
@[simp] theorem State.block_mem (s : State) (w : Wait) :
    (s.block w).mem = s.mem := rfl
@[simp] theorem State.block_home (s : State) (w : Wait) :
    (s.block w).home = s.home := rfl
@[simp] theorem State.block_cores (s : State) (w : Wait) :
    (s.block w).cores = s.cores := rfl
@[simp] theorem State.block_clusterTlb (s : State) (w : Wait) :
    (s.block w).clusterTlb = s.clusterTlb := rfl
@[simp] theorem State.block_s1u (s : State) (w : Wait) :
    (s.block w).s1u = s.s1u := rfl
@[simp] theorem State.block_s2u (s : State) (w : Wait) :
    (s.block w).s2u = s.s2u := rfl
@[simp] theorem State.block_groups (s : State) (w : Wait) :
    (s.block w).groups = s.groups := rfl
@[simp] theorem State.block_cmds (s : State) (w : Wait) :
    (s.block w).cmds = s.cmds := rfl
@[simp] theorem State.block_sched (s : State) (w : Wait) :
    (s.block w).sched = s.sched := rfl
@[simp] theorem State.block_parts (s : State) (w : Wait) :
    (s.block w).parts = s.parts := rfl
@[simp] theorem State.block_pages (s : State) (w : Wait) :
    (s.block w).pages = s.pages := rfl
@[simp] theorem State.block_overflow (s : State) (w : Wait) :
    (s.block w).overflow = s.overflow := rfl
@[simp] theorem State.block_orphans (s : State) (w : Wait) :
    (s.block w).orphans = s.orphans := rfl
@[simp] theorem State.block_mp (s : State) (w : Wait) :
    (s.block w).mp = s.mp := rfl

/-! `State.advance`: PCs. -/

@[simp] theorem State.advance_time (s : State) (m : LaneMask) (n : Nat) :
    (s.advance m n).time = s.time := rfl
@[simp] theorem State.advance_stamps (s : State) (m : LaneMask) (n : Nat) :
    (s.advance m n).stamps = s.stamps := rfl
@[simp] theorem State.advance_env (s : State) (m : LaneMask) (n : Nat) :
    (s.advance m n).env = s.env := rfl
@[simp] theorem State.advance_site (s : State) (m : LaneMask) (n : Nat) :
    (s.advance m n).site = s.site := rfl
@[simp] theorem State.advance_act (s : State) (m : LaneMask) (n : Nat) :
    (s.advance m n).act = s.act := rfl
@[simp] theorem State.advance_ipc (s : State) (m : LaneMask) (n : Nat) :
    (s.advance m n).ipc = s.ipc := rfl
@[simp] theorem State.advance_mem (s : State) (m : LaneMask) (n : Nat) :
    (s.advance m n).mem = s.mem := rfl
@[simp] theorem State.advance_home (s : State) (m : LaneMask) (n : Nat) :
    (s.advance m n).home = s.home := rfl
@[simp] theorem State.advance_cores (s : State) (m : LaneMask) (n : Nat) :
    (s.advance m n).cores = s.cores := rfl
@[simp] theorem State.advance_clusterTlb (s : State) (m : LaneMask) (n : Nat) :
    (s.advance m n).clusterTlb = s.clusterTlb := rfl
@[simp] theorem State.advance_s1u (s : State) (m : LaneMask) (n : Nat) :
    (s.advance m n).s1u = s.s1u := rfl
@[simp] theorem State.advance_s2u (s : State) (m : LaneMask) (n : Nat) :
    (s.advance m n).s2u = s.s2u := rfl
@[simp] theorem State.advance_groups (s : State) (m : LaneMask) (n : Nat) :
    (s.advance m n).groups = s.groups := rfl
@[simp] theorem State.advance_cmds (s : State) (m : LaneMask) (n : Nat) :
    (s.advance m n).cmds = s.cmds := rfl
@[simp] theorem State.advance_sched (s : State) (m : LaneMask) (n : Nat) :
    (s.advance m n).sched = s.sched := rfl
@[simp] theorem State.advance_parts (s : State) (m : LaneMask) (n : Nat) :
    (s.advance m n).parts = s.parts := rfl
@[simp] theorem State.advance_pages (s : State) (m : LaneMask) (n : Nat) :
    (s.advance m n).pages = s.pages := rfl
@[simp] theorem State.advance_overflow (s : State) (m : LaneMask) (n : Nat) :
    (s.advance m n).overflow = s.overflow := rfl
@[simp] theorem State.advance_orphans (s : State) (m : LaneMask) (n : Nat) :
    (s.advance m n).orphans = s.orphans := rfl
@[simp] theorem State.advance_mp (s : State) (m : LaneMask) (n : Nat) :
    (s.advance m n).mp = s.mp := rfl

/-! `State.next`: the PC of every live thread. -/

@[simp] theorem State.next_time (s : State) (n : Nat) :
    (s.next n).time = s.time := rfl
@[simp] theorem State.next_stamps (s : State) (n : Nat) :
    (s.next n).stamps = s.stamps := rfl
@[simp] theorem State.next_env (s : State) (n : Nat) :
    (s.next n).env = s.env := rfl
@[simp] theorem State.next_site (s : State) (n : Nat) :
    (s.next n).site = s.site := rfl
@[simp] theorem State.next_act (s : State) (n : Nat) :
    (s.next n).act = s.act := rfl
@[simp] theorem State.next_ipc (s : State) (n : Nat) :
    (s.next n).ipc = s.ipc := rfl
@[simp] theorem State.next_mem (s : State) (n : Nat) :
    (s.next n).mem = s.mem := rfl
@[simp] theorem State.next_home (s : State) (n : Nat) :
    (s.next n).home = s.home := rfl
@[simp] theorem State.next_cores (s : State) (n : Nat) :
    (s.next n).cores = s.cores := rfl
@[simp] theorem State.next_clusterTlb (s : State) (n : Nat) :
    (s.next n).clusterTlb = s.clusterTlb := rfl
@[simp] theorem State.next_s1u (s : State) (n : Nat) :
    (s.next n).s1u = s.s1u := rfl
@[simp] theorem State.next_s2u (s : State) (n : Nat) :
    (s.next n).s2u = s.s2u := rfl
@[simp] theorem State.next_groups (s : State) (n : Nat) :
    (s.next n).groups = s.groups := rfl
@[simp] theorem State.next_cmds (s : State) (n : Nat) :
    (s.next n).cmds = s.cmds := rfl
@[simp] theorem State.next_sched (s : State) (n : Nat) :
    (s.next n).sched = s.sched := rfl
@[simp] theorem State.next_parts (s : State) (n : Nat) :
    (s.next n).parts = s.parts := rfl
@[simp] theorem State.next_pages (s : State) (n : Nat) :
    (s.next n).pages = s.pages := rfl
@[simp] theorem State.next_overflow (s : State) (n : Nat) :
    (s.next n).overflow = s.overflow := rfl
@[simp] theorem State.next_orphans (s : State) (n : Nat) :
    (s.next n).orphans = s.orphans := rfl
@[simp] theorem State.next_mp (s : State) (n : Nat) :
    (s.next n).mp = s.mp := rfl

/-! `State.jump`: every live thread to one PC. -/

@[simp] theorem State.jump_time (s : State) (pc : BitVec 52) :
    (s.jump pc).time = s.time := rfl
@[simp] theorem State.jump_stamps (s : State) (pc : BitVec 52) :
    (s.jump pc).stamps = s.stamps := rfl
@[simp] theorem State.jump_env (s : State) (pc : BitVec 52) :
    (s.jump pc).env = s.env := rfl
@[simp] theorem State.jump_site (s : State) (pc : BitVec 52) :
    (s.jump pc).site = s.site := rfl
@[simp] theorem State.jump_act (s : State) (pc : BitVec 52) :
    (s.jump pc).act = s.act := rfl
@[simp] theorem State.jump_ipc (s : State) (pc : BitVec 52) :
    (s.jump pc).ipc = s.ipc := rfl
@[simp] theorem State.jump_mem (s : State) (pc : BitVec 52) :
    (s.jump pc).mem = s.mem := rfl
@[simp] theorem State.jump_home (s : State) (pc : BitVec 52) :
    (s.jump pc).home = s.home := rfl
@[simp] theorem State.jump_cores (s : State) (pc : BitVec 52) :
    (s.jump pc).cores = s.cores := rfl
@[simp] theorem State.jump_clusterTlb (s : State) (pc : BitVec 52) :
    (s.jump pc).clusterTlb = s.clusterTlb := rfl
@[simp] theorem State.jump_s1u (s : State) (pc : BitVec 52) :
    (s.jump pc).s1u = s.s1u := rfl
@[simp] theorem State.jump_s2u (s : State) (pc : BitVec 52) :
    (s.jump pc).s2u = s.s2u := rfl
@[simp] theorem State.jump_groups (s : State) (pc : BitVec 52) :
    (s.jump pc).groups = s.groups := rfl
@[simp] theorem State.jump_cmds (s : State) (pc : BitVec 52) :
    (s.jump pc).cmds = s.cmds := rfl
@[simp] theorem State.jump_sched (s : State) (pc : BitVec 52) :
    (s.jump pc).sched = s.sched := rfl
@[simp] theorem State.jump_parts (s : State) (pc : BitVec 52) :
    (s.jump pc).parts = s.parts := rfl
@[simp] theorem State.jump_pages (s : State) (pc : BitVec 52) :
    (s.jump pc).pages = s.pages := rfl
@[simp] theorem State.jump_overflow (s : State) (pc : BitVec 52) :
    (s.jump pc).overflow = s.overflow := rfl
@[simp] theorem State.jump_orphans (s : State) (pc : BitVec 52) :
    (s.jump pc).orphans = s.orphans := rfl
@[simp] theorem State.jump_mp (s : State) (pc : BitVec 52) :
    (s.jump pc).mp = s.mp := rfl

/-! `State.setCore`: one core. -/

@[simp] theorem State.setCore_time (s : State) (c : Nat) (k : Core) :
    (s.setCore c k).time = s.time := rfl
@[simp] theorem State.setCore_stamps (s : State) (c : Nat) (k : Core) :
    (s.setCore c k).stamps = s.stamps := rfl
@[simp] theorem State.setCore_env (s : State) (c : Nat) (k : Core) :
    (s.setCore c k).env = s.env := rfl
@[simp] theorem State.setCore_site (s : State) (c : Nat) (k : Core) :
    (s.setCore c k).site = s.site := rfl
@[simp] theorem State.setCore_act (s : State) (c : Nat) (k : Core) :
    (s.setCore c k).act = s.act := rfl
@[simp] theorem State.setCore_ipc (s : State) (c : Nat) (k : Core) :
    (s.setCore c k).ipc = s.ipc := rfl
@[simp] theorem State.setCore_pk (s : State) (c : Nat) (k : Core) :
    (s.setCore c k).pk = s.pk := rfl
@[simp] theorem State.setCore_mem (s : State) (c : Nat) (k : Core) :
    (s.setCore c k).mem = s.mem := rfl
@[simp] theorem State.setCore_home (s : State) (c : Nat) (k : Core) :
    (s.setCore c k).home = s.home := rfl
@[simp] theorem State.setCore_clusterTlb (s : State) (c : Nat) (k : Core) :
    (s.setCore c k).clusterTlb = s.clusterTlb := rfl
@[simp] theorem State.setCore_s1u (s : State) (c : Nat) (k : Core) :
    (s.setCore c k).s1u = s.s1u := rfl
@[simp] theorem State.setCore_s2u (s : State) (c : Nat) (k : Core) :
    (s.setCore c k).s2u = s.s2u := rfl
@[simp] theorem State.setCore_groups (s : State) (c : Nat) (k : Core) :
    (s.setCore c k).groups = s.groups := rfl
@[simp] theorem State.setCore_cmds (s : State) (c : Nat) (k : Core) :
    (s.setCore c k).cmds = s.cmds := rfl
@[simp] theorem State.setCore_sched (s : State) (c : Nat) (k : Core) :
    (s.setCore c k).sched = s.sched := rfl
@[simp] theorem State.setCore_parts (s : State) (c : Nat) (k : Core) :
    (s.setCore c k).parts = s.parts := rfl
@[simp] theorem State.setCore_pages (s : State) (c : Nat) (k : Core) :
    (s.setCore c k).pages = s.pages := rfl
@[simp] theorem State.setCore_overflow (s : State) (c : Nat) (k : Core) :
    (s.setCore c k).overflow = s.overflow := rfl
@[simp] theorem State.setCore_orphans (s : State) (c : Nat) (k : Core) :
    (s.setCore c k).orphans = s.orphans := rfl
@[simp] theorem State.setCore_mp (s : State) (c : Nat) (k : Core) :
    (s.setCore c k).mp = s.mp := rfl

/-! `State.modCore`: one core. -/

@[simp] theorem State.modCore_time (s : State) (c : Nat) (f : Core → Core) :
    (s.modCore c f).time = s.time := rfl
@[simp] theorem State.modCore_stamps (s : State) (c : Nat) (f : Core → Core) :
    (s.modCore c f).stamps = s.stamps := rfl
@[simp] theorem State.modCore_env (s : State) (c : Nat) (f : Core → Core) :
    (s.modCore c f).env = s.env := rfl
@[simp] theorem State.modCore_site (s : State) (c : Nat) (f : Core → Core) :
    (s.modCore c f).site = s.site := rfl
@[simp] theorem State.modCore_act (s : State) (c : Nat) (f : Core → Core) :
    (s.modCore c f).act = s.act := rfl
@[simp] theorem State.modCore_ipc (s : State) (c : Nat) (f : Core → Core) :
    (s.modCore c f).ipc = s.ipc := rfl
@[simp] theorem State.modCore_pk (s : State) (c : Nat) (f : Core → Core) :
    (s.modCore c f).pk = s.pk := rfl
@[simp] theorem State.modCore_mem (s : State) (c : Nat) (f : Core → Core) :
    (s.modCore c f).mem = s.mem := rfl
@[simp] theorem State.modCore_home (s : State) (c : Nat) (f : Core → Core) :
    (s.modCore c f).home = s.home := rfl
@[simp] theorem State.modCore_clusterTlb (s : State) (c : Nat) (f : Core → Core) :
    (s.modCore c f).clusterTlb = s.clusterTlb := rfl
@[simp] theorem State.modCore_s1u (s : State) (c : Nat) (f : Core → Core) :
    (s.modCore c f).s1u = s.s1u := rfl
@[simp] theorem State.modCore_s2u (s : State) (c : Nat) (f : Core → Core) :
    (s.modCore c f).s2u = s.s2u := rfl
@[simp] theorem State.modCore_groups (s : State) (c : Nat) (f : Core → Core) :
    (s.modCore c f).groups = s.groups := rfl
@[simp] theorem State.modCore_cmds (s : State) (c : Nat) (f : Core → Core) :
    (s.modCore c f).cmds = s.cmds := rfl
@[simp] theorem State.modCore_sched (s : State) (c : Nat) (f : Core → Core) :
    (s.modCore c f).sched = s.sched := rfl
@[simp] theorem State.modCore_parts (s : State) (c : Nat) (f : Core → Core) :
    (s.modCore c f).parts = s.parts := rfl
@[simp] theorem State.modCore_pages (s : State) (c : Nat) (f : Core → Core) :
    (s.modCore c f).pages = s.pages := rfl
@[simp] theorem State.modCore_overflow (s : State) (c : Nat) (f : Core → Core) :
    (s.modCore c f).overflow = s.overflow := rfl
@[simp] theorem State.modCore_orphans (s : State) (c : Nat) (f : Core → Core) :
    (s.modCore c f).orphans = s.orphans := rfl
@[simp] theorem State.modCore_mp (s : State) (c : Nat) (f : Core → Core) :
    (s.modCore c f).mp = s.mp := rfl

/-! `State.setPack`: one resident pack. -/

@[simp] theorem State.setPack_time (s : State) (c slot : Nat) (p : Pack) :
    (s.setPack c slot p).time = s.time := rfl
@[simp] theorem State.setPack_stamps (s : State) (c slot : Nat) (p : Pack) :
    (s.setPack c slot p).stamps = s.stamps := rfl
@[simp] theorem State.setPack_env (s : State) (c slot : Nat) (p : Pack) :
    (s.setPack c slot p).env = s.env := rfl
@[simp] theorem State.setPack_site (s : State) (c slot : Nat) (p : Pack) :
    (s.setPack c slot p).site = s.site := rfl
@[simp] theorem State.setPack_act (s : State) (c slot : Nat) (p : Pack) :
    (s.setPack c slot p).act = s.act := rfl
@[simp] theorem State.setPack_ipc (s : State) (c slot : Nat) (p : Pack) :
    (s.setPack c slot p).ipc = s.ipc := rfl
@[simp] theorem State.setPack_pk (s : State) (c slot : Nat) (p : Pack) :
    (s.setPack c slot p).pk = s.pk := rfl
@[simp] theorem State.setPack_mem (s : State) (c slot : Nat) (p : Pack) :
    (s.setPack c slot p).mem = s.mem := rfl
@[simp] theorem State.setPack_home (s : State) (c slot : Nat) (p : Pack) :
    (s.setPack c slot p).home = s.home := rfl
@[simp] theorem State.setPack_clusterTlb (s : State) (c slot : Nat) (p : Pack) :
    (s.setPack c slot p).clusterTlb = s.clusterTlb := rfl
@[simp] theorem State.setPack_s1u (s : State) (c slot : Nat) (p : Pack) :
    (s.setPack c slot p).s1u = s.s1u := rfl
@[simp] theorem State.setPack_s2u (s : State) (c slot : Nat) (p : Pack) :
    (s.setPack c slot p).s2u = s.s2u := rfl
@[simp] theorem State.setPack_groups (s : State) (c slot : Nat) (p : Pack) :
    (s.setPack c slot p).groups = s.groups := rfl
@[simp] theorem State.setPack_cmds (s : State) (c slot : Nat) (p : Pack) :
    (s.setPack c slot p).cmds = s.cmds := rfl
@[simp] theorem State.setPack_sched (s : State) (c slot : Nat) (p : Pack) :
    (s.setPack c slot p).sched = s.sched := rfl
@[simp] theorem State.setPack_parts (s : State) (c slot : Nat) (p : Pack) :
    (s.setPack c slot p).parts = s.parts := rfl
@[simp] theorem State.setPack_pages (s : State) (c slot : Nat) (p : Pack) :
    (s.setPack c slot p).pages = s.pages := rfl
@[simp] theorem State.setPack_overflow (s : State) (c slot : Nat) (p : Pack) :
    (s.setPack c slot p).overflow = s.overflow := rfl
@[simp] theorem State.setPack_orphans (s : State) (c slot : Nat) (p : Pack) :
    (s.setPack c slot p).orphans = s.orphans := rfl
@[simp] theorem State.setPack_mp (s : State) (c slot : Nat) (p : Pack) :
    (s.setPack c slot p).mp = s.mp := rfl

/-! `State.modPart`: one partition. -/

@[simp] theorem State.modPart_time (s : State) (p : Nat) (f : Partition → Partition) :
    (s.modPart p f).time = s.time := rfl
@[simp] theorem State.modPart_stamps (s : State) (p : Nat) (f : Partition → Partition) :
    (s.modPart p f).stamps = s.stamps := rfl
@[simp] theorem State.modPart_env (s : State) (p : Nat) (f : Partition → Partition) :
    (s.modPart p f).env = s.env := rfl
@[simp] theorem State.modPart_site (s : State) (p : Nat) (f : Partition → Partition) :
    (s.modPart p f).site = s.site := rfl
@[simp] theorem State.modPart_act (s : State) (p : Nat) (f : Partition → Partition) :
    (s.modPart p f).act = s.act := rfl
@[simp] theorem State.modPart_ipc (s : State) (p : Nat) (f : Partition → Partition) :
    (s.modPart p f).ipc = s.ipc := rfl
@[simp] theorem State.modPart_pk (s : State) (p : Nat) (f : Partition → Partition) :
    (s.modPart p f).pk = s.pk := rfl
@[simp] theorem State.modPart_mem (s : State) (p : Nat) (f : Partition → Partition) :
    (s.modPart p f).mem = s.mem := rfl
@[simp] theorem State.modPart_home (s : State) (p : Nat) (f : Partition → Partition) :
    (s.modPart p f).home = s.home := rfl
@[simp] theorem State.modPart_cores (s : State) (p : Nat) (f : Partition → Partition) :
    (s.modPart p f).cores = s.cores := rfl
@[simp] theorem State.modPart_clusterTlb (s : State) (p : Nat) (f : Partition → Partition) :
    (s.modPart p f).clusterTlb = s.clusterTlb := rfl
@[simp] theorem State.modPart_s1u (s : State) (p : Nat) (f : Partition → Partition) :
    (s.modPart p f).s1u = s.s1u := rfl
@[simp] theorem State.modPart_s2u (s : State) (p : Nat) (f : Partition → Partition) :
    (s.modPart p f).s2u = s.s2u := rfl
@[simp] theorem State.modPart_groups (s : State) (p : Nat) (f : Partition → Partition) :
    (s.modPart p f).groups = s.groups := rfl
@[simp] theorem State.modPart_cmds (s : State) (p : Nat) (f : Partition → Partition) :
    (s.modPart p f).cmds = s.cmds := rfl
@[simp] theorem State.modPart_sched (s : State) (p : Nat) (f : Partition → Partition) :
    (s.modPart p f).sched = s.sched := rfl
@[simp] theorem State.modPart_pages (s : State) (p : Nat) (f : Partition → Partition) :
    (s.modPart p f).pages = s.pages := rfl
@[simp] theorem State.modPart_overflow (s : State) (p : Nat) (f : Partition → Partition) :
    (s.modPart p f).overflow = s.overflow := rfl
@[simp] theorem State.modPart_orphans (s : State) (p : Nat) (f : Partition → Partition) :
    (s.modPart p f).orphans = s.orphans := rfl
@[simp] theorem State.modPart_mp (s : State) (p : Nat) (f : Partition → Partition) :
    (s.modPart p f).mp = s.mp := rfl

/-! `State.modGroup`: one group. -/

@[simp] theorem State.modGroup_time (s : State) (g : Nat) (f : Group → Group) :
    (s.modGroup g f).time = s.time := rfl
@[simp] theorem State.modGroup_stamps (s : State) (g : Nat) (f : Group → Group) :
    (s.modGroup g f).stamps = s.stamps := rfl
@[simp] theorem State.modGroup_env (s : State) (g : Nat) (f : Group → Group) :
    (s.modGroup g f).env = s.env := rfl
@[simp] theorem State.modGroup_site (s : State) (g : Nat) (f : Group → Group) :
    (s.modGroup g f).site = s.site := rfl
@[simp] theorem State.modGroup_act (s : State) (g : Nat) (f : Group → Group) :
    (s.modGroup g f).act = s.act := rfl
@[simp] theorem State.modGroup_ipc (s : State) (g : Nat) (f : Group → Group) :
    (s.modGroup g f).ipc = s.ipc := rfl
@[simp] theorem State.modGroup_pk (s : State) (g : Nat) (f : Group → Group) :
    (s.modGroup g f).pk = s.pk := rfl
@[simp] theorem State.modGroup_mem (s : State) (g : Nat) (f : Group → Group) :
    (s.modGroup g f).mem = s.mem := rfl
@[simp] theorem State.modGroup_home (s : State) (g : Nat) (f : Group → Group) :
    (s.modGroup g f).home = s.home := rfl
@[simp] theorem State.modGroup_cores (s : State) (g : Nat) (f : Group → Group) :
    (s.modGroup g f).cores = s.cores := rfl
@[simp] theorem State.modGroup_clusterTlb (s : State) (g : Nat) (f : Group → Group) :
    (s.modGroup g f).clusterTlb = s.clusterTlb := rfl
@[simp] theorem State.modGroup_s1u (s : State) (g : Nat) (f : Group → Group) :
    (s.modGroup g f).s1u = s.s1u := rfl
@[simp] theorem State.modGroup_s2u (s : State) (g : Nat) (f : Group → Group) :
    (s.modGroup g f).s2u = s.s2u := rfl
@[simp] theorem State.modGroup_cmds (s : State) (g : Nat) (f : Group → Group) :
    (s.modGroup g f).cmds = s.cmds := rfl
@[simp] theorem State.modGroup_sched (s : State) (g : Nat) (f : Group → Group) :
    (s.modGroup g f).sched = s.sched := rfl
@[simp] theorem State.modGroup_parts (s : State) (g : Nat) (f : Group → Group) :
    (s.modGroup g f).parts = s.parts := rfl
@[simp] theorem State.modGroup_pages (s : State) (g : Nat) (f : Group → Group) :
    (s.modGroup g f).pages = s.pages := rfl
@[simp] theorem State.modGroup_overflow (s : State) (g : Nat) (f : Group → Group) :
    (s.modGroup g f).overflow = s.overflow := rfl
@[simp] theorem State.modGroup_orphans (s : State) (g : Nat) (f : Group → Group) :
    (s.modGroup g f).orphans = s.orphans := rfl
@[simp] theorem State.modGroup_mp (s : State) (g : Nat) (f : Group → Group) :
    (s.modGroup g f).mp = s.mp := rfl

/-! `State.modCmd`: one engine command. -/

@[simp] theorem State.modCmd_time (s : State) (i : Nat) (f : Cmd → Cmd) :
    (s.modCmd i f).time = s.time := rfl
@[simp] theorem State.modCmd_stamps (s : State) (i : Nat) (f : Cmd → Cmd) :
    (s.modCmd i f).stamps = s.stamps := rfl
@[simp] theorem State.modCmd_env (s : State) (i : Nat) (f : Cmd → Cmd) :
    (s.modCmd i f).env = s.env := rfl
@[simp] theorem State.modCmd_site (s : State) (i : Nat) (f : Cmd → Cmd) :
    (s.modCmd i f).site = s.site := rfl
@[simp] theorem State.modCmd_act (s : State) (i : Nat) (f : Cmd → Cmd) :
    (s.modCmd i f).act = s.act := rfl
@[simp] theorem State.modCmd_ipc (s : State) (i : Nat) (f : Cmd → Cmd) :
    (s.modCmd i f).ipc = s.ipc := rfl
@[simp] theorem State.modCmd_pk (s : State) (i : Nat) (f : Cmd → Cmd) :
    (s.modCmd i f).pk = s.pk := rfl
@[simp] theorem State.modCmd_mem (s : State) (i : Nat) (f : Cmd → Cmd) :
    (s.modCmd i f).mem = s.mem := rfl
@[simp] theorem State.modCmd_home (s : State) (i : Nat) (f : Cmd → Cmd) :
    (s.modCmd i f).home = s.home := rfl
@[simp] theorem State.modCmd_cores (s : State) (i : Nat) (f : Cmd → Cmd) :
    (s.modCmd i f).cores = s.cores := rfl
@[simp] theorem State.modCmd_clusterTlb (s : State) (i : Nat) (f : Cmd → Cmd) :
    (s.modCmd i f).clusterTlb = s.clusterTlb := rfl
@[simp] theorem State.modCmd_s1u (s : State) (i : Nat) (f : Cmd → Cmd) :
    (s.modCmd i f).s1u = s.s1u := rfl
@[simp] theorem State.modCmd_s2u (s : State) (i : Nat) (f : Cmd → Cmd) :
    (s.modCmd i f).s2u = s.s2u := rfl
@[simp] theorem State.modCmd_groups (s : State) (i : Nat) (f : Cmd → Cmd) :
    (s.modCmd i f).groups = s.groups := rfl
@[simp] theorem State.modCmd_sched (s : State) (i : Nat) (f : Cmd → Cmd) :
    (s.modCmd i f).sched = s.sched := rfl
@[simp] theorem State.modCmd_parts (s : State) (i : Nat) (f : Cmd → Cmd) :
    (s.modCmd i f).parts = s.parts := rfl
@[simp] theorem State.modCmd_pages (s : State) (i : Nat) (f : Cmd → Cmd) :
    (s.modCmd i f).pages = s.pages := rfl
@[simp] theorem State.modCmd_overflow (s : State) (i : Nat) (f : Cmd → Cmd) :
    (s.modCmd i f).overflow = s.overflow := rfl
@[simp] theorem State.modCmd_orphans (s : State) (i : Nat) (f : Cmd → Cmd) :
    (s.modCmd i f).orphans = s.orphans := rfl
@[simp] theorem State.modCmd_mp (s : State) (i : Nat) (f : Cmd → Cmd) :
    (s.modCmd i f).mp = s.mp := rfl

/-! `State.syncReplicas`: the replicas are up to date. -/

@[simp] theorem State.syncReplicas_time (s : State) :
    (s.syncReplicas).time = s.time := rfl
@[simp] theorem State.syncReplicas_stamps (s : State) :
    (s.syncReplicas).stamps = s.stamps := rfl
@[simp] theorem State.syncReplicas_env (s : State) :
    (s.syncReplicas).env = s.env := rfl
@[simp] theorem State.syncReplicas_site (s : State) :
    (s.syncReplicas).site = s.site := rfl
@[simp] theorem State.syncReplicas_act (s : State) :
    (s.syncReplicas).act = s.act := rfl
@[simp] theorem State.syncReplicas_ipc (s : State) :
    (s.syncReplicas).ipc = s.ipc := rfl
@[simp] theorem State.syncReplicas_pk (s : State) :
    (s.syncReplicas).pk = s.pk := rfl
@[simp] theorem State.syncReplicas_mem (s : State) :
    (s.syncReplicas).mem = s.mem := rfl
@[simp] theorem State.syncReplicas_cores (s : State) :
    (s.syncReplicas).cores = s.cores := rfl
@[simp] theorem State.syncReplicas_clusterTlb (s : State) :
    (s.syncReplicas).clusterTlb = s.clusterTlb := rfl
@[simp] theorem State.syncReplicas_s1u (s : State) :
    (s.syncReplicas).s1u = s.s1u := rfl
@[simp] theorem State.syncReplicas_s2u (s : State) :
    (s.syncReplicas).s2u = s.s2u := rfl
@[simp] theorem State.syncReplicas_groups (s : State) :
    (s.syncReplicas).groups = s.groups := rfl
@[simp] theorem State.syncReplicas_cmds (s : State) :
    (s.syncReplicas).cmds = s.cmds := rfl
@[simp] theorem State.syncReplicas_sched (s : State) :
    (s.syncReplicas).sched = s.sched := rfl
@[simp] theorem State.syncReplicas_parts (s : State) :
    (s.syncReplicas).parts = s.parts := rfl
@[simp] theorem State.syncReplicas_pages (s : State) :
    (s.syncReplicas).pages = s.pages := rfl
@[simp] theorem State.syncReplicas_overflow (s : State) :
    (s.syncReplicas).overflow = s.overflow := rfl
@[simp] theorem State.syncReplicas_orphans (s : State) :
    (s.syncReplicas).orphans = s.orphans := rfl
@[simp] theorem State.syncReplicas_mp (s : State) :
    (s.syncReplicas).mp = s.mp := rfl

/-! `Pack.setS`. -/

@[simp] theorem Pack.setS_part (p : Pack) (n : Nat) (x : Word) :
    (p.setS n x).part = p.part := rfl
@[simp] theorem Pack.setS_group (p : Pack) (n : Nat) (x : Word) :
    (p.setS n x).group = p.group := rfl
@[simp] theorem Pack.setS_packNo (p : Pack) (n : Nat) (x : Word) :
    (p.setS n x).packNo = p.packNo := rfl
@[simp] theorem Pack.setS_role (p : Pack) (n : Nat) (x : Word) :
    (p.setS n x).role = p.role := rfl
@[simp] theorem Pack.setS_priv (p : Pack) (n : Nat) (x : Word) :
    (p.setS n x).priv = p.priv := rfl
@[simp] theorem Pack.setS_nthreads (p : Pack) (n : Nat) (x : Word) :
    (p.setS n x).nthreads = p.nthreads := rfl
@[simp] theorem Pack.setS_threads (p : Pack) (n : Nat) (x : Word) :
    (p.setS n x).threads = p.threads := rfl
@[simp] theorem Pack.setS_q (p : Pack) (n : Nat) (x : Word) :
    (p.setS n x).q = p.q := rfl
@[simp] theorem Pack.setS_mode (p : Pack) (n : Nat) (x : Word) :
    (p.setS n x).mode = p.mode := rfl
@[simp] theorem Pack.setS_fstat (p : Pack) (n : Nat) (x : Word) :
    (p.setS n x).fstat = p.fstat := rfl
@[simp] theorem Pack.setS_seed (p : Pack) (n : Nat) (x : Word) :
    (p.setS n x).seed = p.seed := rfl
@[simp] theorem Pack.setS_jointime (p : Pack) (n : Nat) (x : Word) :
    (p.setS n x).jointime = p.jointime := rfl
@[simp] theorem Pack.setS_trapbase (p : Pack) (n : Nat) (x : Word) :
    (p.setS n x).trapbase = p.trapbase := rfl
@[simp] theorem Pack.setS_pro (p : Pack) (n : Nat) (x : Word) :
    (p.setS n x).pro = p.pro := rfl
@[simp] theorem Pack.setS_fullBlocks (p : Pack) (n : Nat) (x : Word) :
    (p.setS n x).fullBlocks = p.fullBlocks := rfl
@[simp] theorem Pack.setS_full (p : Pack) (n : Nat) (x : Word) :
    (p.setS n x).full = p.full := rfl
@[simp] theorem Pack.setS_sb (p : Pack) (n : Nat) (x : Word) :
    (p.setS n x).sb = p.sb := rfl
@[simp] theorem Pack.setS_replay (p : Pack) (n : Nat) (x : Word) :
    (p.setS n x).replay = p.replay := rfl
@[simp] theorem Pack.setS_pend (p : Pack) (n : Nat) (x : Word) :
    (p.setS n x).pend = p.pend := rfl
@[simp] theorem Pack.setS_windows (p : Pack) (n : Nat) (x : Word) :
    (p.setS n x).windows = p.windows := rfl
@[simp] theorem Pack.setS_meets (p : Pack) (n : Nat) (x : Word) :
    (p.setS n x).meets = p.meets := rfl
@[simp] theorem Pack.setS_wait (p : Pack) (n : Nat) (x : Word) :
    (p.setS n x).wait = p.wait := rfl
@[simp] theorem Pack.setS_args (p : Pack) (n : Nat) (x : Word) :
    (p.setS n x).args = p.args := rfl
@[simp] theorem Pack.setS_late (p : Pack) (n : Nat) (x : Word) :
    (p.setS n x).late = p.late := rfl
@[simp] theorem Pack.setS_tokens (p : Pack) (n : Nat) (x : Word) :
    (p.setS n x).tokens = p.tokens := rfl
@[simp] theorem Pack.setS_soft (p : Pack) (n : Nat) (x : Word) :
    (p.setS n x).soft = p.soft := rfl
@[simp] theorem Pack.setS_bad (p : Pack) (n : Nat) (x : Word) :
    (p.setS n x).bad = p.bad := rfl
@[simp] theorem Pack.setS_req (p : Pack) (n : Nat) (x : Word) :
    (p.setS n x).req = p.req := rfl
@[simp] theorem Pack.setS_filled (p : Pack) (n : Nat) (x : Word) :
    (p.setS n x).filled = p.filled := rfl
@[simp] theorem Pack.setS_deadline (p : Pack) (n : Nat) (x : Word) :
    (p.setS n x).deadline = p.deadline := rfl
@[simp] theorem Pack.setS_portB (p : Pack) (n : Nat) (x : Word) :
    (p.setS n x).portB = p.portB := rfl
@[simp] theorem Pack.setS_lanesB (p : Pack) (n : Nat) (x : Word) :
    (p.setS n x).lanesB = p.lanesB := rfl
@[simp] theorem Pack.setS_unyield (p : Pack) (n : Nat) (x : Word) :
    (p.setS n x).unyield = p.unyield := rfl

/-! `Pack.setQ`. -/

@[simp] theorem Pack.setQ_part (p : Pack) (n : Nat) (b : Bool) :
    (p.setQ n b).part = p.part := rfl
@[simp] theorem Pack.setQ_group (p : Pack) (n : Nat) (b : Bool) :
    (p.setQ n b).group = p.group := rfl
@[simp] theorem Pack.setQ_packNo (p : Pack) (n : Nat) (b : Bool) :
    (p.setQ n b).packNo = p.packNo := rfl
@[simp] theorem Pack.setQ_role (p : Pack) (n : Nat) (b : Bool) :
    (p.setQ n b).role = p.role := rfl
@[simp] theorem Pack.setQ_priv (p : Pack) (n : Nat) (b : Bool) :
    (p.setQ n b).priv = p.priv := rfl
@[simp] theorem Pack.setQ_nthreads (p : Pack) (n : Nat) (b : Bool) :
    (p.setQ n b).nthreads = p.nthreads := rfl
@[simp] theorem Pack.setQ_threads (p : Pack) (n : Nat) (b : Bool) :
    (p.setQ n b).threads = p.threads := rfl
@[simp] theorem Pack.setQ_s (p : Pack) (n : Nat) (b : Bool) :
    (p.setQ n b).s = p.s := rfl
@[simp] theorem Pack.setQ_mode (p : Pack) (n : Nat) (b : Bool) :
    (p.setQ n b).mode = p.mode := rfl
@[simp] theorem Pack.setQ_fstat (p : Pack) (n : Nat) (b : Bool) :
    (p.setQ n b).fstat = p.fstat := rfl
@[simp] theorem Pack.setQ_seed (p : Pack) (n : Nat) (b : Bool) :
    (p.setQ n b).seed = p.seed := rfl
@[simp] theorem Pack.setQ_jointime (p : Pack) (n : Nat) (b : Bool) :
    (p.setQ n b).jointime = p.jointime := rfl
@[simp] theorem Pack.setQ_trapbase (p : Pack) (n : Nat) (b : Bool) :
    (p.setQ n b).trapbase = p.trapbase := rfl
@[simp] theorem Pack.setQ_pro (p : Pack) (n : Nat) (b : Bool) :
    (p.setQ n b).pro = p.pro := rfl
@[simp] theorem Pack.setQ_fullBlocks (p : Pack) (n : Nat) (b : Bool) :
    (p.setQ n b).fullBlocks = p.fullBlocks := rfl
@[simp] theorem Pack.setQ_full (p : Pack) (n : Nat) (b : Bool) :
    (p.setQ n b).full = p.full := rfl
@[simp] theorem Pack.setQ_sb (p : Pack) (n : Nat) (b : Bool) :
    (p.setQ n b).sb = p.sb := rfl
@[simp] theorem Pack.setQ_replay (p : Pack) (n : Nat) (b : Bool) :
    (p.setQ n b).replay = p.replay := rfl
@[simp] theorem Pack.setQ_pend (p : Pack) (n : Nat) (b : Bool) :
    (p.setQ n b).pend = p.pend := rfl
@[simp] theorem Pack.setQ_windows (p : Pack) (n : Nat) (b : Bool) :
    (p.setQ n b).windows = p.windows := rfl
@[simp] theorem Pack.setQ_meets (p : Pack) (n : Nat) (b : Bool) :
    (p.setQ n b).meets = p.meets := rfl
@[simp] theorem Pack.setQ_wait (p : Pack) (n : Nat) (b : Bool) :
    (p.setQ n b).wait = p.wait := rfl
@[simp] theorem Pack.setQ_args (p : Pack) (n : Nat) (b : Bool) :
    (p.setQ n b).args = p.args := rfl
@[simp] theorem Pack.setQ_late (p : Pack) (n : Nat) (b : Bool) :
    (p.setQ n b).late = p.late := rfl
@[simp] theorem Pack.setQ_tokens (p : Pack) (n : Nat) (b : Bool) :
    (p.setQ n b).tokens = p.tokens := rfl
@[simp] theorem Pack.setQ_soft (p : Pack) (n : Nat) (b : Bool) :
    (p.setQ n b).soft = p.soft := rfl
@[simp] theorem Pack.setQ_bad (p : Pack) (n : Nat) (b : Bool) :
    (p.setQ n b).bad = p.bad := rfl
@[simp] theorem Pack.setQ_req (p : Pack) (n : Nat) (b : Bool) :
    (p.setQ n b).req = p.req := rfl
@[simp] theorem Pack.setQ_filled (p : Pack) (n : Nat) (b : Bool) :
    (p.setQ n b).filled = p.filled := rfl
@[simp] theorem Pack.setQ_deadline (p : Pack) (n : Nat) (b : Bool) :
    (p.setQ n b).deadline = p.deadline := rfl
@[simp] theorem Pack.setQ_portB (p : Pack) (n : Nat) (b : Bool) :
    (p.setQ n b).portB = p.portB := rfl
@[simp] theorem Pack.setQ_lanesB (p : Pack) (n : Nat) (b : Bool) :
    (p.setQ n b).lanesB = p.lanesB := rfl
@[simp] theorem Pack.setQ_unyield (p : Pack) (n : Nat) (b : Bool) :
    (p.setQ n b).unyield = p.unyield := rfl

/-! `Pack.onLanes`. -/

@[simp] theorem Pack.onLanes_part (p : Pack) (m : LaneMask) (f : Nat → Thread → Thread) :
    (p.onLanes m f).part = p.part := rfl
@[simp] theorem Pack.onLanes_group (p : Pack) (m : LaneMask) (f : Nat → Thread → Thread) :
    (p.onLanes m f).group = p.group := rfl
@[simp] theorem Pack.onLanes_packNo (p : Pack) (m : LaneMask) (f : Nat → Thread → Thread) :
    (p.onLanes m f).packNo = p.packNo := rfl
@[simp] theorem Pack.onLanes_role (p : Pack) (m : LaneMask) (f : Nat → Thread → Thread) :
    (p.onLanes m f).role = p.role := rfl
@[simp] theorem Pack.onLanes_priv (p : Pack) (m : LaneMask) (f : Nat → Thread → Thread) :
    (p.onLanes m f).priv = p.priv := rfl
@[simp] theorem Pack.onLanes_nthreads (p : Pack) (m : LaneMask) (f : Nat → Thread → Thread) :
    (p.onLanes m f).nthreads = p.nthreads := rfl
@[simp] theorem Pack.onLanes_s (p : Pack) (m : LaneMask) (f : Nat → Thread → Thread) :
    (p.onLanes m f).s = p.s := rfl
@[simp] theorem Pack.onLanes_q (p : Pack) (m : LaneMask) (f : Nat → Thread → Thread) :
    (p.onLanes m f).q = p.q := rfl
@[simp] theorem Pack.onLanes_mode (p : Pack) (m : LaneMask) (f : Nat → Thread → Thread) :
    (p.onLanes m f).mode = p.mode := rfl
@[simp] theorem Pack.onLanes_fstat (p : Pack) (m : LaneMask) (f : Nat → Thread → Thread) :
    (p.onLanes m f).fstat = p.fstat := rfl
@[simp] theorem Pack.onLanes_seed (p : Pack) (m : LaneMask) (f : Nat → Thread → Thread) :
    (p.onLanes m f).seed = p.seed := rfl
@[simp] theorem Pack.onLanes_jointime (p : Pack) (m : LaneMask) (f : Nat → Thread → Thread) :
    (p.onLanes m f).jointime = p.jointime := rfl
@[simp] theorem Pack.onLanes_trapbase (p : Pack) (m : LaneMask) (f : Nat → Thread → Thread) :
    (p.onLanes m f).trapbase = p.trapbase := rfl
@[simp] theorem Pack.onLanes_pro (p : Pack) (m : LaneMask) (f : Nat → Thread → Thread) :
    (p.onLanes m f).pro = p.pro := rfl
@[simp] theorem Pack.onLanes_fullBlocks (p : Pack) (m : LaneMask) (f : Nat → Thread → Thread) :
    (p.onLanes m f).fullBlocks = p.fullBlocks := rfl
@[simp] theorem Pack.onLanes_full (p : Pack) (m : LaneMask) (f : Nat → Thread → Thread) :
    (p.onLanes m f).full = p.full := rfl
@[simp] theorem Pack.onLanes_sb (p : Pack) (m : LaneMask) (f : Nat → Thread → Thread) :
    (p.onLanes m f).sb = p.sb := rfl
@[simp] theorem Pack.onLanes_replay (p : Pack) (m : LaneMask) (f : Nat → Thread → Thread) :
    (p.onLanes m f).replay = p.replay := rfl
@[simp] theorem Pack.onLanes_pend (p : Pack) (m : LaneMask) (f : Nat → Thread → Thread) :
    (p.onLanes m f).pend = p.pend := rfl
@[simp] theorem Pack.onLanes_windows (p : Pack) (m : LaneMask) (f : Nat → Thread → Thread) :
    (p.onLanes m f).windows = p.windows := rfl
@[simp] theorem Pack.onLanes_meets (p : Pack) (m : LaneMask) (f : Nat → Thread → Thread) :
    (p.onLanes m f).meets = p.meets := rfl
@[simp] theorem Pack.onLanes_wait (p : Pack) (m : LaneMask) (f : Nat → Thread → Thread) :
    (p.onLanes m f).wait = p.wait := rfl
@[simp] theorem Pack.onLanes_args (p : Pack) (m : LaneMask) (f : Nat → Thread → Thread) :
    (p.onLanes m f).args = p.args := rfl
@[simp] theorem Pack.onLanes_late (p : Pack) (m : LaneMask) (f : Nat → Thread → Thread) :
    (p.onLanes m f).late = p.late := rfl
@[simp] theorem Pack.onLanes_tokens (p : Pack) (m : LaneMask) (f : Nat → Thread → Thread) :
    (p.onLanes m f).tokens = p.tokens := rfl
@[simp] theorem Pack.onLanes_soft (p : Pack) (m : LaneMask) (f : Nat → Thread → Thread) :
    (p.onLanes m f).soft = p.soft := rfl
@[simp] theorem Pack.onLanes_bad (p : Pack) (m : LaneMask) (f : Nat → Thread → Thread) :
    (p.onLanes m f).bad = p.bad := rfl
@[simp] theorem Pack.onLanes_req (p : Pack) (m : LaneMask) (f : Nat → Thread → Thread) :
    (p.onLanes m f).req = p.req := rfl
@[simp] theorem Pack.onLanes_filled (p : Pack) (m : LaneMask) (f : Nat → Thread → Thread) :
    (p.onLanes m f).filled = p.filled := rfl
@[simp] theorem Pack.onLanes_deadline (p : Pack) (m : LaneMask) (f : Nat → Thread → Thread) :
    (p.onLanes m f).deadline = p.deadline := rfl
@[simp] theorem Pack.onLanes_portB (p : Pack) (m : LaneMask) (f : Nat → Thread → Thread) :
    (p.onLanes m f).portB = p.portB := rfl
@[simp] theorem Pack.onLanes_lanesB (p : Pack) (m : LaneMask) (f : Nat → Thread → Thread) :
    (p.onLanes m f).lanesB = p.lanesB := rfl
@[simp] theorem Pack.onLanes_unyield (p : Pack) (m : LaneMask) (f : Nat → Thread → Thread) :
    (p.onLanes m f).unyield = p.unyield := rfl

/-! `Thread.setR`. -/

@[simp] theorem Thread.setR_p (t : Thread) (n : Nat) (x : Word) :
    (t.setR n x).p = t.p := rfl
@[simp] theorem Thread.setR_pc (t : Thread) (n : Nat) (x : Word) :
    (t.setR n x).pc = t.pc := rfl
@[simp] theorem Thread.setR_meet (t : Thread) (n : Nat) (x : Word) :
    (t.setR n x).meet = t.meet := rfl
@[simp] theorem Thread.setR_jmask (t : Thread) (n : Nat) (x : Word) :
    (t.setR n x).jmask = t.jmask := rfl
@[simp] theorem Thread.setR_srseq (t : Thread) (n : Nat) (x : Word) :
    (t.setR n x).srseq = t.srseq := rfl
@[simp] theorem Thread.setR_item (t : Thread) (n : Nat) (x : Word) :
    (t.setR n x).item = t.item := rfl
@[simp] theorem Thread.setR_exited (t : Thread) (n : Nat) (x : Word) :
    (t.setR n x).exited = t.exited := rfl
@[simp] theorem Thread.setR_miss (t : Thread) (n : Nat) (x : Word) :
    (t.setR n x).miss = t.miss := rfl
@[simp] theorem Thread.setR_yield (t : Thread) (n : Nat) (x : Word) :
    (t.setR n x).yield = t.yield := rfl
@[simp] theorem Thread.setR_claims (t : Thread) (n : Nat) (x : Word) :
    (t.setR n x).claims = t.claims := rfl
@[simp] theorem Thread.setR_admitted (t : Thread) (n : Nat) (x : Word) :
    (t.setR n x).admitted = t.admitted := rfl

/-! `Thread.setR64`. -/

@[simp] theorem Thread.setR64_p (t : Thread) (n : Nat) (x : DWord) :
    (t.setR64 n x).p = t.p := rfl
@[simp] theorem Thread.setR64_pc (t : Thread) (n : Nat) (x : DWord) :
    (t.setR64 n x).pc = t.pc := rfl
@[simp] theorem Thread.setR64_meet (t : Thread) (n : Nat) (x : DWord) :
    (t.setR64 n x).meet = t.meet := rfl
@[simp] theorem Thread.setR64_jmask (t : Thread) (n : Nat) (x : DWord) :
    (t.setR64 n x).jmask = t.jmask := rfl
@[simp] theorem Thread.setR64_srseq (t : Thread) (n : Nat) (x : DWord) :
    (t.setR64 n x).srseq = t.srseq := rfl
@[simp] theorem Thread.setR64_item (t : Thread) (n : Nat) (x : DWord) :
    (t.setR64 n x).item = t.item := rfl
@[simp] theorem Thread.setR64_exited (t : Thread) (n : Nat) (x : DWord) :
    (t.setR64 n x).exited = t.exited := rfl
@[simp] theorem Thread.setR64_miss (t : Thread) (n : Nat) (x : DWord) :
    (t.setR64 n x).miss = t.miss := rfl
@[simp] theorem Thread.setR64_yield (t : Thread) (n : Nat) (x : DWord) :
    (t.setR64 n x).yield = t.yield := rfl
@[simp] theorem Thread.setR64_claims (t : Thread) (n : Nat) (x : DWord) :
    (t.setR64 n x).claims = t.claims := rfl
@[simp] theorem Thread.setR64_admitted (t : Thread) (n : Nat) (x : DWord) :
    (t.setR64 n x).admitted = t.admitted := rfl

/-! `Thread.setPred`. -/

@[simp] theorem Thread.setPred_v (t : Thread) (n : BitVec 3) (b : Bool) :
    (t.setPred n b).v = t.v := rfl
@[simp] theorem Thread.setPred_pc (t : Thread) (n : BitVec 3) (b : Bool) :
    (t.setPred n b).pc = t.pc := rfl
@[simp] theorem Thread.setPred_meet (t : Thread) (n : BitVec 3) (b : Bool) :
    (t.setPred n b).meet = t.meet := rfl
@[simp] theorem Thread.setPred_jmask (t : Thread) (n : BitVec 3) (b : Bool) :
    (t.setPred n b).jmask = t.jmask := rfl
@[simp] theorem Thread.setPred_srseq (t : Thread) (n : BitVec 3) (b : Bool) :
    (t.setPred n b).srseq = t.srseq := rfl
@[simp] theorem Thread.setPred_item (t : Thread) (n : BitVec 3) (b : Bool) :
    (t.setPred n b).item = t.item := rfl
@[simp] theorem Thread.setPred_exited (t : Thread) (n : BitVec 3) (b : Bool) :
    (t.setPred n b).exited = t.exited := rfl
@[simp] theorem Thread.setPred_miss (t : Thread) (n : BitVec 3) (b : Bool) :
    (t.setPred n b).miss = t.miss := rfl
@[simp] theorem Thread.setPred_yield (t : Thread) (n : BitVec 3) (b : Bool) :
    (t.setPred n b).yield = t.yield := rfl
@[simp] theorem Thread.setPred_claims (t : Thread) (n : BitVec 3) (b : Bool) :
    (t.setPred n b).claims = t.claims := rfl
@[simp] theorem Thread.setPred_admitted (t : Thread) (n : BitVec 3) (b : Bool) :
    (t.setPred n b).admitted = t.admitted := rfl

/-! `Thread.advance`. -/

@[simp] theorem Thread.advance_v (t : Thread) (n : Nat) :
    (t.advance n).v = t.v := rfl
@[simp] theorem Thread.advance_p (t : Thread) (n : Nat) :
    (t.advance n).p = t.p := rfl
@[simp] theorem Thread.advance_meet (t : Thread) (n : Nat) :
    (t.advance n).meet = t.meet := rfl
@[simp] theorem Thread.advance_jmask (t : Thread) (n : Nat) :
    (t.advance n).jmask = t.jmask := rfl
@[simp] theorem Thread.advance_srseq (t : Thread) (n : Nat) :
    (t.advance n).srseq = t.srseq := rfl
@[simp] theorem Thread.advance_item (t : Thread) (n : Nat) :
    (t.advance n).item = t.item := rfl
@[simp] theorem Thread.advance_exited (t : Thread) (n : Nat) :
    (t.advance n).exited = t.exited := rfl
@[simp] theorem Thread.advance_miss (t : Thread) (n : Nat) :
    (t.advance n).miss = t.miss := rfl
@[simp] theorem Thread.advance_yield (t : Thread) (n : Nat) :
    (t.advance n).yield = t.yield := rfl
@[simp] theorem Thread.advance_claims (t : Thread) (n : Nat) :
    (t.advance n).claims = t.claims := rfl
@[simp] theorem Thread.advance_admitted (t : Thread) (n : Nat) :
    (t.advance n).admitted = t.admitted := rfl

/-! `Thread.clearMeet`. -/

@[simp] theorem Thread.clearMeet_v (t : Thread) :
    (t.clearMeet).v = t.v := rfl
@[simp] theorem Thread.clearMeet_p (t : Thread) :
    (t.clearMeet).p = t.p := rfl
@[simp] theorem Thread.clearMeet_pc (t : Thread) :
    (t.clearMeet).pc = t.pc := rfl
@[simp] theorem Thread.clearMeet_jmask (t : Thread) :
    (t.clearMeet).jmask = t.jmask := rfl
@[simp] theorem Thread.clearMeet_srseq (t : Thread) :
    (t.clearMeet).srseq = t.srseq := rfl
@[simp] theorem Thread.clearMeet_item (t : Thread) :
    (t.clearMeet).item = t.item := rfl
@[simp] theorem Thread.clearMeet_exited (t : Thread) :
    (t.clearMeet).exited = t.exited := rfl
@[simp] theorem Thread.clearMeet_miss (t : Thread) :
    (t.clearMeet).miss = t.miss := rfl
@[simp] theorem Thread.clearMeet_yield (t : Thread) :
    (t.clearMeet).yield = t.yield := rfl
@[simp] theorem Thread.clearMeet_claims (t : Thread) :
    (t.clearMeet).claims = t.claims := rfl
@[simp] theorem Thread.clearMeet_admitted (t : Thread) :
    (t.clearMeet).admitted = t.admitted := rfl

end Sys2Proof.Machine
end

