-- ==== Sys2Proof/Laws/Lanes.lean ====
section
/-! SUPPORT. Laws of registers, of the threads of a pack, and of lane masks over them. -/
namespace Sys2Proof.Machine

/-! Registers. -/

/-- One v register written (R31). -/
@[simp] theorem Thread.r_setR (t : Thread) (n : Nat) (x : Word) (r : Nat) :
    (t.setR n x).r r = if n = r then x else t.r r := tabGet_tabSet _ _ _ _ _

/-- A pair written: the low word in the even register (R56). -/
theorem Thread.r_setR64 (t : Thread) (n : Nat) (x : DWord) (r : Nat) :
    (t.setR64 n x).r r =
      if n + 1 = r then x.extractLsb' 32 32 else if n = r then x.extractLsb' 0 32 else t.r r := by
  simp [Thread.setR64]

theorem Thread.r_of_v {a b : Thread} (h : a.v = b.v) (r : Nat) : a.r r = b.r r := by simp [Thread.r, h]

@[simp] theorem Thread.r_advance (t : Thread) (n r : Nat) : (t.advance n).r r = t.r r := rfl
@[simp] theorem Thread.r_clearMeet (t : Thread) (r : Nat) : t.clearMeet.r r = t.r r := rfl
@[simp] theorem Thread.r_setPred (t : Thread) (p : BitVec 3) (b : Bool) (r : Nat) : (t.setPred p b).r r = t.r r := rfl

/-- One predicate written. -/
theorem Thread.p_setPred (t : Thread) (n : BitVec 3) (b : Bool) (k : Nat) (hn : n.toNat < 7) :
    (t.setPred n b).p.getLsbD k = if n.toNat = k then b else t.p.getLsbD k := by
  unfold Thread.setPred
  by_cases hk : k < 7
  · by_cases hnk : n.toNat = k
    · subst hnk; cases b <;> simp [hk]
    · have h1 : (1#7).getLsbD (k - n.toNat) = decide (k - n.toNat = 0) := by
        rw [BitVec.getLsbD_one]; simp
      cases b
      · simp only [Bool.false_eq_true, if_false, BitVec.getLsbD_and, BitVec.getLsbD_not, BitVec.getLsbD_shiftLeft, hk, h1,
          decide_true, Bool.true_and, if_neg hnk]
        by_cases h : k < n.toNat
        · simp [h]
        · have : k - n.toNat ≠ 0 := by omega
          simp [this]
      · simp only [if_true, BitVec.getLsbD_or, BitVec.getLsbD_shiftLeft, hk, h1, decide_true, Bool.true_and, if_neg hnk]
        by_cases h : k < n.toNat
        · simp [h]
        · have : k - n.toNat ≠ 0 := by omega
          simp [this]
  · rw [BitVec.getLsbD_of_ge _ _ (by omega), if_neg (by omega), BitVec.getLsbD_of_ge _ _ (by omega)]

/-- One s register written (R38). -/
@[simp] theorem Pack.sreg_setS (p : Pack) (n : Nat) (x : Word) (r : Nat) :
    (p.setS n x).sreg r = if n = r then x else p.sreg r := tabGet_tabSet _ _ _ _ _

theorem Pack.sreg_setS64 (p : Pack) (n : Nat) (x : DWord) (r : Nat) :
    (p.setS64 n x).sreg r =
      if n + 1 = r then x.extractLsb' 32 32 else if n = r then x.extractLsb' 0 32 else p.sreg r := by
  simp [Pack.setS64]

/-! Threads of a pack. -/

@[simp] theorem mapLanes_length (f : Nat → Thread → Thread) (m : LaneMask) :
    ∀ (ts : List Thread) (k : Nat), (mapLanes f m k ts).length = ts.length
  | [], _ => rfl
  | t :: ts, k => by simp [mapLanes, mapLanes_length f m ts]

theorem mapLanes_getD (f : Nat → Thread → Thread) (m : LaneMask) (d : Thread) :
    ∀ (ts : List Thread) (k l : Nat), l < ts.length →
      (mapLanes f m k ts).getD l d = if hasLane m (k + l) then f (k + l) (ts.getD l d) else ts.getD l d
  | [], _, _, h => absurd h (by simp)
  | t :: ts, k, 0, _ => by simp [mapLanes]
  | t :: ts, k, l + 1, h => by
    have := mapLanes_getD f m d ts (k + 1) l (by simpa using h)
    simp only [mapLanes, List.getD_cons_succ, this, show k + 1 + l = k + (l + 1) by omega]

@[simp] theorem Pack.onLanes_threads_length (p : Pack) (m : LaneMask) (f : Nat → Thread → Thread) :
    (p.onLanes m f).threads.length = p.threads.length := mapLanes_length _ _ _ _

/-- A thread of the mask is changed, every other thread is as before. -/
theorem Pack.thread_onLanes (p : Pack) (m : LaneMask) (f : Nat → Thread → Thread) (l : Nat) (h : l < p.threads.length) :
    (p.onLanes m f).thread l = if hasLane m l then f l (p.thread l) else p.thread l := by
  have := mapLanes_getD f m { exited := true } p.threads 0 l h
  simpa [Pack.thread, Pack.onLanes] using this

theorem Pack.thread_out (p : Pack) (l : Nat) (h : p.threads.length ≤ l) : p.thread l = { exited := true } := by
  unfold Pack.thread
  rw [List.getD_eq_getElem?_getD, List.getElem?_eq_none h]; rfl

theorem State.thread_onLanes (s : State) (m : LaneMask) (f : Nat → Thread → Thread) (l : Nat) (h : l < s.pk.threads.length) :
    (s.onLanes m f).pk.thread l = if hasLane m l then f l (s.pk.thread l) else s.pk.thread l :=
  Pack.thread_onLanes _ _ _ _ h

/-- Issuing threads whose guard holds (R209). -/
@[simp] theorem State.hasLane_active (s : State) (g : Thread → Bool) (l : Nat) :
    hasLane (s.active g) l = (hasLane s.act l && g (s.pk.thread l)) := by
  simp only [State.active, hasLane_maskOf]
  by_cases h : hasLane s.act l = true
  · simp [h, hasLane_lt h]
  · simp [Bool.not_eq_true] at h; simp [h]

/-- A live lane is one of 0-31 whose thread has not exited. -/
@[simp] theorem Pack.hasLane_live (p : Pack) (l : Nat) : hasLane p.live l = (decide (l < 32) && !(p.thread l).exited) := by
  simp [Pack.live]

end Sys2Proof.Machine
end

