-- ==== Sys2Proof/Laws/Issue.lean ====
section
/-! SUPPORT. What issuing an instruction does around its body: the checks, and afterwards windows and meeting holds. -/
namespace Sys2Proof.Machine

/-! Meeting holds change V of MEET and the meeting records, nothing else. -/

/-- Pack `q` is `p` but for the scoreboard, and each of its threads is the same but that a meeting may have released it. -/
structure HoldsOnly (p q : Pack) : Prop where
  rest : OnlyThreads p q
  thread : ∀ l, SameButMeet (p.thread l) (q.thread l)

theorem SameButMeet.refl (a : Thread) : SameButMeet a a := .inl rfl

theorem Thread.clearMeet_twice (a : Thread) : a.clearMeet.clearMeet = a.clearMeet := by
  simp only [Thread.clearMeet]
  congr 1
  rw [BitVec.and_assoc, BitVec.and_self]

theorem SameButMeet.trans {a b c : Thread} (h : SameButMeet a b) (k : SameButMeet b c) : SameButMeet a c := by
  rcases h with rfl | rfl <;> rcases k with rfl | rfl
  · exact .inl rfl
  · exact .inr rfl
  · exact .inr rfl
  · exact .inr (Thread.clearMeet_twice _)

theorem OnlyThreads.refl (p : Pack) : OnlyThreads p p := ⟨rfl, rfl⟩

theorem OnlyThreads.trans {p q r : Pack} (h : OnlyThreads p q) (k : OnlyThreads q r) : OnlyThreads p r := by
  obtain ⟨h1, h2⟩ := h
  obtain ⟨k1, k2⟩ := k
  refine ⟨?_, k2.trans h2⟩
  rw [h1] at k1
  simpa using k1

theorem HoldsOnly.refl (p : Pack) : HoldsOnly p p := ⟨.refl p, fun _ => .refl _⟩

theorem HoldsOnly.trans {p q r : Pack} (h : HoldsOnly p q) (k : HoldsOnly q r) : HoldsOnly p r :=
  ⟨h.rest.trans k.rest, fun l => (h.thread l).trans (k.thread l)⟩

/-- A change of the scoreboard alone. -/
theorem HoldsOnly.of_eq {p q : Pack} (h : q = { p with windows := q.windows, pend := q.pend, meets := q.meets }) : HoldsOnly p q := by
  have ht : q.threads = p.threads := by rw [h]
  refine ⟨⟨?_, by rw [ht]⟩, fun l => .inl ?_⟩
  · rw [h]
  · simp only [Pack.thread, ht]

theorem Pack.settleAt_holdsOnly (now : Nat) (bound : Option Nat) (p : Pack) (a : BitVec 52) :
    HoldsOnly p (p.settleAt now bound a) := by
  unfold Pack.settleAt
  refine ⟨⟨rfl, by simp⟩, fun l => ?_⟩
  by_cases hl : l < p.threads.length
  · have h := fun m => Pack.thread_onLanes p m (fun _ t => t.clearMeet) l hl
    simp only [Pack.thread, Pack.onLanes] at h ⊢
    rw [h]
    split
    · exact .inr rfl
    · exact .inl rfl
  · left
    rw [Pack.thread_out _ _ (by simpa using hl), Pack.thread_out _ _ (by simpa using hl)]

theorem Pack.settleMeets_holdsOnly (now : Nat) (bound : Option Nat) (p : Pack) : HoldsOnly p (p.settleMeets now bound) := by
  have fold : ∀ (as : List (BitVec 52)) (q : Pack), HoldsOnly q (as.foldl (fun p a => p.settleAt now bound a) q) := by
    intro as
    induction as with
    | nil => intro q; exact .refl q
    | cons a as ih => intro q; exact (q.settleAt_holdsOnly now bound a).trans (ih _)
  exact (fold _ _).trans (.of_eq rfl)

theorem Pack.tickWindows_holdsOnly (p : Pack) (old : List Window) (act : LaneMask) : HoldsOnly p (p.tickWindows old act) := by
  unfold Pack.tickWindows
  split
  · exact .refl p
  · exact .of_eq rfl

/-- After an instruction only the scoreboard and V of MEET may differ. -/
theorem State.settle_holdsOnly (s t : State) : HoldsOnly t.pk (s.settle t).pk := by
  unfold State.settle
  split
  · exact .refl _
  · dsimp only
    split
    · exact (Pack.tickWindows_holdsOnly _ _ _).trans (Pack.settleMeets_holdsOnly _ _ _)
    · exact Pack.settleMeets_holdsOnly _ _ _

/-- Outside the issuing pack an instruction leaves what its body leaves. -/
theorem State.settle_outside (s t : State) : s.settle t = { t with pk := (s.settle t).pk } := by
  unfold State.settle
  split <;> rfl

@[simp] theorem State.settle_site (s t : State) : (s.settle t).site = t.site := by rw [State.settle_outside]
@[simp] theorem State.settle_mem (s t : State) : (s.settle t).mem = t.mem := by rw [State.settle_outside]
@[simp] theorem State.settle_cores (s t : State) : (s.settle t).cores = t.cores := by rw [State.settle_outside]
@[simp] theorem State.settle_groups (s t : State) : (s.settle t).groups = t.groups := by rw [State.settle_outside]
@[simp] theorem State.settle_parts (s t : State) : (s.settle t).parts = t.parts := by rw [State.settle_outside]
@[simp] theorem State.settle_home (s t : State) : (s.settle t).home = t.home := by rw [State.settle_outside]
@[simp] theorem State.settle_mp (s t : State) : (s.settle t).mp = t.mp := by rw [State.settle_outside]
@[simp] theorem State.settle_sched (s t : State) : (s.settle t).sched = t.sched := by rw [State.settle_outside]
@[simp] theorem State.settle_cmds (s t : State) : (s.settle t).cmds = t.cmds := by rw [State.settle_outside]
@[simp] theorem State.settle_env (s t : State) : (s.settle t).env = t.env := by rw [State.settle_outside]
@[simp] theorem State.settle_act (s t : State) : (s.settle t).act = t.act := by rw [State.settle_outside]
@[simp] theorem State.settle_ipc (s t : State) : (s.settle t).ipc = t.ipc := by rw [State.settle_outside]
@[simp] theorem State.settle_time (s t : State) : (s.settle t).time = t.time := by rw [State.settle_outside]
@[simp] theorem State.settle_pages (s t : State) : (s.settle t).pages = t.pages := by rw [State.settle_outside]

/-! Fields of the issuing pack that an instruction leaves as its body leaves them. -/

theorem HoldsOnly.eq {p q : Pack} (h : HoldsOnly p q) :
    q = { p with threads := q.threads, windows := q.windows, pend := q.pend, meets := q.meets } := h.rest.1

@[simp] theorem State.settle_s (s t : State) : (s.settle t).pk.s = t.pk.s := by rw [(s.settle_holdsOnly t).eq]
@[simp] theorem State.settle_q (s t : State) : (s.settle t).pk.q = t.pk.q := by rw [(s.settle_holdsOnly t).eq]
@[simp] theorem State.settle_mode (s t : State) : (s.settle t).pk.mode = t.pk.mode := by rw [(s.settle_holdsOnly t).eq]
@[simp] theorem State.settle_fstat (s t : State) : (s.settle t).pk.fstat = t.pk.fstat := by rw [(s.settle_holdsOnly t).eq]
@[simp] theorem State.settle_seed (s t : State) : (s.settle t).pk.seed = t.pk.seed := by rw [(s.settle_holdsOnly t).eq]
@[simp] theorem State.settle_priv (s t : State) : (s.settle t).pk.priv = t.pk.priv := by rw [(s.settle_holdsOnly t).eq]
@[simp] theorem State.settle_sb (s t : State) : (s.settle t).pk.sb = t.pk.sb := by rw [(s.settle_holdsOnly t).eq]
@[simp] theorem State.settle_wait (s t : State) : (s.settle t).pk.wait = t.pk.wait := by rw [(s.settle_holdsOnly t).eq]
@[simp] theorem State.settle_replay (s t : State) : (s.settle t).pk.replay = t.pk.replay := by rw [(s.settle_holdsOnly t).eq]
@[simp] theorem State.settle_full (s t : State) : (s.settle t).pk.full = t.pk.full := by rw [(s.settle_holdsOnly t).eq]
@[simp] theorem State.settle_trapbase (s t : State) : (s.settle t).pk.trapbase = t.pk.trapbase := by
  rw [(s.settle_holdsOnly t).eq]
@[simp] theorem State.settle_jointime (s t : State) : (s.settle t).pk.jointime = t.pk.jointime := by
  rw [(s.settle_holdsOnly t).eq]

@[simp] theorem State.settle_sreg (s t : State) (n : Nat) : (s.settle t).pk.sreg n = t.pk.sreg n := by simp [Pack.sreg]

theorem State.settle_thread (s t : State) (l : Nat) : SameButMeet (t.pk.thread l) ((s.settle t).pk.thread l) :=
  (s.settle_holdsOnly t).thread l

theorem State.settle_threads_length (s t : State) : (s.settle t).pk.threads.length = t.pk.threads.length :=
  (s.settle_holdsOnly t).rest.2

/-! Fields of a thread that a meeting leaves alone. -/

theorem SameButMeet.pc {a b : Thread} (h : SameButMeet a b) : b.pc = a.pc := by rcases h with rfl | rfl <;> rfl
theorem SameButMeet.v {a b : Thread} (h : SameButMeet a b) : b.v = a.v := by rcases h with rfl | rfl <;> rfl
theorem SameButMeet.p {a b : Thread} (h : SameButMeet a b) : b.p = a.p := by rcases h with rfl | rfl <;> rfl
theorem SameButMeet.exited {a b : Thread} (h : SameButMeet a b) : b.exited = a.exited := by rcases h with rfl | rfl <;> rfl

/-! Issue. -/

/-- Where no completion code is still to be read first, reading the tokens changes nothing. -/
theorem State.readTokens_none {s : State} (i : Instr) (h : s.pk.tokens = []) : s.readTokens i = s := by
  unfold State.readTokens
  rw [h]
  rfl

/-- Where no register word has an error, reading the register file is running the body. -/
theorem State.readFile_sound {s : State} (i : Instr) (body : State → State) (h : s.pk.soft = []) (h2 : s.pk.bad = []) :
    s.readFile i body = body s := by
  unfold State.readFile
  rw [h, h2]
  rfl

theorem Pack.sound_iff {p : Pack} :
    p.sound = true ↔ p.tokens = [] ∧ p.soft = [] ∧ p.bad = [] ∧ p.windows.all (!·.retires) = true := by
  simp [Pack.sound, and_assoc]

/-- Where no instruction of the function unit is still to complete, naming its registers completes none. -/
theorem State.retireNamed_none {s : State} (i : Instr) (h : s.pk.windows.all (!·.retires) = true) : s.retireNamed i = s := by
  rw [State.retireNamed, if_pos h]

/-- An instruction that passes the checks runs its body (R211). -/
theorem issue_ready {i : Instr} {s : State} (h : Ready i s) (body : State → State) :
    issue i body s = .next (s.settle (body s)) := by
  obtain ⟨h1, h2, h3⟩ := h
  obtain ⟨h3, h4, h5, h6⟩ := Pack.sound_iff.1 h3
  unfold issue
  cases hs : s.site with
  | none => simp [hs] at h1
  | some c => simp only [h2, State.retireNamed_none i h6, State.readTokens_none i h3, State.readFile_sound i body h4 h5]

/-- The first read of a completion code empties the L1 before the body runs (R86, R119). -/
theorem issue_token {i : Instr} {s : State} (hs : s.site.isSome = true) (hc : s.check i = .ok) (body : State → State)
    (hw : s.pk.windows.all (!·.retires) = true) (h : (s.readTokens i).pk.soft = []) (h2 : (s.readTokens i).pk.bad = []) :
    issue i body s = .next (s.settle (body (s.readTokens i))) := by
  unfold issue
  cases he : s.site with
  | none => simp [he] at hs
  | some c => simp only [hc, State.retireNamed_none i hw, State.readFile_sound i body h h2]

/-- With a pack in the latch an instruction always answers a next state: its effect, a wait, or a trap. -/
theorem issue_next (i : Instr) (body : State → State) {s : State} (h : s.site.isSome = true) :
    ∃ t, issue i body s = .next t := by
  unfold issue
  cases hs : s.site with
  | none => simp [hs] at h
  | some c =>
    dsimp only
    split <;> exact ⟨_, rfl⟩

/-- A check that fails for every issuing thread is a trap of its class (R211). -/
theorem issue_trap {i : Instr} {s : State} {c : TrapClass} {m : LaneMask} (body : State → State)
    (h : s.site.isSome = true) (hc : s.check i = .trap c m) (hm : s.act &&& ~~~m = 0) :
    issue i body s = .next (s.raise c m (s.checkAddr i c m) 0) := by
  unfold issue
  cases hs : s.site with
  | none => simp [hs] at h
  | some x => simp only [hc, State.raiseSome, hm, if_true]

/-- An event always answers a next state. -/
theorem event_next (f : State → State) (s : State) : event f s = .next (s.aside f) := rfl

/-- Between instructions, with no pack in the latch, an event's next state is its effect. -/
theorem event_idle (f : State → State) {s : State} (h : s.site = none) : event f s = .next (f s) := by
  simp [event, State.aside, h]

end Sys2Proof.Machine
end

