-- ==== Sys2Proof/Laws/Done.lean ====
section
/-! SUPPORT. What the combinators of lane instructions do, in the words of the claims. -/
namespace Sys2Proof.Claims
open Sys2Proof.Machine

/-- The claim about a lane instruction follows from what its body leaves. -/
theorem laneDone_of (s b : State) (n : Nat) (g : Guard) (eff : Nat → Thread → LaneEffect) (fl : Word)
    (f : Nat → Thread → Thread) (ho : OnlyPack s b) (hs : OnlyThreads { s.pk with fstat := s.pk.fstat ||| fl } b.pk)
    (hb : ∀ l, l < s.pk.threads.length → b.pk.thread l = if hasLane s.act l then
      (if (s.pk.thread l).guarded g then f l (s.pk.thread l) else (s.pk.thread l).advance n) else s.pk.thread l)
    (hf : ∀ l t, f l t = (eff l t).leaves n t (f l t))
    (hr : ∀ l t r, t = s.pk.thread l → hasLane s.act l → t.guarded g →
      (f l t).r r = ((eff l t).regs.lookup r).getD (t.r r))
    (hp : ∀ l t k, t = s.pk.thread l → hasLane s.act l → t.guarded g → k < 7 →
      (f l t).p.getLsbD k = ((eff l t).preds.lookup k).getD (t.p.getLsbD k)) :
    LaneDone n g eff fl s (s.settle b) := by
  have hs' := State.settle_holdsOnly s b
  refine ⟨?_, hs.trans hs'.rest, ?_⟩
  · unfold OnlyPack at ho ⊢
    rw [State.settle_outside, ho]
  · intro l hl
    have ht := hs'.thread l
    have hf' := hf l (s.pk.thread l)
    have hr' := fun r => hr l _ r rfl
    have hp' := fun k => hp l _ k rfl
    rw [hb l hl] at ht
    generalize (s.settle b).pk.thread l = c at ht ⊢
    dsimp only
    clear hb hs hs' ho
    have hv := ht.v
    have hpp := ht.p
    generalize s.pk.thread l = u at *
    generalize f l u = w at *
    by_cases h1 : hasLane s.act l = true
    · by_cases h2 : u.guarded g = true
      · simp only [h1, h2, if_true, Bool.and_self] at ht hv hpp ⊢
        refine ⟨?_, fun r => ?_, fun k hk => ?_⟩
        · have : (eff l u).leaves n u c = w := by
            rw [hf']; unfold LaneEffect.leaves; rw [hv, hpp]
          rw [this]; exact ht
        · rw [Thread.r_of_v hv]; exact hr' r h1 h2
        · rw [hpp]; exact hp' k h1 h2 hk
      · simp only [h1, h2, if_true, Bool.and_false, Bool.false_eq_true, if_false] at ht hv hpp ⊢
        refine ⟨ht, fun r => ?_, fun k hk => ?_⟩
        · rw [Thread.r_of_v hv]; rfl
        · rw [hpp]; rfl
    · simp only [h1, Bool.false_and, Bool.false_eq_true, if_false] at ht hv hpp ⊢
      exact ⟨ht, fun r => Thread.r_of_v hv r, fun k hk => by rw [hpp]⟩

/-- A lane instruction without flags that changes v registers, predicates and SRSEQ alone: its claim follows from what it
does to one active thread. -/
theorem laneDone_each (i : Instr) (s : State) (n : Nat) (g : Guard) (eff : Nat → Thread → LaneEffect)
    (f : Nat → Thread → Thread) (h : Ready i s)
    (hf : ∀ l t, (f l t).advance n = (eff l t).leaves n t (f l t))
    (hr : ∀ l t r, t = s.pk.thread l → hasLane s.act l → t.guarded g →
      (f l t).r r = ((eff l t).regs.lookup r).getD (t.r r))
    (hp : ∀ l t k, t = s.pk.thread l → hasLane s.act l → t.guarded g → k < 7 →
      (f l t).p.getLsbD k = ((eff l t).preds.lookup k).getD (t.p.getLsbD k)) :
    ∃ t, issue i (fun s => s.eachLane n (·.guarded g) f) s = .next t ∧ LaneDone n g eff 0 s t := by
  refine ⟨_, issue_ready h _, laneDone_of s _ n g eff 0 (fun l t => (f l t).advance n) rfl ⟨?_, ?_⟩ ?_ hf hr hp⟩
  · simp [State.eachLane, State.onLanes, Pack.onLanes]
  · simp [State.eachLane, State.onLanes]
  · intro l hl
    refine (State.thread_onLanes _ _ _ _ hl).trans ?_
    split
    · split <;> rfl
    · rfl

/-- A lane instruction with flags, in a state in which no active thread raises an exception whose trap is enabled (R42). -/
theorem laneDone_flags (i : Instr) (s : State) (n : Nat) (g : Guard) (eff : Nat → Thread → LaneEffect) (fl : Word)
    (f : State → Nat → Thread → Thread × Word) (h : Ready i s)
    (hx : ∀ l, hasLane (s.active (·.guarded g)) l → (f s l (s.pk.thread l)).2 &&& enabledFlags s.pk.mode = 0)
    (hfl : fl = orWords ((lanesOf (s.active (·.guarded g))).map fun l => (f s l (s.pk.thread l)).2))
    (hf : ∀ l t, (f s l t).1.advance n = (eff l t).leaves n t (f s l t).1)
    (hr : ∀ l t r, t = s.pk.thread l → hasLane s.act l → t.guarded g →
      (f s l t).1.r r = ((eff l t).regs.lookup r).getD (t.r r))
    (hp : ∀ l t k, t = s.pk.thread l → hasLane s.act l → t.guarded g → k < 7 →
      (f s l t).1.p.getLsbD k = ((eff l t).preds.lookup k).getD (t.p.getLsbD k)) :
    ∃ t, issue i (fun s => s.flagLanes n (·.guarded g) (f s)) s = .next t ∧ LaneDone n g eff fl s t := by
  have hbad : (maskOf fun l => hasLane (s.active (·.guarded g)) l &&
      ((f s l (s.pk.thread l)).2 &&& enabledFlags s.pk.mode) != 0) = 0 := by
    apply LaneMask.ext_lanes
    intro l hl
    simp only [hasLane_maskOf]
    by_cases h1 : hasLane (s.active (·.guarded g)) l = true
    · rw [hx l h1]; simp [hasLane]
    · rw [Bool.not_eq_true] at h1; rw [h1]; simp [hasLane]
  have hb : s.flagLanes n (·.guarded g) (f s) =
      { s with pk := { s.pk.onLanes s.act (fun l t => (if t.guarded g then (f s l t).1 else t).advance n) with
        fstat := s.pk.fstat ||| fl } } := by
    unfold State.flagLanes
    simp only [hbad, State.afterFlags, if_true]
    rw [hfl]
    have : ∀ l, hasLane (0 : LaneMask) l = false := by intro l; simp [hasLane]
    simp only [this, State.onLanes]
    rfl
  refine ⟨_, issue_ready h _, ?_⟩
  rw [hb]
  refine laneDone_of s _ n g eff fl (fun l t => (f s l t).1.advance n) rfl ⟨rfl, ?_⟩ ?_ hf hr hp
  · simp
  · intro l hl
    refine (Pack.thread_onLanes _ _ _ _ hl).trans ?_
    split
    · split <;> rfl
    · rfl

/-! Guards and single results. -/

@[simp] theorem guarded_unguarded (t : Thread) : t.guarded unguarded = true := by simp [Thread.guarded, unguarded]

theorem always_eq : always = fun t => t.guarded unguarded := by funext t; simp [always]

/-- A lane instruction that writes one v register. -/
theorem laneDone_put (i : Instr) (s : State) (n : Nat) (g : Guard) (d : VReg) (val f : Nat → Thread → Word) (h : Ready i s)
    (hv : ∀ l t, t = s.pk.thread l → hasLane s.act l → t.guarded g → f l t = val l t) :
    ∃ t, issue i (fun s => s.eachLane n (·.guarded g) fun l t => t.setR d.toNat (f l t)) s = .next t ∧
      LaneDone n g (fun l t => put d (val l t)) 0 s t := by
  apply laneDone_each i s n g (fun l t => put d (val l t)) (fun l t => t.setR d.toNat (f l t)) h
  · intro l t; simp [put, Thread.setR, Thread.advance, LaneEffect.leaves]
  · intro l t r ht hl hg
    simp only [Thread.r_setR, put, hv l t ht hl hg, List.lookup]
    by_cases hr : d.toNat = r
    · subst hr; simp
    · rw [show (r == d.toNat) = false by simpa using fun h => hr h.symm]; simp [hr]
  · intro l t k _ _ _ _; simp [put, Thread.setR]

end Sys2Proof.Claims
end

