-- ==== Sys2Proof/Laws/Forms.lean ====
section
/-! SUPPORT. The two forms of a meaning: an instruction of a pack issues a body, and an event acts on the state between
instructions. -/
namespace Sys2Proof.Machine

/-- A row without an encoding is a host action or a device event: its meaning is one event. -/
theorem exec_event (i : Instr) (h : encode i = []) : ∃ f, ∀ s, exec i s = event f s := by
  cases i
  all_goals first
    | exact ⟨_, fun _ => rfl⟩
    | (exfalso; simp [encode, wordsLA, encLW, encPW, encBarInit] at h; done)
    | (exfalso; simp [encode, wordsLA, encLW, encPW, encBarInit] at h; split at h <;> simp at h)

/-- A row with an encoding is an instruction of a pack: its meaning issues a body that does not look at the state before the
checks. -/
theorem exec_issue (i : Instr) (h : encode i ≠ []) : ∃ body, ∀ s, exec i s = issue i body s := by
  cases i
  all_goals first
    | exact absurd rfl h
    | exact ⟨_, fun _ => rfl⟩

end Sys2Proof.Machine
end

