-- ==== Sys2Proof/Laws/Memory.lean ====
section
/-! SUPPORT. What the operations over memory and the vaults do to their bytes, and that each keeps the canonical form. -/
namespace Sys2Proof.Machine

/-! Memory through the elision maps (R93). -/

/-- The elision map of a frame, empty where none is listed. -/
def State.elided (s : State) (f : Nat) : Elision := tabGet {} s.home.elision f

theorem State.blockCode_eq (s : State) (a : Nat) : s.blockCode a = tabGet 0 (s.elided (a / 65536)).codes (a % 65536 / 128) := by
  unfold State.blockCode State.elided tabGet
  cases tabFind s.home.elision (a / 65536) <;> rfl

theorem State.memByte_eq (s : State) (a : Nat) :
    s.memByte a = if s.blockCode a = 1 then 0
      else if s.blockCode a = 2 then
        BitVec.ofNat 8 ((tabGet 0 (s.elided (a / 65536)).consts (a % 65536 / 4096)).toNat / 256 ^ (a % 4))
      else byteAt s.mem a := by
  rw [State.blockCode_eq]
  unfold State.memByte State.elided tabGet
  cases tabFind s.home.elision (a / 65536) <;> simp

/-- Memory is the same where the codes, the constants and the bytes are. -/
theorem State.memByte_congr {s t : State} {a : Nat} (hc : t.blockCode a = s.blockCode a)
    (hk : s.blockCode a = 2 → tabGet 0 (t.elided (a / 65536)).consts (a % 65536 / 4096) =
      tabGet 0 (s.elided (a / 65536)).consts (a % 65536 / 4096))
    (hm : byteAt t.mem a = byteAt s.mem a) : t.memByte a = s.memByte a := by
  rw [State.memByte_eq, State.memByte_eq s, hc, hm]
  by_cases h : s.blockCode a = 2
  · rw [hk h]
  · rw [if_neg h, if_neg h]

theorem State.memBytes_getD (s : State) (n : Nat) : ∀ a k, k < n → (s.memBytes a n).getD k 0 = s.memByte (a + k) := by
  induction n with
  | zero => intro a k h; omega
  | succ n ih =>
    intro a k h
    cases k with
    | zero => rfl
    | succ k => rw [State.memBytes, List.getD_cons_succ, ih _ _ (by omega), show a + 1 + k = a + (k + 1) by omega]

@[simp] theorem State.memBytes_length (s : State) (n : Nat) : ∀ a, (s.memBytes a n).length = n := by
  induction n with
  | zero => intro a; rfl
  | succ n ih => intro a; simp [State.memBytes, ih]

theorem sameBlock {x a : Nat} : x / 128 = a / 128 ↔ x / 65536 = a / 65536 ∧ x % 65536 / 128 = a % 65536 / 128 := by omega

/-- A block that is brought into memory reads as before, and is elided no longer. -/
theorem State.unelide_spec (s : State) (a : Nat) (h : s.blockCode a ≠ 3) (x : Nat) :
    (s.unelide a).memByte x = s.memByte x ∧ (s.unelide a).blockCode x = if x / 128 = a / 128 then 0 else s.blockCode x := by
  unfold State.unelide
  simp only
  split
  · rename_i he
    refine ⟨rfl, ?_⟩
    split
    · rename_i hx
      rw [State.blockCode, (sameBlock.1 hx).1, he]
    · rfl
  · rename_i e he
    have hel : s.elided (a / 65536) = e := by simp [State.elided, tabGet, he]
    split
    · rename_i h0
      refine ⟨rfl, ?_⟩
      split
      · rename_i hx
        rw [State.blockCode_eq, (sameBlock.1 hx).1, (sameBlock.1 hx).2, hel, h0]
      · rfl
    · rename_i h0
      have h3 : tabGet 0 e.codes (a % 65536 / 128) ≠ 3 := by rw [State.blockCode_eq, hel] at h; exact h
      rw [if_neg h3]
      set t : State := { s with
        mem := setBytes s.mem (a / 65536 * 65536 + a % 65536 / 128 * 128) (s.memBytes (a / 65536 * 65536 + a % 65536 / 128 * 128) 128)
        home := { s.home with
          elision := tabPut s.home.elision (a / 65536) { e with codes := tabDel e.codes (a % 65536 / 128) }
          bad := if tabGet 0 e.codes (a % 65536 / 128) = 3 then s.home.bad
            else s.home.bad.filter fun u => u / 4 ≠ (a / 65536 * 65536 + a % 65536 / 128 * 128) / 128 } } with ht
      have hE : ∀ f, t.elided f = if f = a / 65536 then { e with codes := tabDel e.codes (a % 65536 / 128) } else s.elided f := by
        intro f
        simp only [State.elided, tabGet, ht, tabFind_tabPut]
        by_cases hf : a / 65536 = f
        · simp [hf]
        · simp [hf, Ne.symm hf]
      have hC : ∀ x, t.blockCode x = if x / 128 = a / 128 then 0 else s.blockCode x := by
        intro x
        rw [State.blockCode_eq, State.blockCode_eq s, hE]
        by_cases hf : x / 65536 = a / 65536
        · rw [if_pos hf, hf, hel]
          simp only [tabGet, tabFind_tabDel]
          by_cases hb : x / 128 = a / 128
          · rw [if_pos (sameBlock.1 hb).2.symm, if_pos hb]; rfl
          · rw [if_neg (fun hb' => hb (sameBlock.2 ⟨hf, hb'.symm⟩)), if_neg hb]
        · rw [if_neg hf, if_neg (fun hb => hf (sameBlock.1 hb).1)]
      refine ⟨?_, hC x⟩
      have hM : byteAt t.mem x = if x / 128 = a / 128 then s.memByte x else byteAt s.mem x := by
        rw [ht]
        simp only [byteAt_setBytes, State.memBytes_length]
        by_cases hb : x / 128 = a / 128
        · rw [if_pos (by omega), if_pos hb, State.memBytes_getD _ _ _ _ (by omega)]
          congr 1
          omega
        · rw [if_neg (by omega), if_neg hb]
      by_cases hb : x / 128 = a / 128
      · rw [State.memByte_eq t, hC, if_pos hb, hM, if_pos hb]
        simp
      · refine State.memByte_congr (by rw [hC, if_neg hb]) (fun _ => ?_) (by rw [hM, if_neg hb])
        rw [hE]
        by_cases hf : x / 65536 = a / 65536
        · rw [if_pos hf, hf, hel]
        · rw [if_neg hf]

/-- The byte of a word at an offset. -/
theorem byte_of_word {w : Word} (a b c d : Byte) (h : BitVec.ofNat 32 (natOfBytes [a, b, c, d]) = w) (k : Nat) (hk : k < 4) :
    BitVec.ofNat 8 (w.toNat / 256 ^ k) = [a, b, c, d].getD k 0 := by
  subst h
  have ha := a.isLt
  have hb := b.isLt
  have hc := c.isLt
  have hd := d.isLt
  apply BitVec.eq_of_toNat_eq
  simp only [natOfBytes, BitVec.toNat_ofNat]
  interval_cases k <;> simp <;> omega

/-- In bytes of which all words are `w`, a byte is the one of `w` at its offset. -/
theorem uniform_byte {w : Word} : ∀ (n : Nat) (bs : List Byte), bs.length = 4 * n → (∀ x, x ∈ wordsOfBytes bs → x = w) →
    ∀ k, k < bs.length → bs.getD k 0 = BitVec.ofNat 8 (w.toNat / 256 ^ (k % 4)) := by
  intro n
  induction n with
  | zero => intro bs hl _ k hk; omega
  | succ n ih =>
    intro bs hl h k hk
    rcases bs with _ | ⟨a, _ | ⟨b, _ | ⟨c, _ | ⟨d, r⟩⟩⟩⟩
    all_goals try (simp only [List.length_nil, List.length_cons] at hl; omega)
    rw [wordsOfBytes] at h
    by_cases h4 : k < 4
    · rw [Nat.mod_eq_of_lt h4, byte_of_word a b c d (h _ (.head _)) k h4]
      interval_cases k <;> rfl
    · obtain ⟨j, rfl⟩ : ∃ j, k = j + 4 := ⟨k - 4, by omega⟩
      simp only [List.length_cons] at hl hk
      have := ih r (by omega) (fun x hx => h x (.tail _ hx)) j (by omega)
      rw [show (j + 4) % 4 = j % 4 by omega, ← this]
      rfl

theorem uniform_eq {ws : List Word} {w : Word} (h : uniform ws = some w) : ∀ x, x ∈ ws → x = w := by
  cases ws with
  | nil => cases h
  | cons v r =>
    simp only [uniform] at h
    split at h
    · rename_i ha
      obtain rfl := Option.some.inj h
      intro x hx
      rcases List.mem_cons.1 hx with rfl | hx
      · rfl
      · have := List.all_eq_true.1 ha x hx
        simpa using this
    · cases h

theorem tabFind_mem {α : Type} {m : Tab α} {k : Nat} {x : α} (h : tabFind m k = some x) : (k, x) ∈ m := by
  induction m with
  | nil => cases h
  | cons e m ih =>
    obtain ⟨j, y⟩ := e
    unfold tabFind at h
    split at h
    · rename_i hj
      cases h; subst hj
      exact .head _
    · exact .tail _ (ih h)

/-- A block of 128 bytes written where ELIDE is set reads as written, and no other byte changes. -/
theorem State.elideBlock_memByte (s : State) (a : Nat) (bs : List Byte) (ha : a % 128 = 0) (hl : bs.length = 128) (x : Nat) :
    (s.elideBlock a bs).memByte x = if x / 128 = a / 128 then bs.getD (x - a) 0 else s.memByte x := by
  have hM : ∀ m : List Host.Cell, byteAt (setBytes m a bs) x = if x / 128 = a / 128 then bs.getD (x - a) 0 else byteAt m x := by
    intro m
    rw [byteAt_setBytes, hl]
    by_cases hb : x / 128 = a / 128
    · rw [if_pos (by omega), if_pos hb]
    · rw [if_neg (by omega), if_neg hb]
  -- What a new map of the frame makes of the codes and constants.
  have hE : ∀ (e : Elision) (m : List Host.Cell) (f : Nat),
      State.elided { s with home := { s.home with elision := tabPut s.home.elision (a / 65536) e }, mem := m } f =
        if f = a / 65536 then e else s.elided f := by
    intro e m f
    simp only [State.elided, tabGet, tabFind_tabPut]
    by_cases hf : a / 65536 = f
    · simp [hf]
    · simp [hf, Ne.symm hf]
  -- Another block keeps its code; its constant matters only when its code is 2.
  have other : ∀ (e : Elision) (m : List Host.Cell), ¬x / 128 = a / 128 → byteAt m x = byteAt s.mem x →
      (∀ b, b ≠ a % 65536 / 128 → tabGet 0 e.codes b = tabGet 0 (s.elided (a / 65536)).codes b) →
      (∀ b, b ≠ a % 65536 / 128 → tabGet 0 (s.elided (a / 65536)).codes b = 2 →
        tabGet 0 e.consts (b * 128 / 4096) = tabGet 0 (s.elided (a / 65536)).consts (b * 128 / 4096)) →
      State.memByte { s with home := { s.home with elision := tabPut s.home.elision (a / 65536) e }, mem := m } x = s.memByte x := by
    intro e m hb hm hc hk
    by_cases hf : x / 65536 = a / 65536
    · have hn : x % 65536 / 128 ≠ a % 65536 / 128 := fun h => hb (sameBlock.2 ⟨hf, h⟩)
      refine State.memByte_congr ?_ (fun h2 => ?_) hm
      · rw [State.blockCode_eq, State.blockCode_eq s, hE, if_pos hf, hc _ hn, hf]
      · rw [State.blockCode_eq, hf] at h2
        have := hk _ hn h2
        rw [show x % 65536 / 128 * 128 / 4096 = x % 65536 / 4096 by omega] at this
        rw [hE, if_pos hf, hf, this]
    · refine State.memByte_congr ?_ (fun _ => ?_) hm
      · rw [State.blockCode_eq, State.blockCode_eq s, hE, if_neg hf]
      · rw [hE, if_neg hf]
  -- The block itself reads by its new code.
  have own : ∀ (e : Elision) (m : List Host.Cell), x / 128 = a / 128 →
      State.memByte { s with home := { s.home with elision := tabPut s.home.elision (a / 65536) e }, mem := m } x =
        if tabGet 0 e.codes (a % 65536 / 128) = 1 then 0
        else if tabGet 0 e.codes (a % 65536 / 128) = 2 then
          BitVec.ofNat 8 ((tabGet 0 e.consts (a % 65536 / 4096)).toNat / 256 ^ (x % 4))
        else byteAt m x := by
    intro e m hb
    have hf := (sameBlock.1 hb).1
    rw [State.memByte_eq, State.blockCode_eq, hE, if_pos hf, (sameBlock.1 hb).2, show x % 65536 / 4096 = a % 65536 / 4096 by omega]
  have stored : State.memByte { s with
      home := { s.home with
        elision := tabPut s.home.elision (a / 65536)
          ⟨tabDel (s.elided (a / 65536)).codes (a % 65536 / 128), (s.elided (a / 65536)).consts⟩ }
      mem := setBytes s.mem a bs } x = if x / 128 = a / 128 then bs.getD (x - a) 0 else s.memByte x := by
    by_cases hb : x / 128 = a / 128
    · rw [own _ _ hb, if_pos hb, hM, if_pos hb]
      simp [tabGet, tabFind_tabDel]
    · rw [if_neg hb]
      refine other _ _ hb (by rw [hM, if_neg hb]) (fun b h => ?_) (fun _ _ _ => rfl)
      simp [tabGet, tabFind_tabDel, Ne.symm h]
  unfold State.elideBlock
  simp only
  split
  · exact stored
  · rename_i w hu
    have hw := uniform_byte 32 bs hl (uniform_eq hu)
    split
    · rename_i h0
      subst h0
      by_cases hb : x / 128 = a / 128
      · refine (own _ s.mem hb).trans ?_
        rw [if_pos hb, hw _ (by omega)]
        simp [tabGet, tabFind_tabPut]
      · rw [if_neg hb]
        refine other _ s.mem hb rfl (fun b h => ?_) (fun _ _ _ => rfl)
        simp [tabGet, tabFind_tabPut, Ne.symm h, State.elided]
    · split
      · rename_i hk
        by_cases hb : x / 128 = a / 128
        · refine (own _ s.mem hb).trans ?_
          rw [if_pos hb, hw _ (by omega)]
          simp only [tabGet, tabFind_tabPut, if_true, Option.getD_some]
          rw [if_neg (by decide), show (x - a) % 4 = x % 4 by omega]
        · rw [if_neg hb]
          refine other _ s.mem hb rfl (fun b h => ?_) (fun b h h2 => ?_)
          · simp [tabGet, tabFind_tabPut, Ne.symm h, State.elided]
          · simp only [tabGet, tabFind_tabPut]
            split
            · rename_i hs
              rcases Bool.or_eq_true_iff.1 hk with hk | hk
              · rw [decide_eq_true_eq] at hk
                rw [Option.getD_some, ← hk, hs]; rfl
              · exfalso
                have hmem : (b, (2 : BitVec 2)) ∈ (s.elided (a / 65536)).codes := by
                  apply tabFind_mem
                  unfold tabGet at h2
                  cases hc : tabFind (s.elided (a / 65536)).codes b with
                  | none => rw [hc] at h2; exact absurd h2 (by decide)
                  | some c => rw [hc] at h2; exact congrArg some h2
                rw [Bool.not_eq_true', List.any_eq_false] at hk
                refine hk _ hmem ?_
                simp [hs]
            · rfl
      · exact stored

/-! Writes at the home slice. -/

theorem rising_room {α : Type} : ∀ (m : Tab α) (lo hi : Nat), tabRising m lo = true → (∀ e, e ∈ m → e.1 < hi) →
    m = [] ∨ lo + m.length ≤ hi := by
  intro m
  induction m with
  | nil => intro _ _ _ _; exact .inl rfl
  | cons e m ih =>
    intro lo hi h hk
    simp only [tabRising, Bool.and_eq_true, decide_eq_true_eq] at h
    have he := hk e (.head _)
    rcases ih (e.1 + 1) hi h.2 (fun x hx => hk x (.tail _ hx)) with rfl | hm
    · right; simp only [List.length_cons, List.length_nil]; omega
    · right; simp only [List.length_cons]; omega

/-- Rising keys that fill a range: each key of it is listed, in order. -/
theorem rising_full {α : Type} (d : α) : ∀ (m : Tab α) (lo : Nat), tabRising m lo = true → (∀ e, e ∈ m → e.1 < lo + m.length) →
    ∀ x, tabFind m x = if lo ≤ x ∧ x < lo + m.length then some ((m.map (·.2)).getD (x - lo) d) else none := by
  intro m
  induction m with
  | nil => intro lo _ _ x; rw [if_neg (by simp)]; rfl
  | cons e m ih =>
    intro lo h hk x
    obtain ⟨j, y⟩ := e
    simp only [tabRising, Bool.and_eq_true, decide_eq_true_eq, List.length_cons] at h hk ⊢
    have hj := hk (j, y) (.head _)
    have hj' : j = lo := by
      rcases rising_room m (j + 1) (lo + (m.length + 1)) h.2 (fun x hx => hk x (.tail _ hx)) with rfl | hm
      · simp only [List.length_nil] at hj; omega
      · omega
    subst hj'
    rw [tabFind, ih (j + 1) h.2 (fun x hx => by have := hk x (.tail _ hx); omega)]
    by_cases hx : j = x
    · subst hx
      rw [if_pos rfl, if_pos ⟨Nat.le_refl _, by omega⟩, Nat.sub_self]; rfl
    · rw [if_neg hx]
      by_cases hr : j + 1 ≤ x ∧ x < j + 1 + m.length
      · obtain ⟨k, hk'⟩ : ∃ k, x - j = k + 1 := ⟨x - j - 1, by omega⟩
        rw [if_pos hr, if_pos ⟨by omega, by omega⟩, hk', List.map_cons, List.getD_cons_succ, show x - (j + 1) = k by omega]
      · rw [if_neg hr, if_neg (by omega)]

/-- Bytes of one block, in rising order of address. -/
def OneBlock (bs : Tab Byte) (a : Nat) : Prop := tabRising bs 0 = true ∧ ∀ e, e ∈ bs → e.1 / 128 = a / 128

theorem State.materialise_idle (s : State) (a : Nat) (h : s.home.zeroGroups = []) : s.materialise a = s := by
  unfold State.materialise
  simp only
  split
  · rw [h]; rfl
  · rfl

@[simp] theorem State.retileTouch_memByte (s : State) (a x : Nat) : (s.retileTouch a).memByte x = s.memByte x := by
  unfold State.retileTouch
  simp only
  split <;> rfl

@[simp] theorem State.retileTouch_mem (s : State) (a : Nat) : (s.retileTouch a).mem = s.mem := by
  unfold State.retileTouch
  simp only
  split <;> rfl

theorem tabRising_from {α : Type} {m : Tab α} {lo n : Nat} (h : tabRising m lo = true) (hk : ∀ e, e ∈ m → n ≤ e.1) :
    tabRising m n = true := by
  cases m with
  | nil => rfl
  | cons e m =>
    simp only [tabRising, Bool.and_eq_true, decide_eq_true_eq] at h ⊢
    exact ⟨hk e (.head _), h.2⟩

theorem byteAt_foldl_setByte : ∀ (bs : Tab Byte) (m : List Host.Cell) (lo x : Nat), tabRising bs lo = true →
    byteAt (bs.foldl (fun m e => setByte m e.1 e.2) m) x = (tabFind bs x).getD (byteAt m x) := by
  intro bs
  induction bs with
  | nil => intro m lo x _; rfl
  | cons e bs ih =>
    intro m lo x h
    obtain ⟨j, y⟩ := e
    simp only [tabRising, Bool.and_eq_true, decide_eq_true_eq] at h
    rw [List.foldl_cons, ih _ (j + 1) _ h.2, byteAt_setByte, tabFind]
    by_cases hx : j = x
    · subst hx
      have hn : ∀ (m : Tab Byte) (lo : Nat), tabRising m lo = true → j < lo → tabFind m j = none := by
        intro m
        induction m with
        | nil => intro _ _ _; rfl
        | cons f m ihm =>
          intro lo hl hj
          simp only [tabRising, Bool.and_eq_true, decide_eq_true_eq] at hl
          rw [tabFind, if_neg (by omega)]
          exact ihm _ hl.2 (by omega)
      rw [hn bs (j + 1) h.2 (by omega)]
      simp
    · simp [hx]

@[simp] theorem State.logEvent_mem (s : State) (c x p a d : Nat) : (s.logEvent c x p a d).mem = s.mem := rfl

@[simp] theorem State.logEvent_home (s : State) (c x p a d : Nat) : (s.logEvent c x p a d).home = s.home := rfl

/-- Reading the elision map corrects and logs: no byte, code or constant changes. -/
theorem State.readMap_keeps (s : State) (a : Nat) :
    (s.readMap a).mem = s.mem ∧ (s.readMap a).home.elision = s.home.elision := by
  unfold State.readMap
  simp only
  split
  · exact ⟨rfl, rfl⟩
  · simp only [mapWords, List.foldl_cons, List.foldl_nil]
    split_ifs <;> simp [State.syndrome, State.freeWord]

theorem State.readMap_memByte (s : State) (a x : Nat) : (s.readMap a).memByte x = s.memByte x := by
  unfold State.memByte
  rw [(s.readMap_keeps a).1, (s.readMap_keeps a).2]

theorem State.readMap_blockCode (s : State) (a x : Nat) : (s.readMap a).blockCode x = s.blockCode x := by
  unfold State.blockCode
  rw [(s.readMap_keeps a).2]

/-- Where no map word is in error, reading the map changes nothing. -/
theorem State.readMap_idle (s : State) (a : Nat) (h : s.home.mapSoft = []) (h2 : s.home.mapBad = []) : s.readMap a = s := by
  unfold State.readMap
  rw [h, h2]
  rfl

/-- A line that enters a memory-side cache changes no byte, code or constant. -/
theorem State.allocLine_keeps (s : State) (m : Bool) (a : Nat) :
    (s.allocLine m a).mem = s.mem ∧ (s.allocLine m a).home.elision = s.home.elision := by
  unfold State.allocLine
  simp only
  split <;> exact ⟨rfl, rfl⟩

/-- Bytes of one block written at the home slice read as written, and no other byte of memory changes: the block is no poisoned
one unless it is written whole with ELIDE set, and no frame is still to be zeroed. -/
theorem State.homeWrite_memByte (s : State) (elide wide : Bool) (bs : Tab Byte) (a : Nat) (hz : s.home.zeroGroups = [])
    (hb : OneBlock bs a) (hp : s.blockCode a ≠ 3 ∨ (elide = true ∧ bs.length = 128)) (x : Nat) :
    (s.homeWrite elide wide bs).memByte x = (tabFind bs x).getD (s.memByte x) := by
  cases bs with
  | nil => rfl
  | cons e r =>
    have ha : e.1 / 128 = a / 128 := hb.2 e (.head _)
    obtain ⟨a0, b0⟩ := e
    simp only [State.homeWrite, State.materialise_idle s a0 hz, State.retileTouch_memByte]
    rw [← State.readMap_memByte s a0 x]
    rw [← State.readMap_blockCode s a0 a] at hp
    generalize s.readMap a0 = s at hp ⊢
    -- What follows the write of the bytes leaves codes, constants and bytes as they are.
    have keep : ∀ (t u : State), u.mem = t.mem → u.home.elision = t.home.elision → u.memByte x = t.memByte x := by
      intro t u h1 h2
      unfold State.memByte
      rw [h1, h2]
    have main : ∀ t : State, t = (if (((a0, b0) :: r).length = 128 && elide) = true then s.elideBlock (a0 / 128 * 128) (((a0, b0) :: r).map (·.2))
        else { s.unelide a0 with mem := ((a0, b0) :: r).foldl (fun m e => setByte m e.1 e.2) (s.unelide a0).mem }) →
        t.memByte x = (tabFind ((a0, b0) :: r) x).getD (s.memByte x) := by
      rintro t rfl
      split
      · rename_i hw
        simp only [Bool.and_eq_true, decide_eq_true_eq] at hw
        rw [State.elideBlock_memByte _ _ _ (by omega) (by rw [List.length_map]; exact hw.1),
          rising_full 0 _ (a0 / 128 * 128) (tabRising_from hb.1 fun e he => ?_) fun e he => ?_, hw.1]
        · by_cases hx : x / 128 = a0 / 128
          · rw [if_pos (by omega), if_pos (by omega), Option.getD_some]
          · rw [if_neg (by omega), if_neg (by omega), Option.getD_none]
        · have := hb.2 e he; omega
        · have := hb.2 e he; rw [hw.1]; omega
      · rename_i hw
        have h3 : s.blockCode a0 ≠ 3 := by
          rcases hp with hp | hp
          · intro h
            apply hp
            rw [State.blockCode_eq] at h ⊢
            have h1 := sameBlock.1 ha
            rw [← h1.1, ← h1.2, h]
          · exfalso
            apply hw
            rw [hp.1, hp.2]
            rfl
        have hu := State.unelide_spec s a0 h3 x
        set u := s.unelide a0 with hud
        rw [← hu.1]
        have hc : State.blockCode { u with mem := ((a0, b0) :: r).foldl (fun m e => setByte m e.1 e.2) u.mem } x = u.blockCode x := rfl
        by_cases hx : x / 128 = a0 / 128
        · have h0 : u.blockCode x = 0 := by rw [hu.2, if_pos hx]
          rw [State.memByte_eq, State.memByte_eq u, hc, h0]
          simp only [show ((0 : BitVec 2) = 1) = False by decide, show ((0 : BitVec 2) = 2) = False by decide, if_false]
          exact byteAt_foldl_setByte _ _ 0 _ hb.1
        · have hn : tabFind ((a0, b0) :: r) x = none := by
            cases hf : tabFind ((a0, b0) :: r) x with
            | none => rfl
            | some y => exact absurd ((hb.2 _ (tabFind_mem hf)).trans ha.symm) hx
          rw [hn, Option.getD_none]
          refine State.memByte_congr rfl (fun _ => rfl) ?_
          rw [byteAt_foldl_setByte _ _ 0 _ hb.1, hn, Option.getD_none]
    have h := main _ rfl
    refine (keep _ _ ?_ ?_).trans h
    · exact (State.allocLine_keeps _ _ _).1
    · rw [(State.allocLine_keeps _ _ _).2]
      dsimp only
      split_ifs <;> rfl

/-! The canonical form. -/

theorem State.materialise_mem (s : State) (a : Nat) : (s.materialise a).mem = s.mem := by
  unfold State.materialise
  simp only
  split
  · split <;> rfl
  · rfl

theorem State.unelide_wf (s : State) (a : Nat) (h : Memory.wf s.mem = true) : Memory.wf (s.unelide a).mem = true := by
  unfold State.unelide
  simp only
  split
  · exact h
  · split
    · exact h
    · simp only
      split
      · exact h
      · exact setBytes_wf _ _ _ h

theorem State.elideBlock_wf (s : State) (a : Nat) (bs : List Byte) (h : Memory.wf s.mem = true) :
    Memory.wf (s.elideBlock a bs).mem = true := by
  unfold State.elideBlock
  simp only
  split
  · exact setBytes_wf _ _ _ h
  · split
    · exact h
    · split
      · exact h
      · exact setBytes_wf _ _ _ h

/-- A write at the home slice keeps memory in its canonical form. -/
theorem State.homeWrite_wf (s : State) (elide wide : Bool) (bs : Tab Byte) (h : Memory.wf s.mem = true) :
    Memory.wf (s.homeWrite elide wide bs).mem = true := by
  cases bs with
  | nil => exact h
  | cons e r =>
    obtain ⟨a0, b0⟩ := e
    have hm : Memory.wf ((s.materialise a0).readMap a0).mem = true := by
      rw [(State.readMap_keeps _ _).1, State.materialise_mem]; exact h
    simp only [State.homeWrite, State.retileTouch_mem, (State.allocLine_keeps _ _ _).1]
    split
    · exact State.elideBlock_wf _ _ _ hm
    · exact foldl_setByte_wf _ _ (State.unelide_wf _ _ hm)

theorem State.writeBytes_wf (s : State) (elide wide : Bool) (bs : Tab Byte) (h : Memory.wf s.mem = true) :
    Memory.wf (s.writeBytes elide wide bs).mem = true := by
  unfold State.writeBytes
  generalize blocksOf bs = l
  induction l generalizing s with
  | nil => exact h
  | cons b l ih => exact ih _ (State.homeWrite_wf _ _ _ _ h)

/-! Reads at the home slice: memory holds what it held, but for a frame that is zeroed at its first request (R173). -/

/-- Where nothing is marked bad and the block is sound, a read answers the bytes and changes which lines the memory-side cache
holds, and nothing else. -/
theorem State.homeRead_clean (s : State) (a n : Nat) (hb : s.home.bad = []) (hs : s.home.soft = []) (hz : s.home.zeroGroups = [])
    (hm : s.home.mapSoft = []) (hm2 : s.home.mapBad = []) (hc : s.blockCode a ≠ 3) :
    (s.homeRead a n).1 = s.memBytes a n ∧ (s.homeRead a n).2.1 = false ∧
      (s.homeRead a n).2.2 = { s with home := { s.home with
        lines := (s.homeRead a n).2.2.home.lines, hostOwned := (s.homeRead a n).2.2.home.hostOwned } } := by
  have hu : s.uncorrectable a n = false := by
    have hk : s.mapBroken a = false := by unfold State.mapBroken; rw [hm2]; rfl
    simp only [State.uncorrectable, hb, hk, List.contains_nil, List.any_eq_false.2 (fun _ _ => Bool.false_ne_true), Bool.and_false,
      Bool.false_or, Bool.or_false]
    exact decide_eq_false hc
  have he : s.home.soft.isEmpty = true := by rw [hs]; rfl
  simp only [State.homeRead, State.sliceRead, State.materialise_idle s a hz, State.readMap_idle s a hm hm2, hu, he, Bool.not_true,
    Bool.or_self, Bool.false_eq_true, if_false]
  refine ⟨trivial, trivial, ?_⟩
  unfold State.allocLine
  dsimp only
  split_ifs <;> rfl

/-! Vaults. -/

theorem State.core_modCore (s : State) (c : Nat) (f : Core → Core) (k : Nat) :
    (s.modCore c f).core k = if k = c then f (s.core c) else s.core k := by
  simp only [State.modCore, State.setCore, State.core, tabGet, tabFind_tabPut]
  by_cases h : c = k
  · rw [if_pos h, if_pos h.symm]; rfl
  · rw [if_neg h, if_neg (Ne.symm h)]

/-- A write to a vault changes the bytes of its range and the marks of the words it covers. -/
theorem State.vaultWrite_byteAt (s : State) (c off : Nat) (bs : List Byte) (k p : Nat) :
    byteAt ((s.vaultWrite c off bs).core k).vault p =
      if k = c ∧ off ≤ p ∧ p < off + bs.length then bs.getD (p - off) 0 else byteAt (s.core k).vault p := by
  simp only [State.vaultWrite, State.core_modCore]
  by_cases h : k = c
  · subst h
    simp only [if_true, byteAt_setBytes, true_and]
  · simp [h]

theorem State.vaultWrite_wf (s : State) (c off : Nat) (bs : List Byte) (k : Nat) (h : Memory.wf (s.core k).vault = true) :
    Memory.wf ((s.vaultWrite c off bs).core k).vault = true := by
  simp only [State.vaultWrite, State.core_modCore]
  by_cases hk : k = c
  · subst hk
    simp only [if_true]
    exact setBytes_wf _ _ _ h
  · simpa [hk] using h

/-- Memory and every vault at reset are canonical: nothing is listed. -/
theorem reset_wf : Memory.wf State.reset.mem = true ∧ ∀ c, Memory.wf (State.reset.core c).vault = true :=
  ⟨rfl, fun _ => rfl⟩

end Sys2Proof.Machine
end

