-- ==== Sys2Proof/Laws/PerInstr.lean ====
section
/-! SUPPORT. A statement about every constructor of `Instr`, one lemma each: the first word of its encoding says how many words it
has (R202). -/
namespace Sys2Proof.Laws

/-- The first word says whether a second follows, and there are no more than two. A host action or device event has none. -/
def Encoding.Statement (i : Instr) : Prop :=
  i.wf = true → hasSecondWord ((encode i).headD 0x20000000) = ((encode i).length == 2) ∧ (encode i).length ≤ 2

/-- The format of a word (R202). -/
theorem format_of (k x : Nat) (hk : k < 8) (hx : x < 2 ^ 29) : (fld (BitVec.ofNat 32 (k * 2 ^ 29 + x)) 29 3).toNat = k := by
  rw [fld, BitVec.extractLsb'_toNat, BitVec.toNat_ofNat, Nat.shiftRight_eq_div_pow]
  omega

theorem oneWord (k x : Nat) (hk : k < 8) (h0 : k ≠ 0) (h3 : k ≠ 3) (h7 : k ≠ 7) (hx : x < 2 ^ 29) :
    hasSecondWord (BitVec.ofNat 32 (k * 2 ^ 29 + x)) = false := by
  unfold hasSecondWord
  rw [format_of k x hk hx]
  match k, h0, h3, h7 with
  | 1, _, _, _ | 2, _, _, _ | 4, _, _, _ | 5, _, _, _ | 6, _, _, _ => rfl
  | n + 8, _, _, _ => omega

theorem twoWords (k x : Nat) (h : k = 3 ∨ k = 7) (hx : x < 2 ^ 29) : hasSecondWord (BitVec.ofNat 32 (k * 2 ^ 29 + x)) = true := by
  unfold hasSecondWord
  rw [format_of k x (by omega) hx]
  rcases h with rfl | rfl <;> rfl

/-- LA: a literal follows where the source code is 0xFE (R206). -/
theorem laWord (op : Nat) (d : VReg) (a : Nat) (b : VReg) (x : Bool) (ho : op < 64) (ha : a < 256) :
    hasSecondWord (encLA op d a b x) = (a == 0xFE) := by
  have hd := d.isLt
  have hb := b.isLt
  have hx := Bool.toNat_le x
  unfold encLA hasSecondWord
  have h0 : (fld (BitVec.ofNat 32 (op * 2 ^ 23 + d.toNat * 2 ^ 16 + a * 2 ^ 8 + b.toNat * 2 + x.toNat)) 29 3).toNat = 0 := by
    have := format_of 0 (op * 2 ^ 23 + d.toNat * 2 ^ 16 + a * 2 ^ 8 + b.toNat * 2 + x.toNat) (by omega) (by omega)
    simpa using this
  have h8 : (fld (BitVec.ofNat 32 (op * 2 ^ 23 + d.toNat * 2 ^ 16 + a * 2 ^ 8 + b.toNat * 2 + x.toNat)) 8 8).toNat = a := by
    rw [fld, BitVec.extractLsb'_toNat, BitVec.toNat_ofNat, Nat.shiftRight_eq_div_pow]
    omega
  rw [h0]
  simp only
  rw [Bool.eq_iff_iff, beq_iff_eq, beq_iff_eq]
  constructor
  · intro h
    rw [← h8, h]
    rfl
  · intro h
    apply BitVec.eq_of_toNat_eq
    rw [h8, h]
    rfl

theorem none_of : hasSecondWord (([] : List Word).headD 0x20000000) = (([] : List Word).length == 2) ∧ ([] : List Word).length ≤ 2 := by
  decide

theorem one_of {w : Word} (h : hasSecondWord w = false) :
    hasSecondWord (List.headD [w] 0x20000000) = ([w].length == 2) ∧ [w].length ≤ 2 := ⟨h, by simp⟩

theorem two_of {v w : Word} (h : hasSecondWord v = true) :
    hasSecondWord (List.headD [v, w] 0x20000000) = ([v, w].length == 2) ∧ [v, w].length ≤ 2 := ⟨h, by simp⟩

theorem la_one {op : Nat} {d : VReg} {a : Nat} {b : VReg} {x : Bool} (ho : op < 64) (ha : a < 256) (hn : a ≠ 0xFE) :
    hasSecondWord (encLA op d a b x) = false := by
  rw [laWord op d a b x ho ha]; simp [hn]

theorem two_la {op : Nat} {d : VReg} {a : Src} {b : VReg} {x : Bool} (ho : op < 64) (h : a.ok = true) :
    hasSecondWord ((wordsLA op d a b x).headD 0x20000000) = ((wordsLA op d a b x).length == 2) ∧ (wordsLA op d a b x).length ≤ 2 := by
  cases a with
  | lit w => exact two_of (by rw [laWord op d 0xFE b x ho (by decide)]; rfl)
  | reserved c =>
    simp only [Src.ok, Bool.or_eq_true, Bool.and_eq_true, decide_eq_true_eq, beq_iff_eq] at h
    refine one_of (la_one ho c.isLt fun hc => ?_)
    have hc : c.toNat = 0xFE := hc
    rcases h with h | rfl
    · omega
    · exact absurd hc (by decide)
  | v n => exact one_of (la_one ho (by have := n.isLt; simp only [srcCode]; omega) (by have := n.isLt; simp only [srcCode]; omega))
  | s n => exact one_of (la_one ho (by have := n.isLt; simp only [srcCode]; omega) (by have := n.isLt; simp only [srcCode]; omega))
  | small c => exact one_of (la_one ho (by have := c.isLt; simp only [srcCode]; omega) (by have := c.isLt; simp only [srcCode]; omega))
  | lane => exact one_of (la_one ho (by decide) (by decide))
  | item => exact one_of (la_one ho (by decide) (by decide))
  | tglobal => exact one_of (la_one ho (by decide) (by decide))

theorem two_lw {op : Nat} {d a b c : VReg} {la : BitVec 4} {g : Guard} {m : Nat} (ho : op < 128) :
    hasSecondWord ((encLW op d a b c la g m).headD 0x20000000) = ((encLW op d a b c la g m).length == 2) ∧
      (encLW op d a b c la g m).length ≤ 2 := by
  have hd := d.isLt
  have ha := a.isLt
  have hb := b.isLt
  refine two_of ?_
  have := twoWords 3 (op * 2 ^ 22 + d.toNat * 2 ^ 15 + a.toNat * 2 ^ 8 + b.toNat * 2) (.inl rfl) (by omega)
  rwa [← Nat.add_assoc, ← Nat.add_assoc, ← Nat.add_assoc] at this

theorem two_pw {op : Nat} {d a b : SReg} {m : Nat} {w : Word} (ho : op < 128) (hm : m < 16) :
    hasSecondWord ((encPW op d a b m w).headD 0x20000000) = ((encPW op d a b m w).length == 2) ∧ (encPW op d a b m w).length ≤ 2 := by
  have hd := d.isLt
  have ha := a.isLt
  have hb := b.isLt
  refine two_of ?_
  have := twoWords 7 (op * 2 ^ 22 + d.toNat * 2 ^ 16 + a.toNat * 2 ^ 10 + b.toNat * 2 ^ 4 + m) (.inr rfl) (by omega)
  rwa [← Nat.add_assoc, ← Nat.add_assoc, ← Nat.add_assoc, ← Nat.add_assoc] at this

theorem lb_one {op : Nat} {d a : VReg} {i : BitVec 9} (ho : op < 64) : hasSecondWord (encLB op d a i) = false := by
  have hd := d.isLt
  have ha := a.isLt
  have hi := i.isLt
  have := oneWord 1 (op * 2 ^ 23 + d.toNat * 2 ^ 16 + a.toNat * 2 ^ 9 + i.toNat) (by omega) (by omega) (by omega) (by omega) (by omega)
  rwa [← Nat.add_assoc, ← Nat.add_assoc, ← Nat.add_assoc] at this

theorem br_one {op : Nat} {pg : BitVec 3} {pn : Bool} {off : BitVec 19} (ho : op < 64) : hasSecondWord (encBr op pg pn off) = false := by
  have hg := pg.isLt
  have hn := Bool.toNat_le pn
  have hi := off.isLt
  have := oneWord 1 (op * 2 ^ 23 + pg.toNat * 2 ^ 20 + pn.toNat * 2 ^ 19 + off.toNat) (by omega) (by omega) (by omega) (by omega) (by omega)
  rwa [← Nat.add_assoc, ← Nat.add_assoc, ← Nat.add_assoc] at this

theorem lm_one {op : Nat} {t c : VReg} {la : BitVec 4} {x : SReg} (ho : op < 32) : hasSecondWord (encLM op t c la x) = false := by
  have ht := t.isLt
  have hc := c.isLt
  have hl := la.isLt
  have hx := x.isLt
  have := oneWord 2 (op * 2 ^ 24 + t.toNat * 2 ^ 17 + c.toNat * 2 ^ 10 + la.toNat * 2 ^ 6 + x.toNat) (by omega) (by omega) (by omega)
    (by omega) (by omega)
  rwa [← Nat.add_assoc, ← Nat.add_assoc, ← Nat.add_assoc, ← Nat.add_assoc] at this

theorem pa_one {op : Nat} {d a b : SReg} {m : Nat} (ho : op < 64) (hm : m < 32) : hasSecondWord (encPA op d a b m) = false := by
  have hd := d.isLt
  have ha := a.isLt
  have hb := b.isLt
  have := oneWord 4 (op * 2 ^ 23 + d.toNat * 2 ^ 17 + a.toNat * 2 ^ 11 + b.toNat * 2 ^ 5 + m) (by omega) (by omega) (by omega)
    (by omega) (by omega)
  rwa [← Nat.add_assoc, ← Nat.add_assoc, ← Nat.add_assoc, ← Nat.add_assoc] at this

theorem pi_one {op : Nat} {d : SReg} {i : BitVec 17} (ho : op < 64) : hasSecondWord (encPI op d i) = false := by
  have hd := d.isLt
  have hi := i.isLt
  have := oneWord 5 (op * 2 ^ 23 + d.toNat * 2 ^ 17 + i.toNat) (by omega) (by omega) (by omega) (by omega) (by omega)
  rwa [← Nat.add_assoc, ← Nat.add_assoc] at this

theorem pbr_one {op : Nat} {qg : BitVec 3} {qn : Bool} {off : BitVec 19} (ho : op < 64) : hasSecondWord (encPBr op qg qn off) = false := by
  have hg := qg.isLt
  have hn := Bool.toNat_le qn
  have hi := off.isLt
  have := oneWord 5 (op * 2 ^ 23 + qg.toNat * 2 ^ 20 + qn.toNat * 2 ^ 19 + off.toNat) (by omega) (by omega) (by omega) (by omega) (by omega)
  rwa [← Nat.add_assoc, ← Nat.add_assoc, ← Nat.add_assoc] at this

theorem pe_one {op : Nat} {r c bar : SReg} {la : BitVec 4} {f tok : Bool} (ho : op < 32) : hasSecondWord (encPE op r c bar la f tok) = false := by
  have hr := r.isLt
  have hc := c.isLt
  have hb := bar.isLt
  have hl := la.isLt
  have hf := Bool.toNat_le f
  have ht := Bool.toNat_le tok
  have := oneWord 6 (op * 2 ^ 24 + r.toNat * 2 ^ 18 + c.toNat * 2 ^ 12 + bar.toNat * 2 ^ 6 + la.toNat * 2 ^ 2 + f.toNat * 2 + tok.toNat)
    (by omega) (by omega) (by omega) (by omega) (by omega)
  rwa [← Nat.add_assoc, ← Nat.add_assoc, ← Nat.add_assoc, ← Nat.add_assoc, ← Nat.add_assoc, ← Nat.add_assoc] at this

theorem scopeCode_lt (sc : Scope) : sc.code < 6 := by cases sc <;> decide
theorem condCode_lt (c : IntCond) : c.code < 6 := by cases c <;> decide


theorem Encoding.addI32 (d : _) (a : _) (b : _) : Encoding.Statement (.addI32 d a b) := fun h => two_la (by decide) h
theorem Encoding.addI32Sat (d : _) (a : _) (b : _) : Encoding.Statement (.addI32Sat d a b) := fun h => two_la (by decide) h
theorem Encoding.subI32 (d : _) (a : _) (b : _) : Encoding.Statement (.subI32 d a b) := fun h => two_la (by decide) h
theorem Encoding.subI32Sat (d : _) (a : _) (b : _) : Encoding.Statement (.subI32Sat d a b) := fun h => two_la (by decide) h
theorem Encoding.mulI32 (d : _) (a : _) (b : _) : Encoding.Statement (.mulI32 d a b) := fun h => two_la (by decide) h
theorem Encoding.mulhiI32 (d : _) (a : _) (b : _) : Encoding.Statement (.mulhiI32 d a b) := fun h => two_la (by decide) h
theorem Encoding.mulhiN32 (d : _) (a : _) (b : _) : Encoding.Statement (.mulhiN32 d a b) := fun h => two_la (by decide) h
theorem Encoding.minI32 (d : _) (a : _) (b : _) : Encoding.Statement (.minI32 d a b) := fun h => two_la (by decide) h
theorem Encoding.maxI32 (d : _) (a : _) (b : _) : Encoding.Statement (.maxI32 d a b) := fun h => two_la (by decide) h
theorem Encoding.minN32 (d : _) (a : _) (b : _) : Encoding.Statement (.minN32 d a b) := fun h => two_la (by decide) h
theorem Encoding.maxN32 (d : _) (a : _) (b : _) : Encoding.Statement (.maxN32 d a b) := fun h => two_la (by decide) h
theorem Encoding.andB32 (d : _) (a : _) (b : _) : Encoding.Statement (.andB32 d a b) := fun h => two_la (by decide) h
theorem Encoding.orB32 (d : _) (a : _) (b : _) : Encoding.Statement (.orB32 d a b) := fun h => two_la (by decide) h
theorem Encoding.xorB32 (d : _) (a : _) (b : _) : Encoding.Statement (.xorB32 d a b) := fun h => two_la (by decide) h
theorem Encoding.andnB32 (d : _) (a : _) (b : _) : Encoding.Statement (.andnB32 d a b) := fun h => two_la (by decide) h
theorem Encoding.shlB32 (d : _) (a : _) (b : _) : Encoding.Statement (.shlB32 d a b) := fun h => two_la (by decide) h
theorem Encoding.shrN32 (d : _) (a : _) (b : _) : Encoding.Statement (.shrN32 d a b) := fun h => two_la (by decide) h
theorem Encoding.shrI32 (d : _) (a : _) (b : _) : Encoding.Statement (.shrI32 d a b) := fun h => two_la (by decide) h
theorem Encoding.rotB32 (d : _) (a : _) (b : _) : Encoding.Statement (.rotB32 d a b) := fun h => two_la (by decide) h
theorem Encoding.popcB32 (d : _) (a : _) : Encoding.Statement (.popcB32 d a) := fun h => two_la (by decide) h
theorem Encoding.clzB32 (d : _) (a : _) : Encoding.Statement (.clzB32 d a) := fun h => two_la (by decide) h
theorem Encoding.brevB32 (d : _) (a : _) : Encoding.Statement (.brevB32 d a) := fun h => two_la (by decide) h
theorem Encoding.lsbB32 (d : _) (a : _) : Encoding.Statement (.lsbB32 d a) := fun h => two_la (by decide) h
theorem Encoding.movB32 (d : _) (a : _) : Encoding.Statement (.movB32 d a) := fun h => two_la (by decide) h
theorem Encoding.permB8 (d : _) (a : _) (b : _) : Encoding.Statement (.permB8 d a b) := fun h => two_la (by decide) h
theorem Encoding.addX2I16 (d : _) (a : _) (b : _) : Encoding.Statement (.addX2I16 d a b) := fun h => two_la (by decide) h
theorem Encoding.addX2I16Sat (d : _) (a : _) (b : _) : Encoding.Statement (.addX2I16Sat d a b) := fun h => two_la (by decide) h
theorem Encoding.subX2I16 (d : _) (a : _) (b : _) : Encoding.Statement (.subX2I16 d a b) := fun h => two_la (by decide) h
theorem Encoding.subX2I16Sat (d : _) (a : _) (b : _) : Encoding.Statement (.subX2I16Sat d a b) := fun h => two_la (by decide) h
theorem Encoding.minX2I16 (d : _) (a : _) (b : _) : Encoding.Statement (.minX2I16 d a b) := fun h => two_la (by decide) h
theorem Encoding.maxX2I16 (d : _) (a : _) (b : _) : Encoding.Statement (.maxX2I16 d a b) := fun h => two_la (by decide) h
theorem Encoding.dot4I8 (d : _) (a : _) (b : _) : Encoding.Statement (.dot4I8 d a b) := fun h => two_la (by decide) h
theorem Encoding.dot4N8 (d : _) (a : _) (b : _) : Encoding.Statement (.dot4N8 d a b) := fun h => two_la (by decide) h
theorem Encoding.pullIdx (d : _) (a : _) (b : _) : Encoding.Statement (.pullIdx d a b) := fun h => two_la (by decide) h
theorem Encoding.pullXor (d : _) (a : _) (b : _) : Encoding.Statement (.pullXor d a b) := fun h => two_la (by decide) h
theorem Encoding.pullBack (d : _) (a : _) (b : _) : Encoding.Statement (.pullBack d a b) := fun h => two_la (by decide) h
theorem Encoding.pullFwd (d : _) (a : _) (b : _) : Encoding.Statement (.pullFwd d a b) := fun h => two_la (by decide) h
theorem Encoding.faddF32 (d : _) (a : _) (b : _) (x : _) : Encoding.Statement (.faddF32 d a b x) := fun h => two_la (by decide) h
theorem Encoding.fsubF32 (d : _) (a : _) (b : _) (x : _) : Encoding.Statement (.fsubF32 d a b x) := fun h => two_la (by decide) h
theorem Encoding.fmulF32 (d : _) (a : _) (b : _) (x : _) : Encoding.Statement (.fmulF32 d a b x) := fun h => two_la (by decide) h
theorem Encoding.fminF32 (d : _) (a : _) (b : _) (x : _) : Encoding.Statement (.fminF32 d a b x) := fun h => two_la (by decide) h
theorem Encoding.fmaxF32 (d : _) (a : _) (b : _) (x : _) : Encoding.Statement (.fmaxF32 d a b x) := fun h => two_la (by decide) h
theorem Encoding.fmacF32 (d : _) (a : _) (b : _) (x : _) : Encoding.Statement (.fmacF32 d a b x) := fun h => two_la (by decide) h
theorem Encoding.faddF64 (d : _) (a : _) (b : _) (x : _) : Encoding.Statement (.faddF64 d a b x) := fun h => two_la (by decide) h
theorem Encoding.fsubF64 (d : _) (a : _) (b : _) (x : _) : Encoding.Statement (.fsubF64 d a b x) := fun h => two_la (by decide) h
theorem Encoding.fmulF64 (d : _) (a : _) (b : _) (x : _) : Encoding.Statement (.fmulF64 d a b x) := fun h => two_la (by decide) h
theorem Encoding.fminF64 (d : _) (a : _) (b : _) (x : _) : Encoding.Statement (.fminF64 d a b x) := fun h => two_la (by decide) h
theorem Encoding.fmaxF64 (d : _) (a : _) (b : _) (x : _) : Encoding.Statement (.fmaxF64 d a b x) := fun h => two_la (by decide) h
theorem Encoding.fmacF64 (d : _) (a : _) (b : _) (x : _) : Encoding.Statement (.fmacF64 d a b x) := fun h => two_la (by decide) h
theorem Encoding.faddX2Bf16 (d : _) (a : _) (b : _) (x : _) : Encoding.Statement (.faddX2Bf16 d a b x) := fun h => two_la (by decide) h
theorem Encoding.fmulX2Bf16 (d : _) (a : _) (b : _) (x : _) : Encoding.Statement (.fmulX2Bf16 d a b x) := fun h => two_la (by decide) h
theorem Encoding.fmacX2Bf16 (d : _) (a : _) (b : _) (x : _) : Encoding.Statement (.fmacX2Bf16 d a b x) := fun h => two_la (by decide) h
theorem Encoding.faddX2F16 (d : _) (a : _) (b : _) (x : _) : Encoding.Statement (.faddX2F16 d a b x) := fun h => two_la (by decide) h
theorem Encoding.fmulX2F16 (d : _) (a : _) (b : _) (x : _) : Encoding.Statement (.fmulX2F16 d a b x) := fun h => two_la (by decide) h
theorem Encoding.fmacX2F16 (d : _) (a : _) (b : _) (x : _) : Encoding.Statement (.fmacX2F16 d a b x) := fun h => two_la (by decide) h
theorem Encoding.dot2Bf16 (d : _) (a : _) (b : _) (x : _) : Encoding.Statement (.dot2Bf16 d a b x) := fun h => two_la (by decide) h
theorem Encoding.nop : Encoding.Statement (.nop) := fun _ => one_of (la_one (by decide) (by decide) (by decide))
theorem Encoding.addiI32 (d : _) (a : _) (i : _) : Encoding.Statement (.addiI32 d a i) := fun _ => one_of (lb_one (by decide))
theorem Encoding.muliI32 (d : _) (a : _) (i : _) : Encoding.Statement (.muliI32 d a i) := fun _ => one_of (lb_one (by decide))
theorem Encoding.andiB32 (d : _) (a : _) (i : _) : Encoding.Statement (.andiB32 d a i) := fun _ => one_of (lb_one (by decide))
theorem Encoding.oriB32 (d : _) (a : _) (i : _) : Encoding.Statement (.oriB32 d a i) := fun _ => one_of (lb_one (by decide))
theorem Encoding.xoriB32 (d : _) (a : _) (i : _) : Encoding.Statement (.xoriB32 d a i) := fun _ => one_of (lb_one (by decide))
theorem Encoding.shliB32 (d : _) (a : _) (i : _) : Encoding.Statement (.shliB32 d a i) := fun _ => one_of (lb_one (by decide))
theorem Encoding.shriN32 (d : _) (a : _) (i : _) : Encoding.Statement (.shriN32 d a i) := fun _ => one_of (lb_one (by decide))
theorem Encoding.shriI32 (d : _) (a : _) (i : _) : Encoding.Statement (.shriI32 d a i) := fun _ => one_of (lb_one (by decide))
theorem Encoding.moviB32 (d : _) (i : _) : Encoding.Statement (.moviB32 d i) := fun _ => one_of (lb_one (by decide))
theorem Encoding.bra (pg : _) (pn : _) (off : _) : Encoding.Statement (.bra pg pn off) := fun _ => one_of (br_one (by decide))
theorem Encoding.meet (off : _) : Encoding.Statement (.meet off) := fun _ => one_of (br_one (by decide))
theorem Encoding.unmeet : Encoding.Statement (.unmeet) := fun _ => one_of (br_one (by decide))
theorem Encoding.exit (pg : _) (pn : _) : Encoding.Statement (.exit pg pn) := fun _ => one_of (br_one (by decide))
theorem Encoding.yield : Encoding.Statement (.yield) := fun _ => one_of (br_one (by decide))
theorem Encoding.ldB8 (t : _) (c : _) (la : _) (x : _) : Encoding.Statement (.ldB8 t c la x) := fun _ => one_of (lm_one (by decide))
theorem Encoding.ldI8 (t : _) (c : _) (la : _) (x : _) : Encoding.Statement (.ldI8 t c la x) := fun _ => one_of (lm_one (by decide))
theorem Encoding.ldB16 (t : _) (c : _) (la : _) (x : _) : Encoding.Statement (.ldB16 t c la x) := fun _ => one_of (lm_one (by decide))
theorem Encoding.ldI16 (t : _) (c : _) (la : _) (x : _) : Encoding.Statement (.ldI16 t c la x) := fun _ => one_of (lm_one (by decide))
theorem Encoding.ldB32 (t : _) (c : _) (la : _) (x : _) : Encoding.Statement (.ldB32 t c la x) := fun _ => one_of (lm_one (by decide))
theorem Encoding.ldB64 (t : _) (c : _) (la : _) (x : _) : Encoding.Statement (.ldB64 t c la x) := fun _ => one_of (lm_one (by decide))
theorem Encoding.ldB128 (t : _) (c : _) (la : _) (x : _) : Encoding.Statement (.ldB128 t c la x) := fun _ => one_of (lm_one (by decide))
theorem Encoding.stB8 (t : _) (c : _) (la : _) (x : _) : Encoding.Statement (.stB8 t c la x) := fun _ => one_of (lm_one (by decide))
theorem Encoding.stB16 (t : _) (c : _) (la : _) (x : _) : Encoding.Statement (.stB16 t c la x) := fun _ => one_of (lm_one (by decide))
theorem Encoding.stB32 (t : _) (c : _) (la : _) (x : _) : Encoding.Statement (.stB32 t c la x) := fun _ => one_of (lm_one (by decide))
theorem Encoding.stB64 (t : _) (c : _) (la : _) (x : _) : Encoding.Statement (.stB64 t c la x) := fun _ => one_of (lm_one (by decide))
theorem Encoding.stB128 (t : _) (c : _) (la : _) (x : _) : Encoding.Statement (.stB128 t c la x) := fun _ => one_of (lm_one (by decide))
theorem Encoding.tld (t : _) (c : _) (la : _) (x : _) : Encoding.Statement (.tld t c la x) := fun _ => one_of (lm_one (by decide))
theorem Encoding.tst (t : _) (c : _) (la : _) (x : _) : Encoding.Statement (.tst t c la x) := fun _ => one_of (lm_one (by decide))
theorem Encoding.tstp (t : _) (c : _) (la : _) (x : _) : Encoding.Statement (.tstp t c la x) := fun _ => one_of (lm_one (by decide))
theorem Encoding.vldB32 (t : _) (c : _) (la : _) (x : _) : Encoding.Statement (.vldB32 t c la x) := fun _ => one_of (lm_one (by decide))
theorem Encoding.vldB64 (t : _) (c : _) (la : _) (x : _) : Encoding.Statement (.vldB64 t c la x) := fun _ => one_of (lm_one (by decide))
theorem Encoding.vldB128 (t : _) (c : _) (la : _) (x : _) : Encoding.Statement (.vldB128 t c la x) := fun _ => one_of (lm_one (by decide))
theorem Encoding.vstB32 (t : _) (c : _) (la : _) (x : _) : Encoding.Statement (.vstB32 t c la x) := fun _ => one_of (lm_one (by decide))
theorem Encoding.vstB64 (t : _) (c : _) (la : _) (x : _) : Encoding.Statement (.vstB64 t c la x) := fun _ => one_of (lm_one (by decide))
theorem Encoding.vstB128 (t : _) (c : _) (la : _) (x : _) : Encoding.Statement (.vstB128 t c la x) := fun _ => one_of (lm_one (by decide))
theorem Encoding.claim (c : _) (la : _) (x : _) : Encoding.Statement (.claim c la x) := fun _ => one_of (lm_one (by decide))
theorem Encoding.tclaim (c : _) (la : _) (x : _) : Encoding.Statement (.tclaim c la x) := fun _ => one_of (lm_one (by decide))
theorem Encoding.madI32 (g : _) (d : _) (a : _) (b : _) (c : _) : Encoding.Statement (.madI32 g d a b c) := fun _ => two_lw (by decide)
theorem Encoding.madwI32 (g : _) (d : _) (a : _) (b : _) (c : _) : Encoding.Statement (.madwI32 g d a b c) := fun _ => two_lw (by decide)
theorem Encoding.madwN32 (g : _) (d : _) (a : _) (b : _) (c : _) : Encoding.Statement (.madwN32 g d a b c) := fun _ => two_lw (by decide)
theorem Encoding.addI64 (g : _) (d : _) (a : _) (b : _) : Encoding.Statement (.addI64 g d a b) := fun _ => two_lw (by decide)
theorem Encoding.subI64 (g : _) (d : _) (a : _) (b : _) : Encoding.Statement (.subI64 g d a b) := fun _ => two_lw (by decide)
theorem Encoding.addcN32 (g : _) (d : _) (a : _) (b : _) (ci : _) (co : _) : Encoding.Statement (.addcN32 g d a b ci co) := fun _ => two_lw (by decide)
theorem Encoding.bfxI32 (g : _) (d : _) (a : _) (pos : _) (len : _) : Encoding.Statement (.bfxI32 g d a pos len) := fun _ => two_lw (by decide)
theorem Encoding.bfxN32 (g : _) (d : _) (a : _) (pos : _) (len : _) : Encoding.Statement (.bfxN32 g d a pos len) := fun _ => two_lw (by decide)
theorem Encoding.bfiB32 (g : _) (d : _) (a : _) (b : _) (pos : _) (len : _) : Encoding.Statement (.bfiB32 g d a b pos len) := fun _ => two_lw (by decide)
theorem Encoding.bitfnB32 (g : _) (d : _) (a : _) (b : _) (c : _) (fn : _) : Encoding.Statement (.bitfnB32 g d a b c fn) := fun _ => two_lw (by decide)
theorem Encoding.cselB32 (g : _) (d : _) (a : _) (b : _) (p : _) (neg : _) : Encoding.Statement (.cselB32 g d a b p neg) := fun _ => two_lw (by decide)
theorem Encoding.cmpI32 (g : _) (pd : _) (a : _) (b : _) (cond : _) : Encoding.Statement (.cmpI32 g pd a b cond) := fun _ => two_lw (by decide)
theorem Encoding.cmpN32 (g : _) (pd : _) (a : _) (b : _) (cond : _) : Encoding.Statement (.cmpN32 g pd a b cond) := fun _ => two_lw (by decide)
theorem Encoding.cmpI64 (g : _) (pd : _) (a : _) (b : _) (cond : _) : Encoding.Statement (.cmpI64 g pd a b cond) := fun _ => two_lw (by decide)
theorem Encoding.fcmpF32 (g : _) (pd : _) (a : _) (b : _) (cond : _) : Encoding.Statement (.fcmpF32 g pd a b cond) := fun _ => two_lw (by decide)
theorem Encoding.fcmpF64 (g : _) (pd : _) (a : _) (b : _) (cond : _) : Encoding.Statement (.fcmpF64 g pd a b cond) := fun _ => two_lw (by decide)
theorem Encoding.pset (g : _) (pd : _) (pa : _) (pb : _) (tbl : _) : Encoding.Statement (.pset g pd pa pb tbl) := fun _ => two_lw (by decide)
theorem Encoding.ffmaF32 (g : _) (d : _) (a : _) (b : _) (c : _) (np : _) (nc : _) : Encoding.Statement (.ffmaF32 g d a b c np nc) := fun _ => two_lw (by decide)
theorem Encoding.ffmaF64 (g : _) (d : _) (a : _) (b : _) (c : _) (np : _) (nc : _) : Encoding.Statement (.ffmaF64 g d a b c np nc) := fun _ => two_lw (by decide)
theorem Encoding.ffmaX2Bf16 (g : _) (d : _) (a : _) (b : _) (c : _) (np : _) (nc : _) : Encoding.Statement (.ffmaX2Bf16 g d a b c np nc) := fun _ => two_lw (by decide)
theorem Encoding.frcpF32 (g : _) (d : _) (a : _) (la : _) : Encoding.Statement (.frcpF32 g d a la) := fun _ => two_lw (by decide)
theorem Encoding.frsqF32 (g : _) (d : _) (a : _) (la : _) : Encoding.Statement (.frsqF32 g d a la) := fun _ => two_lw (by decide)
theorem Encoding.fsqrtF32 (g : _) (d : _) (a : _) (la : _) : Encoding.Statement (.fsqrtF32 g d a la) := fun _ => two_lw (by decide)
theorem Encoding.fsqrtF64 (g : _) (d : _) (a : _) (la : _) : Encoding.Statement (.fsqrtF64 g d a la) := fun _ => two_lw (by decide)
theorem Encoding.fexp2F32 (g : _) (d : _) (a : _) (la : _) : Encoding.Statement (.fexp2F32 g d a la) := fun _ => two_lw (by decide)
theorem Encoding.flog2F32 (g : _) (d : _) (a : _) (la : _) : Encoding.Statement (.flog2F32 g d a la) := fun _ => two_lw (by decide)
theorem Encoding.fsinpF32 (g : _) (d : _) (a : _) (la : _) : Encoding.Statement (.fsinpF32 g d a la) := fun _ => two_lw (by decide)
theorem Encoding.fcospF32 (g : _) (d : _) (a : _) (la : _) : Encoding.Statement (.fcospF32 g d a la) := fun _ => two_lw (by decide)
theorem Encoding.fdivF32 (g : _) (d : _) (a : _) (b : _) (la : _) : Encoding.Statement (.fdivF32 g d a b la) := fun _ => two_lw (by decide)
theorem Encoding.fdivF64 (g : _) (d : _) (a : _) (b : _) (la : _) : Encoding.Statement (.fdivF64 g d a b la) := fun _ => two_lw (by decide)
theorem Encoding.frndF32 (g : _) (d : _) (a : _) (la : _) (r : _) (exact : _) : Encoding.Statement (.frndF32 g d a la r exact) := fun _ => two_lw (by decide)
theorem Encoding.frndF64 (g : _) (d : _) (a : _) (la : _) (r : _) (exact : _) : Encoding.Statement (.frndF64 g d a la r exact) := fun _ => two_lw (by decide)
theorem Encoding.fclass (g : _) (d : _) (a : _) (ty : _) : Encoding.Statement (.fclass g d a ty) := fun _ => two_lw (by decide)
theorem Encoding.cvt (g : _) (d : _) (a : _) (sl : _) (dl : _) (rnd : _) (src : _) (dst : _) : Encoding.Statement (.cvt g d a sl dl rnd src dst) := fun _ => two_lw (by decide)
theorem Encoding.qblkF4x (g : _) (d : _) (a : _) : Encoding.Statement (.qblkF4x g d a) := fun _ => two_lw (by decide)
theorem Encoding.dqblkF4x (g : _) (d : _) (a : _) (b : _) (hi : _) : Encoding.Statement (.dqblkF4x g d a b hi) := fun _ => two_lw (by decide)
theorem Encoding.atom (g : _) (d : _) (a : _) (b : _) (la : _) (ty : _) (op : _) (ord : _) (sc : _) (x : _) : Encoding.Statement (.atom g d a b la ty op ord sc x) := fun _ => two_lw (by decide)
theorem Encoding.cas (g : _) (d : _) (a : _) (b : _) (c : _) (la : _) (wide : _) (ord : _) (sc : _) (x : _) : Encoding.Statement (.cas g d a b c la wide ord sc x) := fun _ => two_lw (by decide)
theorem Encoding.red (g : _) (a : _) (b : _) (la : _) (ty : _) (op : _) (ord : _) (sc : _) (x : _) (bar : _) : Encoding.Statement (.red g a b la ty op ord sc x bar) := fun _ => two_lw (by decide)
theorem Encoding.tatom (g : _) (d : _) (a : _) (b : _) (la : _) (op : _) (ord : _) (sc : _) (x : _) : Encoding.Statement (.tatom g d a b la op ord sc x) := fun _ => two_lw (by decide)
theorem Encoding.tred (g : _) (a : _) (b : _) (la : _) (op : _) (ord : _) (sc : _) (x : _) (bar : _) : Encoding.Statement (.tred g a b la op ord sc x bar) := fun _ => two_lw (by decide)
theorem Encoding.vatom (g : _) (d : _) (a : _) (b : _) (la : _) (ty : _) (op : _) (ord : _) (sc : _) (x : _) : Encoding.Statement (.vatom g d a b la ty op ord sc x) := fun _ => two_lw (by decide)
theorem Encoding.ldAcq (g : _) (d : _) (a : _) (la : _) (wide : _) (vault : _) (sc : _) (x : _) : Encoding.Statement (.ldAcq g d a la wide vault sc x) := fun _ => two_lw (by decide)
theorem Encoding.stRel (g : _) (a : _) (b : _) (wide : _) (vault : _) (sc : _) (x : _) : Encoding.Statement (.stRel g a b wide vault sc x) := fun _ => two_lw (by decide)
theorem Encoding.fence (g : _) (sc : _) : Encoding.Statement (.fence g sc) := fun _ => two_lw (by decide)
theorem Encoding.jal (g : _) (d : _) (off : _) : Encoding.Statement (.jal g d off) := fun _ => two_lw (by decide)
theorem Encoding.jr (g : _) (link : _) (a : _) : Encoding.Statement (.jr g link a) := fun _ => two_lw (by decide)
theorem Encoding.meetm (g : _) (a : _) (off : _) : Encoding.Statement (.meetm g a off) := fun _ => two_lw (by decide)
theorem Encoding.vote (g : _) (mode : _) (d : _) (pd : _) (p : _) (neg : _) : Encoding.Statement (.vote g mode d pd p neg) := fun _ => two_lw (by decide)
theorem Encoding.brk (g : _) (code : _) : Encoding.Statement (.brk g code) := fun _ => two_lw (by decide)
theorem Encoding.sadd (d : _) (a : _) (b : _) : Encoding.Statement (.sadd d a b) := fun _ => one_of (pa_one (by decide) (by decide))
theorem Encoding.ssub (d : _) (a : _) (b : _) : Encoding.Statement (.ssub d a b) := fun _ => one_of (pa_one (by decide) (by decide))
theorem Encoding.smul (d : _) (a : _) (b : _) : Encoding.Statement (.smul d a b) := fun _ => one_of (pa_one (by decide) (by decide))
theorem Encoding.sand (d : _) (a : _) (b : _) : Encoding.Statement (.sand d a b) := fun _ => one_of (pa_one (by decide) (by decide))
theorem Encoding.sor (d : _) (a : _) (b : _) : Encoding.Statement (.sor d a b) := fun _ => one_of (pa_one (by decide) (by decide))
theorem Encoding.sxor (d : _) (a : _) (b : _) : Encoding.Statement (.sxor d a b) := fun _ => one_of (pa_one (by decide) (by decide))
theorem Encoding.sshl (d : _) (a : _) (b : _) : Encoding.Statement (.sshl d a b) := fun _ => one_of (pa_one (by decide) (by decide))
theorem Encoding.sshr (d : _) (a : _) (b : _) (m : _) : Encoding.Statement (.sshr d a b m) := fun _ => one_of (pa_one (by decide) (by have h0 := Bool.toNat_le m; omega))
theorem Encoding.smin (d : _) (a : _) (b : _) (m : _) : Encoding.Statement (.smin d a b m) := fun _ => one_of (pa_one (by decide) (by have h0 := Bool.toNat_le m; omega))
theorem Encoding.smax (d : _) (a : _) (b : _) (m : _) : Encoding.Statement (.smax d a b m) := fun _ => one_of (pa_one (by decide) (by have h0 := Bool.toNat_le m; omega))
theorem Encoding.sadd64 (d : _) (a : _) (b : _) (m : _) : Encoding.Statement (.sadd64 d a b m) := fun _ => one_of (pa_one (by decide) (by have h0 := Bool.toNat_le m; omega))
theorem Encoding.smov (d : _) (a : _) : Encoding.Statement (.smov d a) := fun _ => one_of (pa_one (by decide) (by decide))
theorem Encoding.scmp (q : _) (a : _) (b : _) (cond : _) (uns : _) (wide : _) : Encoding.Statement (.scmp q a b cond uns wide) := fun _ => one_of (pa_one (by decide) (by have h0 := Bool.toNat_le uns; have h1 := Bool.toNat_le wide; have h2 := condCode_lt cond; omega))
theorem Encoding.ssel (d : _) (q : _) (neg : _) (a : _) (b : _) : Encoding.Statement (.ssel d q neg a b) := fun _ => one_of (pa_one (by decide) (by have h0 := q.isLt; have h1 := Bool.toNat_le neg; omega))
theorem Encoding.sget (d : _) (cw : _) (sel : _) (idx : _) : Encoding.Statement (.sget d cw sel idx) := fun _ => one_of (pa_one (by decide) (by have h0 := Bool.toNat_le cw; omega))
theorem Encoding.sset (sel : _) (a : _) : Encoding.Statement (.sset sel a) := fun _ => one_of (pa_one (by decide) (by decide))
theorem Encoding.svote (d : _) (p : _) (neg : _) : Encoding.Statement (.svote d p neg) := fun _ => one_of (pa_one (by decide) (by have h0 := p.isLt; have h1 := Bool.toNat_le neg; omega))
theorem Encoding.smovi (d : _) (i : _) : Encoding.Statement (.smovi d i) := fun _ => one_of (pi_one (by decide))
theorem Encoding.saddi (d : _) (i : _) : Encoding.Statement (.saddi d i) := fun _ => one_of (pi_one (by decide))
theorem Encoding.smovhi (d : _) (i : _) : Encoding.Statement (.smovhi d i) := fun _ => one_of (pi_one (by decide))
theorem Encoding.sbra (qg : _) (qn : _) (off : _) : Encoding.Statement (.sbra qg qn off) := fun _ => one_of (pbr_one (by decide))
theorem Encoding.scall (qg : _) (qn : _) (off : _) : Encoding.Statement (.scall qg qn off) := fun _ => one_of (pbr_one (by decide))
theorem Encoding.sret (qg : _) (qn : _) : Encoding.Statement (.sret qg qn) := fun _ => one_of (pbr_one (by decide))
theorem Encoding.ssleep (qg : _) (qn : _) (n : _) : Encoding.Statement (.ssleep qg qn n) := fun _ => one_of (pbr_one (by decide))
theorem Encoding.cpy (r : _) (c : _) (bar : _) (la : _) (tok : _) : Encoding.Statement (.cpy r c bar la tok) := fun _ => one_of (pe_one (by decide))
theorem Encoding.cpyf (r : _) (c : _) (bar : _) (la : _) (b : _) (tok : _) : Encoding.Statement (.cpyf r c bar la b tok) := fun _ => one_of (pe_one (by decide))
theorem Encoding.cpyg (r : _) (c : _) (bar : _) (la : _) (tok : _) : Encoding.Statement (.cpyg r c bar la tok) := fun _ => one_of (pe_one (by decide))
theorem Encoding.mma (r : _) (c : _) (bar : _) (la : _) (tok : _) : Encoding.Statement (.mma r c bar la tok) := fun _ => one_of (pe_one (by decide))
theorem Encoding.mmv (r : _) (bar : _) (la : _) (tok : _) : Encoding.Statement (.mmv r bar la tok) := fun _ => one_of (pe_one (by decide))
theorem Encoding.accdrain (r : _) (c : _) (bar : _) (la : _) (zero : _) (tok : _) : Encoding.Statement (.accdrain r c bar la zero tok) := fun _ => one_of (pe_one (by decide))
theorem Encoding.accreduce (r : _) (bar : _) (la : _) (tok : _) : Encoding.Statement (.accreduce r bar la tok) := fun _ => one_of (pe_one (by decide))
theorem Encoding.splgrid (r : _) (bar : _) (la : _) (tok : _) : Encoding.Statement (.splgrid r bar la tok) := fun _ => one_of (pe_one (by decide))
theorem Encoding.splload (r : _) (bar : _) (la : _) (tok : _) : Encoding.Statement (.splload r bar la tok) := fun _ => one_of (pe_one (by decide))
theorem Encoding.splmv (r : _) (bar : _) (la : _) (dx : _) (tok : _) : Encoding.Statement (.splmv r bar la dx tok) := fun _ => one_of (pe_one (by decide))
theorem Encoding.splgrad (r : _) (bar : _) (la : _) (tok : _) : Encoding.Statement (.splgrad r bar la tok) := fun _ => one_of (pe_one (by decide))
theorem Encoding.splrefine (bar : _) (la : _) (tok : _) : Encoding.Statement (.splrefine bar la tok) := fun _ => one_of (pe_one (by decide))
theorem Encoding.item (r : _) : Encoding.Statement (.item r) := fun _ => one_of (pe_one (by decide))
theorem Encoding.admitWave (r : _) : Encoding.Statement (.admitWave r) := fun _ => one_of (pe_one (by decide))
theorem Encoding.iret (r : _) : Encoding.Statement (.iret r) := fun _ => one_of (pe_one (by decide))
theorem Encoding.smovl (d : _) (i : _) : Encoding.Statement (.smovl d i) := fun _ => two_pw (by decide) (by decide)
theorem Encoding.rdv (d : _) (a : _) (cnt : _) (off : _) : Encoding.Statement (.rdv d a cnt off) := fun _ => two_pw (by decide) (by have h0 := cnt.isLt; omega)
theorem Encoding.wrv (a : _) (b : _) (cnt : _) (off : _) : Encoding.Statement (.wrv a b cnt off) := fun _ => two_pw (by decide) (by have h0 := cnt.isLt; omega)
theorem Encoding.barInit (a : _) (n : _) : Encoding.Statement (.barInit a n) := fun _ => by cases n with | imm k => exact two_pw (by decide) (by decide) | reg b => exact two_pw (by decide) (by decide)
theorem Encoding.barArrive (sc : _) (a : _) : Encoding.Statement (.barArrive sc a) := fun _ => two_pw (by decide) (by have h0 := scopeCode_lt sc; omega)
theorem Encoding.barExpect (a : _) (b : _) : Encoding.Statement (.barExpect a b) := fun _ => two_pw (by decide) (by decide)
theorem Encoding.barWait (sc : _) (stat : _) (a : _) (b : _) : Encoding.Statement (.barWait sc stat a b) := fun _ => two_pw (by decide) (by have h0 := Bool.toNat_le stat.isSome; have h1 := scopeCode_lt sc; omega)
theorem Encoding.barTest (sc : _) (d : _) (a : _) (b : _) : Encoding.Statement (.barTest sc d a b) := fun _ => two_pw (by decide) (by have h0 := scopeCode_lt sc; omega)
theorem Encoding.stgWait (stat : _) (a : _) (b : _) : Encoding.Statement (.stgWait stat a b) := fun _ => two_pw (by decide) (by have h0 := Bool.toNat_le stat.isSome; omega)
theorem Encoding.stgDone (a : _) (b : _) : Encoding.Statement (.stgDone a b) := fun _ => two_pw (by decide) (by decide)
theorem Encoding.acquire : Encoding.Statement (.acquire) := fun _ => two_pw (by decide) (by decide)
theorem Encoding.release : Encoding.Statement (.release) := fun _ => two_pw (by decide) (by decide)
theorem Encoding.accalloc (h : _) (kind : _) : Encoding.Statement (.accalloc h kind) := fun _ => two_pw (by decide) (by have h0 := h.isLt; omega)
theorem Encoding.accfree (h : _) : Encoding.Statement (.accfree h) := fun _ => two_pw (by decide) (by have h0 := h.isLt; omega)
theorem Encoding.nodeReg (d : _) (a : _) (b : _) : Encoding.Statement (.nodeReg d a b) := fun _ => two_pw (by decide) (by decide)
theorem Encoding.nodeDec (a : _) (b : _) : Encoding.Statement (.nodeDec a b) := fun _ => two_pw (by decide) (by decide)
theorem Encoding.nodeDone : Encoding.Statement (.nodeDone) := fun _ => two_pw (by decide) (by decide)
theorem Encoding.tadvise (a : _) (b : _) (cls : _) (unsettle : _) (cnt : _) : Encoding.Statement (.tadvise a b cls unsettle cnt) := fun _ => two_pw (by decide) (by have h0 := cls.isLt; have h1 := Bool.toNat_le unsettle; omega)
theorem Encoding.tpin (a : _) (b : _) (layout : _) (cnt : _) : Encoding.Statement (.tpin a b layout cnt) := fun _ => two_pw (by decide) (by have h0 := layout.isLt; omega)
theorem Encoding.tunpin (a : _) (b : _) (cnt : _) : Encoding.Statement (.tunpin a b cnt) := fun _ => two_pw (by decide) (by decide)
theorem Encoding.tquery (d : _) (a : _) (b : _) (img : _) : Encoding.Statement (.tquery d a b img) := fun _ => two_pw (by decide) (by decide)
theorem Encoding.tdef (a : _) : Encoding.Statement (.tdef a) := fun _ => two_pw (by decide) (by decide)
theorem Encoding.sfence (sc : _) : Encoding.Statement (.sfence sc) := fun _ => two_pw (by decide) (by have h0 := scopeCode_lt sc; omega)
theorem Encoding.icinv (sc : _) (a : _) (b : _) : Encoding.Statement (.icinv sc a b) := fun _ => two_pw (by decide) (by have h0 := scopeCode_lt sc; omega)
theorem Encoding.sys (d : _) (a : _) (b : _) (n : _) : Encoding.Statement (.sys d a b n) := fun _ => two_pw (by decide) (by decide)
theorem Encoding.stage1Invalidate (d : _) (a : _) (b : _) : Encoding.Statement (.stage1Invalidate d a b) := fun _ => two_pw (by decide) (by decide)
theorem Encoding.stage1Root (d : _) (a : _) (b : _) : Encoding.Statement (.stage1Root d a b) := fun _ => two_pw (by decide) (by decide)
theorem Encoding.takePageRequest (d : _) (a : _) (b : _) : Encoding.Statement (.takePageRequest d a b) := fun _ => two_pw (by decide) (by decide)
theorem Encoding.reply (d : _) (a : _) (b : _) : Encoding.Statement (.reply d a b) := fun _ => two_pw (by decide) (by decide)
theorem Encoding.donateRetileFrames (d : _) (a : _) (b : _) : Encoding.Statement (.donateRetileFrames d a b) := fun _ => two_pw (by decide) (by decide)
theorem Encoding.rti : Encoding.Statement (.rti) := fun _ => two_pw (by decide) (by decide)
theorem Encoding.rqget (d : _) (a : _) (b : _) : Encoding.Statement (.rqget d a b) := fun _ => two_pw (by decide) (by decide)
theorem Encoding.rqput (d : _) (a : _) (b : _) : Encoding.Statement (.rqput d a b) := fun _ => two_pw (by decide) (by decide)
theorem Encoding.sbget (d : _) (a : _) (b : _) : Encoding.Statement (.sbget d a b) := fun _ => two_pw (by decide) (by decide)
theorem Encoding.ctxsave (d : _) (a : _) (b : _) : Encoding.Statement (.ctxsave d a b) := fun _ => two_pw (by decide) (by decide)
theorem Encoding.ctxrest (d : _) (a : _) (b : _) : Encoding.Statement (.ctxrest d a b) := fun _ => two_pw (by decide) (by decide)
theorem Encoding.nodeDecrement (u0 : _) (u1 : _) (u2 : _) : Encoding.Statement (.nodeDecrement u0 u1 u2) := fun _ => none_of
theorem Encoding.registration (u0 : _) (u1 : _) : Encoding.Statement (.registration u0 u1) := fun _ => none_of
theorem Encoding.nodeWindowBadAccess (u0 : _) (u1 : _) : Encoding.Statement (.nodeWindowBadAccess u0 u1) := fun _ => none_of
theorem Encoding.hostMemWrite (u0 : _) (u1 : _) (u2 : _) : Encoding.Statement (.hostMemWrite u0 u1 u2) := fun _ => none_of
theorem Encoding.hostMemRead (u0 : _) (u1 : _) (u2 : _) : Encoding.Statement (.hostMemRead u0 u1 u2) := fun _ => none_of
theorem Encoding.hostSnoop (u0 : _) : Encoding.Statement (.hostSnoop u0) := fun _ => none_of
theorem Encoding.stage (u0 : _) : Encoding.Statement (.stage u0) := fun _ => none_of
theorem Encoding.commit : Encoding.Statement (.commit) := fun _ => none_of
theorem Encoding.xlinv (u0 : _) (u1 : _) (u2 : _) : Encoding.Statement (.xlinv u0 u1 u2) := fun _ => none_of
theorem Encoding.frames (u0 : _) (u1 : _) (u2 : _) (u3 : _) : Encoding.Statement (.frames u0 u1 u2 u3) := fun _ => none_of
theorem Encoding.framesTakeBack (u0 : _) (u1 : _) (u2 : _) (u3 : _) : Encoding.Statement (.framesTakeBack u0 u1 u2 u3) := fun _ => none_of
theorem Encoding.assign (u0 : _) (u1 : _) (u2 : _) : Encoding.Statement (.assign u0 u1 u2) := fun _ => none_of
theorem Encoding.token (u0 : _) : Encoding.Statement (.token u0) := fun _ => none_of
theorem Encoding.cert : Encoding.Statement (.cert) := fun _ => none_of
theorem Encoding.preq (u0 : _) (u1 : _) : Encoding.Statement (.preq u0 u1) := fun _ => none_of
theorem Encoding.preply (u0 : _) (u1 : _) : Encoding.Statement (.preply u0 u1) := fun _ => none_of
theorem Encoding.preempt (u0 : _) (u1 : _) : Encoding.Statement (.preempt u0 u1) := fun _ => none_of
theorem Encoding.resume (u0 : _) : Encoding.Statement (.resume u0) := fun _ => none_of
theorem Encoding.ntailWrite (u0 : _) : Encoding.Statement (.ntailWrite u0) := fun _ => none_of
theorem Encoding.nlostClear (u0 : _) : Encoding.Statement (.nlostClear u0) := fun _ => none_of
theorem Encoding.logvalidWrite (u0 : _) : Encoding.Statement (.logvalidWrite u0) := fun _ => none_of
theorem Encoding.registerWrite (u0 : _) (u1 : _) : Encoding.Statement (.registerWrite u0 u1) := fun _ => none_of
theorem Encoding.groupDispatch (u0 : _) : Encoding.Statement (.groupDispatch u0) := fun _ => none_of
theorem Encoding.reservation (u0 : _) : Encoding.Statement (.reservation u0) := fun _ => none_of
theorem Encoding.argumentLoadReply (u0 : _) (u1 : _) : Encoding.Statement (.argumentLoadReply u0 u1) := fun _ => none_of
theorem Encoding.overflowListRead (u0 : _) : Encoding.Statement (.overflowListRead u0) := fun _ => none_of
theorem Encoding.planningInterval : Encoding.Statement (.planningInterval) := fun _ => none_of
theorem Encoding.energyCorrection : Encoding.Statement (.energyCorrection) := fun _ => none_of
theorem Encoding.scrubTokenDelivery (u0 : _) (u1 : _) : Encoding.Statement (.scrubTokenDelivery u0 u1) := fun _ => none_of
theorem Encoding.scrubholdTimeout (u0 : _) (u1 : _) : Encoding.Statement (.scrubholdTimeout u0 u1) := fun _ => none_of
theorem Encoding.joinTimeout (u0 : _) (u1 : _) : Encoding.Statement (.joinTimeout u0 u1) := fun _ => none_of
theorem Encoding.yieldWindowEnd (u0 : _) (u1 : _) (u2 : _) : Encoding.Statement (.yieldWindowEnd u0 u1 u2) := fun _ => none_of
theorem Encoding.ssleepWake (u0 : _) (u1 : _) : Encoding.Statement (.ssleepWake u0 u1) := fun _ => none_of
theorem Encoding.acquireGrant (u0 : _) (u1 : _) : Encoding.Statement (.acquireGrant u0 u1) := fun _ => none_of
theorem Encoding.queueEntryGrant (u0 : _) (u1 : _) : Encoding.Statement (.queueEntryGrant u0 u1) := fun _ => none_of
theorem Encoding.laneReply (u0 : _) (u1 : _) (u2 : _) (u3 : _) : Encoding.Statement (.laneReply u0 u1 u2 u3) := fun _ => none_of
theorem Encoding.fetchReply (u0 : _) (u1 : _) : Encoding.Statement (.fetchReply u0 u1) := fun _ => none_of
theorem Encoding.walkComplete (u0 : _) (u1 : _) (u2 : _) (u3 : _) : Encoding.Statement (.walkComplete u0 u1 u2 u3) := fun _ => none_of
theorem Encoding.pageRequestEntryGrant (u0 : _) : Encoding.Statement (.pageRequestEntryGrant u0) := fun _ => none_of
theorem Encoding.homeSliceRequest (u0 : _) (u1 : _) (u2 : _) (u3 : _) : Encoding.Statement (.homeSliceRequest u0 u1 u2 u3) := fun _ => none_of
theorem Encoding.hbmReadReply (u0 : _) : Encoding.Statement (.hbmReadReply u0) := fun _ => none_of
theorem Encoding.atomicPerform (u0 : _) (u1 : _) (u2 : _) (u3 : _) : Encoding.Statement (.atomicPerform u0 u1 u2 u3) := fun _ => none_of
theorem Encoding.vaultBankUpdate (u0 : _) : Encoding.Statement (.vaultBankUpdate u0) := fun _ => none_of
theorem Encoding.remoteRequest (u0 : _) : Encoding.Statement (.remoteRequest u0) := fun _ => none_of
theorem Encoding.promotionRequest (u0 : _) : Encoding.Statement (.promotionRequest u0) := fun _ => none_of
theorem Encoding.promotionReply (u0 : _) : Encoding.Statement (.promotionReply u0) := fun _ => none_of
theorem Encoding.patrol (u0 : _) (u1 : _) : Encoding.Statement (.patrol u0 u1) := fun _ => none_of
theorem Encoding.hbmRecalibration (u0 : _) : Encoding.Statement (.hbmRecalibration u0) := fun _ => none_of
theorem Encoding.linkRetrain (u0 : _) : Encoding.Statement (.linkRetrain u0) := fun _ => none_of
theorem Encoding.monitorReport (u0 : _) : Encoding.Statement (.monitorReport u0) := fun _ => none_of
theorem Encoding.retileStart (u0 : _) : Encoding.Statement (.retileStart u0) := fun _ => none_of
theorem Encoding.retileCopyEnd (u0 : _) : Encoding.Statement (.retileCopyEnd u0) := fun _ => none_of
theorem Encoding.retileDirtyPassEnd (u0 : _) : Encoding.Statement (.retileDirtyPassEnd u0) := fun _ => none_of
theorem Encoding.retilePublish (u0 : _) : Encoding.Statement (.retilePublish u0) := fun _ => none_of
theorem Encoding.retileDirtyCopyDone (u0 : _) : Encoding.Statement (.retileDirtyCopyDone u0) := fun _ => none_of
theorem Encoding.retileRelease (u0 : _) : Encoding.Statement (.retileRelease u0) := fun _ => none_of
theorem Encoding.engineCommandStart (u0 : _) (u1 : _) : Encoding.Statement (.engineCommandStart u0 u1) := fun _ => none_of
theorem Encoding.kstepWrite (u0 : _) (u1 : _) : Encoding.Statement (.kstepWrite u0 u1) := fun _ => none_of
theorem Encoding.engineCommandCompletion (u0 : _) (u1 : _) : Encoding.Statement (.engineCommandCompletion u0 u1) := fun _ => none_of
theorem Encoding.graceExpiry (u0 : _) : Encoding.Statement (.graceExpiry u0) := fun _ => none_of
theorem Encoding.shadowSwapDone (u0 : _) : Encoding.Statement (.shadowSwapDone u0) := fun _ => none_of
theorem Encoding.saveDrainDone (u0 : _) : Encoding.Statement (.saveDrainDone u0) := fun _ => none_of
theorem Encoding.commitPhase : Encoding.Statement (.commitPhase) := fun _ => none_of
theorem Encoding.layoutVersionTick : Encoding.Statement (.layoutVersionTick) := fun _ => none_of
theorem Encoding.revocation (u0 : _) : Encoding.Statement (.revocation u0) := fun _ => none_of
theorem Encoding.retirement (u0 : _) : Encoding.Statement (.retirement u0) := fun _ => none_of
theorem Encoding.scrub (u0 : _) : Encoding.Statement (.scrub u0) := fun _ => none_of
theorem Encoding.scrubDone (u0 : _) : Encoding.Statement (.scrubDone u0) := fun _ => none_of
theorem Encoding.scrubTokenSigned (u0 : _) : Encoding.Statement (.scrubTokenSigned u0) := fun _ => none_of
theorem Encoding.coldBoot : Encoding.Statement (.coldBoot) := fun _ => none_of
theorem Encoding.warmReset : Encoding.Statement (.warmReset) := fun _ => none_of
theorem Encoding.firmwareReload : Encoding.Statement (.firmwareReload) := fun _ => none_of
theorem Encoding.refresh (u0 : _) : Encoding.Statement (.refresh u0) := fun _ => none_of
theorem Encoding.ralvanPortLoss (u0 : _) : Encoding.Statement (.ralvanPortLoss u0) := fun _ => none_of
theorem Encoding.regionTeardown (u0 : _) (u1 : _) : Encoding.Statement (.regionTeardown u0 u1) := fun _ => none_of
theorem Encoding.packAccessReply (u0 : _) (u1 : _) : Encoding.Statement (.packAccessReply u0 u1) := fun _ => none_of

end Sys2Proof.Laws
end

