-- ==== Sys2Proof/Tests/Witnesses.lean ====
section
/-! SUPPORT. Witnesses: for each statement with hypotheses, concrete states and operands that meet them, clause by clause. -/
namespace Sys2Proof.Tests
open Sys2Proof.Machine Sys2Proof.Claims

/-! Small states: one pack of one thread in slot 0 of core 0. -/

/-- A translation of virtual page 3 to frame 0x100 that allows everything. -/
def page : Trans :=
  { part := 1, vpn := 3, gfn := 3, frame := 0x100, rd := true, w := true, x := true, priv := false, attr := 0, layout := 0
    elide := false, tpage := false, leaf := 0x40000 }

/-- A pack of one thread, with registers, at 0x10000. -/
def packOf (role : Role) (v s : Tab Word) : Pack :=
  { part := 1, group := 1, role := role, priv := .user, nthreads := 1, threads := [{ pc := 0x10000, v := v }], s := s
    trapbase := 0x80000, pro := 16, fullBlocks := 16, full := true }

def groupOf : Group :=
  { part := 1, slot := 5, index := 0, core := 0, rcb := 0x40000, arg := 0x30000, vbase := 0, vbytes := 65536, acc := 6
    root := false, est := 0, placed := 0 }

/-- The pack issues. -/
def issuing (p : Pack) : State :=
  { site := some (0, 0), act := 1, ipc := 0x10000, pk := p, cores := [(0, { packs := [(0, p)], tlb := [page] })]
    groups := [(1, groupOf)], parts := [(1, { map := { ctl := 0x21 } })] }

/-- The pack rests in its slot. -/
def resting (p : Pack) : State := { issuing p with site := none }

def gen : State := issuing (packOf .gen [(2, 5)] [])

/-- Lane 0 is the only lane of the mask. -/
theorem lane0 {P : Nat → Prop} (h : P 0) : ∀ l, hasLane (1 : LaneMask) l = true → P l := by
  intro l hl
  have : l = 0 := by
    have h32 := hasLane_lt hl
    revert hl; unfold hasLane
    interval_cases l <;> decide
  exact this ▸ h

theorem witness_IntegerForms :
    (∃ d a b f, intBinary (.addI32 1 (.v 2) 3) = some (d, a, b, f) ∧ Ready (.addI32 1 (.v 2) 3) gen) ∧
    (∃ d a f, intUnary (.clzB32 127 .lane) = some (d, a, f) ∧ Ready (.clzB32 127 .lane) gen) ∧
    (∃ d a f, intImmediate (.addiI32 1 2 0x1FF) = some (d, a, f) ∧ Ready (.addiI32 1 2 0x1FF) gen) ∧
    (∃ g e, intWide (.bfxI32 ⟨0, true⟩ 1 2 31 32) = some (g, e) ∧ Ready (.bfxI32 ⟨0, true⟩ 1 2 31 32) gen) ∧
    ∃ g pd f, predForm (.pset unguarded 6 7 7 0) = some (g, pd, f) ∧ Ready (.pset unguarded 6 7 7 0) gen :=
  ⟨⟨_, _, _, _, rfl, rfl, rfl, rfl⟩, ⟨_, _, _, rfl, rfl, rfl, rfl⟩, ⟨_, _, _, rfl, rfl, rfl, rfl⟩, ⟨_, _, rfl, rfl, rfl, rfl⟩,
    _, _, _, rfl, rfl, rfl, rfl⟩

theorem witness_PackedForms :
    (∃ d a b f, packedForm (.permB8 3 (.lit 0x80800706) 6) = some (d, a, b, f) ∧ Ready (.permB8 3 (.lit 0x80800706) 6) gen) ∧
    (∃ d a b f, pullFrom (.pullFwd 3 (.small 4) 2) = some (d, a, b, f) ∧ Ready (.pullFwd 3 (.small 4) 2) gen) ∧
    Ready (.vote unguarded 3 0 6 7 true) gen :=
  ⟨⟨_, _, _, _, rfl, rfl, rfl, rfl⟩, ⟨_, _, _, _, rfl, rfl, rfl, rfl⟩, rfl, rfl, rfl⟩

theorem witness_FloatForms :
    ∃ e, floatForm (.faddF32 1 (.v 2) 3 true) = some e ∧ Ready (.faddF32 1 (.v 2) 3 true) gen ∧
      NoTrap gen gen.act (fun l => (e gen (gen.pk.thread l)).2) :=
  ⟨_, rfl, ⟨rfl, rfl, rfl⟩, lane0 (by decide)⟩

theorem witness_GuardedFloatForms :
    ∃ g e, guardedFloat (.fdivF32 unguarded 1 2 3 15) = some (g, e) ∧ Ready (.fdivF32 unguarded 1 2 3 15) gen ∧
      NoTrap gen (activeOf gen g) (fun l => (e gen (activeOf gen g) l (gen.pk.thread l)).2) :=
  ⟨_, _, rfl, ⟨rfl, rfl, rfl⟩, lane0 (by decide)⟩

/-- A pack that traps INVALID, with signalling NaNs in v2. -/
def noisy : State := issuing { packOf .gen [(2, 0x7F800001)] [] with mode := 0x10 }

theorem mayTrap_issuing (p : Pack) (h1 : p.priv = .user) (h2 : p.sb = []) (h3 : p.group = 1) (h4 : p.replay = [])
    (h5 : p.late = []) : MayTrap (issuing p) groupOf :=
  ⟨by simp [issuing, h1], h2, by simp [issuing, h3, State.group], h4, h5, rfl, rfl⟩

theorem witness_ArithTraps :
    (∃ e, floatForm (.faddF32 1 (.v 2) 3 false) = some e ∧ Ready (.faddF32 1 (.v 2) 3 false) noisy ∧ MayTrap noisy groupOf ∧
      (maskOf fun l => hasLane noisy.act l && ((e noisy (noisy.pk.thread l)).2 &&& ((noisy.pk.mode >>> 4) &&& 0xF)) != 0) ≠ 0) ∧
    ∃ g e, guardedFloat (.frcpF32 unguarded 1 2 0) = some (g, e) ∧ Ready (.frcpF32 unguarded 1 2 0) noisy ∧ MayTrap noisy groupOf ∧
      (maskOf fun l => hasLane (activeOf noisy g) l &&
        ((e noisy (activeOf noisy g) l (noisy.pk.thread l)).2 &&& ((noisy.pk.mode >>> 4) &&& 0xF)) != 0) ≠ 0 :=
  ⟨⟨_, rfl, ⟨rfl, rfl, rfl⟩, mayTrap_issuing _ rfl rfl rfl rfl rfl, by decide⟩, _, _, rfl, ⟨rfl, rfl, rfl⟩,
    mayTrap_issuing _ rfl rfl rfl rfl rfl, by decide⟩

/-- A pack with an address pair in v4:v5, at the top of the address space. -/
def jumping : State := issuing (packOf .gen [(4, 0xFFFFFFFC), (5, 0xFFFFF)] [])

theorem witness_LaneControl :
    (∃ g e, controlForm (.bra 0 true 0x7FFFF) = some (g, e) ∧ Ready (.bra 0 true 0x7FFFF) gen) ∧
    Ready (.jr unguarded (some 4) 4) jumping ∧
      ∀ l, hasLane (activeOf jumping unguarded) l = true → ((jumping.pk.thread l).r64 4).toNat < 2 ^ 52 ∧
        ((jumping.pk.thread l).r64 4).toNat % 4 = 0 :=
  ⟨⟨_, _, rfl, rfl, rfl, rfl⟩, ⟨rfl, rfl, rfl⟩, lane0 (by decide)⟩

theorem witness_ThreadsExit :
    (Ready (.exit 7 false) gen ∧ gen.site = some (0, 0) ∧ gen.pk.replay = [] ∧
      (∀ l, l < 32 → (gen.pk.thread l).item = 0xFFFFFFFF) ∧ gen.loopAt gen.pk.group = none ∧
      (∀ p, p ∈ gen.allPacks → p.wait ≠ .admission) ∧
      ∀ l, l < 32 → (gen.pk.thread l).exited = true ∨ (hasLane gen.act l && ((7 : BitVec 3) == 7 || false)) = true) ∧
    Ready (.exit 0 false) gen ∧
      ∃ l, l < 32 ∧ (gen.pk.thread l).exited = false ∧
        (hasLane gen.act l && ((0 : BitVec 3) == 7 || (gen.pk.thread l).p.getLsbD 0 != false)) = false :=
  ⟨⟨⟨rfl, rfl, rfl⟩, rfl, rfl, by decide, rfl, by decide, by decide⟩, ⟨rfl, rfl, rfl⟩, 0, by decide⟩

/-- A translation of virtual page 4 to frame 0x101. -/
def rcbPage : Trans := { page with vpn := 4, gfn := 4, frame := 0x101 }

/-- A handler with `n` levels in use, the last of a region whose RCB at page 4 names a parent there, ROOT's. -/
def nested (n : Nat) : State :=
  let p := { packOf .gen [] [] with priv := .handler, sb := List.replicate n { words := [(176, 0x40000)], entries := [] } }
  { issuing p with
    cores := [(0, { packs := [(0, p)], tlb := [page, rcbPage] })]
    mem := [(0x1010001, 1), (0x1010002, 4), (0x1010022, 1), (0x1010122, 1)] }

/-- The region of RCB `va` and its parent can be read, and the parent handles class 6 itself or is ROOT's. -/
def parentReads (s : State) (va : Nat) : Bool :=
  match s.readRcb s.here s.pk.part va with
  | (s1, some r) => match s1.readRcb s.here s.pk.part r.parent with
    | (_, some h) => h.parent = 0 || !bitOf h.inherit 6
    | _ => false
  | _ => false

theorem parentReads_iff {s : State} {va : Nat} (h : parentReads s va = true) : ∃ s1 s2 r x, s.readRcb s.here s.pk.part va = (s1, some r) ∧
    s1.readRcb s.here s.pk.part r.parent = (s2, some x) ∧ (x.parent = 0 ∨ bitOf x.inherit 6 = false) := by
  unfold parentReads at h
  split at h
  · rename_i s1 r hr
    split at h
    · rename_i s2 x hx
      exact ⟨s1, s2, r, x, hr, hx, by simpa using h⟩
    · cases h
  · cases h

/-- The pack after the threads that are not active have moved past a brk. -/
def movedOn (s : State) : Pack := s.pk.onLanes (s.act &&& ~~~(activeOf s unguarded)) fun _ u => { u with pc := u.pc + 8 }

theorem witness_Breakpoint :
    (Ready (.brk unguarded 5) gen ∧ MayTrap gen groupOf ∧ activeOf gen unguarded ≠ 0) ∧
    (Ready (.brk unguarded 5) (nested 1) ∧ (nested 1).pk.replay = [] ∧ (nested 1).pk.late = [] ∧
      ((nested 1).core (nested 1).here).stalls = [] ∧ ((nested 1).core (nested 1).here).allocs = [] ∧ activeOf (nested 1) unguarded ≠ 0 ∧
      (nested 1).pk.priv ≠ .root ∧ (nested 1).pk.sb.length < 4 ∧ ∃ lv s1 s2 r x, (nested 1).pk.sb.getLast? = some lv ∧
        State.readRcb { nested 1 with pk := movedOn (nested 1) } (nested 1).here (nested 1).pk.part (lv.word64 176).toNat = (s1, some r) ∧
        s1.readRcb (nested 1).here (nested 1).pk.part r.parent = (s2, some x) ∧ (x.parent = 0 ∨ bitOf x.inherit 6 = false)) ∧
    Ready (.brk unguarded 5) (nested 4) ∧ (nested 4).pk.sb.length = 4 ∧ activeOf (nested 4) unguarded ≠ 0 :=
  ⟨⟨⟨rfl, rfl, rfl⟩, mayTrap_issuing _ rfl rfl rfl rfl rfl, by decide⟩,
    ⟨⟨rfl, rfl, rfl⟩, rfl, rfl, rfl, rfl, by decide, nofun, by decide, by
      obtain ⟨s1, s2, r, x, h⟩ := parentReads_iff (s := { nested 1 with pk := movedOn (nested 1) }) (va := 0x40000) (by decide +kernel)
      exact ⟨{ words := [(176, 0x40000)], entries := [] }, s1, s2, r, x, rfl, h⟩⟩, ⟨rfl, rfl, rfl⟩, rfl, by decide⟩

/-! Memory. -/

/-- A pack whose base s4:s5 is page 3, offset 0xFFF0 in v3, a tensor id in s2, and a vault address in s7. -/
def reaching : State := issuing (packOf .gen [(3, 0xFFF0)] [(2, 9), (4, 0x30000), (7, 0x3FC00020)])

theorem quiet_issuing (p : Pack) (h1 : p.replay = []) (hr : p.req = none) (h2 : (p.thread 0).exited = false) : Quiet (issuing p) :=
  ⟨rfl, rfl, ⟨rfl, rfl⟩, ⟨rfl, rfl⟩, nofun, rfl, rfl, rfl, rfl, h1, hr, rfl, lane0 h2⟩

theorem fresh_issuing (p : Pack) : Fresh (issuing p) := by
  intro sec bs h
  simp [issuing, State.here, State.core, tabGet, Core.sector] at h

theorem core_one {s : State} (k : Core) (h : s.cores = [(0, k)]) (c : Nat) : s.core c = if c = 0 then k else {} := by
  simp only [State.core, tabGet, h, tabFind]
  by_cases hc : c = 0
  · simp [hc]
  · simp [hc, Ne.symm hc]

theorem vaultsQuiet_issuing (p : Pack) : VaultsQuiet (issuing p) := by
  intro c
  rw [core_one _ rfl]
  split <;> exact ⟨rfl, rfl, rfl⟩

theorem reaches_page (s : State) (ask : Acc) (va pa : Nat) (h : (s.core s.here).tlb = [page]) (hp : s.pk.part = 1)
    (hv : va / 65536 = 3) (hk : s.paKind pa = .hbm) (hb : s.blockCode pa ≠ 3) (hf : pa / 65536 = 0x100) :
    Reaches s ask .flat va pa :=
  ⟨page, by simp [h, hp, hv, page], rfl, by cases ask <;> simp [Trans.allows, page], hk, hb, hf⟩

theorem witness_FlatLoads :
    ∃ x d sg, flatLoadForm (.ldB128 8 3 0 4) = some (x, d, sg) ∧ Ready (.ldB128 8 3 0 4) reaching ∧ Quiet reaching ∧
      Fresh reaching ∧ FlatOpen reaching x .load :=
  ⟨_, _, _, rfl, ⟨rfl, rfl, rfl⟩, quiet_issuing _ rfl rfl rfl, fresh_issuing _,
    lane0 ⟨by decide, by decide, reaches_page _ _ _ _ rfl rfl (by decide) (by decide) (by decide) (by decide)⟩⟩

theorem unchecked_issuing (p : Pack) (g : Guard) (h : p.mode.getLsbD 8 = false) : Unchecked (issuing p) g := by
  intro l _ hm
  exact absurd (h.symm.trans hm) (by decide)

theorem witness_FlatStores :
    ∃ x d, flatStoreForm (.stB128 8 3 0 4) = some (x, d) ∧ Ready (.stB128 8 3 0 4) reaching ∧ Quiet reaching ∧
      FlatOpen reaching x .store ∧ Unchecked reaching x.g :=
  ⟨_, _, rfl, ⟨rfl, rfl, rfl⟩, quiet_issuing _ rfl rfl rfl,
    lane0 ⟨by decide, by decide, reaches_page _ _ _ _ rfl rfl (by decide) (by decide) (by decide) (by decide)⟩,
    unchecked_issuing _ _ rfl⟩

theorem witness_FlatAtomics :
    ∃ x d f, flatAtomic (.atom unguarded 8 3 10 0 .i64 .add .rlx .grp 4) = some (x, d, f) ∧
      Ready (.atom unguarded 8 3 10 0 .i64 .add .rlx .grp 4) reaching ∧ Quiet reaching ∧ FlatOpen reaching x .rmw ∧
      Unchecked reaching x.g ∧ reaching.granted .atom = true :=
  ⟨_, _, _, rfl, ⟨rfl, rfl, rfl⟩, quiet_issuing _ rfl rfl rfl,
    lane0 ⟨by decide, by decide, reaches_page _ _ _ _ rfl rfl (by decide) (by decide) (by decide) (by decide)⟩,
    unchecked_issuing _ _ rfl, by decide⟩

/-- A pack whose vault address s7 + v3 is the last 16 bytes of its group's allocation. -/
def vaulting : State := issuing (packOf .gen [(3, 0xFFD0)] [(7, 0x3FC00020)])

theorem witness_VaultAccesses :
    (∃ x d, vaultLoadForm (.vldB128 8 3 0 7) = some (x, d) ∧ Ready (.vldB128 8 3 0 7) vaulting ∧ Quiet vaulting ∧
      VaultsQuiet vaulting ∧ VaultOpen vaulting x) ∧
    ∃ x d f, vaultUpdate (.vstB128 8 3 0 7) = some (x, d, f) ∧ Ready (.vstB128 8 3 0 7) vaulting ∧ Quiet vaulting ∧
      VaultsQuiet vaulting ∧ VaultOpen vaulting x :=
  ⟨⟨_, _, rfl, ⟨rfl, rfl, rfl⟩, quiet_issuing _ rfl rfl rfl, vaultsQuiet_issuing _, lane0 ⟨by decide, 0, 0xFFF0, by decide, by decide⟩⟩,
    _, _, _, rfl, ⟨rfl, rfl, rfl⟩, quiet_issuing _ rfl rfl rfl, vaultsQuiet_issuing _, lane0 ⟨by decide, 0, 0xFFF0, by decide, by decide⟩⟩

/-- A tensor record (R98): FP32, rank 1, 16384 elements, linear, at page 3. -/
def linearRec : List Byte :=
  bytesOfNat 8 0x30000 ++ bytesOfNat 8 0 ++ bytesOfNat 4 0x102 ++ bytesOfNat 4 16384 ++ List.replicate 28 0 ++ bytesOfNat 4 15 ++
    List.replicate 8 0

/-- A tensor record: FP32, rank 2, 128 by 128 elements, tiled, at page 3. -/
def tiledRec : List Byte :=
  bytesOfNat 8 0x30000 ++ bytesOfNat 8 0 ++ bytesOfNat 4 0x202 ++ bytesOfNat 4 128 ++ bytesOfNat 4 128 ++ List.replicate 12 0 ++
    bytesOfNat 4 0x77 ++ List.replicate 20 0

/-- The record as the machine reads it. -/
def recOf (b : List Byte) : TRec :=
  (parseTRec b).getD ⟨0, 0, 0, 0, false, false, false, false, false, 0, [], 0, 0, false⟩

/-- The pack issues, with tensor 9 described and page 3 held as a tensor page under a layout. -/
def tensing (b : List Byte) (layout : Nat) (p : Pack) : State :=
  { issuing p with
    cores := [(0, { packs := [(0, p)], tlb := [{ page with tpage := true, layout := layout }] })]
    parts := [(1, { map := { ctl := 0x21 }, records := [(9, b)] })] }

/-- A pack with coordinate 16383 in v3 and tensor 9 in s2. -/
def last : State := tensing linearRec 15 (packOf .gen [(3, 16383)] [(2, 9), (7, 0x3FC00020)])

theorem described_last : Described last 9 (recOf linearRec) := ⟨rfl, by decide, linearRec, rfl, by decide⟩

theorem open_last (ask : Acc) : TensorOpen last (recOf linearRec) ⟨unguarded, 3, 2⟩ ask :=
  lane0 ⟨by decide, { page with tpage := true, layout := 15 }, by decide, by decide, by cases ask <;> rfl, by decide, by decide,
    by decide⟩

theorem quiet_last : Quiet last :=
  ⟨rfl, rfl, ⟨rfl, rfl⟩, ⟨rfl, rfl⟩, nofun, rfl, rfl, rfl, rfl, rfl, rfl, rfl, lane0 rfl⟩

theorem fresh_last : Fresh last := by
  intro sec bs h
  simp [last, tensing, State.here, State.core, tabGet, issuing, Core.sector] at h

theorem unchecked_last (g : Guard) : Unchecked last g := by
  intro l _ hm
  exact absurd hm (by decide)

theorem witness_TensorAccesses :
    (∃ x f, tensorForm (.tst 8 3 0 2) = some (x, f) ∧ Ready (.tst 8 3 0 2) last ∧ Quiet last ∧ Fresh last ∧
      Described last (x.tid last) (recOf linearRec) ∧ (recOf linearRec).paired = false ∧ (recOf linearRec).fmt ≠ 7 ∧
      f.fits (recOf linearRec) = true ∧ TensorOpen last (recOf linearRec) x f.ask ∧ Unchecked last x.g ∧ f.ask ≠ .rmw) ∧
    ∃ x f, tensorForm (.tatom unguarded 8 3 10 0 .add .rlx .grp 2) = some (x, f) ∧
      Ready (.tatom unguarded 8 3 10 0 .add .rlx .grp 2) last ∧ f.fits (recOf linearRec) = true ∧
      TensorOpen last (recOf linearRec) x f.ask ∧ last.granted .atom = true :=
  ⟨⟨_, _, rfl, ⟨rfl, by decide⟩, quiet_last, fresh_last, described_last, by decide, by decide, by decide,
    open_last _, unchecked_last _, by decide⟩,
    _, _, rfl, ⟨rfl, by decide⟩, by decide, open_last _, by decide⟩

theorem witness_ReductionsWithBarrier :
    (Ready (.red unguarded 3 10 0 .i32 .add .rel .dev 4 (some 7)) reaching ∧ Quiet reaching ∧ VaultsQuiet reaching ∧
      FlatOpen reaching ⟨unguarded, 3, 4, 4⟩ .rmw ∧ Unchecked reaching unguarded ∧ reaching.granted .atom = true ∧
      barrierPlace reaching (reaching.pk.sreg 7) = some (0, 0x20)) ∧
    Ready (.tred unguarded 3 10 0 .add .rlx .grp 2 (some 7)) last ∧ Quiet last ∧ VaultsQuiet last ∧
      Described last 9 (recOf linearRec) ∧ TensorDoes.fits (recOf linearRec) (.update none 10 .add) = true ∧
      TensorOpen last (recOf linearRec) ⟨unguarded, 3, 2⟩ .rmw ∧ Unchecked last unguarded ∧ last.granted .atom = true ∧
      barrierPlace last (last.pk.sreg 7) = some (0, 0x20) :=
  ⟨⟨⟨rfl, by decide⟩, quiet_issuing _ rfl rfl rfl, vaultsQuiet_issuing _,
    lane0 ⟨by decide, by decide, reaches_page _ _ _ _ rfl rfl (by decide) (by decide) (by decide) (by decide)⟩,
    unchecked_issuing _ _ rfl, by decide, by decide⟩,
    ⟨rfl, by decide⟩, quiet_last, by
      intro c
      rw [core_one _ rfl]
      split <;> exact ⟨rfl, rfl, rfl⟩, described_last, by decide, open_last _, unchecked_last _, by decide, by decide⟩

/-- A pack whose item may still claim 1 address: 63 are claimed. -/
def claiming : State :=
  { last with pk := { last.pk with threads := [{ pc := 0x10000, v := [(3, 16383)], item := 4, claims := List.replicate 63 0 }] } }

theorem witness_Claims :
    (Ready (.claim 3 0 2) claiming ∧
      (∀ l, hasLane claiming.act l = true →
        ((claiming.pk.s64 2).toNat + ((claiming.pk.thread l).r 3).toNat) % 2 ^ 64 < 2 ^ 52) ∧
      ∀ l, hasLane claiming.act l = true → (claiming.pk.thread l).exited = false ∧ (claiming.pk.thread l).item ≠ 0xFFFFFFFF ∧
        (claiming.pk.thread l).admitted = false ∧ (claiming.pk.thread l).claims.length < 64) ∧
    Ready (.tclaim 3 0 2) claiming ∧ Described claiming 9 (recOf linearRec) ∧ (recOf linearRec).fmt ≠ 7 ∧
      ∀ l, hasLane claiming.act l = true → (recOf linearRec).inside (laneCoords claiming (recOf linearRec) ⟨unguarded, 3, 2⟩ l) = true :=
  ⟨⟨⟨rfl, rfl, rfl⟩, lane0 (by decide), lane0 (by decide)⟩, ⟨rfl, by decide⟩, described_last, by decide, lane0 (by decide)⟩

/-- An entry with lane 0 still in flight. -/
def entry (w : Word) (ph : Phase) : Entry :=
  { id := 5, state := 1, mask := 1, w0 := w, w1 := 0, pc := 0x10000, req := 0, lanes := [(0, ⟨List.replicate 8 0, ph, none, 0⟩)]
    priv := .user, bar := 0, queued := 0 }

def inFlight : State := issuing { packOf .gen [(3, 0xFFF0)] [(4, 0x30000), (7, 0x3FC00020)] with replay := [entry 0x49061400 .walk] }

theorem witness_Fences :
    (Ready (.fence unguarded .dev) gen ∧ activeOf gen unguarded ≠ 0 ∧ gen.pk.replay.all (·.mask == 0) = true) ∧
    (Ready (.fence unguarded .dev) inFlight ∧ activeOf inFlight unguarded ≠ 0 ∧
      inFlight.pk.replay.all (·.mask == 0) = false) ∧
    (Ready (.sfence .cl) gen ∧ Ready (.sfence .cl) inFlight) :=
  ⟨⟨⟨rfl, rfl, rfl⟩, by decide, rfl⟩, ⟨⟨rfl, rfl, rfl⟩, by decide, rfl⟩, ⟨rfl, rfl, rfl⟩, rfl, rfl, rfl⟩

/-- A pack whose address s4:s5 + v3 is odd. -/
def odd : State := issuing (packOf .gen [(3, 1)] [(4, 0x30000)])

/-- A pack whose address s4:s5 is on a page that nothing maps; its die holds the table that would. -/
def absent : State := { issuing (packOf .gen [] [(4, 0x50000)]) with s1u := [(0, ⟨1, 0, 0x2000000, []⟩)] }

/-- The entry of ld.b32 v8, [s4:s5 + v3] of lane 0, parked on request 7. -/
def waitingLane : LaneAcc := ⟨[0x3FFF0, 0, 0, 0, 0, 0, 0, 0], .parked (some 7) 0x3FFF0, none, 0⟩

def waitingLoad : Entry :=
  { entry ((encode (.ldB32 8 3 0 4)).headD 0) .walk with state := 2, lanes := [(0, waitingLane)] }

/-- A pack that waits for the reply to request 7. -/
def faulted : Pack := { packOf .gen [(3, 0xFFF0)] [(4, 0x30000)] with wait := .parked, replay := [waitingLoad] }

def faultReq : PageReq :=
  { fn := 1, part := 1, stage2 := true, access := 0, addr := 0x50000, page := 5, time := 9, src := 0, taken := true, waiter := .lanes 5 1 }

def awaiting : State := { resting faulted with pages := [(7, faultReq)] }

theorem parked_awaiting : Parked awaiting 0 0 faulted waitingLoad 7 faultReq (fun _ => waitingLane) (fun _ => 0x3FFF0) := by
  refine ⟨rfl, rfl, rfl, rfl, rfl, by decide, fun l => ?_, rfl, lane0 ⟨rfl, rfl, by decide, rfl⟩, ⟨by decide, rfl, rfl, rfl⟩,
    ⟨fun k r h hk => ?_, rfl⟩, fun k n r h hn => ?_⟩
  · show (if 0 = l then some waitingLane else none) = _
    by_cases h : l = 0
    · subst h; rfl
    · rw [if_neg (Ne.symm h), if_neg]
      intro hl
      exact h (lane0 (P := fun l => l = 0) rfl l hl)
  · rcases List.mem_singleton.1 (show (k, r) ∈ [(7, faultReq)] from h) with h
    cases h; exact absurd rfl hk
  · rcases List.mem_singleton.1 (show (k, n, r) ∈ [(0, 0, faulted)] from h) with h
    cases h; exact absurd ⟨rfl, rfl⟩ hn

/-- An entry of zeros maps nothing. -/
theorem readEntry_zero (s : State) (a m : Nat) (hm : s.mem = []) (hh : s.home = {}) : (s.readEntry a m).2 = .error (.page false 0) := by
  have hb : s.blockCode a = 0 := by simp [State.blockCode, hh]
  have hc := State.homeRead_clean s a 8 (by simp [hh]) (by simp [hh]) (by simp [hh]) (by simp [hh]) (by simp [hh]) (by rw [hb]; decide)
  unfold State.readEntry
  generalize s.homeRead a 8 = x at hc ⊢
  obtain ⟨bs, bad, s'⟩ := x
  obtain ⟨h1, h2, -⟩ := hc
  simp only at h1 h2
  subst h1 h2
  have hz : ∀ b, s.memByte b = 0 := fun b => by
    simp only [State.memByte, hh, hm]; rfl
  have : natOfBytes (s.memBytes a 8) = 0 := by simp [State.memBytes, hz, natOfBytes]
  simp [this]

/-- A leaf table of zeros refuses every page. -/
theorem refused_of (s : State) (table va : Nat) (p : Priv) (h1 : (s.core 0).tlb.find? (·.hits 1 (va / 65536)) = none) (h2 : s.clusterTlb = [])
    (h3 : s.s1u = [(0, ⟨1, 0, table, []⟩)]) (hv : va / 2 ^ 29 = 0) (hm : s.mem = []) (hh : s.home = {}) :
    (s.translate 0 1 p .load .flat va).2 = .error (.page false va) := by
  have h5 : s.leafTable1 (dieOf 0) 1 va = (s, .ok table) := by
    unfold State.leafTable1; rw [h3, List.find?_cons_of_pos]; simp only [hv]; rfl
  have h6 : (s.walk (dieOf 0) 1 va).2 = .error (.page false va) := by
    have h4 := readEntry_zero s (table + 8 * bits va 28 16) mbzLeaf1 hm hh
    unfold State.walk
    rw [h5]
    simp only
    generalize s.readEntry (table + 8 * bits va 28 16) mbzLeaf1 = x at h4 ⊢
    obtain ⟨s', r⟩ := x
    simp only at h4
    subst h4
    rfl
  unfold State.translate
  simp only [h1, h2, List.find?_nil]
  unfold State.walkFor
  generalize s.walk (dieOf 0) 1 va = x at h6 ⊢
  obtain ⟨s', r⟩ := x
  simp only at h6
  subst h6
  rfl

theorem refused_absent : Refused absent .load .flat 0x50000 0x50000 false := fun pk env =>
  refused_of { absent with pk := pk, env := env } 0x2000000 0x50000 .user rfl rfl rfl (by decide) rfl rfl

theorem witness_FaultingLoads :
    (∃ x d sg, flatLoadForm (.ldB32 8 3 0 4) = some (x, d, sg) ∧ Ready (.ldB32 8 3 0 4) absent ∧ Quiet absent ∧ activeOf absent x.g ≠ 0 ∧
      (∀ l, hasLane (activeOf absent x.g) l = true → flatVa absent x l % x.n = 0 ∧ flatVa absent x l / 2 ^ 16 = 5) ∧
      Refused absent .load .flat (flatVa absent x ((lanesOf (activeOf absent x.g)).headD 0)) 0x50000 false ∧
      absent.pageMayTake (absent.part absent.pk.part).map.vf = true ∧ tabFind absent.pages 0 = none ∧ absent.overflow = []) ∧
    (Idle awaiting ∧ Listed awaiting ∧ Clean awaiting ∧ awaiting.env.defer = false ∧ faultReq.stage2 = true ∧
      decode waitingLoad.w0 waitingLoad.w1 = .ok (.ldB32 8 3 0 4) ∧
      Parked awaiting 0 0 faulted waitingLoad 7 faultReq (fun _ => waitingLane) (fun _ => 0x3FFF0) ∧
      (let v : State := { awaiting with site := some (0, 0), pk := { faulted with priv := waitingLoad.priv } }
       recordVa waitingLane = 0x3FFF0 ∧ Reaches v .load .flat 0x3FFF0 (heldPa v 0x3FFF0) ∧
        MayTrap { v with pk := { faulted with replay := [] } } groupOf)) ∧
    ∃ x d sg, flatLoadForm (.ldB32 8 3 0 4) = some (x, d, sg) ∧ Ready (.ldB32 8 3 0 4) odd ∧ Quiet odd ∧ Fresh odd ∧
      MayTrap odd groupOf ∧ (maskOf fun l => hasLane (activeOf odd x.g) l && decide (flatVa odd x l % x.n ≠ 0)) = 1 ∧
      (∀ l, hasLane (activeOf odd x.g) l = true → flatVa odd x l < 2 ^ 52) ∧
      ∀ l, hasLane (activeOf odd x.g) l = true → hasLane (1 : LaneMask) l = false →
        Reaches odd .load .flat (flatVa odd x l) (flatPa odd x l) :=
  ⟨⟨_, _, _, rfl, ⟨rfl, rfl, rfl⟩, ⟨rfl, rfl, ⟨rfl, rfl⟩, ⟨rfl, rfl⟩, nofun, rfl, rfl, rfl, rfl, rfl, rfl, rfl, lane0 rfl⟩, by decide,
      lane0 (by decide), refused_absent, by decide +kernel, rfl, rfl⟩,
    ⟨rfl, ⟨rfl, fun c => by rw [core_one _ rfl]; split <;> rfl⟩, ⟨rfl, rfl, rfl, rfl, rfl⟩, rfl, rfl, rfl, parked_awaiting, by decide,
      reaches_page _ _ _ _ rfl rfl (by decide) (by decide) (by decide) (by decide), nofun, rfl, rfl, rfl, rfl, rfl, rfl⟩,
    _, _, _, rfl, ⟨rfl, rfl, rfl⟩, quiet_issuing _ rfl rfl rfl, fresh_issuing _, mayTrap_issuing _ rfl rfl rfl rfl rfl, by decide,
    lane0 (by decide), lane0 fun h => absurd h (by decide)⟩

/-! Pack instructions. -/

theorem witness_UniformForms :
    (∃ f, uniformForm (.sadd64 62 62 62 true) = some f ∧ Ready (.sadd64 62 62 62 true) gen) ∧
    ∃ f, uniformForm (.scmp 3 62 0 .ge true true) = some f ∧ Ready (.scmp 3 62 0 .ge true true) gen :=
  ⟨⟨_, rfl, rfl, rfl, rfl⟩, _, rfl, rfl, rfl, rfl⟩

/-- A pack whose return address s62:s63 is `a`. -/
def returning (a : Nat) : State := issuing (packOf .gen [] [(62, BitVec.ofNat 32 a), (63, BitVec.ofNat 32 (a / 2 ^ 32))])

theorem witness_PackBranches :
    (Ready (.sbra 7 false 0x7FFFB) gen ∧ packTaken gen.pk 7 false) ∧ (Ready (.sbra 3 false 1) gen ∧ ¬packTaken gen.pk 3 false) ∧
    (Ready (.scall 0 true 1) gen ∧ packTaken gen.pk 0 true) ∧ (Ready (.scall 0 false 1) gen ∧ ¬packTaken gen.pk 0 false) ∧
    (Ready (.sret 7 false) (returning (2 ^ 52 - 4)) ∧ ((returning (2 ^ 52 - 4)).pk.s64 62).toNat = 2 ^ 52 - 4) ∧
    (Ready (.sret 7 false) (returning 2) ∧ ((returning 2).pk.s64 62).toNat % 4 ≠ 0 ∧ MayTrap (returning 2) groupOf) ∧
    (Ready (.sret 7 false) (returning (2 ^ 52)) ∧ ((returning (2 ^ 52)).pk.s64 62).toNat = 2 ^ 52 ∧
      MayTrap (returning (2 ^ 52)) groupOf) ∧
    (Ready (.ssleep 7 false 0x7FFFF) gen ∧ packTaken gen.pk 7 false) ∧ Ready (.ssleep 7 false 0) gen :=
  ⟨⟨⟨rfl, rfl, rfl⟩, .inl rfl⟩, ⟨⟨rfl, rfl, rfl⟩, by unfold packTaken; decide⟩, ⟨⟨rfl, rfl, rfl⟩, by unfold packTaken; decide⟩,
    ⟨⟨rfl, rfl, rfl⟩, by unfold packTaken; decide⟩, ⟨⟨rfl, rfl, rfl⟩, by decide⟩,
    ⟨⟨rfl, rfl, rfl⟩, by decide, mayTrap_issuing _ rfl rfl rfl rfl rfl⟩,
    ⟨⟨rfl, rfl, rfl⟩, by decide, mayTrap_issuing _ rfl rfl rfl rfl rfl⟩, ⟨⟨rfl, rfl, rfl⟩, .inl rfl⟩, rfl, rfl, rfl⟩

theorem drained_of {s : State} (h : s.pk.replay = []) : Drained s := by intro e he; rw [h] at he; cases he

theorem not_drained {s : State} (e : Entry) (h : s.pk.replay = [e]) (hm : e.mask ≠ 0) : ¬Drained s :=
  fun hd => hm (hd e (by rw [h]; exact List.mem_singleton.2 rfl))

/-- The pack is at ROOT. -/
def rooted (v s : Tab Word) : State := issuing { packOf .gen v s with priv := .root }

theorem witness_SpecialReads :
    (Ready (.sget 62 false 7 0) gen ∧ ∃ ws, specialWords gen 7 = some ws) ∧ Ready (.sget 62 false 8 0) gen ∧
    (Ready (.sget 63 false 13 0) gen ∧ gen.group gen.pk.group = some groupOf ∧ groupOf.loopObj = none) ∧
    (Ready (.sget 63 true 1 0) gen ∧ (∃ ws, controlWords gen 1 0 = some ws) ∧ Drained gen) ∧
    (Ready (.sget 62 true 29 8) (rooted [] []) ∧ ∃ ws, controlWords (rooted [] []) 29 8 = some ws) ∧
    Ready (.sget 63 true 0 0) inFlight ∧ (∃ ws, controlWords inFlight 0 0 = some ws) ∧ ¬Drained inFlight :=
  ⟨⟨⟨rfl, rfl, rfl⟩, _, rfl⟩, ⟨rfl, rfl, rfl⟩, ⟨⟨rfl, rfl, rfl⟩, rfl, rfl⟩, ⟨⟨rfl, rfl, rfl⟩, ⟨_, rfl⟩, drained_of rfl⟩, ⟨⟨rfl, rfl, rfl⟩, _, rfl⟩,
    ⟨rfl, rfl, rfl⟩, ⟨_, rfl⟩, not_drained _ rfl (by decide)⟩

theorem witness_ControlWrites :
    (Ready (.sset 0 3) gen ∧ Drained gen ∧ ¬7 ≤ (0 : BitVec 6).toNat) ∧
    (Ready (.sset 7 3) (rooted [] [(3, 64)]) ∧
      queueLimits (queuesAfter (rooted [] [(3, 64)]) 7 64).1 (queuesAfter (rooted [] [(3, 64)]) 7 64).2) ∧
    (Ready (.sset 12 3) (rooted [] [(3, 127)]) ∧
      ¬queueLimits (queuesAfter (rooted [] [(3, 127)]) 12 127).1 (queuesAfter (rooted [] [(3, 127)]) 12 127).2) ∧
    Ready (.sset 3 3) inFlight ∧ ¬Drained inFlight :=
  ⟨⟨⟨rfl, rfl, rfl⟩, drained_of rfl, by decide⟩, ⟨⟨rfl, rfl, rfl⟩, by unfold queueLimits; decide⟩,
    ⟨⟨rfl, rfl, rfl⟩, by unfold queueLimits; decide⟩, ⟨rfl, rfl, rfl⟩, not_drained _ rfl (by decide)⟩

theorem witness_VaultWords :
    (Ready (.rdv 48 7 15 0xFFA0) vaulting ∧ VaultsQuiet vaulting ∧ (vaulting.pk.sreg 7 + 0xFFA0).toNat % 4 = 0 ∧
      ∀ k, k < 16 → ∃ c o, vaulting.vaultAddr 1 1 (vaulting.pk.sreg 7 + 0xFFA0 + BitVec.ofNat 32 (4 * k)) = some (c, o) ∧
        o + 4 ≤ 2 ^ 22) ∧
    Ready (.wrv 7 48 15 0xFFA0) vaulting := by
  refine ⟨⟨⟨rfl, rfl, rfl⟩, vaultsQuiet_issuing _, by decide, fun k hk => ⟨0, 0xFFC0 + 4 * k, ?_, by omega⟩⟩, rfl, rfl, rfl⟩
  revert k; decide

theorem witness_BarrierUpdates :
    (Ready (.barInit 7 (.imm 0xFFFF)) vaulting ∧ VaultsQuiet vaulting ∧ barrierPlace vaulting (vaulting.pk.sreg 7) = some (0, 0x20)) ∧
    (Ready (.barInit 7 (.reg 9)) vaulting ∧ (vaulting.pk.sreg 9).toNat % 2 ^ 16 = 0 ∧ MayTrap vaulting groupOf) ∧
    (Ready (.barArrive .dev 7) vaulting ∧ Drained vaulting) ∧
    (Ready (.barArrive .dev 7) inFlight ∧ VaultsQuiet inFlight ∧
      barrierPlace inFlight (inFlight.pk.sreg 7) = some (0, 0x20) ∧ ¬Drained inFlight) ∧ Ready (.barExpect 7 9) vaulting ∧
    Ready (.stgDone 7 8) (issuing (packOf .gen [] [(7, 0x3FC00020), (8, 0x111)])) ∧ cursorOk 0x111 ∧
      barrierPlace (issuing (packOf .gen [] [(7, 0x3FC00020), (8, 0x111)])) (ringBarrier 0x3FC00020 0x111 false) = some (0, 0x40) :=
  ⟨⟨⟨rfl, rfl, rfl⟩, vaultsQuiet_issuing _, by decide⟩, ⟨⟨rfl, rfl, rfl⟩, by decide, mayTrap_issuing _ rfl rfl rfl rfl rfl⟩,
    ⟨⟨rfl, rfl, rfl⟩, drained_of rfl⟩, ⟨⟨rfl, rfl, rfl⟩, vaultsQuiet_issuing _, by decide, not_drained _ rfl (by decide)⟩, ⟨rfl, rfl, rfl⟩, ⟨rfl, rfl, rfl⟩,
    by unfold cursorOk; decide, by decide⟩

/-- A pack that waits at a barrier s7 with sb[0] in s8, and a cursor in s9. -/
def waiting (b cur : Word) : State := issuing (packOf .gen [] [(7, 0x3FC00020), (8, b), (9, cur)])

theorem witness_BarrierWaits :
    (Ready (.barWait .dev (some 20) 7 8) (waiting 1 0) ∧ VaultsQuiet (waiting 1 0) ∧
      barrierPlace (waiting 1 0) ((waiting 1 0).pk.sreg 7) = some (0, 0x20) ∧ (barrierAt (waiting 1 0) 0 0x20).phase ≠ true) ∧
    (Ready (.barWait .dev (some 20) 7 8) (waiting 0 0) ∧ (barrierAt (waiting 0 0) 0 0x20).phase = false) ∧
    Ready (.barTest .cl 20 7 8) (waiting 1 0) ∧
    (Ready (.stgWait none 7 9) (waiting 0 0x010) ∧ cursorOk 0x010 ∧
      barrierPlace (waiting 0 0x010) (ringBarrier 0x3FC00020 0x010 true) = some (0, 0x30) ∧
      (barrierAt (waiting 0 0x010) 0 0x30).phase = (cursorPass 0x010 != cursorConsumer 0x010)) ∧
    Ready (.stgWait none 7 9) (waiting 0 0x110) ∧ cursorOk 0x110 ∧
      (barrierAt (waiting 0 0x110) 0 0x30).phase ≠ (cursorPass 0x110 != cursorConsumer 0x110) :=
  ⟨⟨⟨rfl, rfl, rfl⟩, vaultsQuiet_issuing _, by decide, by decide⟩, ⟨⟨rfl, rfl, rfl⟩, by decide⟩, ⟨rfl, rfl, rfl⟩,
    ⟨⟨rfl, rfl, rfl⟩, by unfold cursorOk; decide, by decide, by decide⟩, ⟨rfl, rfl, rfl⟩, by unfold cursorOk; decide, by decide⟩

/-- With the group's RCB at page 4 (R180), of a root region that no limit binds, and a translation of it for the MP. -/
def managed (s : State) : State := { s with mem := [(0x1010022, 1)], cores := s.cores ++ [(160, { tlb := [rcbPage] })] }

/-- A pack at its prologue allotment of 1 block, whose full one is `full` blocks. -/
def proOf (full : Nat) : State := managed (issuing { packOf .gen [] [] with pro := 1, fullBlocks := full, full := false })

/-- A pack with a load of v8 still to come, and its full allotment. -/
def loading : State :=
  issuing { packOf .gen [] [] with pro := 1, replay := [entry 0x49061400 .walk], pend := [⟨.v 8, 1, 5⟩] }

theorem packs_one {s : State} {p : Pack} {k : Nat} {q : Pack} (h : (s.core 0).packs = [(0, p)]) (hm : (k, q) ∈ (s.core 0).packs) :
    k = 0 ∧ q = p := by
  rw [h] at hm
  simpa using hm

theorem witness_Allotments :
    (Ready .acquire gen ∧ gen.site = some (0, 0) ∧ gen.pk.full = true) ∧
    (Ready .acquire (proOf 2) ∧ (proOf 2).pk.full = false ∧ (proOf 2).pk.pro < (proOf 2).pk.fullBlocks ∧
      (∀ k p, (k, p) ∈ ((proOf 2).core 0).packs → k / 12 = 0 / 12 → k ≠ 0 → p.wait ≠ .acquire) ∧
      tabRising ((proOf 2).core 0).packs 0 = true ∧
      (proOf 2).pk.fullBlocks - (proOf 2).pk.pro ≤ (((proOf 2).block .acquire).flush).freeBlocks 0 0 ∧
      ((((proOf 2).block .acquire).flush).acquireEnergy { (proOf 2).pk with wait := .acquire }).2 = true) ∧
    (Ready .acquire (proOf 129) ∧
      (((proOf 129).block .acquire).flush).freeBlocks 0 0 < (proOf 129).pk.fullBlocks - (proOf 129).pk.pro) ∧
    (let s : State := { proOf 2 with mp := { predicted := 2400001 } }
     Ready .acquire s ∧ s.pk.full = false ∧ s.pk.fullBlocks - s.pk.pro ≤ ((s.block .acquire).flush).freeBlocks 0 0 ∧
      (((s.block .acquire).flush).acquireEnergy { s.pk with wait := .acquire }).2 = false) ∧
    (Ready .release (proOf 2) ∧ (proOf 2).pk.full = false) ∧
    (Ready .release loading ∧ loading.pk.full = true ∧ (loading.pk.pend.any fun q => match q.reg with
      | .v n => decide (8 * loading.pk.pro ≤ n)
      | _ => false) = true) ∧
    Ready .release gen ∧ gen.pk.full = true ∧ gen.pk.pend = [] :=
  ⟨⟨⟨rfl, rfl, rfl⟩, rfl, rfl⟩, ⟨⟨rfl, rfl, rfl⟩, rfl, by decide, fun _ _ h _ hk => absurd (packs_one rfl h).1 hk, by decide, by decide,
      by decide +kernel⟩, ⟨⟨rfl, rfl, rfl⟩, by decide⟩, ⟨⟨rfl, rfl, rfl⟩, rfl, by decide, by decide +kernel⟩, ⟨⟨rfl, rfl, rfl⟩, rfl⟩, ⟨⟨rfl, rfl, rfl⟩, rfl, by decide⟩, ⟨rfl, rfl, rfl⟩, rfl, rfl⟩

/-- A matrix pack whose group holds these handles. -/
def matrix (hs : Tab Machine.Handle) : State := { issuing (packOf .mtx [] []) with groups := [(1, { groupOf with handles := hs })] }

/-- A bound handle in slot `i` of engine `e`. -/
def single (e i : Nat) : Machine.Handle := { kind := .single, engine := e, slot := i, split := [], kg := 1, kord := 3, audit := 0 }

/-- Other groups hold every slot of the engines below `n`. -/
def crowded (n : Nat) : State :=
  { matrix [] with
    groups := [(1, groupOf), (2, { groupOf with
      handles := (List.range n).flatMap fun e => (List.range 6).map fun i => (6 * e + i, single e i) })] }

theorem roomOf_far {s : State} (h : s.groups = [(1, groupOf)]) (e : Nat) : roomOf s e = 6 := by
  have : ∀ i, i < 6 → slotFree s e i = true := by
    intro i hi
    simp [slotFree, h, groupOf, hi]
  unfold roomOf
  rw [List.countP_eq_length.2]
  · rfl
  · intro i hi; exact this i (List.mem_range.1 hi)

theorem first_own : FirstChoices (matrix []) 0 [0] := by
  refine ⟨fun e he => ?_, List.pairwise_singleton _ _, fun b hb hn a ha => ?_⟩
  · rw [List.mem_singleton.1 he]; exact ⟨rfl, by rw [roomOf_far rfl]; decide⟩
  · rw [List.mem_singleton.1 ha]; exact .inl rfl

theorem first_four : FirstChoices (matrix []) 0 [0, 1, 2, 3] := by
  have r := fun e => roomOf_far (s := matrix []) rfl e
  refine ⟨fun e he => ?_, ?_, fun b hb hn a ha => ?_⟩
  · simp only [List.mem_cons, List.not_mem_nil, or_false] at he
    rcases he with rfl | rfl | rfl | rfl <;> exact ⟨rfl, by rw [r]; decide⟩
  · simp [Preferred, r]
  · simp only [List.mem_cons, List.not_mem_nil, or_false] at ha hn
    rcases ha with rfl | rfl | rfl | rfl <;> simp [Preferred, r] <;> omega

/-- A command of group 1 that names handle 0. -/
def namesHandle : Cmd :=
  { core := 0, engines := [0], feed := 3, instr := .splrefine 0 0 false, record := [], params := [], coords := [], tensors := [], signal := .nothing
    packNo := 0, group := 1, part := 1, rcb := 0, slotNo := 5, priv := .user, time := 0, handle := some (single 0 0), handleNo := 0 }

/-- The pack in slot 3 of the core waits for handle 0 already. -/
def behind : State :=
  { matrix [] with
    cores := [(0, { packs := [(0, packOf .mtx [] []), (3, { packOf .mtx [] [] with wait := .handle 0 .single })], allocs := [3] })] }

theorem witness_HandleAllocation :
    (Ready (.accalloc 0 .split) behind ∧ behind.site = some (0, 0) ∧ (behind.core 0).allocs = [3] ∧ 3 ≠ 0 ∧
      ∃ q, behind.packAt 0 3 = some q ∧ q.wait = .handle 0 .single ∧ q.group = behind.pk.group) ∧
    (let s : State := { matrix [(0, single 0 0)] with cmds := [(3, namesHandle)] }
     Ready (.accfree 0) s ∧ (single 0 0).freer = none ∧
      (s.cmds.any fun (_, k) => k.group = s.pk.group && k.handleNo = (0 : BitVec 3).toNat && k.handle.isSome) = true) ∧
    (let d := { single 0 0 with freer := some 9 }
     Ready (.accfree 0) (matrix [(0, d)]) ∧ d.bound = true ∧ 9 ≠ (matrix [(0, d)]).pk.packNo ∧
      MayTrap (matrix [(0, d)]) { groupOf with handles := [(0, d)] }) ∧
    ((matrix []).site = some ((matrix []).here, 0) ∧ ((matrix []).core (matrix []).here).allocs = []) ∧
    (Ready (.accalloc 7 .single) (matrix []) ∧ (matrix []).group 1 = some groupOf ∧ groupOf.slotsHeld + 1 ≤ groupOf.acc ∧
      FirstChoices (matrix []) (matrix []).here [0]) ∧
    (Ready (.accalloc 0 .split) (matrix []) ∧ FirstChoices (matrix []) 0 [0, 1, 2, 3]) ∧
    (Ready (.accalloc 0 .splgrad) (matrix []) ∧ ∀ k, k < 4 → slotFree (matrix []) 0 (0 + k) = true) ∧
    (Ready (.accalloc 0 .splgrad) (crowded 1) ∧ ∀ i, i < 3 → ∃ k, k < 4 ∧ slotFree (crowded 1) 0 (i + k) = false) ∧
    (Ready (.accalloc 0 .split) (crowded 5) ∧ ((List.range 8).countP fun k => decide (0 < roomOf (crowded 5) (0 / 8 * 8 + k))) < 4) ∧
    (Ready (.accalloc 0 .single) (matrix [(0, single 0 0)]) ∧ MayTrap (matrix [(0, single 0 0)]) { groupOf with handles := [(0, single 0 0)] }) ∧
    (Ready (.accfree 0) (matrix [(0, single 0 0)]) ∧ (single 0 0).bound = true ∧ (matrix [(0, single 0 0)]).cmds = []) ∧
    Ready (.accfree 7) (matrix []) ∧ MayTrap (matrix []) groupOf :=
  ⟨⟨⟨rfl, rfl, rfl⟩, rfl, rfl, by decide, _, rfl, rfl, rfl⟩, ⟨⟨rfl, rfl, rfl⟩, rfl, rfl⟩,
    ⟨⟨rfl, rfl, rfl⟩, rfl, by decide, by decide, rfl, rfl, rfl, rfl, rfl, rfl⟩, ⟨rfl, rfl⟩,
    ⟨⟨rfl, rfl, rfl⟩, rfl, by decide, first_own⟩, ⟨⟨rfl, rfl, rfl⟩, first_four⟩, ⟨⟨rfl, rfl, rfl⟩, by decide⟩, ⟨⟨rfl, rfl, rfl⟩, by decide⟩,
    ⟨⟨rfl, rfl, rfl⟩, by decide⟩, ⟨⟨rfl, rfl, rfl⟩, by decide, rfl, rfl, rfl, rfl, rfl, rfl⟩, ⟨⟨rfl, rfl, rfl⟩, rfl, rfl⟩, ⟨rfl, rfl, rfl⟩, by decide, rfl, rfl, rfl, rfl, rfl, rfl⟩

/-- A node record at page 3, offset 0x400 (one group of one pack, count 1, its RCB at page 3), and that RCB, of a child region. -/
def withRecord (s : State) (at' : Nat) : State :=
  { s with
    mem := [(0x1000001, 1), (at' + 10, 3), (at' + 24, 1), (at' + 28, 1), (at' + 32, 1), (at' + 33, 1), (at' + 34, 1), (at' + 35, 1)]
    parts := [(1, { map := { ctl := 0x21 }, slotHi := 8 })] }

/-- A pack that names the record of `withRecord` and a slot. -/
def registering (slot : Nat) : State :=
  withRecord (issuing (packOf .gen [] [(4, 0x30400), (6, BitVec.ofNat 32 slot), (8, 1)])) 0x1000400

/-- A record that is read and registers (R18, R304). -/
def recordReads (s : State) (x : State × Except XFault (List Byte × Bool)) : Bool :=
  match x with
  | (s1, .ok (rec, false)) => match parseNode s.pk.part rec with
    | some n => decide (n.count ≠ 0) && (s1.registerRcb (.core s.here s.pk.priv) s.pk.part n).2
    | none => false
  | _ => false

theorem recordReads_iff {s : State} {x : State × Except XFault (List Byte × Bool)} (h : recordReads s x = true) :
    ∃ s1 rec n, x = (s1, .ok (rec, false)) ∧ parseNode s.pk.part rec = some n ∧ n.count ≠ 0 ∧
      (s1.registerRcb (.core s.here s.pk.priv) s.pk.part n).2 = true := by
  unfold recordReads at h
  split at h
  · rename_i s1 rec
    split at h
    · rename_i n hn
      rw [Bool.and_eq_true, decide_eq_true_eq] at h
      exact ⟨s1, rec, n, rfl, hn, h⟩
    · cases h
  · cases h

theorem witness_NodeRegistration :
    (Ready (.nodeReg 9 4 6) (registering 7) ∧ ((registering 7).pk.s64 4).toNat % 128 = 0 ∧ Drained (registering 7) ∧
      (registering 7).env.defer = false ∧ (registering 7).home.replicaLag = [] ∧ tabFind (registering 7).sched.nodes 7 = none ∧
      ((registering 7).part 1).slotLo ≤ 7 ∧ 7 < ((registering 7).part 1).slotHi ∧
      ∃ s1 rec n, (registering 7).readVA 0 1 .root 0x30400 128 = (s1, .ok (rec, false)) ∧ parseNode 1 rec = some n ∧ n.count ≠ 0 ∧
        (s1.registerRcb (.core (registering 7).here (registering 7).pk.priv) 1 n).2 = true) ∧
    (Ready (.nodeReg 9 4 6) (registering 8) ∧ Drained (registering 8) ∧ ¬8 < ((registering 8).part 1).slotHi) ∧
    (Ready (.nodeReg 9 8 6) (registering 7) ∧ ((registering 7).pk.s64 8).toNat % 128 ≠ 0 ∧ MayTrap (registering 7) groupOf) ∧
    Ready (.nodeReg 9 4 6) inFlight ∧ (inFlight.pk.s64 4).toNat % 128 = 0 ∧ ¬Drained inFlight :=
  ⟨⟨⟨rfl, rfl, rfl⟩, by decide, drained_of rfl, rfl, rfl, rfl, by decide, by decide,
      recordReads_iff (s := registering 7) (by decide)⟩,
    ⟨⟨rfl, rfl, rfl⟩, drained_of rfl, by decide⟩, ⟨⟨rfl, rfl, rfl⟩, by decide, by decide, rfl, rfl, rfl, rfl, rfl, rfl⟩,
    ⟨rfl, rfl, rfl⟩, by decide, not_drained _ rfl (by decide)⟩

/-- A node that waits for `n` decrements. -/
def nodeOf (n : Nat) : Node :=
  { part := 1, count := n, ready := false, entry := 0x10000, rcb := 0x40000, arg := 0, groups := 2, flags := 0, shapes := [⟨1, 1, 1, 1⟩]
    vbytes := 0, acc := 0, est := 0, succ := [], overflow := 0, tiles := [] }

/-- A pack that takes 4 off slot 5, where that node is. -/
def counting (n : Nat) : State :=
  { issuing (packOf .gen [] [(4, 5), (6, 4)]) with
    sched := { nodes := [(5, nodeOf n)] }
    parts := [(1, { map := { ctl := 0x21 }, slotHi := 6 })] }

theorem witness_NodeUpdates :
    (Ready (.nodeDec 4 6) (counting 5) ∧ Drained (counting 5) ∧ 5 < ((counting 5).part 1).slotHi ∧
      tabFind (counting 5).sched.nodes 5 = some (nodeOf 5) ∧ (nodeOf 5).ready = false ∧ 4 < (nodeOf 5).count) ∧
    (Ready (.nodeDec 6 4) gen ∧ Drained gen ∧ ¬0 < (gen.part 1).slotHi) ∧ (Ready (.nodeDec 6 4) inFlight ∧ ¬Drained inFlight) ∧
    Ready .nodeDone (counting 5) ∧ (counting 5).group 1 = some groupOf ∧ groupOf.slot = 5 :=
  ⟨⟨⟨rfl, rfl, rfl⟩, drained_of rfl, by decide, rfl, rfl, by decide⟩, ⟨⟨rfl, rfl, rfl⟩, drained_of rfl, by decide⟩,
    ⟨⟨rfl, rfl, rfl⟩, not_drained _ rfl (by decide)⟩, ⟨rfl, rfl, rfl⟩, rfl, rfl⟩

/-- A pack that names tensor 9, tiled, and its page 0, whose record holds a word. -/
def laying (w : DWord) : State :=
  { tensing tiledRec 0 (packOf .gen [] [(2, 9)]) with home := { monitors := [⟨1, 9, 0, w⟩] } }

theorem described_tiled {s : State} (hr : s.pk.req = none) (h : (s.part s.pk.part).records = [(9, tiledRec)]) : Described s 9 (recOf tiledRec) :=
  ⟨hr, by decide, tiledRec, by rw [h]; rfl, by decide⟩

theorem pageHeld_laying (w : DWord) : PageHeld (laying w) (recOf tiledRec) 0 { page with tpage := true } := ⟨rfl, rfl⟩

theorem witness_LayoutControl :
    (Ready (.tpin 2 3 8 1) (laying 0) ∧ Described (laying 0) 9 (recOf tiledRec) ∧ (recOf tiledRec).linear = false ∧
      (recOf tiledRec).paired = false ∧ 0 < (recOf tiledRec).boxes ∧ (recOf tiledRec).square = true ∧
      PageHeld (laying 0) (recOf tiledRec) 0 { page with tpage := true }) ∧
    (Ready (.tpin 2 3 0 1) (laying 0x200) ∧ ((laying 0x200).monitor 1 9 0 (recOf tiledRec)).state = 1) ∧
    (Ready (.tunpin 2 3 1) (laying 0x600) ∧ ((laying 0x600).monitor 1 9 0 (recOf tiledRec)).state = 3) ∧
    (Ready (.tadvise 2 3 1 true 1) (laying 0x400) ∧ ((laying 0x400).monitor 1 9 0 (recOf tiledRec)).state = 2) ∧
    (Ready (.tadvise 2 3 1 false 1) (laying 0x20000) ∧ 0 < ((laying 0x20000).monitor 1 9 0 (recOf tiledRec)).cool) ∧
    Ready (.tpin 2 3 8 0) (laying 0) ∧
    (Ready (.tquery 9 2 3 false) (laying 0) ∧ (laying 0).env.defer = false ∧
      ((laying 0).core (laying 0).here).tlb.find? (fun t => t.part = (laying 0).pk.part &&
        t.vpn = ((recOf tiledRec).image false + 0 * 65536) / 65536) = some { page with tpage := true } ∧
      ({ page with tpage := true } : Trans).misused (recOf tiledRec).use = false ∧
      ({ page with tpage := true } : Trans).allows .load (laying 0).pk.priv = true ∧ (laying 0).home.monSoft = [] ∧
      (laying 0).home.monBad = []) ∧
    Ready (.tquery 9 2 3 false) last ∧ (recOf linearRec).linear = true :=
  ⟨⟨⟨rfl, by decide⟩, described_tiled rfl rfl, by decide, by decide, by decide, by decide, pageHeld_laying _⟩,
    ⟨⟨rfl, by decide⟩, by decide⟩, ⟨⟨rfl, by decide⟩, by decide⟩, ⟨⟨rfl, by decide⟩, by decide⟩, ⟨⟨rfl, by decide⟩, by decide⟩,
    ⟨rfl, by decide⟩, ⟨⟨rfl, by decide⟩, rfl, by decide, by decide, by decide, rfl, rfl⟩, ⟨rfl, by decide⟩, by decide⟩

theorem witness_CodeAndRecords :
    (Ready (.tdef 2) { last with pk := { last.pk with priv := .root } } ∧ Drained { last with pk := { last.pk with priv := .root } }) ∧
    (Ready (.tdef 2) { inFlight with pk := { inFlight.pk with priv := .root } } ∧
      ¬Drained { inFlight with pk := { inFlight.pk with priv := .root } }) ∧
    Ready (.icinv .dev 2 4) gen :=
  ⟨⟨⟨rfl, rfl, rfl⟩, drained_of rfl⟩, ⟨⟨rfl, rfl, rfl⟩, not_drained _ rfl (by decide)⟩, rfl, rfl, rfl⟩

theorem witness_SystemCalls :
    (serviceNumber (.reply 1 2 3) = some 4 ∧ Ready (.reply 1 2 3) gen ∧ MayTrap gen groupOf) ∧
    (serviceNumber (.sys 1 2 3 0xFFFF) = some 0xFFFF ∧ Ready (.sys 1 2 3 0xFFFF) gen) ∧
    Ready (.sys 1 2 3 6) (rooted [] []) ∧ (rooted [] []).pk.replay = [] :=
  ⟨⟨rfl, ⟨rfl, rfl, rfl⟩, mayTrap_issuing _ rfl rfl rfl rfl rfl⟩, ⟨rfl, rfl, rfl, rfl⟩, ⟨rfl, rfl, rfl⟩, rfl⟩

/-- A pack at ROOT with two page requests of its partition, of which 3 is the older; `waits` not yet taken. -/
def serving (waits : Bool) : State :=
  let q : PageReq := { fn := 2, part := 1, stage2 := false, access := 0, addr := 0x50000, page := 5, time := 9, src := 0, taken := !waits, waiter := .idle }
  { rooted [] [(2, 3), (6, 0x3FC00020)] with pages := [(2, q), (3, { q with time := 8 })] }

theorem witness_RootServices :
    (Ready (.stage1Invalidate 1 4 2) (rooted [] [(4, 0x8000)]) ∧ ((rooted [] [(4, 0x8000)]).pk.s64 4).toNat % 2 ^ 16 ≠ 0) ∧
    (Ready (.stage1Invalidate 1 4 2) (rooted [] [(4, 0x30000)]) ∧ (rooted [] [(4, 0x30000)]).env.defer = false) ∧
    (Ready (.stage1Root 1 4 2) (rooted [] [(4, 0x30000)]) ∧ ((rooted [] [(4, 0x30000)]).pk.s64 4).toNat % 2 ^ 16 = 0) ∧
    (Ready (.takePageRequest 1 4 6) (serving true) ∧ (serving true).pk.priv = .root ∧ VaultsQuiet (serving true) ∧
      (serving true).vaultAddr 1 1 ((serving true).pk.sreg 6) = some (0, 32) ∧
      ∃ q, (3, q) ∈ (serving true).pages ∧ q.part = 1 ∧ q.stage2 = false ∧ q.taken = false ∧
        ∀ j r, (j, r) ∈ (serving true).pages → (j, r) ≠ (3, q) → q.time < r.time) ∧
    (Ready (.takePageRequest 1 4 6) (serving false) ∧ ∀ id q, (id, q) ∈ (serving false).pages → q.taken ≠ false) ∧
    (Ready (.reply 1 2 4) (serving true) ∧ ((serving true).pk.sreg 4).toNat < 2 ∧
      ∃ q, tabFind (serving true).pages 3 = some q ∧ q.part = 1 ∧ q.stage2 = false ∧ q.waiter = .idle) ∧
    (Ready (.reply 1 2 2) (serving true) ∧ 2 ≤ ((serving true).pk.sreg 2).toNat) ∧
    (Ready (.reply 1 4 4) (serving true) ∧ tabFind (serving true).pages ((serving true).pk.sreg 4).toNat = none) ∧
    Ready (.donateRetileFrames 1 4 2) (serving true) :=
  ⟨⟨⟨rfl, rfl, rfl⟩, by decide⟩, ⟨⟨rfl, rfl, rfl⟩, rfl⟩, ⟨⟨rfl, rfl, rfl⟩, by decide⟩,
    ⟨⟨rfl, rfl, rfl⟩, rfl, by intro c; rw [core_one _ rfl]; split <;> exact ⟨rfl, rfl, rfl⟩, by decide, _, .tail _ (.head _), rfl, rfl, rfl,
      by intro j r h hn
         simp only [serving, List.mem_cons, List.not_mem_nil, or_false, Prod.mk.injEq] at h
         rcases h with ⟨rfl, rfl, rfl⟩ | ⟨rfl, rfl, rfl⟩
         · decide
         · exact absurd rfl hn⟩,
    ⟨⟨rfl, rfl, rfl⟩, by
      intro id q h
      simp only [serving, List.mem_cons, List.not_mem_nil, or_false, Prod.mk.injEq] at h
      rcases h with ⟨rfl, rfl, rfl⟩ | ⟨rfl, rfl, rfl⟩ <;> decide⟩,
    ⟨⟨rfl, rfl, rfl⟩, by decide, _, rfl, rfl, rfl, rfl⟩, ⟨⟨rfl, rfl, rfl⟩, by decide⟩, ⟨⟨rfl, rfl, rfl⟩, rfl⟩, rfl, rfl, rfl⟩

/-- A handler with one level of the side buffer, which holds one entry whose lanes are done. -/
def saving (s : Tab Word) : State :=
  issuing { packOf .gen [] s with
    priv := .handler
    sb := [{ words := [(16, 0x10004)], entries := [{ entry 0x49061400 .walk with state := 0, mask := 0 }] }] }

theorem witness_SavedState :
    (Ready (.sbget 1 0 2) (saving [(2, 255)]) ∧ ∃ lv, (saving [(2, 255)]).pk.sb[((saving [(2, 255)]).pk.sreg 0).toNat]? = some lv) ∧
    (Ready (.rqget 1 0 2) (saving [(2, 263)]) ∧ ∃ lv e, (saving [(2, 263)]).pk.sb.getLast? = some lv ∧
      lv.entries[((saving [(2, 263)]).pk.sreg 0).toNat]? = some e) ∧
    (Ready (.rqput 1 4 2) (saving [(2, 177), (4, 16)]) ∧ ((saving [(2, 177), (4, 16)]).pk.sreg 4).toNat = 16) ∧
    (Ready (.rqput 1 0 0) (saving []) ∧ ∃ lv e, (saving []).pk.sb.getLast? = some lv ∧ lv.entries[0]? = some e) ∧
    Ready .rti (saving []) ∧ (saving []).pk.replay = [] ∧
      ∃ lv, (saving []).pk.sb.getLast? = some lv ∧ ∀ e, e ∈ lv.entries → e.mask = 0 :=
  ⟨⟨⟨rfl, rfl, rfl⟩, _, rfl⟩, ⟨⟨rfl, rfl, rfl⟩, _, _, rfl, rfl⟩, ⟨⟨rfl, rfl, rfl⟩, rfl⟩, ⟨⟨rfl, rfl, rfl⟩, _, _, rfl, rfl⟩,
    ⟨rfl, rfl, rfl⟩, rfl, _, rfl, by intro e h; rw [List.mem_singleton.1 h]⟩

/-- A pack at ROOT that names group 2 of slot 6, and a save area at page 3 whose header holds these fields; the context of
group 2. -/
def switching (fields : List Host.Cell) (x : List Context) : State :=
  { rooted [] [(4, 0x30000), (6, 6)] with
    mem := fields
    groups := [(1, groupOf), (2, { groupOf with slot := 6 })]
    parts := [(1, { map := { ctl := 0x21 }, contexts := x })] }

/-- The header of a context being restored, 1 of 3 chunks moved. -/
def header : List Host.Cell :=
  [(0x1000000, 0x31), (0x1000001, 0x53), (0x1000002, 0x43), (0x1000003, 0x4B), (0x1000004, 3), (0x1000008, 1), (0x100000C, 1)]

theorem quiet_switching (m : List Host.Cell) (x : List Context) : Quiet (switching m x) :=
  ⟨rfl, rfl, ⟨rfl, rfl⟩, ⟨rfl, rfl⟩, nofun, rfl, rfl, rfl, rfl, rfl, rfl, rfl, lane0 rfl⟩

theorem open_switching (m : List Host.Cell) (x : List Context) (va : Nat) (h : va / 65536 = 3)
    (hk : (switching m x).paKind (0x1000000 + va % 65536) = .hbm) (hb : (switching m x).blockCode (0x1000000 + va % 65536) ≠ 3) (ask : Acc) :
    Reaches (switching m x) ask .flat va (0x1000000 + va % 65536) := by
  refine ⟨page, ?_, rfl, by cases ask <;> rfl, hk, hb, show (0x1000000 + va % 65536) / 65536 = 0x100 by omega⟩
  simp [switching, rooted, issuing, State.here, State.core, tabGet, page, h, packOf]

theorem witness_ContextSwitch :
    (Ready (.ctxsave 1 4 6) (switching [] []) ∧ Quiet (switching [] []) ∧
      (switching [] []).groups.find? (fun x => x.2.part = 1 && x.2.slot = ((switching [] []).pk.sreg 6).toNat % 2 ^ 16 &&
        x.2.index = ((switching [] []).pk.sreg 7).toNat) = some (2, { groupOf with slot := 6 }) ∧
      heldPa (switching [] []) 0x31000 = 0x1001000 ∧
      (∀ ask, Reaches (switching [] []) ask .flat 0x30000 0x1000000) ∧ (∀ ask, Reaches (switching [] []) ask .flat 0x31000 0x1001000) ∧
      (switching [] []).context 2 = none ∧ (switching [] []).packsAway 2 = true ∧ tabRising (switching [] []).cores 0 = true) ∧
    (∃ s, s = switching header [⟨2, true, true, true, [], []⟩] ∧
      Ready (.ctxrest 1 4 6) s ∧ Quiet s ∧ (∀ ask, Reaches s ask .flat 0x32000 0x1002000) ∧ numberAt s.memByte 0x1000000 4 = 0x4B435331 ∧
        numberAt s.memByte 0x100000C 4 ≠ 0 ∧ numberAt s.memByte 0x1000008 4 + 1 < numberAt s.memByte 0x1000004 4 ∧
        s.context 2 = some ⟨2, true, true, true, [], []⟩ ∧ ∀ k, k < 4096 → s.blockCode (0x1002000 + k) ≠ 3) := by
  refine ⟨⟨⟨rfl, rfl, rfl⟩, quiet_switching _ _, by decide, by decide, fun ask => open_switching _ _ _ rfl (by decide) (by decide) ask,
      fun ask => open_switching _ _ 0x31000 rfl (by decide) (by decide) ask, rfl, rfl, rfl⟩,
    _, rfl, ⟨rfl, rfl, rfl⟩, quiet_switching _ _, fun ask => open_switching _ _ 0x32000 rfl (by decide) (by decide) ask, by decide, by decide, by decide,
    by decide, fun k _ => ?_⟩
  simp [State.blockCode, switching, rooted, issuing]

/-- Vault cells of bytes from an offset up. -/
def cellsAt (at' : Nat) (b : List Byte) : List Host.Cell := (b.zipIdx at').filterMap fun (x, a) => if x = 0 then none else some (a, x)

/-- A pack of these threads whose loop object is at offset 0x40 of the vault (R147). -/
def looping (obj : List Byte) (ts : List Thread) : State :=
  let p : Pack := { packOf .gen [] [(7, 0x3FC00040)] with threads := ts, nthreads := ts.length }
  { issuing p with cores := [(0, { packs := [(0, p)], tlb := [page], vault := cellsAt 0x40 obj })] }

theorem loopAt_looping (obj : List Byte) (ts : List Thread) : LoopAt (looping obj ts) 7 groupOf 0 0x40 := by
  refine ⟨rfl, (by decide : (0x3FC00040 : Word).toNat % 64 = 0), ?_, .inl rfl, rfl, fun c => ?_⟩
  · have hg : (looping obj ts).group 1 = some groupOf := rfl
    show (looping obj ts).vaultAddr 1 1 0x3FC00040 = _
    unfold State.vaultAddr
    simp [hg, bits, groupOf]
  · rw [core_one _ rfl]; split <;> exact ⟨rfl, rfl, rfl⟩

/-- NEXT 4, COUNT 5. -/
def oneLeft : List Byte := [4, 0, 0, 0, 5, 0, 0, 0]

theorem witness_ItemsHandedOut :
    Ready (.item 7) (looping oneLeft [{ pc := 0x10000 }, { pc := 0x10000 }]) ∧
      LoopAt (looping oneLeft [{ pc := 0x10000 }, { pc := 0x10000 }]) 7 groupOf 0 0x40 :=
  ⟨⟨rfl, rfl, rfl⟩, loopAt_looping _ _⟩

/-- Threads 0 and 1 hold items 0 and 1 with the same claim; the others have exited. -/
def rivals : List Thread :=
  { pc := 0x10000, item := 0, claims := [7] } :: { pc := 0x10000, item := 1, claims := [7] } :: List.replicate 30 { exited := true }

/-- Two items pending, and an open wave or none. -/
def waving (isOpen : Byte) : State := looping [2, 0, 0, 0, 2, 0, 0, 0, 0, 0, 0, 0, 2, 0, 0, 0, 0, 0, 0, 0, isOpen] rivals

theorem wave_rivals (o : Byte) : WaveOf (waving o).pk 64 1 := by
  have h0 : pendingLane (waving o).pk 0 = true := rfl
  refine fun l => ⟨fun h => ?_, fun h => ?_⟩
  · refine lane0 (P := fun l => l < 32 ∧ pendingLane (waving o).pk l = true ∧ (∀ m, hasLane (1 : LaneMask) m = true →
      ((waving o).pk.thread m).item.toNat < ((waving o).pk.thread l).item.toNat →
      clash ((waving o).pk.thread m).claims ((waving o).pk.thread l).claims = false) ∧ _) ⟨by decide, h0, lane0 fun h => ?_, ?_⟩ l h
    · exact absurd h (Nat.lt_irrefl _)
    · exact lt_of_le_of_lt List.countP_le_length (by decide)
  · obtain ⟨hl, hp, hc, -⟩ := h
    have h1 : l ≠ 1 := by
      rintro rfl
      exact absurd (hc 0 (by decide) (show 0 < 1 by decide)) (show clash [7] [7] ≠ false by decide)
    have hx : ∀ l, l < 32 → 2 ≤ l → ((waving o).pk.thread l).exited = true := by
      intro l hl h2
      show (rivals.getD l _).exited = true
      revert hl h2; revert l
      decide
    rcases Nat.lt_or_ge l 2 with h2 | h2
    · have : l = 0 := by omega
      subst this; decide
    · simp [pendingLane, hx l hl h2] at hp

theorem witness_WavesFormed :
    (Ready (.admitWave 7) (waving 0) ∧ LoopAt (waving 0) 7 groupOf 0 0x40 ∧ (waving 0).site = some (0, 0) ∧
      (waving 0).pk.threads.length = 32 ∧ (waving 0).pk.wait = .none ∧ (∃ l, pendingLane (waving 0).pk l = true) ∧
      tabRising (waving 0).cores 0 = true ∧ tabRising ((waving 0).core 0).packs 0 = true ∧ ((waving 0).packAt 0 0).isSome = true ∧
      loopField (waving 0) 0 0x40 20 4 % 2 = 0 ∧ WaveOf (waving 0).pk 64 1) ∧
    (Ready (.admitWave 7) (waving 1) ∧ LoopAt (waving 1) 7 groupOf 0 0x40 ∧ loopField (waving 1) 0 0x40 20 4 % 2 = 1) ∧
    Ready (.admitWave 7) (looping oneLeft (List.replicate 32 { pc := 0x10000 })) ∧
      LoopAt (looping oneLeft (List.replicate 32 { pc := 0x10000 })) 7 groupOf 0 0x40 :=
  ⟨⟨⟨rfl, rfl, rfl⟩, loopAt_looping _ _, rfl, rfl, rfl, ⟨0, rfl⟩, rfl, rfl, rfl, by decide, wave_rivals _⟩,
    ⟨⟨rfl, rfl, rfl⟩, loopAt_looping _ _, by decide⟩, ⟨rfl, rfl, rfl⟩, loopAt_looping _ _⟩

/-- One admitted item, the last of its wave. -/
def retiring : State :=
  looping [2, 0, 0, 0, 2, 0, 0, 0, 1, 0, 0, 0, 1, 0, 0, 0, 1, 0, 0, 0, 1]
    ({ pc := 0x10000, item := 0, admitted := true, p := 0x20 } :: List.replicate 31 { exited := true })

theorem witness_ItemsRetired :
    (Ready (.iret 7) retiring ∧ LoopAt retiring 7 groupOf 0 0x40 ∧ Drained retiring ∧ retiring.pk.wait = .none ∧
      tabRising retiring.cores 0 = true ∧ retiring.pk.threads.length = 32 ∧ admittedLane retiring.pk 0 = true) ∧
    (Ready (.iret 7) { retiring with pk := { retiring.pk with replay := [entry 0x49061400 .walk] } } ∧
      ¬Drained { retiring with pk := { retiring.pk with replay := [entry 0x49061400 .walk] } }) :=
  ⟨⟨⟨rfl, rfl, rfl⟩, loopAt_looping _ _, drained_of rfl, rfl, rfl, rfl, rfl⟩, ⟨rfl, rfl, rfl⟩, not_drained _ rfl (by decide)⟩

/-- A pack of a role with this record at offset 0x80 of the vault (s8), coordinates in s12 on, a barrier at 0x40 (s7), none (s6),
these handles, and tensors 9 (tiled) and 10 (linear). -/
def commanding (role : Role) (rec : List Byte) (hs : Tab Machine.Handle) (coords : Tab Word) : State :=
  let p := packOf role [] ([(6, 0xFFFFFFFF), (7, 0x3FC00040), (8, 0x3FC00080)] ++ coords)
  { issuing p with
    cores := [(0, { packs := [(0, p)], tlb := [page], vault := cellsAt 0x80 rec })]
    groups := [(1, { groupOf with handles := hs })]
    parts := [(1, { map := { ctl := 0x21 }, records := [(9, tiledRec), (10, linearRec)] })] }

/-- The state's own part of what a command needs. -/
def Fit (i : Instr) (s : State) (sig : Signal) (b : List Byte) : Prop :=
  ∃ x, commandForm i = some x ∧ Ready i s ∧ VaultsQuiet s ∧ (s.core s.here).stalls = [] ∧
    s.granted (if x.copies then .cpy else .tile) = true ∧ s.pk.req = none ∧ SignalIs s x sig ∧ RecordIs s x b

theorem vaultsQuiet_commanding (role : Role) (rec : List Byte) (hs : Tab Machine.Handle) (cs : Tab Word) :
    VaultsQuiet (commanding role rec hs cs) := by
  intro c; rw [core_one _ rfl]; split <;> exact ⟨rfl, rfl, rfl⟩

theorem mayTrap_commanding (role : Role) (rec : List Byte) (hs : Tab Machine.Handle) (cs : Tab Word) :
    MayTrap (commanding role rec hs cs) { groupOf with handles := hs } := ⟨nofun, rfl, rfl, rfl, rfl, rfl, rfl⟩

theorem signal_nothing {s : State} {x : CommandForm} (h : x.tok = false) (h' : s.pk.sreg x.bar.toNat = 0xFFFFFFFF) :
    SignalIs s x .nothing := by
  unfold SignalIs; simp [h, h']

theorem signal_barrier {s : State} {x : CommandForm} (h : x.tok = false) (h' : s.pk.sreg x.bar.toNat ≠ 0xFFFFFFFF)
    (hb : barrierPlace s (s.pk.sreg x.bar.toNat) = some (0, 0x40)) : SignalIs s x (.barrier 0 0x40) := by
  unfold SignalIs; rw [if_neg (by simp [h]), if_neg h']; exact ⟨0, 0x40, hb, rfl⟩

/-- The words of tensor 9 and 10 in a list of tensor ids, as the statement asks for them. -/
def tensorsHeld (s : State) (ids : List Nat) (rs : List (List Byte)) (ts : List TRec) : Prop :=
  ∀ k, k < ts.length → ∃ tid bytes r, ids[k]? = some tid ∧ rs[k]? = some bytes ∧ ts[k]? = some r ∧ tid ≠ 0xFFFF ∧
    tabFind (s.part s.pk.part).records tid = some bytes ∧ parseTRec bytes = some r

/-- A copy of a whole 128 by 128 tensor into the vault (R289). -/
def cpyRec : List Byte := bytesOfNat 8 9 ++ bytesOfNat 8 0x3FC01000 ++ [128, 0, 6, 0] ++ bytesOfNat 4 128 ++ List.replicate 8 0

/-- A multiplication of the largest tile, of two F32 tensors, by handle 0. -/
def mmaRec : List Byte := [128, 0, 192, 0] ++ bytesOfNat 4 (2 ^ 24) ++ [9, 0, 9, 0, 0, 1, 0, 0x80] ++ List.replicate 16 0

/-- A drain of handle 0 into the last row of tensor 9. -/
def drainRec : List Byte := [9, 0, 0, 1, 1, 0, 128, 0] ++ List.replicate 24 0

/-- A grid from 0 to 1, of 16 intervals of degree 3. -/
def gridRec : List Byte := bytesOfNat 8 0x3F80000000000000 ++ [16, 3, 2] ++ List.replicate 21 0

theorem zf {b : List Byte} {lo n : Nat} (h : fieldAt b lo n = 0) : zeroFrom b lo n := h

theorem witness_CommandsEnter :
    (Fit (.cpy 8 12 6 0 false) (commanding .cpy cpyRec [] []) .nothing cpyRec ∧
      tensorsHeld (commanding .cpy cpyRec [] []) [9] [tiledRec] [recOf tiledRec] ∧
      CommandOk (.cpy 8 12 6 0 false) (commanding .cpy cpyRec [] []) cpyRec [recOf tiledRec] [0, 0]
        { tensors := [9], ncoord := 2, engines := [0], feed := 2 }) ∧
    (Fit (.mma 8 12 7 0 false) (commanding .mtx mmaRec [(0, single 0 0)] []) (.barrier 0 0x40) mmaRec ∧
      CommandOk (.mma 8 12 7 0 false) (commanding .mtx mmaRec [(0, single 0 0)] []) mmaRec [recOf tiledRec, recOf tiledRec] [0, 0]
        { tensors := [9, 9], ncoord := 2, handle := some (0, single 0 0), acc := some 0, engines := [0] }) ∧
    (Fit (.accdrain 8 12 6 0 false false) (commanding .epi drainRec [(0, single 0 0)] [(13, 127)]) .nothing drainRec ∧
      CommandOk (.accdrain 8 12 6 0 false false) (commanding .epi drainRec [(0, single 0 0)] [(13, 127)]) drainRec [recOf tiledRec] [0, 127]
        { tensors := [9], ncoord := 2, handle := some (0, single 0 0), engines := [0] }) ∧
    (Fit (.splgrid 8 40 0 true) (commanding .mtx gridRec [] []) (.token 40) gridRec ∧
      CommandOk (.splgrid 8 40 0 true) (commanding .mtx gridRec [] []) gridRec [] [] { engines := [0] }) ∧
    (Fit (.splrefine 6 0 false) (commanding .mtx [] [] []) .nothing [] ∧
      CommandOk (.splrefine 6 0 false) (commanding .mtx [] [] []) [] [] [] { engines := [0] }) ∧
    (Fit (.splgrid 8 6 0 false) (commanding .mtx [] [] []) .nothing (List.replicate 32 0) ∧
      MayTrap (commanding .mtx [] [] []) { groupOf with handles := [] } ∧ ¬GridOk (List.replicate 32 0)) := by
  have held : tensorsHeld (commanding .cpy cpyRec [] []) [9] [tiledRec] [recOf tiledRec] := by
    intro k hk
    have : k = 0 := by simpa using hk
    subst this
    exact ⟨9, tiledRec, recOf tiledRec, rfl, rfl, rfl, by decide, rfl, by decide⟩
  refine ⟨⟨⟨_, rfl, ⟨rfl, by decide⟩, vaultsQuiet_commanding _ _ _ _, rfl, by decide, rfl, signal_nothing rfl rfl, rfl, 0, 0x80, by decide, by decide⟩, held, ?_⟩,
    ⟨⟨_, rfl, ⟨rfl, by decide⟩, vaultsQuiet_commanding _ _ _ _, rfl, by decide, rfl, signal_barrier rfl (by decide) (by decide), rfl, 0, 0x80, by decide, by decide⟩, ?_⟩,
    ⟨⟨_, rfl, ⟨rfl, by decide⟩, vaultsQuiet_commanding _ _ _ _, rfl, by decide, rfl, signal_nothing rfl rfl, rfl, 0, 0x80, by decide, by decide⟩, ?_⟩,
    ⟨⟨_, rfl, ⟨rfl, by decide⟩, vaultsQuiet_commanding _ _ _ _, rfl, by decide, rfl, rfl, rfl, 0, 0x80, by decide, by decide⟩, ?_, rfl⟩,
    ⟨⟨_, rfl, ⟨rfl, by decide⟩, vaultsQuiet_commanding _ _ _ _, rfl, by decide, rfl, signal_nothing rfl rfl, rfl⟩, rfl⟩,
    ⟨_, rfl, ⟨rfl, by decide⟩, vaultsQuiet_commanding _ _ _ _, rfl, by decide, rfl, signal_nothing rfl rfl, rfl, 0, 0x80, by decide, by decide⟩,
    mayTrap_commanding _ _ _ _, ?_⟩
  · refine ⟨by decide, by decide, by decide, zf rfl, by decide, by decide, by decide, by decide, fun _ => ⟨by decide, zf rfl⟩,
      fun h => absurd h (by decide), rfl, ?_, ?_, fun h => absurd h (by decide)⟩
    · intro x y hx hy; rw [List.mem_singleton.1 hx, List.mem_singleton.1 hy]
    · intro k x h
      cases k with
      | zero => cases h; exact ⟨⟨by decide, by decide, by decide⟩, fun h => absurd h (by decide)⟩
      | succ k => cases h
  · exact ⟨by decide, by decide, by decide, .inr ⟨15, by decide, by decide⟩, zf rfl, single 0 0, 0, recOf tiledRec, recOf tiledRec,
      ⟨_, rfl, rfl, rfl, rfl⟩, by decide, rfl, rfl, by decide, by decide, by decide, rfl⟩
  · exact ⟨by decide, by decide, by decide, by decide, zf rfl, fun _ => zf rfl, single 0 0, recOf tiledRec, ⟨_, rfl, rfl, rfl, rfl⟩, rfl,
      .inl (by decide), by decide, by decide, ⟨by decide, by decide, by decide⟩, fun h => absurd h (by decide), rfl, fun _ => rfl,
      fun h => absurd h (by decide)⟩
  · exact ⟨by unfold fin32; decide, by unfold fin32; decide, by unfold less32; decide, by decide, by decide, by decide, by decide, by decide,
      by decide, zf rfl⟩
  · exact fun h => absurd h.2.2.1 (by unfold less32; decide)

/-! Host actions and device events. -/

/-- No pack issues; partition 1 is function 1 and has slots 0 to 7; node 5 waits for 5 decrements; the MP holds a page with a
node record at offset 0x400. -/
def hosting : State :=
  { withRecord (resting (packOf .gen [] [])) 0x1010400 with
    cores := [(0, { packs := [(0, packOf .gen [] [])], tlb := [page] }), (160, { tlb := [rcbPage] })]
    sched := { nodes := [(5, nodeOf 5)] } }

/-- A record that is read. -/
def recordParses (part : Nat) (x : State × Except XFault (List Byte × Bool)) : Bool :=
  match x with
  | (_, .ok (rec, false)) => match parseNode part rec with
    | some n => decide (n.count ≠ 0)
    | none => false
  | _ => false

theorem recordParses_iff {part : Nat} {x : State × Except XFault (List Byte × Bool)} (h : recordParses part x = true) :
    ∃ s1 rec n, x = (s1, .ok (rec, false)) ∧ parseNode part rec = some n ∧ n.count ≠ 0 := by
  unfold recordParses at h
  split at h
  · rename_i s1 rec
    split at h
    · rename_i n hn
      exact ⟨s1, rec, n, rfl, hn, of_decide_eq_true h⟩
    · cases h
  · cases h

theorem witness_HostRegistersAndNodes :
    Idle hosting ∧ (∀ id q, (id, q) ∈ hosting.pages → q.stage2 = true → q.taken = true) ∧ hosting.partOfFn 1 = some 1 ∧
      (hosting.part 1).slotLo ≤ 7 ∧ 7 < (hosting.part 1).slotHi ∧ ¬8 < (hosting.part 1).slotHi ∧
      (tabFind hosting.sched.nodes 5 = some (nodeOf 5) ∧ (nodeOf 5).ready = false ∧ (4 : Word).toNat < (nodeOf 5).count) ∧
      tabFind hosting.sched.nodes 7 = none ∧
      (∀ off, off ∈ [0x1000, 0x107C, 0x1100, 0x1128, 0x1800, 0x3000] → (0x1000 ≤ off ∧ off < 0x1080) ∨ (0x1100 ≤ off ∧ off < 0x1120) ∨
        (0x1128 ≤ off ∧ off < 0x1130) ∨ (0x1800 ≤ off ∧ off < 0x2000) ∨ (0x3000 ≤ off ∧ off < 0x3004)) ∧
      ∃ s1 rec n, hosting.readVA agentMp 1 .root 0x40400 128 = (s1, .ok (rec, false)) ∧ parseNode 1 rec = some n ∧ n.count ≠ 0 :=
  ⟨rfl, nofun, by decide, by decide, by decide, by decide, ⟨rfl, rfl, by decide⟩, rfl, by decide, recordParses_iff (by decide)⟩

/-- Guest pages 5 (all rights) and 6 (read only) of partition 1 lie in frame 0x100. -/
def guest : State :=
  { resting (packOf .gen [] []) with
    s2u := [(2, ⟨1, 0, 0x3000000, []⟩)]
    mem := [(0x3000028, 7), (0x300002B, 1), (0x3000030, 3), (0x3000033, 1)] }

theorem sound_idle {s : State} (h : s.home.elision = []) (a n : Nat) : Sound s a n := by
  intro k _
  simp [State.blockCode, h]

/-- A leaf that is found. -/
def leafFound (x : State × Except XFault (Nat × Nat)) (e : Nat) : Bool := match x.2 with | .ok (y, _) => y == e | .error _ => false

theorem leafFound_iff {x : State × Except XFault (Nat × Nat)} {e : Nat} (h : leafFound x e = true) :
    ∃ s1 a, x = (s1, .ok (e, a)) := by
  obtain ⟨s1, r⟩ := x
  unfold leafFound at h
  split at h
  · rename_i y a hr
    exact ⟨s1, a, by rw [show r = .ok (y, a) from hr, beq_iff_eq.1 h]⟩
  · cases h

theorem witness_HostMemory :
    Idle guest ∧ Clean guest ∧ (∀ a n, Sound guest a n) ∧ guest.partOfFn 1 = some 1 ∧
      (∃ s1 a, guest.leaf2 (dieOf agentHost) 1 0x50080 = (s1, .ok (0x1000007, a))) ∧
      (∃ s1 a, guest.leaf2 (dieOf agentHost) 1 0x60080 = (s1, .ok (0x1000003, a))) ∧
      (bitOf 0x1000007 2 = true ∧ bitOf 0x1000007 1 = true ∧ bitOf 0x1000007 11 = false ∧ bitOf 0x1000003 2 = false ∧
        guest.paKind 0x1000080 = .hbm ∧ bits 0x1000007 51 16 * 2 ^ 16 + 0x50080 % 2 ^ 16 = 0x1000080) ∧
      0x50080 % 128 + 128 ≤ 128 ∧ bitOf (2 ^ 51) 51 = true :=
  ⟨rfl, ⟨rfl, rfl, rfl, rfl, rfl⟩, sound_idle rfl, by decide, leafFound_iff (by decide), leafFound_iff (by decide), by decide, by decide, by decide⟩

/-- A map image at host address 0x1000 of its window, of one partition with cluster 0 and channel group 0, or none. -/
def staging (cluster : Byte) : State :=
  { resting (packOf .gen [] []) with
    mem := cellsAt (2 ^ 51 + 0x1040) ([cluster, 0, 0, 0, 0, 0, 0, 0, 1] ++ List.replicate 39 0 ++ [0x21]) }

/-- The map in it. -/
def oneMap (cluster : Word) : List PartRec := { clg := cluster, cgg := 1, ctl := 0x21 } :: List.replicate 19 {}

theorem oneMap_kept {s : State} (h : s.mp.retiredClusters = 0) (h' : s.mp.retiredGroups = 0) : MapKept s (oneMap 1) := by
  have r : ∀ (p : Nat) (x : PartRec), (oneMap 1)[p]? = some x → x.clb = 0 ∧ x.cgb = 0 := by
    intro p x hx
    have hm := List.mem_of_getElem? hx
    simp only [oneMap, List.mem_cons, List.mem_replicate] at hm
    rcases hm with rfl | ⟨-, rfl⟩ <;> exact ⟨rfl, rfl⟩
  refine ⟨by decide, by decide, by decide, by decide, fun p x k hx _ _ hb => ?_, fun p x k hx _ _ hb => ?_, by decide, by decide, by decide, ?_⟩
  · rw [(r p x hx).1] at hb; simp at hb
  · rw [(r p x hx).2] at hb; simp at hb
  · intro x hx hh
    rw [h, h']; simp

theorem witness_StagedMaps :
    (Idle (staging 1) ∧ Clean (staging 1) ∧ (∀ a n, Sound (staging 1) a n) ∧ 2 ^ 51 + 0x1000 + 1344 ≤ 2 ^ 52 ∧
      (staging 1).mp.ptshadow.toNat + 1344 ≤ 2 ^ 52 ∧ parseMap (heldBytes (staging 1) (2 ^ 51 + 0x1000) 1344) = some (oneMap 1) ∧
      MapKept (staging 1) (oneMap 1)) ∧
    (Idle (staging 0) ∧ parseMap (heldBytes (staging 0) (2 ^ 51 + 0x1000) 1344) = some (oneMap 0) ∧ ¬MapKept (staging 0) (oneMap 0)) := by
  refine ⟨⟨rfl, ⟨rfl, rfl, rfl, rfl, rfl⟩, sound_idle rfl, by decide, by decide, by decide +kernel, oneMap_kept rfl rfl⟩, rfl, by decide +kernel, fun h => ?_⟩
  exact absurd rfl (h.least _ (.head _) rfl).1

/-- A partition about to be assigned, whose token is signed, with a staged map and two stage-2 requests. -/
def boxed : State :=
  let q : PageReq := { fn := 0, part := 1, stage2 := true, access := 0, addr := 0x50000, page := 5, time := 9, src := 0, waiter := .idle }
  { resting (packOf .gen [] []) with
    mp := { staged := some (oneMap 1) }
    pages := [(2, q), (3, { q with time := 8 })]
    parts := [(1, { map := { ctl := 0x21, cgg := 1 }, pool := [0x200], token := some (0x5000, []) })] }

/-- Its partition pre-empted, with nothing saved. -/
def held' : State := { boxed with parts := [(1, { map := { ctl := 0x21 }, preempt := .drained })] }

theorem witness_MailboxCommands :
    Idle boxed ∧ boxed.mp.staged = some (oneMap 1) ∧ (oneMap 1).length = 20 ∧ boxed.home.retiles = [] ∧ boxed.env.defer = false ∧
      Clean boxed ∧ (∀ a n, Sound boxed a n) ∧ (boxed.part 1).token = some (0x5000, []) ∧
      (∃ q, (3, q) ∈ boxed.pages ∧ q.stage2 = true ∧ q.taken = false ∧
        ∀ j r, (j, r) ∈ boxed.pages → (j, r) ≠ (3, q) → q.time < r.time) ∧
      (∃ q, tabFind boxed.pages 3 = some q ∧ q.stage2 = true ∧ q.waiter = .idle) ∧ boxed.overflow = [] ∧
      ((boxed.part 1).map.valid = true ∧ (boxed.part 1).preempt = .none ∧ (boxed.evictable fun _ _ => false) = [] ∧
        ∀ c sl p, (c, sl, p) ∈ boxed.residents → p.wait.blocking = false ∧ boxed.awaitsRemote p = false) ∧
      (Idle hosting ∧ hosting.pages = []) ∧ tabFind hosting.pages 0 = none ∧
      Idle held' ∧ (held'.part 1).preempt ≠ .none ∧ tabRising held'.groups 0 = true ∧ (held'.part 1).saved = [] ∧
      ∀ gid g, (gid, g) ∈ held'.groups → g.away = false := by
  refine ⟨rfl, rfl, rfl, rfl, rfl, ⟨rfl, rfl, rfl, rfl, rfl⟩, sound_idle rfl, rfl, ⟨_, .tail _ (.head _), rfl, rfl, fun j r h hn => ?_⟩,
    ⟨_, rfl, rfl, rfl⟩, rfl, ⟨rfl, rfl, by decide, fun c sl p h => ?_⟩, ⟨rfl, rfl⟩, rfl, rfl, nofun, rfl, rfl, fun gid g h => ?_⟩
  · simp only [boxed, List.mem_cons, List.not_mem_nil, or_false, Prod.mk.injEq] at h
    rcases h with ⟨rfl, rfl, rfl⟩ | ⟨rfl, rfl, rfl⟩
    · decide
    · exact absurd rfl hn
  · rw [show boxed.residents = [(0, 0, packOf .gen [] [])] from rfl] at h
    obtain ⟨rfl, rfl, rfl⟩ : c = 0 ∧ sl = 0 ∧ p = packOf .gen [] [] := by simpa using h
    exact ⟨rfl, by decide⟩
  · obtain ⟨rfl, rfl, rfl⟩ : gid = 1 ∧ g = groupOf := by simpa [held', boxed, resting, issuing] using h
    rfl

/-- The states in which the other mailbox commands of StagedMaps complete. -/
theorem witness_StagedMapsCommands :
    Idle boxed ∧ boxed.mp.staged ≠ none ∧ (∀ r, r ∈ boxed.home.retiles → r.part = 1 → r.stage = .waiting) ∧
      (boxed.part 1).token = some (0x5000, []) ∧ (∃ q, tabFind boxed.pages ((0x10003 : DWord).toNat % 2 ^ 16) = some q ∧ q.stage2 = true) ∧
      ((boxed.part 1).map.valid = true ∧ (boxed.part 1).preempt = .none) ∧ Idle held' ∧ (held'.part 1).preempt ≠ .none :=
  ⟨rfl, nofun, nofun, rfl, ⟨_, rfl, rfl⟩, ⟨rfl, rfl⟩, rfl, nofun⟩

/-- A pack in its slot at `time` 5, on a core with its RCB managed. -/
def parkedAs (p : Pack) : State :=
  { managed (resting p) with time := 5 }

/-- A thread held at its address, whose meeting is over at 5. -/
def meeting : Pack :=
  { packOf .gen [] [] with
    threads := [{ pc := 0x10000, meet := 0x8000000000010000, yield := 1 }]
    meets := [⟨0x10000, some 5, 1, 0⟩] }

theorem packAt_parked (p : Pack) : (parkedAs p).packAt 0 0 = some p := rfl

theorem listed_parked (p : Pack) : Listed (parkedAs p) := by
  refine ⟨rfl, fun c => ?_⟩
  have h : (parkedAs p).cores = [(0, { packs := [(0, p)], tlb := [page] }), (160, { tlb := [rcbPage] })] := rfl
  simp only [State.core, tabGet, h, tabFind]
  by_cases h0 : c = 0
  · simp [h0, tabRising]
  · by_cases h1 : c = 160
    · simp [h1, tabRising]
    · simp [Ne.symm h0, Ne.symm h1, tabRising]

/-- A pack that waits to acquire 15 blocks. -/
def acquiring : Pack := { packOf .gen [] [] with pro := 1, full := false, wait := .acquire }

/-- A pack that waits for a copy queue entry, first in the order. -/
def queueing : State :=
  { resting { packOf .cpy [] [] with wait := .queue .cpy } with
    cores := [(0, { packs := [(0, { packOf .cpy [] [] with wait := .queue .cpy })], stalls := [(.cpy, 0)] })] }

/-- A pack whose argument block is at page 3, not loaded. -/
def arguing : State := { resting { packOf .gen [] [] with args := .pending } with mem := [(0x100003C, 8)] }

/-- A request that waits for an entry. -/
def waitingReq : PageReq := { fn := 1, part := 1, stage2 := false, access := 0, addr := 0x50000, page := 5, time := 9, src := 0, waiter := .idle }

theorem witness_TimersAndGrants :
    (Idle (parkedAs meeting) ∧ (parkedAs meeting).packAt 0 0 = some meeting ∧
      meeting.meets.find? (fun m => (match m.deadline with | some d => decide (d ≤ (parkedAs meeting).time) | none => false) &&
        meeting.heldAt m.addr != 0) = some ⟨0x10000, some 5, 1, 0⟩ ∧ (meeting.thread 0).held = true ∧
      (meeting.thread 0).pc = 0x10000 ∧ (meeting.thread 0).yield = 1 ∧ 0 < meeting.threads.length) ∧
    ((parkedAs { packOf .gen [] [] with wait := .sleep 5 }).time = 5 ∧ (parkedAs { packOf .gen [] [] with wait := .sleep 6 }).time < 6) ∧
    (Listed (parkedAs acquiring) ∧
      (∀ k q, (k, q) ∈ ((parkedAs acquiring).core 0).packs → k / 12 = 0 / 12 → k ≠ 0 → q.wait ≠ .acquire) ∧
      acquiring.fullBlocks - acquiring.pro ≤ (parkedAs acquiring).freeBlocks 0 (0 / 12) ∧
      ((parkedAs acquiring).acquireEnergy acquiring).2 = true ∧ acquiring.full = false) ∧
    (Idle queueing ∧ (queueing.core 0).stalls = [(.cpy, 0)] ∧ queueing.mayTake 0 1 .cpy = true) ∧
    (let s : State := { resting (packOf .gen [] []) with env := { defer := true } }
     State.fetchLate { s with site := some (0, 0), pk := packOf .gen [] [] } 0 0 = true) ∧
    (parkedAs { packOf .gen [] [] with late := [⟨7, [(1, 5)]⟩] }).packAt 0 0 = some { packOf .gen [] [] with late := [⟨7, [(1, 5)]⟩] } ∧
    (Idle arguing ∧ arguing.group 1 = some groupOf ∧ Clean arguing ∧ arguing.home.replicaLag = [] ∧ groupOf.arg.toNat = 0xC00 * 64 ∧
      (arguing.core 0).tlb.find? (fun y => y.part = 1 && y.vpn = 0xC00 * 64 / 2 ^ 16) = some page ∧ page.misused .flat = false ∧
      page.allows .load .user = true ∧ arguing.paKind (page.frame * 2 ^ 16 + 0xC00 * 64 % 2 ^ 16) = .hbm ∧ (∀ a n, Sound arguing a n)) ∧
    ({ resting (packOf .gen [] []) with overflow := [waitingReq] } : State).pageMayTake 1 = true := by
  refine ⟨⟨rfl, rfl, by decide, by decide, rfl, rfl, by decide⟩, ⟨rfl, by decide⟩,
    ⟨listed_parked _, fun k q h _ hk => absurd (packs_one rfl h).1 hk, by decide, by decide +kernel, rfl⟩, ⟨rfl, rfl, by decide⟩,
    by decide, rfl, ⟨rfl, rfl, ⟨rfl, rfl, rfl, rfl, rfl⟩, rfl, by decide, by decide, rfl, rfl, by decide, sound_idle rfl⟩, by decide⟩

/-- A load of v8 or an atomic in flight, in lane 0, at phase `ph`; the address is page 3, offset 0xFFF0. -/
def inPhase (w0 w1 : Word) (queued : LaneMask) (ph : Phase) : Pack × Entry × LaneAcc :=
  let w : LaneAcc := ⟨[0x3FFF0, 0, 3, 0, 0, 0, 0, 0], ph, none, 0⟩
  let e : Entry := { entry w0 .walk with w1 := w1, lanes := [(0, w)], queued := queued }
  ({ packOf .gen [] [(4, 0x30000)] with replay := [e] }, e, w)

/-- The state of such a pack, with its accesses left in flight. -/
def flying (p : Pack) (lines : List Nat) : State :=
  { resting p with env := { defer := true }, home := { lines := lines }, mem := [(0x100FFF0, 5)] }

theorem listed_flying (p : Pack) (l : List Nat) : Listed (flying p l) := by
  refine ⟨rfl, fun c => ?_⟩
  rw [core_one _ rfl]; split <;> rfl

theorem inFlight_of (w0 w1 : Word) (q : LaneMask) (ph : Phase) (i : Instr) (h : decode w0 w1 = .ok i) :
    InFlight (inPhase w0 w1 q ph).1 (inPhase w0 w1 q ph).2.1 0 (inPhase w0 w1 q ph).2.2 i := ⟨rfl, h, by decide, (by decide : (1 : LaneMask) = BitVec.twoPow 32 0), rfl⟩

/-- ld.b32 v8, [s4:s5 + v3]. -/
def loadWord : Word := (encode (.ldB32 8 3 0 4)).headD 0

/-- atom.add.i32 v8, [s4:s5 + v3], v10. -/
def atomWords : Word × Word :=
  let w := encode (.atom unguarded 8 3 10 0 .i32 .add .rlx .grp 4)
  (w.headD 0, w.getD 1 0)

theorem witness_AccessesInFlight :
    (∀ ph, InFlight (inPhase loadWord 0 0 ph).1 (inPhase loadWord 0 0 ph).2.1 0 (inPhase loadWord 0 0 ph).2.2 (.ldB32 8 3 0 4)) ∧
    (∃ x d sg, flatLoadForm (.ldB32 8 3 0 4) = some (x, d, sg) ∧ x.n = 4) ∧ (encode (.ldB32 8 3 0 4)).length = 1 ∧
    (let p := (inPhase loadWord 0 0 .walk).1
     Idle (flying p []) ∧ Listed (flying p []) ∧ Clean (flying p []) ∧ (flying p []).packAt 0 0 = some p ∧
      recordVa (inPhase loadWord 0 0 .walk).2.2 = 0x3FFF0 ∧
      ((flying p []).core 0).tlb.find? (fun y => y.part = p.part && y.vpn = 0x3FFF0 / 2 ^ 16) = some page ∧
      (flying p []).paKind 0x100FFF0 = .hbm ∧ (flying p []).home.paused = none ∧ (∀ b, b ∈ ((flying p []).core 0).l1 → b.odd = []) ∧
      (flying p []).hasWalker 0 (inPhase loadWord 0 0 .walk).2.1.id = true ∧ ∀ a n, Sound (flying p []) a n) ∧
    (let p := (inPhase loadWord 0 0 (.ready [(0x100FFF0, 0)])).1
     0x100FFF0 / 256 ∈ (flying p [0x100FF]).home.lines ∧ 0x100FFF0 / 256 ∉ (flying p []).home.lines ∧
      (flying p []).blockCode 0x100FFF0 = 0 ∧ ((flying p []).core 0).sector (0x100FFF0 / 16) = none ∧
      ∀ sec bs, ((flying p []).core 0).sector sec = some bs → bs = (flying p []).memBytes (sec * 16) 16) ∧
    (let p := (inPhase loadWord 0 0 (.sent [(0x100FFF0, 0)])).1
     let s : State := { flying p [] with home := { arrivals := [(5, 0)] } }
     s.home.paused = none ∧ s.home.arrivals = [((inPhase loadWord 0 0 (.sent [(0x100FFF0, 0)])).2.1.id, 0)] ∧
      ∀ k n q, (k, n, q) ∈ s.residents → ¬(k = 0 ∧ n = 0) → q.replay = []) ∧
    (let p := (inPhase loadWord 0 0 (.done [7])).1
     (p.thread 0).exited = false ∧ 0 < p.threads.length ∧ (∀ y, y ∈ (flying p []).home.promoting → y.replied = true) ∧
      ∀ b, ∃ s : State, Idle s ∧ s.packAt 0 0 = some p ∧ s.home.promoting = [⟨7, 9, 5, 0, true, b⟩]) ∧
    (let p := (inPhase atomWords.1 atomWords.2 1 (.ready [(0x100FFF0, 0)])).1
     InFlight p (inPhase atomWords.1 atomWords.2 1 (.ready [(0x100FFF0, 0)])).2.1 0
        (inPhase atomWords.1 atomWords.2 1 (.ready [(0x100FFF0, 0)])).2.2 (.atom unguarded 8 3 10 0 .i32 .add .rlx .grp 4) ∧
      (flying p []).packAt 0 0 = some p ∧ ((flying p []).part p.part).halted = false) := by
  refine ⟨fun ph => inFlight_of _ _ _ _ _ rfl, ⟨_, _, _, rfl, rfl⟩, rfl,
    ⟨rfl, listed_flying _ _, ⟨rfl, rfl, rfl, rfl, rfl⟩, rfl, by decide, rfl, by decide, rfl, nofun, by decide, sound_idle rfl⟩,
    ⟨by decide, by decide, rfl, rfl, nofun⟩, ⟨rfl, rfl, fun k n q h hn => ?_⟩, ⟨rfl, by decide, nofun, fun b => ⟨{ flying _ [] with home := { promoting := [⟨7, 9, 5, 0, true, b⟩] } }, rfl, rfl, rfl⟩⟩, inFlight_of _ _ _ _ _ rfl, rfl, rfl⟩
  have : (k, n, q) ∈ [(0, 0, (inPhase loadWord 0 0 (.sent [(0x100FFF0, 0)])).1)] := h
  rw [List.mem_singleton] at this
  cases this
  exact absurd ⟨rfl, rfl⟩ hn

/-- Two updates on their way to the barrier at 0x40 of core 0; a load of the pack at its home slice, about to be promoted. -/
def arriving : State :=
  { resting (packOf .gen [] []) with cores := [(0, { bank := [.expect 0x40 3, .arrive 0x40 7 true] })] }

theorem witness_MemorySystemEvents :
    (Idle arriving ∧ (arriving.core 0).vaultBad = [] ∧ (arriving.core 0).vaultSoft = [] ∧
      (arriving.core 0).bank = [.expect 0x40 3, .arrive 0x40 7 true]) ∧
    (Idle guest ∧ Clean guest ∧ ∀ a n, Sound guest a n) ∧ (AtomOp.add.okFor .i64 = true ∧ (8 * 3) % atomBytes .i64 = 0) ∧
    ∀ asked, ∃ s : State, Idle s ∧ s.home.promoting = [⟨6, 9, 4, 0, false, false⟩] ++ ⟨7, 9, 5, 0, asked, false⟩ :: [] :=
  ⟨⟨rfl, rfl, rfl, rfl⟩, ⟨rfl, ⟨rfl, rfl, rfl, rfl, rfl⟩, sound_idle rfl⟩, ⟨rfl, rfl⟩, fun asked =>
    ⟨{ home := { promoting := [⟨6, 9, 4, 0, false, false⟩, ⟨7, 9, 5, 0, asked, false⟩] } }, rfl, rfl⟩⟩

theorem tabFind_listed {α : Type} {m : Tab α} {k : Nat} (h : k ∈ m.map (·.1)) : tabFind m k ≠ none := by
  induction m with
  | nil => cases h
  | cons x r ih =>
    rw [tabFind_cons]
    split
    · simp
    · rename_i hn
      rcases List.mem_cons.1 h with h | h
      · exact absurd h.symm hn
      · exact ih h

/-- The flash holds training values for every stack. -/
def flashed : State := { guest with mp := { flash := (List.range 8).map fun st => (Config.stackSerial st, 5) } }

theorem witness_UpkeepAndBoot :
    Idle guest ∧ guest.paKind (0x1000180 / 256 * 256) = .hbm ∧
      (0 = guest.home.recals % 256 ∧ guest.home.recals * 1000000 / 256 ≤ guest.time ∧ guest.home.paused = none) ∧
      1 ≠ guest.home.recals % 256 ∧
      (Idle State.reset ∧ State.reset.paKind ((Config.hbmBytes - 1) / 256 * 256) = .hbm) ∧
      (Idle flashed ∧ ∀ st, st < 8 → tabFind flashed.mp.flash (Config.stackSerial st) ≠ none) :=
  ⟨rfl, by decide, ⟨rfl, by decide, rfl⟩, by decide, ⟨rfl, by decide⟩, rfl, fun st h => tabFind_listed (by
    simp only [flashed, List.map_map, List.mem_map, List.mem_range]
    exact ⟨st, h, rfl⟩)⟩

/-- Node 5 is ready, its RCB managed, and partition 1 has cluster 0 (R21, R131). -/
def dispatching (n : Node) : State :=
  { managed (resting (packOf .gen [] [])) with
    groups := [], sched := { nodes := [(5, n)] }
    parts := [(1, { map := { ctl := 0x21, clg := 1, cgg := 1 }, slotHi := 8 })] }

/-- A ready node of two groups that has been passed over `k` times. -/
def readyNode (k : Nat) : Node := { nodeOf 0 with ready := true, est := 100, stuck := k }

/-- A done node, all its groups ended, whose overflow list at page 4 is empty. -/
def listing : Node := { nodeOf 0 with ready := true, done := true, listing := true, overflow := 0x40600 }

/-- Partition 1 with a token for its region at page 4, which waits since 0 (R175). -/
def holding (logged : Bool) : State :=
  { managed (resting (packOf .gen [] [])) with
    mem := [(0x1010022, 1), (0x1010028, 1), (0x1010051, 8), (0x1010052, 4)]
    parts := [(1, { map := { ctl := 0x21 }, token := some (0, [0, 0, 0, 0, 0, 0, 1] ++ List.replicate 185 0)
                    regions := [(0x40000, { hold := some 0, holdLogged := logged })] })] }

/-- The same region 10 ms later, where no token has come. -/
def forgotten : State :=
  { holding false with
    time := 10000000
    parts := [(1, { map := { ctl := 0x21 }, regions := [(0x40000, { hold := some 0 })] })] }

theorem witness_Scheduling :
    (Idle (dispatching (readyNode 0)) ∧ (dispatching (readyNode 0)).waitingBack = [] ∧
      (dispatching (readyNode 0)).waitingRest = [] ∧
      ∃ s1 s2, (dispatching (readyNode 0)).poolOf 0 = (s1, [5]) ∧ tabFind (s1.unstick []).sched.nodes 5 = some (readyNode 0) ∧
        (readyNode 0).flags % 2 = 0 ∧ (s1.unstick []).tryPlace 0 5 (readyNode 0) = (s2, .yes)) ∧
    (tabFind (dispatching (readyNode 11)).sched.reserved 0 = none ∧
      ∃ s1, (dispatching (readyNode 11)).poolOf 0 = (s1, [5]) ∧ tabFind s1.sched.nodes 5 = some (readyNode 11) ∧ 10 < (readyNode 11).stuck ∧
        s1.mayPlace 1 0 = true ∧ ∀ j, j / 80 = 0 → s1.mayPlace 1 j = true →
          s1.lacking (readyNode 11) 0 < s1.lacking (readyNode 11) j ∨
            (s1.lacking (readyNode 11) 0 = s1.lacking (readyNode 11) j ∧ 0 ≤ j)) ∧
    (∃ s1, tabFind (dispatching listing).sched.nodes 5 = some listing ∧ listing.next ≤ listing.ended ∧
      (dispatching listing).schedRead 1 listing.overflow.toNat 4 = (s1, some 0)) ∧
    (∃ s : State, Idle s ∧ (s.mp.planning + 1) * 10000 = s.time ∧ s.time < (s.mp.corrections + 1) * 1000000) ∧
    (∃ s : State, Idle s ∧ (s.mp.corrections + 1) * 1000000 = s.time ∧ s.groups = [(1, groupOf)] ∧ groupOf.away = false) ∧
    (∃ s : State, Idle s ∧ s.time = 1000000 ∧ ∀ gid g, (gid, g) ∈ s.groups → g.away = true) ∧
    (∃ s1 r, (holding false).tokenDue 1 (0x40000 : DWord).toNat = (s1, some r) ∧
      (s1.part 1).token = some (0, [0, 0, 0, 0, 0, 0, 1] ++ List.replicate 185 0) ∧
      (s1.takesWrite agentMp 1 .root r.tokbuf).2 = true) ∧
    ((holding false).region 1 (0x40000 : DWord).toNat).hold = some 0 ∧
    ((holding false).region 1 (0x40000 : DWord).toNat).holdLogged = false ∧ (holding false).cmds = [] ∧
    (((holding false).tokenDue 1 (0x40000 : DWord).toNat).2 ≠ none ∧ (holding false).time < 0 + 10000000) ∧
    ((forgotten.region 1 (0x40000 : DWord).toNat).hold = some 0 ∧ forgotten.time = 0 + 10000000 ∧
      (forgotten.tokenDue 1 (0x40000 : DWord).toNat).2 = none) := by
  have pair : ∀ {α β : Type} (x : α × β) (b : β), x.2 = b → x = (x.1, b) := fun _ _ h => h ▸ rfl
  refine ⟨⟨rfl, rfl, rfl, _, _, pair _ _ (by decide +kernel), by decide +kernel, rfl, pair _ _ (by decide +kernel)⟩,
    ⟨rfl, _, pair _ _ (by decide +kernel), by decide +kernel, by decide +kernel, by decide +kernel, fun j hj _ => ?_⟩,
    ⟨_, rfl, by decide, pair _ _ (by decide +kernel)⟩, ⟨{ time := 10000 }, rfl, rfl, by decide⟩, ⟨{ time := 1000000, groups := [(1, groupOf)] }, rfl, rfl, rfl, rfl⟩,
    ⟨{ time := 1000000 }, rfl, rfl, nofun⟩, ?_, rfl, rfl, rfl, ⟨by decide +kernel, by decide⟩, rfl, rfl, by decide +kernel⟩
  · have hj : j < 80 := by omega
    have : ∀ j, j < 80 → State.lacking ((dispatching (readyNode 11)).poolOf 0).1 (readyNode 11) 0 ≤
      State.lacking ((dispatching (readyNode 11)).poolOf 0).1 (readyNode 11) j := by decide +kernel
    rcases Nat.lt_or_eq_of_le (this j hj) with h | h
    · exact .inl h
    · exact .inr ⟨h, Nat.zero_le _⟩
  · have h : (match (holding false).tokenDue 1 (0x40000 : DWord).toNat with
        | (s1, some r) => (s1.takesWrite agentMp 1 .root r.tokbuf).2
        | _ => false) = true := by decide +kernel
    split at h
    · rename_i s1 r hr
      exact ⟨s1, r, hr, by rw [show s1 = _ from congrArg Prod.fst hr.symm]; decide +kernel, h⟩
    · cases h

/-- The re-tile of page 0 of tensor 9 from frame 0x100, ROW, to COL, at a stage, with frame 0x200 in the pool. -/
def retiled (st : RetileStage) (dirty : List Nat) : Retile :=
  { part := 1, tid := 9, page := 0, fmt := 2, why := .monitor, layout := 1, stage := st, oldFrame := 0x100, newFrame := 0x200, leaf := 0x3000028, dirty := dirty }

def retiling (st : RetileStage) (dirty : List Nat) : State :=
  { resting (packOf .gen [] []) with
    mem := [(0x1000004, 7), (0x3000028, 7), (0x300002B, 1)]
    home := { retiles := [retiled st dirty], reports := [⟨1, 9, 0, 0, 0, 3⟩] }
    parts := [(1, { map := { ctl := 0x21 }, records := [(9, tiledRec)], pool := [0x200] })] }

/-- What the clauses on a re-tile ask of it, but that its blocks are sound. -/
theorem retile_facts {st : RetileStage} {dirty : List Nat} (h : (st, dirty) ∈ [(RetileStage.waiting, []), (.copying, [255]),
    (.pass 1, [0]), (.pass 2, [0]), (.scheduled 0, [7]), (.published, [])]) :
    (retiling st dirty).retileNow 0 = some (retiled st dirty) ∧ (retiled st dirty).shape = ⟨32, 128, 128⟩ ∧
      (retiling st dirty).retileMapped (retiled st dirty) = true := by
  revert h
  generalize hx : (st, dirty) = x
  intro h
  obtain ⟨rfl, rfl, rfl⟩ : st = x.1 ∧ dirty = x.2 := by rw [← hx]; exact ⟨rfl, rfl⟩
  revert x
  decide +kernel

theorem retile_sound (st : RetileStage) (dirty segs : List Nat) : (retiling st dirty).brokenBlock 0x100 segs = none := by
  have h : ∀ a n, (retiling st dirty).uncorrectable a n = false := by
    intro a n
    simp [State.uncorrectable, State.blockCode, State.mapBroken, retiling, resting, issuing]
  unfold State.brokenBlock
  simp only [h, List.find?_eq_none]
  intro _ _
  exact Bool.false_ne_true

/-- A report of class `cls` on page 0 of tensor 9, which lies under ROW in frame 0x100, with its monitor record. -/
def reporting (word : DWord) (cls : Nat) : State :=
  { retiling .waiting [] with
    s1u := [(dieOf agentMp, ⟨1, 0, 0x3100000, []⟩)]
    s2u := [(dieOf agentMp, ⟨1, 0, 0x3000000, []⟩)]
    mem := [(0x3000028, 7), (0x300002B, 1), (0x3100018, 7), (0x310001A, 5)]
    home := { reports := [⟨1, 9, 0, cls, 0, 3⟩], monitors := [⟨1, 9, 0, word⟩] } }

/-- What the report clause asks, and where each case of its record stands: the window of tensor 9 is 256 reports. -/
theorem reporting_facts : ∀ x, x ∈ [((7 <<< 24 : DWord), 1), (255 <<< 24 ||| 3 <<< 17, 1), (191 <<< 56 ||| 255 <<< 24, 0),
    (191 <<< 48 ||| 255 <<< 24, 1), (255 <<< 24, 3), (1 <<< 9, 0)] →
    State.pageLeaf (reporting x.1 x.2) (recOf tiledRec) 1 0 = some ⟨0x100, 0, 0x3000028⟩ ∧
      (reporting x.1 x.2).monitor 1 9 0 (recOf tiledRec) = ⟨1, 9, 0, x.1⟩ ∧
      (reporting x.1 x.2).retileCount ((reporting x.1 x.2).stackOfFrame 0x100) < 128 := by
  decide +kernel

theorem witness_Retiling :
    (∀ x, x ∈ [(RetileStage.waiting, []), (.copying, [255]), (.pass 1, [0]), (.pass 2, [0]), (.scheduled 0, [7]), (.published, [])] →
      Idle (retiling x.1 x.2) ∧ (retiling x.1 x.2).retileNow 0 = some (retiled x.1 x.2) ∧ Clean (retiling x.1 x.2) ∧
        MayRetile (retiling x.1 x.2) (retiled x.1 x.2) ∧ ∀ a n, Sound (retiling x.1 x.2) a n) ∧
    (0x200 ∈ ((retiling .waiting []).part 1).pool ∧ (retiling .waiting []).colour 0x200 = (retiling .waiting []).colour 0x100 ∧
      (retiling .waiting []).retileLeaving (retiled .waiting []) = false ∧ 0x200 ∉ ((retiling .waiting []).part 1).marked ∧ 0x100 ∉ ((retiling .published []).part 1).marked) ∧
    (let box := (retiled .copying []).shape
     box.bits * box.h * box.w = 2 ^ 19 ∧ 8 ∣ box.bits ∧ 32 ∣ box.h ∧ 32 ∣ box.w) ∧
    ((retiled .copying []).leaf / 2 ^ 16 ≠ (retiled .copying []).newFrame ∧ (retiled .copying []).leaf % 8 = 0 ∧
      (retiled .copying []).newFrame < 2 ^ 36 ∧ (retiled .copying []).newFrame ≠ (retiled .copying []).oldFrame) ∧
    (∀ x : DWord × Nat, (reporting x.1 x.2).home.reports = [⟨1, 9, 0, x.2, 0, 3⟩] ∧ (reporting x.1 x.2).home.monSoft = [] ∧
      (reporting x.1 x.2).home.monBad = [] ∧
      ∃ b, tabFind ((reporting x.1 x.2).part 1).records 9 = some b ∧ parseTRec b = some (recOf tiledRec)) ∧
    (let r := recOf tiledRec
     let m := fun w => (⟨1, 9, 0, w⟩ : Monitor)
     ¬(r.linear = true ∨ r.pinned = true ∨ r.notrack = true ∨ r.paired = true) ∧ (m (1 <<< 9)).state ≠ 0 ∧ 2 ^ r.window = 256 ∧
      (m (7 <<< 24)).get 31 24 + 1 < 256 ∧ (m (255 <<< 24 ||| 3 <<< 17)).get 31 24 + 1 = 256 ∧ (m (255 <<< 24 ||| 3 <<< 17)).cool = 3 ∧
      3 * 256 ≤ 4 * ((m (191 <<< 56 ||| 255 <<< 24)).get 63 56 + 1) ∧ 3 * 256 ≤ 4 * ((m (191 <<< 48 ||| 255 <<< 24)).get 55 48 + 1) ∧
      (m (255 <<< 24)).cool = 0 ∧ (m (191 <<< 48 ||| 255 <<< 24)).cool = 0) ∧
    128 ≤ ({ reporting 0 1 with home := { (reporting 0 1).home with retiles := List.replicate 128 (retiled .waiting []) } } : State).retileCount
      (State.stackOfFrame {} 0x100) :=
  ⟨fun x hx => ⟨rfl, (retile_facts hx).1, ⟨rfl, rfl, rfl, rfl, rfl⟩, ⟨(retile_facts hx).2.2, fun segs _ => retile_sound _ _ segs⟩, sound_idle rfl⟩,
    by decide, ⟨by decide, by decide, by decide, by decide⟩, ⟨by decide, rfl, by decide, by decide⟩,
    fun x => ⟨rfl, rfl, rfl, _, rfl, rfl⟩, by decide +kernel, by decide +kernel⟩

/-- A command 3 of group 1 on core 0. -/
def commandOf (i : Instr) (rec : List Byte) (st : CmdState) (sig : Signal) : Cmd :=
  { core := 0, engines := [0], feed := 3, instr := i, record := rec, params := [], coords := [], tensors := [], signal := sig, packNo := 0
    group := 1, part := 1, rcb := 0x40000, slotNo := 5, priv := .user, time := 0, handle := none, handleNo := 0, state := st, bytes := 8 }

def running (c : Cmd) : State :=
  { tensing tiledRec 0 (packOf .mtx [] []) with site := none, cmds := [(3, c)] }

/-- A grid command, and its completion at a barrier, in a token or nowhere. -/
def gridding (st : CmdState) (sig : Signal) : Cmd := commandOf (.splgrid 8 40 0 true) gridRec st sig

/-- A feed of 128 rows of the first of 2 K-steps of tensor 9. -/
def feeding : Cmd :=
  { commandOf (.cpyf 8 12 6 0 false false) ([9, 0, 0, 0] ++ bytesOfNat 4 1 ++ bytesOfNat 4 2 ++ List.replicate 20 0) .running .nothing with
    coords := [0, 0], tensors := [tiledRec], handle := some (single 0 0), feed := 0 }

theorem collected {α β : Type} {x : State × Except α β} (h : x.2.isOk = true) : ∃ s1 rows, x = (s1, .ok rows) := by
  obtain ⟨s1, _ | rows⟩ := x
  · cases h
  · exact ⟨s1, rows, rfl⟩

theorem witness_EngineEvents :
    (Idle (running (gridding .queued .nothing)) ∧ tabFind (running (gridding .queued .nothing)).cmds 3 = some (gridding .queued .nothing) ∧
      (running (gridding .queued .nothing)).mayStart 0 3 = true ∧ (running (gridding .ready .nothing)).mayStart 0 3 = false ∧
      (running (gridding .queued .nothing)).mayFeed 0 3 = false) ∧
    ((running feeding).mayFeed 0 3 = true ∧ (running feeding).home.paused = none ∧ 2 ≤ (gridding .ready .nothing).feed ∧ feeding.recs = [recOf tiledRec] ∧ (single 0 0).kind = .single ∧ feeding.isMma = false ∧
      feeding.isMmv = false ∧ tabRising (running feeding).cmds 0 = true ∧
      ∃ s1 rows, collect (fun s k => s.readOperandRow feeding (recOf tiledRec) (fieldAt feeding.record 2 1 ≠ 0) feeding.cursor k)
        (running feeding) (List.range (fieldAt feeding.record 4 4)) = (s1, .ok rows)) ∧
    (∀ sig, (running (gridding .ready sig)).enginesRun 1 = true ∧ (running (gridding .ready sig)).livePacks 1 = true ∧
      (running (gridding .ready sig)).cutOne (gridding .ready sig) = (running (gridding .ready sig), .ok (gridding .ready sig))) ∧
    ((running (gridding .ready (.barrier 0 0x40))).env.defer = false ∧ ((running (gridding .ready (.barrier 0 0x40))).core 0).vaultBad = [] ∧
      ((running (gridding .ready (.barrier 0 0x40))).core 0).vaultSoft = []) ∧
    (running (gridding .ready (.token 63))).packAt 0 0 = some (packOf .mtx [] []) ∧ (packOf .mtx [] []).group = 1 :=
  ⟨⟨rfl, rfl, by decide, by decide, by decide⟩, ⟨by decide +kernel, rfl, by decide, by decide +kernel, rfl, rfl, rfl, rfl, collected (by decide +kernel)⟩,
    fun _ => ⟨rfl, by rfl, rfl⟩, ⟨rfl, rfl, rfl⟩, rfl, rfl⟩

/-- A command at work on core 0, whose engine is in this state. -/
def working (c : Cmd) (en : Engine) : State :=
  { resting (packOf .mtx [] []) with cores := [(0, { packs := [(0, packOf .mtx [] [])], tlb := [page], eng := en })], cmds := [(3, c)] }

/-- A matrix command of one K-step of FP32 that makes `m` by 1 elements; of mmv the vector is at the start of the vault. -/
def multiplying (vector : Bool) (m : Byte) : Cmd :=
  { commandOf (if vector then .mmv 8 7 0 false else .mma 8 12 7 0 false)
      ([m, 0, 1, 0] ++ bytesOfNat 4 16 ++ (if vector then [9, 0, 0, 0] ++ bytesOfNat 4 0x3FC00000 ++ bytesOfNat 4 64 else [9, 0, 9, 0, 0, 0, 0, 0]) ++
        List.replicate 12 0) .queued .nothing with
    tensors := [tiledRec, tiledRec], handle := some (single 0 0) }

def oneRow : KStep := { owner := 1, handle := 0, cmd := 9, k := 0, rows := [List.replicate 64 0], scales := [[]] }

/-- A spline command on whole vectors of 64, from the start of the vault, with this handle. -/
def splining (i : Instr) (h : Machine.Handle) : Cmd :=
  { commandOf i (bytesOfNat 4 0x3FC00000 ++ bytesOfNat 4 0x3FC01000 ++ [0, 1, 0, 1, 64, 64, 1, 0, 1] ++ List.replicate 15 0) .queued .nothing with
    handle := some h }

def gradHandle : Machine.Handle := { single 0 0 with kind := .splgrad }

theorem accClean_working (c : Cmd) (en : Engine) (h : Machine.Handle) (h1 : en.accSoft = []) (h2 : en.accBad = []) : AccClean (working c en) h := by
  intro e _
  rw [core_one _ rfl]
  split
  · exact ⟨h1, h2⟩
  · exact ⟨rfl, rfl⟩

theorem witness_EngineResults :
    (∀ v, let c := multiplying v 1
      let s := working c { fifoA := [oneRow], fifoB := [oneRow] }
      Idle s ∧ tabFind s.cmds 3 = some c ∧ c.state = .queued ∧ s.mayStart 0 3 = true ∧ (c.isMma = true ∨ c.isMmv = true) ∧ c.tile = [] ∧
        c.handle = some (single 0 0) ∧ (single 0 0).engines.Nodup ∧ c.engines = (single 0 0).engines ∧ AccClean s (single 0 0) ∧
        0 < c.dims.m ∧ c.dims.m ≤ 128 ∧ 0 < c.dims.n ∧ c.dims.n ≤ 192 ∧ c.dims.steps = 1 ∧ needRows (single 0 0) c.dims 0 = (1, 1) ∧
        (s.core 0).eng.fifoA = [oneRow] ++ [] ∧ (s.core 0).eng.fifoB = [oneRow] ++ [] ∧ ∃ r vs, s.readVectors c c.dims = (r, .ok vs)) ∧
    (multiplying false 0).dims.m = 0 ∧
    (let c := commandOf (.splload 8 40 0 true) (bytesOfNat 8 0x30000 ++ [63, 63, 1, 1] ++ List.replicate 20 0) .queued .nothing
     (working c {}).mayStart 0 3 = true ∧ ∃ r bs, (working c {}).engFlat c (fieldAt c.record 0 8) (40 * 1 * 1) = (r, .ok bs)) ∧
    (let c := commandOf (.splrefine 40 0 true) [] .queued .nothing
     ∀ en : Engine, en.coefSoft = [] → en.coefBad = [] → CoefClean (working c en) 0) ∧
    ((let c := splining (.splmv 8 40 0 true true) (single 0 0)
      (working c {}).mayStart 0 3 = true ∧ ∃ r x, (working c {}).splineInputs c true = (r, .ok x)) ∧
      let c := splining (.splmv 8 40 0 false true) (single 0 0)
      ∃ r x, (working c {}).splineInputs c false = (r, .ok x)) ∧
    (let c := splining (.splgrad 8 40 0 true) gradHandle
     (working c {}).mayStart 0 3 = true ∧ AccClean (working c {}) gradHandle ∧ gradHandle.bound = true ∧ gradHandle.kg = ({} : Engine).kg ∧
      gradHandle.kord = ({} : Engine).kord ∧ gradHandle.kg ≠ ({ kg := 2 } : Engine).kg ∧
      ∃ r x, (working c {}).splineInputs c true = (r, .ok x)) := by
  refine ⟨fun v => ?_, by decide, ⟨by decide, collected (by decide +kernel)⟩, fun en h1 h2 => ⟨h1, h2⟩,
    ⟨⟨by decide, collected (by decide +kernel)⟩, collected (by decide +kernel)⟩,
    by decide, accClean_working _ _ _ rfl rfl, rfl, rfl, rfl, by decide, collected (by decide +kernel)⟩
  cases v <;> exact ⟨rfl, rfl, rfl, by decide, by decide, rfl, rfl, by decide, rfl, accClean_working _ _ _ rfl rfl, by decide, by decide,
    by decide, by decide, by decide, by decide, rfl, rfl, collected (by decide +kernel)⟩

/-- A copy of one row of 64 bytes. -/
def copying (kinds : Byte) (src dst : Nat) (st : CmdState) : Cmd :=
  { commandOf (.cpy 8 12 6 0 false) (bytesOfNat 8 src ++ bytesOfNat 8 dst ++ [1, 0, kinds, 0] ++ bytesOfNat 4 64 ++ List.replicate 8 0) st .nothing with
    feed := 2, shadow := List.replicate 64 7 }

/-- A gather of one row of 16 elements of tensor 9 into the vault, by the index at 0x2000. -/
def gathering : Cmd :=
  { commandOf (.cpyg 8 12 6 0 false) (bytesOfNat 8 0x3FC01000 ++ [9, 0, 1, 0] ++ bytesOfNat 4 0x3FC02000 ++ bytesOfNat 4 1 ++ bytesOfNat 4 16 ++
      List.replicate 8 0) .queued .nothing with
    feed := 2, tensors := [tiledRec] }

/-- That gather, with this index. -/
def indexed (x : Byte) : State :=
  { running gathering with
    cores := [(0, { packs := [(0, packOf .mtx [] [])], tlb := [{ page with tpage := true }], vault := cellsAt 0x2000 [x] })] }

/-- A vector of F4X elements at page 3, its scales at page 4. -/
def f4xRec : List Byte :=
  bytesOfNat 8 0x30000 ++ bytesOfNat 8 0 ++ bytesOfNat 4 0x107 ++ bytesOfNat 4 32 ++ List.replicate 20 0 ++ bytesOfNat 8 0x40000 ++
    bytesOfNat 4 15 ++ List.replicate 8 0

/-- A drain of one row of 32 elements into these tensors. -/
def draining (mode : Byte) (ts : List (List Byte)) (st : CmdState) : Cmd :=
  { commandOf (.accdrain 8 12 6 0 true false) ([9, 0, 0, mode, 1, 0, 32, 0] ++ List.replicate 24 0) st .nothing with
    tensors := ts, coords := [0, 0], handle := some (single 0 0), tile := List.replicate 32 0x3F800000, params := List.replicate 32 0 }

/-- It, where page 3 is a tensor page under a layout. -/
def drained (c : Cmd) (layout : Nat) : State :=
  { running c with cores := [(0, { packs := [(0, packOf .mtx [] [])], tlb := [{ page with tpage := true, layout := layout }, rcbPage] })] }

/-- The places of some writes, checked. -/
def placedB (s : State) (ps : List Put) : Bool :=
  s.home.bad.isEmpty && s.home.soft.isEmpty && s.home.zeroGroups.isEmpty && s.home.mapSoft.isEmpty && s.home.mapBad.isEmpty &&
    (ps.all fun p => s.paKind p.pa == .hbm && decide (s.blockCode p.pa ≠ 3) && decide (p.pa % 128 + p.bytes.length ≤ 128)) &&
    ps.all fun p => ps.all fun q => !(p.nibble.isSome && q.nibble.isNone && decide (q.pa ≤ p.pa) && decide (p.pa < q.pa + q.bytes.length))

theorem placed_of {s : State} {ps : List Put} (h : placedB s ps = true) : Placed s ps := by
  simp only [placedB, Bool.and_eq_true, List.isEmpty_iff, List.all_eq_true, beq_iff_eq, decide_eq_true_eq] at h
  obtain ⟨⟨⟨⟨⟨⟨h1, h2⟩, h3⟩, h4⟩, h5⟩, h6⟩, h7⟩ := h
  refine ⟨⟨h1, h2, h3, h4, h5⟩, fun p hp => ⟨(h6 p hp).1.1, (h6 p hp).1.2, (h6 p hp).2⟩, fun p q hp hq hn hq' hr => ?_⟩
  have := h7 p hp q hq
  simp [hn, hq', hr] at this

theorem placed_got {α : Type} {x : Got (List α)} {f : List α → List Put} (h : (match x with | (r, .ok ps) => placedB r (f ps) | _ => false) = true) :
    ∃ r ps, x = (r, .ok ps) ∧ Placed r (f ps) := by
  split at h
  · rename_i r ps
    exact ⟨r, ps, rfl, placed_of h⟩
  · cases h

/-- An accreduce of cores 0 and 1, of a tile of `rows` by 1. -/
def reducing (core : Nat) (rows : Byte) (st : CmdState) : Cmd :=
  { commandOf (.accreduce 8 7 0 false) ([0, 3, rows, 0, 1, 0] ++ List.replicate 26 0) st .nothing with
    core := core, engines := [core], handle := some (single core 0) }

/-- It waits on core 0 for core 1's, whose tile has `rows` rows. -/
def reduction (rows : Byte) : State :=
  { resting (packOf .mtx [] []) with
    cmds := [(3, reducing 0 1 .queued), (4, reducing 1 rows .running)], sched := { nodes := [(5, { nodeOf 0 with flags := 1 })] } }

/-- The waiting commands, by core. -/
def waiters (rows : Byte) (k : Nat) : Option (Nat × Cmd) :=
  if k = 0 then some (3, reducing 0 1 .running) else if k = 1 then some (4, reducing 1 rows .running) else none

theorem witness_EngineTransfers :
    (∀ k, k ∈ [(0 : Byte), 4, 5] → let c := copying k (if k = 5 then 0x3FC01000 else 0x30000) (if k = 0 then 0x30100 else 0x3FC01004) .queued
      (working c {}).mayStart 0 3 = true ∧ ∃ p, c.piece = some p ∧ (∃ r x, (working c {}).readPiece c p = (r, .ok x)) ∧
        (c.copyDst.kind = 1 → (working c {}).vaultSpan 1 1 p.dst p.n = some (0, 0x1004)) ∧
        (k = 5 → (working c {}).vaultSpan 1 1 ((cpySide c false).base + p.row * (cpySide c false).pitch + p.off) p.n = some (0, 0x1000))) ∧
    ((indexed 128).mayStart 0 3 = true ∧ gathering.recs = [recOf tiledRec] ∧
      ∃ r ix, (indexed 128).engVault gathering (fieldAt gathering.record 12 4) (4 * fieldAt gathering.record 16 4) = (r, .ok ix) ∧
        ∃ w, w ∈ wordsOfBytes ix ∧ (recOf tiledRec).dim 1 ≤ w.toNat) ∧
    (∃ p, gathering.piece = some p ∧ ∃ s1 c1, (indexed 127).readIndices gathering = (s1, .ok c1) ∧ ∃ r x, s1.gatherPiece c1 p = (r, .ok x)) ∧
    (let c := copying 0 0x30000 0x30100 .ready
     (working c {}).mayComplete 0 3 = true ∧ (working c {}).livePacks c.group = true ∧ c.shadow.length = 64 ∧ c.copySize = (64, 1) ∧
      ∃ r ps, collect (fun s k => s.engPlace c (c.copyDst.base + k * c.copyDst.pitch) ((c.shadow.drop (k * 64)).take 64)) (working c {}) (List.range 1) =
        (r, .ok ps) ∧ Placed r ps.flatten) ∧
    (let c := { copying 8 0x30000 9 .ready with tensors := [tiledRec], coords := [0, 0], shadow := List.replicate 256 7 }
     c.copyDst.kind = 2 ∧ c.copyDst.tensor = some (recOf tiledRec, [0, 0, 0, 0, 0]) ∧ c.copySize = (256, 1) ∧
      ∃ r ps, State.elemPuts (running c) c (recOf tiledRec) (((positions 1 64).map fun (k, e) => tileAt [0, 0, 0, 0, 0] e k).zip
        ((List.range 1).flatMap fun k => unpackElems (elemBits 2) 64 ((c.shadow.drop (k * 256)).take 256))) = (r, .ok ps) ∧ Placed r (ps.map (·.1))) ∧
    ((working (draining 0 [tiledRec] .queued) {}).mayStart 0 3 = true ∧ AccClean (working (draining 0 [tiledRec] .queued) {}) (single 0 0)) ∧
    (∀ k, k ∈ [(0 : Byte), 1] → let c := draining k [tiledRec] .ready
      (drained c 0).mayComplete 0 3 = true ∧ (drained c 0).livePacks c.group = true ∧ ((drained c 0).group c.group).isSome = true ∧
        c.tile.length = 1 * 32 ∧ c.recs = [recOf tiledRec] ∧ (recOf tiledRec).fmt ≠ 7 ∧
        (∃ s1 old, (drained c 0).engElems c (recOf tiledRec) false (c.drainCoords (recOf tiledRec)) = (s1, .ok old)) ∧
        ∃ r ps, (drained c 0).drainPuts c (single 0 0) (recOf tiledRec) = (r, .ok ps) ∧ Placed r (ps.map (·.1))) ∧
    (let c := draining 0 [f4xRec] .ready
     c.recs = [recOf f4xRec] ∧ (recOf f4xRec).fmt = 7 ∧ (recOf f4xRec).paired = false ∧
      ∃ r ps, (drained c 15).drainPuts c (single 0 0) (recOf f4xRec) = (r, .ok ps) ∧ Placed r (ps.map (·.1))) ∧
    (let c := draining 2 [tiledRec, tiledRec, tiledRec] .ready
     let t := recOf tiledRec
     c.recs = [t, t, t] ∧ ∃ s1 ws ms vs r ps,
      collect (fun s (t : TRec) => s.engElems c t false (c.drainCoords t)) (drained c 0) [t, t, t] = (s1, .ok [ws, ms, vs]) ∧
      let new := ((c.tile.zip ws).zip (ms.zip vs)).map fun ((x, a), (d, f)) => adamStep c.params x a.1 d.1 f.1
      let pick := fun (f : Nat × Nat × Nat → Nat) => ((c.drainCoords t).zip new).filterMap fun (cs, u) => u.map fun u => (cs, f u)
      collect (fun s (x : TRec × List (List Nat × Nat)) => s.elemPuts c x.1 x.2) s1 [(t, pick (·.1)), (t, pick (·.2.1)), (t, pick (·.2.2))] =
        (r, .ok ps) ∧ Placed r (ps.flatten.map (·.1))) ∧
    (∀ rows, rows ∈ [(1 : Byte), 2] → (reduction rows).mayStart 0 3 = true ∧ tabRising (reduction rows).cmds 0 = true ∧
      (∀ k, k < 8 → State.reducing { reduction rows with cmds := tabPut (reduction rows).cmds 3 (reducing 0 1 .running) } (0 + k) = waiters rows k) ∧
      (∀ k, k ∈ partsOf (reducing 0 1 .queued).record → waiters rows k ≠ none) ∧
      (rows = 1 → ∀ k j d, waiters rows k = some (j, d) → (d.record.drop 1).take 11 = ((reducing 0 1 .queued).record.drop 1).take 11 ∧
        (reduction rows).reduceBuffer d 4 ≠ none ∧ ∃ h, d.handle = some h ∧ AccClean (reduction rows) h)) ∧
    let c := { reducing 0 1 .running with staged := true, shadow := [1, 2, 3, 4] }
    (working c {}).mayStart 0 3 = true ∧ (working c {}).reduceBuffer c c.shadow.length = some (0, 0) := by
  refine ⟨?_, ⟨by decide, by decide +kernel, ?_⟩, ?_, ⟨by decide, by decide, rfl, by decide, placed_got (by decide +kernel)⟩,
    ⟨by decide, by decide +kernel, by decide +kernel, placed_got (by decide +kernel)⟩, ⟨by decide, accClean_working _ _ _ rfl rfl⟩, ?_,
    ⟨by decide +kernel, by decide +kernel, by decide +kernel, placed_got (by decide +kernel)⟩, ⟨by decide +kernel, ?_⟩, ?_, by decide, by decide⟩
  · intro k hk
    simp only [List.mem_cons, List.not_mem_nil, or_false] at hk
    rcases hk with rfl | rfl | rfl
    · exact ⟨by decide, _, rfl, collected (by decide +kernel), by decide +kernel, by decide +kernel⟩
    · exact ⟨by decide, _, rfl, collected (by decide +kernel), by decide +kernel, by decide +kernel⟩
    · exact ⟨by decide, _, rfl, collected (by decide +kernel), by decide +kernel, by decide +kernel⟩
  · have h : (match (indexed 128).engVault gathering (fieldAt gathering.record 12 4) (4 * fieldAt gathering.record 16 4) with
        | (_, .ok ix) => (wordsOfBytes ix).any fun w => decide ((recOf tiledRec).dim 1 ≤ w.toNat)
        | _ => false) = true := by decide +kernel
    split at h
    · rename_i r ix hx
      obtain ⟨w, hw, hd⟩ := List.any_eq_true.1 h
      exact ⟨r, ix, hx, w, hw, of_decide_eq_true hd⟩
    · cases h
  · have h : (match (indexed 127).readIndices gathering, gathering.piece with
        | (s1, .ok c1), some p => (s1.gatherPiece c1 p).2.isOk
        | _, _ => false) = true := by decide +kernel
    split at h
    · rename_i s1 c1 p hx hp
      exact ⟨p, hp, s1, c1, hx, collected h⟩
    · cases h
  · intro k hk
    simp only [List.mem_cons, List.not_mem_nil, or_false] at hk
    rcases hk with rfl | rfl <;> exact ⟨by decide, by decide, by decide, by decide, by decide +kernel, by decide +kernel,
      collected (by decide +kernel), placed_got (by decide +kernel)⟩
  · have h : (let c := draining 2 [tiledRec, tiledRec, tiledRec] .ready
        let t := recOf tiledRec
        match collect (fun s (t : TRec) => s.engElems c t false (c.drainCoords t)) (drained c 0) [t, t, t] with
        | (s1, .ok [ws, ms, vs]) =>
          let new := ((c.tile.zip ws).zip (ms.zip vs)).map fun ((x, a), (d, f)) => adamStep c.params x a.1 d.1 f.1
          let pick := fun (f : Nat × Nat × Nat → Nat) => ((c.drainCoords t).zip new).filterMap fun (cs, u) => u.map fun u => (cs, f u)
          (match collect (fun s (x : TRec × List (List Nat × Nat)) => s.elemPuts c x.1 x.2) s1
            [(t, pick (·.1)), (t, pick (·.2.1)), (t, pick (·.2.2))] with
          | (r, .ok ps) => placedB r (ps.flatten.map (·.1))
          | _ => false)
        | _ => false) = true := by decide +kernel
    dsimp only at h ⊢
    split at h
    · rename_i s1 ws ms vs hx
      split at h
      · rename_i r ps h1
        exact ⟨s1, ws, ms, vs, r, ps, hx, h1, placed_of h⟩
      · cases h
    · cases h
  · have hw : ∀ rows k j d, waiters rows k = some (j, d) → d = reducing 0 1 .running ∨ d = reducing 1 rows .running := by
      intro rows k j d h
      unfold waiters at h
      split_ifs at h <;> simp_all
    have hc : ∀ (rows : Byte) (h : Machine.Handle), AccClean (reduction rows) h := by
      intro rows h e _
      rw [core_one _ rfl]
      split <;> exact ⟨rfl, rfl⟩
    intro rows hk
    simp only [List.mem_cons, List.not_mem_nil, or_false] at hk
    rcases hk with rfl | rfl
    · refine ⟨by decide, by decide, by decide, by decide, fun _ k j d h => ?_⟩
      rcases hw _ _ _ _ h with rfl | rfl <;> exact ⟨rfl, by decide, _, rfl, hc _ _⟩
    · exact ⟨by decide, by decide, by decide, by decide, fun h => absurd h (by decide)⟩

/-- A commit of the map that gives partition 0 cluster 0 and channel group 0, at a stage. -/
def committing (st : CommitStage) (u : List UnitRef) (clearing : List UnitRef) : State :=
  { time := 500, mp := { commits := [{ why := .host, map := oneMap 1, stage := st, scrubs := u, clearing := clearing }] } }

/-- A pre-emption of partition 1 at a stage, at the time its grace ends. -/
def preempting (x : Preempt) (packs : Bool) : State :=
  { resting (packOf .gen [] []) with
    time := 500
    cores := if packs then [(0, { packs := [(0, packOf .gen [] [])] })] else []
    parts := [(1, { map := { ctl := 0x21 }, preempt := x })] }

/-- Partition 1, stopped, with its one group away and the bytes of its vault in the MP. -/
def swapping : State :=
  { preempting .swapped false with
    groups := [(1, { groupOf with away := true, vbytes := 4096 })]
    parts := [(1, { map := { ctl := 0x21, save := 0x2000000 }, preempt := .swapped, savedVault := [(1, [7, 8, 9])] })] }

/-- Partition 2 borrows cluster 5 of partition 1. -/
def lending : State :=
  { parts := [(1, { map := { ctl := 0x31, clm := 0x20, clg := 1, cgg := 1 } }), (2, { map := { ctl := 0x41, clb := 0x20, clg := 2, cgg := 2 } })] }

theorem witness_CommitEvents :
    (Idle (preempting (.grace 500) true) ∧ Listed (preempting (.grace 500) true) ∧
      ((preempting (.grace 500) true).part 1).preempt = .grace 500 ∧ (preempting (.grace 501) true).time < 501) ∧
    (((preempting .stopped false).part 1).preempt = .stopped ∧ tabRising (preempting .stopped false).groups 0 = true ∧
      (preempting .stopped false).residents = []) ∧
    ((preempting .swapped false).part 1).preempt = .swapped ∧
    (Idle swapping ∧ (swapping.part 1).preempt = .swapped ∧ (swapping.part 1).images = [] ∧ Clean swapping ∧
      (∃ g, swapping.groups = [(1, g)] ∧ g.part = 1 ∧ g.away = true ∧ 3 < g.vbytes ∧ imageSize g.vbytes = 8192) ∧
      (swapping.part 1).map.save.toNat + 8192 ≤ 2 ^ 51 ∧
      ∀ a, 0x2000000 ≤ a → a < 0x2000000 + 8192 → swapping.paKind a = .hbm ∧ swapping.blockCode a ≠ 3) ∧
    (Idle (committing .waiting [] []) ∧ (committing .waiting [] []).mp.enabled = true ∧ MapKept (committing .waiting [] []) (oneMap 1)) ∧
    ((committing (.prepare 0) [] []).quiesced = true ∧ (committing .cleared [] []).unitsQuiet = true) ∧
    ((committing (.ticking 500) [] []).time = 500 ∧ (oneMap 1).length = 20 ∧ (committing (.ticking 501) [] []).time < 501) ∧
    (∃ c, (committing .cleared [] [.cluster 3]).mp.commits = [c] ∧ c.stage = .cleared ∧ UnitRef.cluster 3 ∈ c.clearing) ∧
    (∃ c, (committing .cleared [.cluster 19, .group 31] []).mp.commits = [c] ∧ UnitRef.cluster 19 ∈ c.scrubs ∧ UnitRef.group 31 ∈ c.scrubs) ∧
    ((committing .cleared [] []).quiesced = true ∧ ∀ p, p < 20 → (committing .cleared [.group 31] []).saveFrames p = []) ∧
    (isLent lending.map (.cluster 5) = true ∧ lending.mp.commits = []) ∧
    (lending.mp.retiredClusters.getLsbD 19 = false ∧ lending.mp.retiredGroups.getLsbD 31 = false) ∧
    ∃ s : State, Idle s ∧ s.mp.tokens = [(1, []), (20, [])] := by
  refine ⟨⟨rfl, ⟨rfl, fun c => ?_⟩, rfl, by decide⟩, ⟨rfl, rfl, rfl⟩, rfl,
    ⟨rfl, rfl, rfl, ⟨rfl, rfl, rfl, rfl, rfl⟩, ⟨_, rfl, rfl, rfl, by decide, by decide⟩, by decide, fun a h h' => ⟨?_, ?_⟩⟩,
    ⟨rfl, rfl, oneMap_kept rfl rfl⟩, ⟨by decide, by decide⟩, ⟨rfl, rfl, by decide⟩,
    ⟨_, rfl, rfl, by decide⟩, ⟨_, rfl, by decide, by decide⟩, ⟨by decide, by decide⟩, ⟨by decide, rfl⟩, ⟨by decide, by decide⟩, { mp := { tokens := [(1, []), (20, [])] } }, rfl, rfl⟩
  · rw [core_one _ rfl]; split <;> rfl
  · have h1 : bitOf a 51 = false := by simp [bitOf]; omega
    have h2 : bits a 50 41 = 0 := by simp [bits]; omega
    have h3 : bits a 40 0 < Config.hbmBytes := by
      have : bits a 40 0 = a := by simp [bits]; omega
      rw [this, Config.hbmBytes]; omega
    unfold State.paKind
    rw [h1, h2]
    exact if_pos h3
  · simp [State.blockCode, swapping, preempting, resting, issuing]

theorem witness_DecodeEncode :
    ((Instr.addI32 127 (.v 127) 127).wf = true ∧ ∃ w, encode (.addI32 127 (.v 127) 127) = [w]) ∧
    decode 0x0503FE08 0x000001FF = .ok (.andB32 3 (.lit 0x1FF) 4) := ⟨⟨rfl, _, rfl⟩, rfl⟩

/-- A resting pack whose page 1 holds two instructions: nop, then add v3 := v4 + v5. -/
def stepping : State :=
  { resting { packOf .gen [] [] with threads := [{ pc := 0x30000 }] } with
    env := { manual := true }
    mem := (cellsAt 0x1000000 (bytesOfNat 4 0x1F800000)) }

/-- Its port B is still to issue, for lane 0. -/
def secondPort : State :=
  { stepping with cores := stepping.cores.map fun (c, k) => (c, { k with packs := k.packs.map fun (n, p) =>
      (n, { p with portB := some 0x30000, lanesB := 1 }) }) }

theorem witness_StepRunsDecoded :
    (∃ c u cs k, stepping.unload.clockTick.turn = .portA c u cs k) ∧ stepping.unload.clockTick.holding = false ∧
    (∃ c u cs k, stepping.turn = .portA c u cs k) ∧ decode 0x1F800000 0 = .ok .nop ∧
    (secondPort.unload.clockTick.turn = .portB 0 0 0x30000 ∧ secondPort.unload.clockTick.holding = false ∧
      ∃ r, secondPort.unload.clockTick.loadB 0 0 0x30000 = (r, 1)) ∧
    (let s := gen
     Clean s ∧ s.home.replicaLag = [] ∧ 0x30000 % 4 = 0 ∧ Reaches s .fetch .flat 0x30000 (heldPa s 0x30000) ∧ (s.core s.here).loops = [] ∧
      tabFind (s.core s.here).icache (lineKey s.pk.part 0x30000) = none) := by
  refine ⟨?_, by decide +kernel, ?_, rfl, ⟨by decide +kernel, by decide +kernel, ?_⟩, ⟨rfl, rfl, rfl, rfl, rfl⟩, rfl, rfl, ?_, rfl, rfl⟩
  · have h : (match stepping.unload.clockTick.turn with | .portA .. => true | _ => false) = true := by decide +kernel
    split at h
    · exact ⟨_, _, _, _, ‹_›⟩
    · cases h
  · have h : (match stepping.turn with | .portA .. => true | _ => false) = true := by decide +kernel
    split at h
    · exact ⟨_, _, _, _, ‹_›⟩
    · cases h
  · exact ⟨_, Prod.ext rfl (by decide +kernel)⟩
  · exact ⟨page, rfl, rfl, rfl, by decide, by decide, by decide⟩

theorem witness_MemoryStaysCanonical : Memory.wf stepping.mem = true := by decide

theorem witness_ChecksInOrder :
    (encode (.nop) ≠ [] ∧ gen.site.isSome = true ∧ MayTrap gen groupOf) ∧
    (Instr.splgrid 8 40 5 false).wf = false ∧
    ((Instr.accalloc 0 .single).wf = true ∧ privAllows (.accalloc 0 .single) gen.pk.priv gen.pk.sb.length = true ∧
      roleAllows (.accalloc 0 .single) gen.pk.role = false) ∧
    (roleAllows (.movB32 127 (.v 0)) gen.pk.role = true ∧ (proOf 2).operandBad (.movB32 8 (.v 0)) = true ∧ gen.operandBad (.movB32 127 (.v 0)) = false) ∧
    (∃ s : State, s.site.isSome = true ∧ s.operandBad (.movB32 8 (.v 0)) = false ∧ s.lookaheadLanes (.movB32 8 (.v 0)) = 1 ∧ s.act &&& ~~~1 = 0) ∧
    (loading.lookaheadLanes (.movB32 8 (.v 0)) = 0 ∧ loading.mustWait (.movB32 8 (.v 0)) = true) ∧
    gen.pk.priv ≠ .root ∧ (rooted [] []).pk.priv = .root ∧ (rooted [] []).pk.replay = [] := by
  refine ⟨⟨by decide, rfl, mayTrap_issuing _ rfl rfl rfl rfl rfl⟩, by decide, ⟨rfl, rfl, rfl⟩, ⟨rfl, by decide, by decide⟩,
    ⟨{ loading with pk := { loading.pk with windows := [{ owner := 5, left := [(0, 1)] }] } }, rfl, by decide, by decide, by decide⟩,
    ⟨by decide, by decide⟩, nofun, rfl, rfl⟩

theorem witness_RoundingIsCorrect :
    fp32 ∈ [fp64, fp32, fp16, bf16, e4m3, e5m2] ∧
      (fp32.round .rne false (.fin true 0x1FFFFFF 0)).2 &&& fOverflow = 0 ∧ (e4m3.round .rup false (.fin false 1 (-40))).2 &&& fOverflow = 0 := by
  decide

/-- A tensor record: FP32, rank 2, 128 by 128 elements, paired, row by row at page 3 and column by column at page 4. -/
def pairedRec : List Byte :=
  bytesOfNat 8 0x30000 ++ bytesOfNat 8 0x40000 ++ bytesOfNat 4 0xA02 ++ bytesOfNat 4 128 ++ bytesOfNat 4 128 ++
    List.replicate 12 0 ++ bytesOfNat 4 0x77 ++ List.replicate 20 0

/-- Two threads at elements (5, 0) and (5, 1) of tensor 9, which is paired; the core holds both its pages. -/
def pairing : State :=
  let p := { packOf .gen [] [(2, 9)] with
    nthreads := 2
    threads := [{ pc := 0x10000, v := [(3, 5), (8, 7)] }, { pc := 0x10000, v := [(3, 5), (4, 1), (8, 9)] }] }
  { issuing p with
    act := 3
    cores := [(0, { packs := [(0, p)]
                    tlb := [{ page with tpage := true }, { page with vpn := 4, gfn := 4, frame := 0x101, tpage := true, layout := 1 }] })]
    parts := [(1, { map := { ctl := 0x21 }, records := [(9, pairedRec)] })] }

/-- Lanes 0 and 1 are the lanes of the mask. -/
theorem lanes01 {P : Nat → Prop} (h : P 0) (h' : P 1) : ∀ l, hasLane (3 : LaneMask) l = true → P l := by
  intro l hl
  have : l = 0 ∨ l = 1 := by
    have h32 := hasLane_lt hl
    revert hl; unfold hasLane
    interval_cases l <;> decide
  rcases this with rfl | rfl <;> assumption

theorem described_pairing : Described pairing 9 (recOf pairedRec) := ⟨rfl, by decide, pairedRec, rfl, by decide⟩

theorem open_pairing (ask : Acc) (uses : Nat → Bool → Prop) :
    ImagesOpen pairing (recOf pairedRec) ⟨unguarded, 3, 2⟩ ask uses := by
  refine lanes01 ⟨by decide, fun img _ => ?_⟩ ⟨by decide, fun img _ => ?_⟩ <;> cases img
  · exact ⟨{ page with tpage := true }, by decide, by decide, by cases ask <;> rfl, by decide, by decide, by decide⟩
  · exact ⟨{ page with vpn := 4, gfn := 4, frame := 0x101, tpage := true, layout := 1 }, by decide, by decide,
      by cases ask <;> rfl, by decide, by decide, by decide⟩
  · exact ⟨{ page with tpage := true }, by decide, by decide, by cases ask <;> rfl, by decide, by decide, by decide⟩
  · exact ⟨{ page with vpn := 4, gfn := 4, frame := 0x101, tpage := true, layout := 1 }, by decide, by decide,
      by cases ask <;> rfl, by decide, by decide, by decide⟩

theorem quiet_pairing : Quiet pairing :=
  ⟨rfl, rfl, ⟨rfl, rfl⟩, ⟨rfl, rfl⟩, nofun, rfl, rfl, rfl, rfl, rfl, rfl, rfl, lanes01 rfl rfl⟩

theorem fresh_pairing : Fresh pairing := by
  intro sec bs h
  simp [pairing, State.here, State.core, tabGet, issuing, Core.sector] at h

theorem witness_PairedTensors :
    (Ready (.tstp 8 3 0 2) pairing ∧ Quiet pairing ∧ Fresh pairing ∧ (recOf pairedRec).paired = true ∧ (recOf pairedRec).fmt ≠ 7 ∧
      Described pairing ((⟨unguarded, 3, 2⟩ : TensorPlace).tid pairing) (recOf pairedRec) ∧
      ImagesOpen pairing (recOf pairedRec) ⟨unguarded, 3, 2⟩ .store (fun _ _ => True) ∧ Unchecked pairing unguarded) ∧
    (Ready (.tld 8 3 0 2) pairing ∧ imageRead pairing (recOf pairedRec) ⟨unguarded, 3, 2⟩ 0 = true ∧
      ImagesOpen pairing (recOf pairedRec) ⟨unguarded, 3, 2⟩ .load
        (fun l img => img = imageRead pairing (recOf pairedRec) ⟨unguarded, 3, 2⟩ l)) ∧
    ∃ x f, tensorForm (.tst 8 3 0 2) = some (x, f) ∧ (∀ d, f ≠ .load d) ∧ Ready (.tst 8 3 0 2) pairing ∧
      MayTrap pairing groupOf ∧ f.fits (recOf pairedRec) = true ∧
      ImagesOpen pairing (recOf pairedRec) x f.ask (fun _ img => img = false) ∧ pairing.granted .atom = true ∧
      activeOf pairing x.g ≠ 0 :=
  ⟨⟨⟨rfl, by decide⟩, quiet_pairing, fresh_pairing, by decide, by decide, described_pairing, open_pairing _ _, by
      intro l _ hm; exact absurd hm (by decide)⟩,
    ⟨⟨rfl, by decide⟩, by decide, open_pairing _ _⟩,
    _, _, rfl, (fun _ h => by cases h), ⟨rfl, by decide⟩, ⟨by decide, rfl, rfl, rfl, rfl, rfl, rfl⟩, by decide, open_pairing _ _, by decide, by decide⟩

end Sys2Proof.Tests
end

