-- ==== Sys2Proof/Tests/Slice0.lean ====
section
/-! SUPPORT. Tests: ill-formed terms that each check refuses; instruction words written from the layouts of
spec/10_encoding.md R203 and R204 and the fields of R221-R312 (most are the spec's own example words), one or more per
encodable row; single steps with results the spec works out. -/
namespace Sys2Proof.Tests
open Sys2Proof.Machine

/-! Ill-formed terms. -/

/-- R206: 0xE3 to 0xFD and 0xFF are the reserved operand codes; 0x05 is v5. -/
theorem test_wf_operand_code : (Instr.addI32 1 (.reserved 5) 2).wf = false ∧ (Instr.addI32 1 (.reserved 0xFE) 2).wf = false ∧
    (Instr.faddF32 1 (.reserved 0xE2) 2 true).wf = false ∧ (Instr.addI32 1 (.reserved 0xFD) 2).wf = true := by decide

/-- R209, R243, R246: predicate 7 is never negated. -/
theorem test_wf_guard : (Instr.madI32 ⟨7, true⟩ 1 2 3 4).wf = false ∧ (Instr.fence ⟨7, true⟩ .dev).wf = false ∧
    (Instr.bra 7 true 0).wf = false ∧ (Instr.exit 7 true).wf = false := by decide

/-- R227: a field length above 32, and csel of predicate 7. -/
theorem test_wf_fields : (Instr.bfxI32 ⟨7, false⟩ 1 2 0 33).wf = false ∧ (Instr.bfxN32 ⟨7, false⟩ 1 2 0 63).wf = false ∧
    (Instr.bfiB32 ⟨7, false⟩ 1 2 3 0 33).wf = false ∧ (Instr.cselB32 ⟨7, false⟩ 1 2 3 7 false).wf = false := by decide

/-- R228, R229: predicate 7 is no destination. -/
theorem test_wf_predicates : (Instr.cmpI32 ⟨7, false⟩ 7 1 2 .eq).wf = false ∧ (Instr.fcmpF64 ⟨7, false⟩ 7 2 4 .un).wf = false ∧
    (Instr.pset ⟨7, false⟩ 7 0 0 0).wf = false := by decide

/-- R230: mode 0 writes no predicate, the other modes no register and a predicate 0 to 6. -/
theorem test_wf_vote : (Instr.vote ⟨7, false⟩ 0 5 1 0 false).wf = false ∧ (Instr.vote ⟨7, false⟩ 1 5 1 0 false).wf = false ∧
    (Instr.vote ⟨7, false⟩ 3 0 7 0 false).wf = false := by decide

/-- R239: elements outside the type, and F4X as a destination. -/
theorem test_wf_cvt : (Instr.cvt ⟨7, false⟩ 1 2 1 0 .rne .f32 .bf16).wf = false ∧
    (Instr.cvt ⟨7, false⟩ 1 2 0 2 .rne .f32 .bf16).wf = false ∧ (Instr.cvt ⟨7, false⟩ 1 2 0 0 .rne .f32 .f4x).wf = false := by
  decide

/-- R257, R259: an operation that floats do not have, a remote scope without acquire, a reduction that acquires, exchanges
or is remote, and the remote scope of the forms without it. -/
theorem test_wf_memory : (Instr.atom ⟨7, false⟩ 1 2 3 0 .f32 .xor .rlx .dev 4).wf = false ∧
    (Instr.vatom ⟨7, false⟩ 1 2 3 0 .i32 .add .rel .rem 4).wf = false ∧
    (Instr.cas ⟨7, false⟩ 1 2 3 4 0 false .rlx .rem 4).wf = false ∧
    (Instr.tatom ⟨7, false⟩ 1 2 3 0 .add .rlx .rem 4).wf = false ∧
    (Instr.red ⟨7, false⟩ 1 2 0 .i32 .add .acq .dev 4 none).wf = false ∧
    (Instr.red ⟨7, false⟩ 1 2 0 .i32 .exch .rlx .dev 4 none).wf = false ∧
    (Instr.tred ⟨7, false⟩ 1 2 0 .add .rlx .rem 4 none).wf = false ∧
    (Instr.stRel ⟨7, false⟩ 1 2 false false .rem 4).wf = false ∧ (Instr.fence ⟨7, false⟩ .rem).wf = false := by decide

/-- R38, R280: qg is 0 to 3, or 7 without negation. -/
theorem test_wf_pack_branch : (Instr.sbra 4 false 0).wf = false ∧ (Instr.scall 7 true 0).wf = false ∧
    (Instr.sret 6 false).wf = false ∧ (Instr.ssleep 5 true 0).wf = false := by decide

/-- R53, R282: only HMASK has an index. -/
theorem test_wf_sget : (Instr.sget 1 false 29 1).wf = false ∧ (Instr.sget 1 true 28 1).wf = false ∧
    (Instr.sget 1 true 29 8).wf = true := by decide

/-- R210, R286: a lookahead without a token. -/
theorem test_wf_lookahead : (Instr.cpy 8 0 9 1 false).wf = false ∧ (Instr.splmv 8 9 1 false false).wf = false ∧
    (Instr.splrefine 9 15 false).wf = false ∧ (Instr.accdrain 8 4 9 1 true false).wf = false := by decide

/-- R265, R266, R308, R309: scopes of the pack forms, and the services with constructors of their own. -/
theorem test_wf_pack_scope : (Instr.barArrive .rem 1).wf = false ∧ (Instr.barWait .rem none 1 2).wf = false ∧
    (Instr.barTest .rem 1 2 3).wf = false ∧ (Instr.sfence .rem).wf = false ∧ (Instr.icinv .sys 1 2).wf = false ∧
    (Instr.icinv .pack 1 2).wf = false ∧ (Instr.sys 1 2 3 5).wf = false ∧ (Instr.sys 1 2 3 6).wf = true := by decide

/-! Words of the spec's encoding tables. -/

theorem test_decode_integer :
    decode 0x0084050C 0 = .ok (.addI32 4 (.v 5) 6) ∧
    decode 0x0084C70C 0 = .ok (.addI32 4 (.small 7) 6) ∧
    decode 0x0083040B 0 = .ok (.addI32Sat 3 (.v 4) 5) ∧
    decode 0x0103040A 0 = .ok (.subI32 3 (.v 4) 5) ∧
    decode 0x0103E00B 0 = .ok (.subI32Sat 3 .lane 5) ∧
    decode 0x01FFBF02 0 = .ok (.mulI32 127 (.s 63) 1) ∧
    decode 0x0209CFFC 0 = .ok (.mulhiI32 9 (.small 15) 126) ∧
    decode 0x02860710 0 = .ok (.mulhiN32 6 (.v 7) 8) ∧
    decode 0x0301D006 0 = .ok (.minI32 1 (.small 16) 3) ∧
    decode 0x0381E106 0 = .ok (.maxI32 1 .item 3) ∧
    decode 0x04010206 0 = .ok (.minN32 1 (.v 2) 3) ∧
    decode 0x0481E206 0 = .ok (.maxN32 1 .tglobal 3) ∧
    decode 0x0503FE08 0x000001FF = .ok (.andB32 3 (.lit 0x1FF) 4) ∧
    decode 0x05C02020 0 = .ok (.orB32 64 (.v 32) 16) ∧
    decode 0x0601E304 0 = .ok (.xorB32 1 (.reserved 0xE3) 2) ∧
    decode 0x06810206 0 = .ok (.andnB32 1 (.v 2) 3) ∧
    decode 0x07020308 0 = .ok (.shlB32 2 (.v 3) 4) ∧
    decode 0x07828008 0 = .ok (.shrN32 2 (.s 0) 4) ∧
    decode 0x0802FF08 0 = .ok (.shrI32 2 (.reserved 0xFF) 4) ∧
    decode 0x08810206 0 = .ok (.rotB32 1 (.v 2) 3) ∧
    decode 0x09010200 0 = .ok (.popcB32 1 (.v 2)) ∧
    decode 0x09E4C000 0 = .ok (.clzB32 100 (.small 0)) ∧
    decode 0x0A058800 0 = .ok (.brevB32 5 (.s 8)) ∧
    decode 0x0A857F00 0 = .ok (.lsbB32 5 (.v 127)) ∧
    decode 0x0B058300 0 = .ok (.movB32 5 (.s 3)) ∧
    decode 0x0B00E000 0 = .ok (.movB32 0 .lane) := by
  refine ⟨?_, ?_, ?_, ?_, ?_, ?_, ?_, ?_, ?_, ?_, ?_, ?_, ?_, ?_, ?_, ?_, ?_, ?_, ?_, ?_, ?_, ?_, ?_, ?_, ?_, ?_⟩ <;> rfl

theorem test_decode_packed :
    decode 0x0B83FE0C 0x80800706 = .ok (.permB8 3 (.lit 0x80800706) 6) ∧
    decode 0x0C04050C 0 = .ok (.addX2I16 4 (.v 5) 6) ∧
    decode 0x0C04050D 0 = .ok (.addX2I16Sat 4 (.v 5) 6) ∧
    decode 0x0C84050C 0 = .ok (.subX2I16 4 (.v 5) 6) ∧
    decode 0x0C84050D 0 = .ok (.subX2I16Sat 4 (.v 5) 6) ∧
    decode 0x0D04D70C 0 = .ok (.minX2I16 4 (.small 23) 6) ∧
    decode 0x0D84050C 0 = .ok (.maxX2I16 4 (.v 5) 6) ∧
    decode 0x0E0A0B18 0 = .ok (.dot4I8 10 (.v 11) 12) ∧
    decode 0x0E0A0B19 0 = .ok (.dot4N8 10 (.v 11) 12) ∧
    decode 0x0E83E004 0 = .ok (.pullIdx 3 .lane 2) ∧
    decode 0x0F03C104 0 = .ok (.pullXor 3 (.small 1) 2) ∧
    decode 0x0F83C104 0 = .ok (.pullBack 3 (.small 1) 2) ∧
    decode 0x1003C404 0 = .ok (.pullFwd 3 (.small 4) 2) := by
  refine ⟨?_, ?_, ?_, ?_, ?_, ?_, ?_, ?_, ?_, ?_, ?_, ?_, ?_⟩ <;> rfl

theorem test_decode_float :
    decode 0x1084050D 0 = .ok (.faddF32 4 (.v 5) 6 true) ∧
    decode 0x1104D80C 0 = .ok (.fsubF32 4 (.small 24) 6 false) ∧
    decode 0x1182FE06 0x40490FDB = .ok (.fmulF32 2 (.lit 0x40490FDB) 3 false) ∧
    decode 0x1182DA04 0 = .ok (.fmulF32 2 (.small 26) 2 false) ∧
    decode 0x12010206 0 = .ok (.fminF32 1 (.v 2) 3 false) ∧
    decode 0x12810207 0 = .ok (.fmaxF32 1 (.v 2) 3 true) ∧
    decode 0x13080914 0 = .ok (.fmacF32 8 (.v 9) 10 false) ∧
    decode 0x13840610 0 = .ok (.faddF64 4 (.v 6) 8 false) ∧
    decode 0x14048611 0 = .ok (.fsubF64 4 (.s 6) 8 true) ∧
    decode 0x1484DF10 0 = .ok (.fmulF64 4 (.small 31) 8 false) ∧
    decode 0x15040610 0 = .ok (.fminF64 4 (.v 6) 8 false) ∧
    decode 0x15840610 0 = .ok (.fmaxF64 4 (.v 6) 8 false) ∧
    decode 0x16040610 0 = .ok (.fmacF64 4 (.v 6) 8 false) ∧
    decode 0x1684050C 0 = .ok (.faddX2Bf16 4 (.v 5) 6 false) ∧
    decode 0x1704050D 0 = .ok (.fmulX2Bf16 4 (.v 5) 6 true) ∧
    decode 0x1784050C 0 = .ok (.fmacX2Bf16 4 (.v 5) 6 false) ∧
    decode 0x1804050C 0 = .ok (.faddX2F16 4 (.v 5) 6 false) ∧
    decode 0x1884050C 0 = .ok (.fmulX2F16 4 (.v 5) 6 false) ∧
    decode 0x1904050D 0 = .ok (.fmacX2F16 4 (.v 5) 6 true) ∧
    decode 0x19870812 0 = .ok (.dot2Bf16 7 (.v 8) 9 false) ∧
    decode 0x1F800000 0 = .ok .nop := by
  refine ⟨?_, ?_, ?_, ?_, ?_, ?_, ?_, ?_, ?_, ?_, ?_, ?_, ?_, ?_, ?_, ?_, ?_, ?_, ?_, ?_, ?_⟩ <;> rfl

theorem test_decode_immediate :
    decode 0x200103FF 0 = .ok (.addiI32 1 1 0x1FF) ∧
    decode 0x20810403 0 = .ok (.muliI32 1 2 3) ∧
    decode 0x210308FF 0 = .ok (.andiB32 3 4 0xFF) ∧
    decode 0x21E4FF00 0 = .ok (.oriB32 100 127 0x100) ∧
    decode 0x220308AA 0 = .ok (.xoriB32 3 4 0xAA) ∧
    decode 0x22810002 0 = .ok (.shliB32 1 0 2) ∧
    decode 0x23050C1F 0 = .ok (.shriN32 5 6 31) ∧
    decode 0x23850C03 0 = .ok (.shriI32 5 6 3) ∧
    decode 0x24020064 0 = .ok (.moviB32 2 100) := by
  refine ⟨?_, ?_, ?_, ?_, ?_, ?_, ?_, ?_, ?_⟩ <;> rfl

theorem test_decode_control :
    decode 0x300FFFFD 0 = .ok (.bra 0 true 0x7FFFD) ∧
    decode 0x30700001 0 = .ok (.bra 7 false 1) ∧
    decode 0x30000002 0 = .ok (.bra 0 false 2) ∧
    decode 0x30F00006 0 = .ok (.meet 6) ∧
    decode 0x31000000 0 = .ok .unmeet ∧
    decode 0x31F00000 0 = .ok (.exit 7 false) ∧
    decode 0x31900000 0 = .ok (.exit 1 false) ∧
    decode 0x31980000 0 = .ok (.exit 1 true) ∧
    decode 0x32000000 0 = .ok .yield := by
  refine ⟨?_, ?_, ?_, ?_, ?_, ?_, ?_, ?_, ?_⟩ <;> rfl

theorem test_decode_memory :
    decode 0x40C80FFC 0 = .ok (.ldB8 100 3 15 60) ∧
    decode 0x41061006 0 = .ok (.ldI8 3 4 0 6) ∧
    decode 0x42C41778 0 = .ok (.ldB16 98 5 13 56) ∧
    decode 0x43C21B36 0 = .ok (.ldI16 97 6 12 54) ∧
    decode 0x44102484 0 = .ok (.ldB32 8 9 2 4) ∧
    decode 0x45140844 0 = .ok (.ldB64 10 2 1 4) ∧
    decode 0x46BC2670 0 = .ok (.ldB128 94 9 9 48) ∧
    decode 0x47BA2A2E 0 = .ok (.stB8 93 10 8 46) ∧
    decode 0x48B82DEC 0 = .ok (.stB16 92 11 7 44) ∧
    decode 0x49040400 0 = .ok (.stB32 2 1 0 0) ∧
    decode 0x4AB43568 0 = .ok (.stB64 90 13 5 40) ∧
    decode 0x4B180C08 0 = .ok (.stB128 12 3 0 8) ∧
    decode 0x4C080042 0 = .ok (.tld 4 0 1 2) ∧
    decode 0x4D080002 0 = .ok (.tst 4 0 0 2) ∧
    decode 0x4E0C0003 0 = .ok (.tstp 6 0 0 3) ∧
    decode 0x4F0A0C07 0 = .ok (.vldB32 5 3 0 7) ∧
    decode 0x50A84FDC 0 = .ok (.vldB64 84 19 15 28) ∧
    decode 0x51100C07 0 = .ok (.vldB128 8 3 0 7) ∧
    decode 0x52A45758 0 = .ok (.vstB32 82 21 13 24) ∧
    decode 0x5308180A 0 = .ok (.vstB64 4 6 0 10) ∧
    decode 0x54A05ED4 0 = .ok (.vstB128 80 23 11 20) ∧
    decode 0x55002404 0 = .ok (.claim 9 0 4) ∧
    decode 0x56000002 0 = .ok (.tclaim 0 0 2) := by
  refine ⟨?_, ?_, ?_, ?_, ?_, ?_, ?_, ?_, ?_, ?_, ?_, ?_, ?_, ?_, ?_, ?_, ?_, ?_, ?_, ?_, ?_, ?_, ?_⟩ <;> rfl

theorem test_decode_guarded :
    decode 0x60008206 0x081C0000 = .ok (.madI32 ⟨7, false⟩ 1 2 3 4) ∧
    decode 0x6042060E 0x101C0000 = .ok (.madwI32 ⟨7, false⟩ 4 6 7 8) ∧
    decode 0x6082060E 0xFC020000 = .ok (.madwN32 ⟨0, true⟩ 4 6 7 126) ∧
    decode 0x60C1040C 0x001C0000 = .ok (.addI64 ⟨7, false⟩ 2 4 6) ∧
    decode 0x6101040C 0x00180000 = .ok (.subI64 ⟨6, false⟩ 2 4 6) ∧
    decode 0x61408206 0x001C000F = .ok (.addcN32 ⟨7, false⟩ 1 2 3 7 1) ∧
    decode 0x61808200 0x001C041F = .ok (.bfxI32 ⟨7, false⟩ 1 2 31 32) ∧
    decode 0x61C08200 0x001C0088 = .ok (.bfxN32 ⟨7, false⟩ 1 2 8 4) ∧
    decode 0x62008206 0x001C0088 = .ok (.bfiB32 ⟨7, false⟩ 1 2 3 8 4) ∧
    decode 0x62408206 0x081C00D8 = .ok (.bitfnB32 ⟨7, false⟩ 1 2 3 4 0xD8) ∧
    decode 0x62808206 0x001C0002 = .ok (.cselB32 ⟨7, false⟩ 1 2 3 2 false) ∧
    decode 0x62C00206 0x001C0011 = .ok (.cmpI32 ⟨7, false⟩ 1 2 3 .lt) ∧
    decode 0x63000206 0x001C002E = .ok (.cmpN32 ⟨7, false⟩ 6 2 3 .ge) ∧
    decode 0x63400208 0x001C0008 = .ok (.cmpI64 ⟨7, false⟩ 0 2 4 .ne) ∧
    decode 0x6380040A 0x001C002B = .ok (.fcmpF32 ⟨7, false⟩ 3 4 5 .ge) ∧
    decode 0x63C0040C 0x001C005B = .ok (.fcmpF64 ⟨7, false⟩ 3 4 6 .geq) ∧
    decode 0x64000000 0x001C1088 = .ok (.pset ⟨7, false⟩ 0 1 2 8) ∧
    decode 0x64450B18 0x1A0C0000 = .ok (.ffmaF32 ⟨3, false⟩ 10 11 12 13 false false) ∧
    decode 0x6481040C 0x101C0001 = .ok (.ffmaF64 ⟨7, false⟩ 2 4 6 8 true false) ∧
    decode 0x64C1040C 0x101C0002 = .ok (.ffmaX2Bf16 ⟨7, false⟩ 2 4 6 8 false true) := by
  refine ⟨?_, ?_, ?_, ?_, ?_, ?_, ?_, ?_, ?_, ?_, ?_, ?_, ?_, ?_, ?_, ?_, ?_, ?_, ?_, ?_⟩ <;> rfl

theorem test_decode_function :
    decode 0x65008200 0x01FC0000 = .ok (.frcpF32 ⟨7, false⟩ 1 2 15) ∧
    decode 0x65408200 0x001C0000 = .ok (.frsqF32 ⟨7, false⟩ 1 2 0) ∧
    decode 0x65808200 0x001C0000 = .ok (.fsqrtF32 ⟨7, false⟩ 1 2 0) ∧
    decode 0x65C10400 0x001C0000 = .ok (.fsqrtF64 ⟨7, false⟩ 2 4 0) ∧
    decode 0x66008206 0x007C0000 = .ok (.fdivF32 ⟨7, false⟩ 1 2 3 3) ∧
    decode 0x6641040C 0x001C0000 = .ok (.fdivF64 ⟨7, false⟩ 2 4 6 0) ∧
    decode 0x66808200 0x001C0000 = .ok (.fexp2F32 ⟨7, false⟩ 1 2 0) ∧
    decode 0x66C08200 0x003C0000 = .ok (.flog2F32 ⟨7, false⟩ 1 2 1) ∧
    decode 0x67008200 0x001C0000 = .ok (.fsinpF32 ⟨7, false⟩ 1 2 0) ∧
    decode 0x67408200 0x001C0000 = .ok (.fcospF32 ⟨7, false⟩ 1 2 0) ∧
    decode 0x67808200 0x001C0001 = .ok (.frndF32 ⟨7, false⟩ 1 2 0 .rtz false) ∧
    decode 0x67C10400 0x001C000C = .ok (.frndF64 ⟨7, false⟩ 2 4 0 .mode true) ∧
    decode 0x68008200 0x001C0000 = .ok (.fclass ⟨7, false⟩ 1 2 0) ∧
    decode 0x68418400 0x001C0D12 = .ok (.cvt ⟨7, false⟩ 3 4 0 1 .sr .f32 .bf16) ∧
    decode 0x68408200 0x001C0118 = .ok (.cvt ⟨7, false⟩ 1 2 0 0 .rtz .f32 .i32) ∧
    decode 0x68830700 0x001C0000 = .ok (.qblkF4x ⟨7, false⟩ 6 7) ∧
    decode 0x68C08206 0x001C0001 = .ok (.dqblkF4x ⟨7, false⟩ 1 2 3 true) := by
  refine ⟨?_, ?_, ?_, ?_, ?_, ?_, ?_, ?_, ?_, ?_, ?_, ?_, ?_, ?_, ?_, ?_, ?_⟩ <;> rfl

theorem test_decode_atomics :
    decode 0x69008206 0x001C00C4 = .ok (.atom ⟨7, false⟩ 1 2 3 0 .i32 .add .rlx .dev 4) ∧
    decode 0x69408206 0x081C02C4 = .ok (.cas ⟨7, false⟩ 1 2 3 4 0 false .acq .dev 4) ∧
    decode 0x69800308 0x921D00C4 = .ok (.red ⟨7, false⟩ 3 4 0 .f32 .add .rlx .dev 4 (some 9)) ∧
    decode 0x69C08406 0x001C00C2 = .ok (.tatom ⟨7, false⟩ 1 4 3 0 .add .rlx .dev 2) ∧
    decode 0x6A000406 0x001C10C2 = .ok (.tred ⟨7, false⟩ 4 3 0 .max .rlx .dev 2 none) ∧
    decode 0x6A408206 0x001C0047 = .ok (.vatom ⟨7, false⟩ 1 2 3 0 .i32 .add .rlx .grp 7) ∧
    decode 0x69030210 0x012AA74A = .ok (.atom ⟨2, true⟩ 6 2 8 9 .i64 .maxu .acqrel .rem 10) ∧
    decode 0x6A828200 0x001C00C4 = .ok (.ldAcq ⟨7, false⟩ 5 2 0 false false .dev 4) ∧
    decode 0x6A828200 0x001C0144 = .ok (.ldAcq ⟨7, false⟩ 5 2 0 false false .rem 4) ∧
    decode 0x6AC00206 0x001C0084 = .ok (.stRel ⟨7, false⟩ 2 3 false false .cl 4) ∧
    decode 0x6AC00208 0x001C8905 = .ok (.stRel ⟨7, false⟩ 2 4 true true .sys 5) ∧
    decode 0x6B000000 0x001C00C0 = .ok (.fence ⟨7, false⟩ .dev) := by
  refine ⟨?_, ?_, ?_, ?_, ?_, ?_, ?_, ?_, ?_, ?_, ?_, ?_⟩ <;> rfl

theorem test_decode_jumps :
    decode 0x6B4A0000 0x001C000A = .ok (.jal ⟨7, false⟩ 20 10) ∧
    decode 0x6B800400 0x001C0000 = .ok (.jr ⟨7, false⟩ none 4) ∧
    decode 0x6B810400 0x001C0001 = .ok (.jr ⟨7, false⟩ (some 2) 4) ∧
    decode 0x6BC00700 0x001C0008 = .ok (.meetm ⟨7, false⟩ 7 8) ∧
    decode 0x6C028000 0x001C0000 = .ok (.vote ⟨7, false⟩ 0 5 0 0 false) ∧
    decode 0x6C000000 0x001C0050 = .ok (.vote ⟨7, false⟩ 1 0 1 0 false) ∧
    decode 0x6C000000 0x001C01BF = .ok (.vote ⟨7, false⟩ 3 0 6 7 true) ∧
    decode 0x6C400000 0x001C0005 = .ok (.brk ⟨7, false⟩ 5) := by
  refine ⟨?_, ?_, ?_, ?_, ?_, ?_, ?_, ?_⟩ <;> rfl

theorem test_decode_uniform :
    decode 0x80821060 0 = .ok (.sadd 1 2 3) ∧
    decode 0x81021060 0 = .ok (.ssub 1 2 3) ∧
    decode 0x81821060 0 = .ok (.smul 1 2 3) ∧
    decode 0x82021060 0 = .ok (.sand 1 2 3) ∧
    decode 0x82821060 0 = .ok (.sor 1 2 3) ∧
    decode 0x83021060 0 = .ok (.sxor 1 2 3) ∧
    decode 0x83821060 0 = .ok (.sshl 1 2 3) ∧
    decode 0x84021060 0 = .ok (.sshr 1 2 3 false) ∧
    decode 0x84021061 0 = .ok (.sshr 1 2 3 true) ∧
    decode 0x84821061 0 = .ok (.smin 1 2 3 true) ∧
    decode 0x85021060 0 = .ok (.smax 1 2 3 false) ∧
    decode 0x858420C0 0 = .ok (.sadd64 2 4 6 false) ∧
    decode 0x86021000 0 = .ok (.smov 1 2) ∧
    decode 0x86821062 0 = .ok (.scmp 1 2 3 .lt false false) ∧
    decode 0x8687F09D 0 = .ok (.scmp 3 62 4 .ge true true) ∧
    decode 0x87021060 0 = .ok (.ssel 1 0 false 2 3) ∧
    decode 0x87A81800 0 = .ok (.sget 20 false 3 0) ∧
    decode 0x87A83800 0 = .ok (.sget 20 false 7 0) ∧
    decode 0x87AA0801 0 = .ok (.sget 21 true 1 0) ∧
    decode 0x87A8E901 0 = .ok (.sget 20 true 29 8) ∧
    decode 0x8802A000 0 = .ok (.sset 1 20) ∧
    decode 0x88820002 0 = .ok (.svote 1 2 false) := by
  refine ⟨?_, ?_, ?_, ?_, ?_, ?_, ?_, ?_, ?_, ?_, ?_, ?_, ?_, ?_, ?_, ?_, ?_, ?_, ?_, ?_, ?_, ?_⟩ <;> rfl

theorem test_decode_branches :
    decode 0xA003FFFF 0 = .ok (.smovi 1 0x1FFFF) ∧
    decode 0xA0820004 0 = .ok (.saddi 1 4) ∧
    decode 0xA1021234 0 = .ok (.smovhi 1 0x1234) ∧
    decode 0xB0100003 0 = .ok (.sbra 1 false 3) ∧
    decode 0xB0180003 0 = .ok (.sbra 1 true 3) ∧
    decode 0xB077FFFB 0 = .ok (.sbra 7 false 0x7FFFB) ∧
    decode 0xB0F00014 0 = .ok (.scall 7 false 20) ∧
    decode 0xB1700000 0 = .ok (.sret 7 false) ∧
    decode 0xB1F003E8 0 = .ok (.ssleep 7 false 1000) ∧
    decode 0xB18003E8 0 = .ok (.ssleep 0 false 1000) := by
  refine ⟨?_, ?_, ?_, ?_, ?_, ?_, ?_, ?_, ?_, ?_⟩ <;> rfl

theorem test_decode_commands :
    decode 0xC0200240 0 = .ok (.cpy 8 0 9 0 false) ∧
    decode 0xC020C781 0 = .ok (.cpy 8 12 30 0 true) ∧
    decode 0xC120C78B 0 = .ok (.cpyf 8 12 30 2 true true) ∧
    decode 0xC220C240 0 = .ok (.cpyg 8 12 9 0 false) ∧
    decode 0xC3200240 0 = .ok (.mma 8 0 9 0 false) ∧
    decode 0xC4200781 0 = .ok (.mmv 8 30 0 true) ∧
    decode 0xC52847C1 0 = .ok (.accdrain 10 4 31 0 false true) ∧
    decode 0xC52847C3 0 = .ok (.accdrain 10 4 31 0 true true) ∧
    decode 0xC6200240 0 = .ok (.accreduce 8 9 0 false) ∧
    decode 0xC7300781 0 = .ok (.splgrid 12 30 0 true) ∧
    decode 0xC8300240 0 = .ok (.splload 12 9 0 false) ∧
    decode 0xC92C0781 0 = .ok (.splmv 11 30 0 false true) ∧
    decode 0xC92C0783 0 = .ok (.splmv 11 30 0 true true) ∧
    decode 0xCA2C0240 0 = .ok (.splgrad 11 9 0 false) ∧
    decode 0xCB000240 0 = .ok (.splrefine 9 0 false) ∧
    decode 0xCC300000 0 = .ok (.item 12) ∧
    decode 0xCD300000 0 = .ok (.admitWave 12) ∧
    decode 0xCE300000 0 = .ok (.iret 12) := by
  refine ⟨?_, ?_, ?_, ?_, ?_, ?_, ?_, ?_, ?_, ?_, ?_, ?_, ?_, ?_, ?_, ?_, ?_, ?_⟩ <;> rfl

theorem test_decode_barriers :
    decode 0xE0010000 0x12345678 = .ok (.smovl 1 0x12345678) ∧
    decode 0xE0501C03 0 = .ok (.rdv 16 7 3 0) ∧
    decode 0xE0801D03 0 = .ok (.wrv 7 16 3 0) ∧
    decode 0xE0C02400 0x00000008 = .ok (.barInit 9 (.imm 8)) ∧
    decode 0xE0C024A1 0 = .ok (.barInit 9 (.reg 10)) ∧
    decode 0xE1002401 0 = .ok (.barArrive .grp 9) ∧
    decode 0xE14024A0 0 = .ok (.barExpect 9 10) ∧
    decode 0xE194086B 0 = .ok (.barWait .dev (some 20) 2 6) ∧
    decode 0xE1D524A2 0 = .ok (.barTest .cl 21 9 10) ∧
    decode 0xE21520C8 0 = .ok (.stgWait (some 21) 8 12) ∧
    decode 0xE24020C0 0 = .ok (.stgDone 8 12) ∧
    decode 0xE2800000 0 = .ok .acquire ∧
    decode 0xE2C00000 0 = .ok .release ∧
    decode 0xE3000002 0x00000001 = .ok (.accalloc 2 .split) ∧
    decode 0xE3400002 0 = .ok (.accfree 2) := by
  refine ⟨?_, ?_, ?_, ?_, ?_, ?_, ?_, ?_, ?_, ?_, ?_, ?_, ?_, ?_, ?_⟩ <;> rfl

theorem test_decode_services :
    decode 0xE3941060 0 = .ok (.nodeReg 20 4 6) ∧
    decode 0xE3C00830 0 = .ok (.nodeDec 2 3) ∧
    decode 0xE4000000 0 = .ok .nodeDone ∧
    decode 0xE440083D 0x00123456 = .ok (.tadvise 2 3 5 true 0x123456) ∧
    decode 0xE4800833 0x00000001 = .ok (.tpin 2 3 3 1) ∧
    decode 0xE4C00830 0x00FFFFFF = .ok (.tunpin 2 3 0xFFFFFF) ∧
    decode 0xE5140830 0x00000001 = .ok (.tquery 20 2 3 true) ∧
    decode 0xE5400800 0 = .ok (.tdef 2) ∧
    decode 0xE5800001 0 = .ok (.sfence .grp) ∧
    decode 0xE5C01063 0 = .ok (.icinv .dev 4 6) ∧
    decode 0xE6141060 0x00000001 = .ok (.stage1Invalidate 20 4 6) ∧
    decode 0xE6141060 0x00000002 = .ok (.stage1Root 20 4 6) ∧
    decode 0xE6141060 0x00000003 = .ok (.takePageRequest 20 4 6) ∧
    decode 0xE6141060 0x00000004 = .ok (.reply 20 4 6) ∧
    decode 0xE6141060 0x00000005 = .ok (.donateRetileFrames 20 4 6) ∧
    decode 0xE6141060 0 = .ok (.sys 20 4 6 0) ∧
    decode 0xE6141060 0x0000FFFF = .ok (.sys 20 4 6 65535) ∧
    decode 0xE6400000 0 = .ok .rti ∧
    decode 0xE6940830 0 = .ok (.rqget 20 2 3) ∧
    decode 0xE6D40830 0 = .ok (.rqput 20 2 3) ∧
    decode 0xE7140830 0 = .ok (.sbget 20 2 3) ∧
    decode 0xE7541060 0 = .ok (.ctxsave 20 4 6) ∧
    decode 0xE7941060 0 = .ok (.ctxrest 20 4 6) := by
  refine ⟨?_, ?_, ?_, ?_, ?_, ?_, ?_, ?_, ?_, ?_, ?_, ?_, ?_, ?_, ?_, ?_, ?_, ?_, ?_, ?_, ?_, ?_, ?_⟩ <;> rfl

/-- R205, R209, R211: reserved opcodes, non-zero unused fields and reserved field values are refused. -/
theorem test_decode_refuses :
    [(0, 0), (0x1A000000, 0), (0x1F800001, 0), (0x0B058302, 0), (0x25000000, 0), (0x22810022, 0), (0x57000000, 0),
      (0x6C800000, 0x001C0000), (0x60008207, 0x081C0000), (0x60008206, 0x081E0000), (0x60008206, 0x083C0000),
      (0x61C08200, 0x001C0420), (0x68408200, 0x001C011D), (0x80000000, 0), (0x80821061, 0), (0xB0400000, 0),
      (0xC0200244, 0), (0xCF000000, 0), (0xE0C02400, 0x10000), (0xE3000002, 3), (0xE5C01064, 0), (0xE7C00000, 0)].all
        (fun (w0, w1) => match decode w0 w1 with | .ok _ => false | .error _ => true) = true := by decide

/-! Single steps. -/

/-- Register `n` of lane `l` after an instruction. -/
def laneAfter (i : Instr) (s : State) (l n : Nat) : Option Word :=
  match exec i s with
  | .next t => some ((t.pk.thread l).r n)
  | _ => none

/-- s-register `n` after an instruction. -/
def uniformAfter (i : Instr) (s : State) (n : Nat) : Option Word :=
  match exec i s with
  | .next t => some (t.pk.sreg n)
  | _ => none

/-- One lane with v2, v3 and the pair v6:v7. -/
def operands (x y z w : Word) : State := issuing (packOf .gen [(2, x), (3, y), (6, z), (7, w)] [])

/-- The example of R221. -/
theorem test_add_saturates : laneAfter (.addI32 1 (.v 2) 3) (operands 0x80000000 0xFFFFFFFF 0 0) 0 1 = some 0x7FFFFFFF ∧
    laneAfter (.addI32Sat 1 (.v 2) 3) (operands 0x80000000 0xFFFFFFFF 0 0) 0 1 = some 0x80000000 := by decide

/-- The two literals of R224. -/
theorem test_perm_literals : laneAfter (.permB8 3 (.lit 0x80800706) 6) (operands 0 0 0x44332211 0x88776655) 0 3 = some 0x8877 ∧
    laneAfter (.permB8 3 (.lit 0x00000706) 6) (operands 0 0 0x44332211 0x88776655) 0 3 = some 0x11118877 := by decide

/-- The example of R227. -/
theorem test_bfx_example : laneAfter (.bfxN32 ⟨7, false⟩ 1 2 8 4) (operands 0x00000A5C 0 0 0) 0 1 = some 0xA := by decide

/-- R223: the integer constant -1 fills both halves. -/
theorem test_packed_constant : laneAfter (.addX2I16 1 (.small 16) 3) (operands 0 0x00010000 0 0) 0 1 = some 0x0000FFFF := by decide

/-- R237: -0.3 rounds to -0. -/
theorem test_frnd_keeps_sign : laneAfter (.frndF32 ⟨7, false⟩ 1 2 0 .rne false) (operands 0xBE99999A 0 0 0) 0 1 = some 0x80000000 := by
  decide

/-- R231: 2.0 times 1.0. -/
theorem test_fmul_constant : laneAfter (.fmulF32 1 (.small 26) 3 false) (operands 0 0x3F800000 0 0) 0 1 = some 0x40000000 := by decide

/-- The block of R60 as R241 returns it to lanes 0 and 1, and its element 2 as cvt reads it. -/
def blocked : State :=
  let values : List Word := [0x41400000, 0x40A00000, 0x40A66666, 0xBF800000]
  { gen with act := 0xFFFFFFFF
             pk := { gen.pk with threads := (List.range 32).map fun l => { pc := 0x10000, v := [(7, values.getD l 0)] } } }

theorem test_qblk_example : laneAfter (.qblkF4x ⟨7, false⟩ 6 7) blocked 0 6 = some 0x07428087 ∧
    laneAfter (.qblkF4x ⟨7, false⟩ 6 7) blocked 1 6 = some 0x08428098 := by decide +kernel

theorem test_cvt_element : laneAfter (.cvt ⟨7, false⟩ 1 2 0 0 .dyn .f4x .f32) (operands 0x08428000 0 0 0) 0 1 = some 0x40A00000 := by
  decide

/-- R277, R278: a carry into the high word, and a 64-bit comparison. -/
theorem test_sadd64_carries : uniformAfter (.sadd64 2 4 6 false) (issuing (packOf .gen [] [(4, 0xFFFFFFFF), (6, 1)])) 3 = some 1 := by
  decide

/-- The word of R279. -/
theorem test_smovi_sign : uniformAfter (.smovi 1 0x1FFFF) gen 1 = some 0xFFFFFFFF := by decide

/-- R186, R187, R248: a breakpoint uses a level and enters at 0x480 from TRAPBASE; the region has a parent. -/
theorem test_brk_traps : (match exec (.brk ⟨7, false⟩ 5) gen with
    | .next t => t.pk.priv == .handler && t.pk.sb.length == 1 && (t.pk.thread 0).pc == 0x80480
    | _ => false) = true := by decide

/-- FIPS 180-4's example: SHA-384 of "abc" (R6). -/
theorem test_sha384_abc : natBig (sha384 [0x61, 0x62, 0x63]) =
    0xcb00753f45a35e8bb5a03d699ac65007272c32ab0eded1631a8b605a43ff5bed8086072ba1e7cc2358baeca134c825a7 := by decide +kernel

/-- Whether a point lies on P-384, by the curve's equation (FIPS 186-5, SP 800-186). -/
def onCurve (x : Nat × Nat) : Bool := x.2 ^ 2 % p384 = (x.1 ^ 3 + (p384 - 3) * x.1 +
  0xb3312fa7e23ee7e4988e056be3f82d19181d9c6efe8141120314088f5013875ac656398d8a2ed19d2a85c8edd3ec2aef) % p384

/-- The base point of P-384 lies on the curve, and so do its double and its triple (R6). -/
theorem test_p384_points : onCurve base384 = true ∧ (mulPoint 2 2 (some base384)).all onCurve = true ∧
    (mulPoint 2 3 (some base384)).all onCurve = true := by decide +kernel

/-- Reserved bits of a MEET or a PC written into a side buffer stay 0 (R4, R31, R33). -/
theorem test_level_mask : levelMask 81 0xFFFFFFFF = 0x800FFFFF ∧ levelMask 80 0xFFFFFFFF = 0xFFFFFFFC ∧ levelMask 16 7 = 4 := by
  decide

/-- `movi.b32 v2, 100`, the word of R222, fetched and run by one step. -/
theorem test_step_movi : (match step (State.reset.withFetchWord 32 0x24020064) with
    | .next t => ((t.core 0).packs.map fun x => (x.2.thread 31).r 2) == [100]
    | _ => false) = true := by decide +kernel

end Sys2Proof.Tests
end

section
/-! SUPPORT. What reading memory and translating an address leave alone (spec/04_memories.md R85-R97, spec/08_tables.md R153-R160):
they fill caches, log errors and set ELIDE in leaves, and touch no pack in the latch, no group, command, node, partition or page
request. -/
namespace Sys2Proof.Machine

/-- What every read of memory and every translation leaves as it was. -/
structure State.ReadFrame (s t : State) : Prop where
  time : t.time = s.time
  site : t.site = s.site
  act : t.act = s.act
  ipc : t.ipc = s.ipc
  pk : t.pk = s.pk
  groups : t.groups = s.groups
  cmds : t.cmds = s.cmds
  sched : t.sched = s.sched
  parts : t.parts = s.parts
  pages : t.pages = s.pages
  overflow : t.overflow = s.overflow
  orphans : t.orphans = s.orphans

namespace State.ReadFrame

theorem refl (s : State) : s.ReadFrame s := ⟨rfl, rfl, rfl, rfl, rfl, rfl, rfl, rfl, rfl, rfl, rfl, rfl⟩

/-- An update of the other fields alone. -/
theorem update (s : State) (stamps : Tab Nat) (env : Env) (mem : List Host.Cell) (cores : Tab Core) (home : Home)
    (cl : List (Nat × Trans)) (u1 u2 : List (Nat × WalkEntry)) (mp : Mp) :
    s.ReadFrame { s with
      stamps := stamps, env := env, mem := mem, cores := cores, home := home, clusterTlb := cl, s1u := u1, s2u := u2, mp := mp } :=
  ⟨rfl, rfl, rfl, rfl, rfl, rfl, rfl, rfl, rfl, rfl, rfl, rfl⟩

theorem trans {s t u : State} (h : s.ReadFrame t) (k : t.ReadFrame u) : s.ReadFrame u :=
  ⟨k.time.trans h.time, k.site.trans h.site, k.act.trans h.act, k.ipc.trans h.ipc, k.pk.trans h.pk, k.groups.trans h.groups,
    k.cmds.trans h.cmds, k.sched.trans h.sched, k.parts.trans h.parts, k.pages.trans h.pages, k.overflow.trans h.overflow,
    k.orphans.trans h.orphans⟩

theorem foldl {α : Type} {f : State → α → State} (h : ∀ (s : State) x, s.ReadFrame (f s x)) (l : List α) :
    ∀ s : State, s.ReadFrame (l.foldl f s) := by
  induction l with
  | nil => exact refl
  | cons x l ih => exact fun s => (h s x).trans (ih _)

end State.ReadFrame

open State (ReadFrame)

/-! The home slices. -/

theorem State.logEvent_frame (s : State) (cls src part addr detail : Nat) : s.ReadFrame (s.logEvent cls src part addr detail) :=
  .update s _ _ _ _ _ _ _ _ _

/-- An error with a fresh syndrome, logged. -/
theorem State.logSyndrome_frame (s : State) (cls src part addr : Nat) :
    s.ReadFrame (s.syndrome.2.logEvent cls src part addr s.syndrome.1) :=
  .update s _ _ _ _ _ _ _ _ _

theorem State.materialise_frame (s : State) (a : Nat) : s.ReadFrame (s.materialise a) := by
  unfold State.materialise
  dsimp only
  split
  · split
    · exact .refl s
    · exact .update s _ _ _ _ _ _ _ _ _
  · exact .refl s

theorem State.readMap_frame (s : State) (a : Nat) : s.ReadFrame (s.readMap a) := by
  unfold State.readMap
  dsimp only
  split
  · exact .refl s
  · refine (ReadFrame.foldl (fun s w => ?_) _ s).trans (.update _ _ _ _ _ _ _ _ _ _)
    split
    · exact s.logSyndrome_frame _ _ _ _
    · exact .refl s

theorem State.logReadAt_frame (s : State) (src a n : Nat) : s.ReadFrame (s.logReadAt src a n) := by
  have units := ReadFrame.foldl (f := fun t u => if t.home.soft.contains u then
      t.syndrome.2.logEvent 0 src (s.groupOwner (groupOf (s.sel a))) (u * 32) t.syndrome.1 else t)
    (fun t u => by
      split
      · exact t.logSyndrome_frame _ _ _ _
      · exact .refl t) (units32 a n) s
  unfold State.logReadAt
  dsimp only
  split
  · exact units.trans (State.logSyndrome_frame _ _ _ _ _)
  · exact units

theorem State.allocLine_frame (s : State) (mirror : Bool) (a : Nat) : s.ReadFrame (s.allocLine mirror a) := by
  unfold State.allocLine
  dsimp only
  split
  · exact .refl s
  · exact .update s _ _ _ _ _ _ _ _ _

theorem State.sliceRead_frame (s : State) (mirror : Bool) (a n : Nat) : s.ReadFrame (s.sliceRead mirror a n).2.2 := by
  have h := (s.materialise_frame a).trans ((s.materialise a).readMap_frame a)
  unfold State.sliceRead
  dsimp only
  split
  · exact (h.trans (State.logReadAt_frame _ _ _ _)).trans (State.allocLine_frame _ _ _)
  · exact h.trans (State.allocLine_frame _ _ _)

theorem State.homeRead_frame (s : State) (a n : Nat) : s.ReadFrame (s.homeRead a n).2.2 := s.sliceRead_frame false a n

theorem State.homeLoad_frame (s : State) (core pa attr n : Nat) : s.ReadFrame (s.homeLoad core pa attr n).2.2 := by
  unfold State.homeLoad
  dsimp only
  split <;> exact s.sliceRead_frame _ _ _

theorem State.unelide_frame (s : State) (a : Nat) : s.ReadFrame (s.unelide a) := by
  unfold State.unelide
  dsimp only
  split
  · exact .refl s
  · split
    · exact .refl s
    · exact .update s _ _ _ _ _ _ _ _ _

theorem State.elideBlock_frame (s : State) (a : Nat) (bs : List Byte) : s.ReadFrame (s.elideBlock a bs) := by
  unfold State.elideBlock
  dsimp only
  split
  · exact .update s _ _ _ _ _ _ _ _ _
  · split
    · exact .update s _ _ _ _ _ _ _ _ _
    · split <;> exact .update s _ _ _ _ _ _ _ _ _

theorem State.retileTouch_frame (s : State) (a : Nat) : s.ReadFrame (s.retileTouch a) := by
  unfold State.retileTouch
  dsimp only
  split
  · exact .refl s
  · exact .update s _ _ _ _ _ _ _ _ _

theorem State.homeWrite_frame (s : State) (elide wide : Bool) (bs : Tab Byte) : s.ReadFrame (s.homeWrite elide wide bs) := by
  cases bs with
  | nil => exact .refl s
  | cons e r =>
    have h := (s.materialise_frame e.1).trans ((s.materialise e.1).readMap_frame e.1)
    unfold State.homeWrite
    dsimp only
    refine .trans ?_ ((State.allocLine_frame _ _ _).trans (State.retileTouch_frame _ _))
    refine .trans ?_ (.update _ _ _ _ _ _ _ _ _ _)
    split
    · exact h.trans (State.elideBlock_frame _ _ _)
    · exact (h.trans (State.unelide_frame _ _)).trans (.update _ _ _ _ _ _ _ _ _ _)

/-! Walks. -/

theorem State.readEntry_frame (s : State) (hpa mbz : Nat) : s.ReadFrame (s.readEntry hpa mbz).1 := by
  unfold State.readEntry
  dsimp only
  split_ifs <;> exact s.homeRead_frame hpa 8

theorem State.leafTable2_frame (s : State) (die part gpa : Nat) : s.ReadFrame (s.leafTable2 die part gpa).1 := by
  unfold State.leafTable2
  dsimp only
  split
  · exact .refl s
  · split
    · exact s.readEntry_frame _ _
    · split
      · exact (s.readEntry_frame _ _).trans (State.readEntry_frame _ _ _)
      · exact ((s.readEntry_frame _ _).trans (State.readEntry_frame _ _ _)).trans (.update _ _ _ _ _ _ _ _ _ _)

theorem State.leaf2_frame (s : State) (die part gpa : Nat) : s.ReadFrame (s.leaf2 die part gpa).1 := by
  have h := s.leafTable2_frame die part gpa
  unfold State.leaf2
  dsimp only
  split
  · exact h
  · split
    · exact h.trans (State.readEntry_frame _ _ _)
    · split <;> exact h.trans (State.readEntry_frame _ _ _)

theorem State.tableAddr_frame (s : State) (die part gpa : Nat) : s.ReadFrame (s.tableAddr die part gpa).1 := by
  unfold State.tableAddr
  dsimp only
  split <;> exact s.leaf2_frame die part gpa

theorem State.leafTable1_frame (s : State) (die part va : Nat) : s.ReadFrame (s.leafTable1 die part va).1 := by
  unfold State.leafTable1
  dsimp only
  split
  · exact .refl s
  · have h1 := s.tableAddr_frame die part ((s.part part).map.s1root.toNat + 8 * bits va 51 42)
    split
    · exact h1
    · rename_i root _
      have h2 := h1.trans (State.readEntry_frame _ root mbzTable1)
      split
      · exact h2
      · rename_i e1 _
        have h3 := h2.trans (State.tableAddr_frame _ die part (bits e1 47 16 * 65536 + 8 * bits va 41 29))
        split
        · exact h3
        · rename_i mid _
          have h4 := h3.trans (State.readEntry_frame _ mid mbzTable1)
          split
          · exact h4
          · rename_i e2 _
            have h5 := h4.trans (State.tableAddr_frame _ die part (bits e2 47 16 * 65536))
            split
            · exact h5
            · exact h5.trans (.update _ _ _ _ _ _ _ _ _ _)

theorem State.walk_frame (s : State) (die part va : Nat) : s.ReadFrame (s.walk die part va).1 := by
  have h := s.leafTable1_frame die part va
  unfold State.walk
  dsimp only
  split
  · exact h
  · split
    · exact h.trans (State.readEntry_frame _ _ _)
    · split <;> exact (h.trans (State.readEntry_frame _ _ _)).trans (State.leaf2_frame _ _ _ _)

/-! Translations (R156-R160). -/

theorem State.logXlat_frame (s : State) (core part : Nat) (x : XFault) : s.ReadFrame (s.logXlat core part x) := by
  cases x with
  | bad a => exact s.logEvent_frame _ _ _ _ _
  | page b a => exact .refl s
  | ecc => exact .refl s

theorem State.askElide_frame (s : State) (use : PageUse) (t : Trans) : s.ReadFrame (s.askElide use t).1 := by
  unfold State.askElide
  dsimp only
  split
  · dsimp only
    exact s.homeWrite_frame _ _ _
  · exact .refl s

theorem State.walkFor_frame (s : State) (core part : Nat) (priv : Priv) (acc : Acc) (use : PageUse) (va : Nat) :
    s.ReadFrame (s.walkFor core part priv acc use va).1 := by
  have h := s.walk_frame (dieOf core) part va
  unfold State.walkFor
  dsimp only
  split
  · exact h.trans (State.logXlat_frame _ _ _ _)
  · split
    · exact h.trans (State.logXlat_frame _ _ _ _)
    · exact (h.trans (State.askElide_frame _ _ _)).trans (.update _ _ _ _ _ _ _ _ _ _)

theorem State.translate_frame (s : State) (core part : Nat) (priv : Priv) (acc : Acc) (use : PageUse) (va : Nat) :
    s.ReadFrame (s.translate core part priv acc use va).1 := by
  -- A cached translation is used, refused and logged, or dropped for a new walk.
  have cached : ∀ (u : State) (t : Trans), u.ReadFrame (if t.misused use then
      (u.logXlat core part (.bad t.leaf), Except.error (.bad t.leaf))
      else if t.allows acc priv then (u, .ok t)
      else (u.dropTrans core part (va / 65536)).walkFor core part priv acc use va).1 := by
    intro u t
    split
    · exact u.logXlat_frame core part (.bad t.leaf)
    · split
      · exact .refl u
      · exact .trans (.update u _ _ _ _ _ _ _ _ _) (State.walkFor_frame _ _ _ _ _ _ _)
  unfold State.translate
  dsimp only
  split
  · exact cached s _
  · split
    · exact .trans (.update s _ _ _ _ _ _ _ _ _) (cached _ _)
    · exact s.walkFor_frame _ _ _ _ _ _

/-! Reads at virtual addresses. -/

theorem State.readBlock_frame (s : State) (core part : Nat) (priv : Priv) (va n : Nat) :
    s.ReadFrame (s.readBlock core part priv va n).1 := by
  have h := s.translate_frame core part priv .load .flat va
  unfold State.readBlock
  dsimp only
  split
  · exact .refl s
  · split
    · exact h
    · split
      · exact h
      · exact h.trans (State.homeLoad_frame _ _ _ _ _)

theorem State.readPieces_frame (core part : Nat) (priv : Priv) (l : List (Nat × Nat)) :
    ∀ s : State, s.ReadFrame (s.readPieces core part priv l).1 := by
  induction l with
  | nil => exact .refl
  | cons e l ih =>
    intro s
    have h := s.readBlock_frame core part priv e.1 e.2
    unfold State.readPieces
    dsimp only
    split
    · exact h
    · split <;> exact h.trans (ih _)

theorem State.readVA_frame (s : State) (core part : Nat) (priv : Priv) (va n : Nat) :
    s.ReadFrame (s.readVA core part priv va n).1 :=
  State.readPieces_frame core part priv _ s

end Sys2Proof.Machine
end

section
/-! SUPPORT. The error log and the notification ring (spec/08_tables.md R167, spec/09_counters_events.md R184, R185): where an event
goes when no other of its cycle has been logged, and what room in the ring takes from the MP's store. -/
namespace Sys2Proof.Machine

/-! The error log. -/

theorem bitOf_toNat {w : Nat} (x : BitVec w) (k : Nat) : bitOf x.toNat k = x.getLsbD k := by
  simp [bitOf, BitVec.getLsbD, Nat.testBit_eq_decide_div_mod_eq]

/-- The lowest clear bit, found by its two properties. -/
theorem lowestClear_eq {x j : Nat} (hj : bitOf x j = false) :
    ∀ n k, k ≤ j → j < k + n → (∀ i, k ≤ i → i < j → bitOf x i = true) → lowestClear n k x = some j := by
  intro n
  induction n with
  | zero => intro k _ _ _; omega
  | succ n ih =>
    intro k hk hn hlow
    unfold lowestClear
    by_cases h : k = j
    · subst h; simp [hj]
    · rw [if_pos (hlow k (Nat.le_refl _) (by omega))]
      exact ih (k + 1) (by omega) (by omega) fun i hi => hlow i (by omega)

theorem Mp.putLast_counters (m : Mp) (now : Nat) (e : LogEntry) : (m.putLast now e).counters = m.counters := by
  unfold Mp.putLast
  split <;> rfl

/-- Placing an entry counts nothing. -/
theorem Mp.place_counters (m : Mp) (now : Nat) (e : LogEntry) : (m.place now e).counters = m.counters := by
  unfold Mp.place
  dsimp only
  split
  · rfl
  · exact Mp.putLast_counters _ _ _

/-- With no other entry of the cycle, an entry takes the lowest free slot. -/
theorem Mp.place_free {m : Mp} {now k : Nat} (e : LogEntry) (hc : m.cycleSlots now = [])
    (hk : lowestClear 64 0 m.logvalid.toNat = some k) :
    m.place now e = { m with log := tabPut m.log k e, logvalid := m.logvalid ||| BitVec.twoPow 64 k } := by
  simp only [Mp.place, hc, hk, List.map_nil, insertEntry, ascending, insertAsc, List.zip_cons_cons, List.zip_nil_left, List.foldl_cons,
    List.foldl_nil, BitVec.twoPow]

/-- With no other event of the cycle logged, an event's entry takes the lowest free slot. -/
theorem State.logEvent_free {s : State} {k : Nat} (cls src part addr detail : Nat) (hc : s.mp.cycleSlots s.time = [])
    (hk : lowestClear 64 0 s.mp.logvalid.toNat = some k) :
    (s.logEvent cls src part addr detail).mp = { s.mp with
      counters := tabPut s.mp.counters cls (tabGet 0 s.mp.counters cls + 1)
      log := tabPut s.mp.log k ⟨BitVec.ofNat 64 (s.stamp src).1, BitVec.ofNat 64 (tabGet 0 s.mp.counters cls + 1),
        BitVec.ofNat 64 (addr % 2 ^ 52), BitVec.ofNat 32 detail, BitVec.ofNat 32 (src % 4096 + cls * 4096 + part * 2 ^ 18)⟩
      logvalid := s.mp.logvalid ||| BitVec.twoPow 64 k } :=
  Mp.place_free _ hc hk

/-! The notification ring. -/

theorem Mp.append_nhead (m : Mp) (n : Notice) : (m.append n).nhead = m.nhead + 1 := by
  unfold Mp.append
  dsimp only
  split <;> rfl

theorem Mp.append_ring (m : Mp) (n : Notice) : (m.append n).ring = tabPut m.ring (m.nhead.toNat % 64) n := by
  unfold Mp.append
  dsimp only
  split <;> rfl

theorem Mp.append_outside (m : Mp) (n : Notice) :
    m.append n = { m with nhead := (m.append n).nhead, ring := (m.append n).ring, msix := (m.append n).msix } := by
  unfold Mp.append
  dsimp only
  split <;> rfl

/-- How many kept notifications the ring has room for (R167). -/
def Mp.room (m : Mp) : Nat := min m.nstore.length (64 - (m.nhead - m.ntail).toNat)

/-- The ring's slot of a head. -/
def ringSlot (h : Word) (i : Nat) : Nat := (h + BitVec.ofNat 32 i).toNat % 64

theorem ringSlot_eq (h : Word) (i : Nat) : ringSlot h i = (h.toNat + i) % 64 := by
  simp only [ringSlot, BitVec.toNat_add, BitVec.toNat_ofNat]
  omega

/-- What draining has done (R167): the oldest `k` kept notifications stand in the ring in their order, the others are kept, and every
other slot of the ring is as it was. -/
structure Mp.Drained (m d : Mp) (k : Nat) : Prop where
  nhead : d.nhead = m.nhead + BitVec.ofNat 32 k
  nstore : d.nstore = m.nstore.drop k
  ring : ∀ i, i < 64 → tabFind d.ring (ringSlot m.nhead i) =
    if i < k then m.nstore[i]? else tabFind m.ring (ringSlot m.nhead i)
  outside : d = { m with nhead := d.nhead, nstore := d.nstore, ring := d.ring, msix := d.msix }

theorem Mp.Drained.refl (m : Mp) : m.Drained m 0 := ⟨by simp, rfl, fun _ _ => rfl, rfl⟩

/-- One notification appended, and then `k` more. -/
theorem Mp.Drained.cons {m d : Mp} {n : Notice} {r : List Notice} {k : Nat} (hs : m.nstore = n :: r) (hk : k < 64)
    (h : Mp.Drained { m.append n with nstore := r } d k) : m.Drained d (k + 1) := by
  obtain ⟨hhead, hstore, hring, hout⟩ := h
  simp only [Mp.append_nhead, Mp.append_ring, ringSlot_eq] at hhead hring
  refine ⟨?_, ?_, ?_, ?_⟩
  · rw [hhead, BitVec.add_assoc]
    congr 1
    apply BitVec.eq_of_toNat_eq
    simp [Nat.add_comm]
  · rw [hstore, hs]; rfl
  · intro i hi
    have hn : (m.nhead + 1).toNat % 64 = (m.nhead.toNat + 1) % 64 := ringSlot_eq m.nhead 1
    rw [ringSlot_eq]
    cases i with
    | zero =>
      have h63 := hring 63 (by omega)
      rw [if_neg (by omega), show ((m.nhead + 1).toNat + 63) % 64 = m.nhead.toNat % 64 by omega, tabFind_tabPut, if_pos rfl] at h63
      rw [Nat.add_zero, h63, hs, if_pos (by omega)]; rfl
    | succ i =>
      have hi' := hring i (by omega)
      have hne : m.nhead.toNat % 64 ≠ (m.nhead.toNat + (i + 1)) % 64 := by omega
      rw [show ((m.nhead + 1).toNat + i) % 64 = (m.nhead.toNat + (i + 1)) % 64 by omega, tabFind_tabPut, if_neg hne] at hi'
      rw [hi', hs]
      simp
  · rw [hout, Mp.append_outside]

theorem Mp.drain_drained : ∀ (n : Nat) (m : Mp), m.room ≤ n → m.Drained (Mp.drain n m) m.room := by
  intro n
  induction n with
  | zero => intro m h; rw [Nat.le_zero.1 h]; exact .refl m
  | succ n ih =>
    intro m h
    unfold Mp.drain
    split
    · rename_i hs
      rw [show m.room = 0 by simp [Mp.room, hs]]
      exact .refl m
    · rename_i x r hs
      split
      · rename_i hroom
        have hstep : Mp.room { m.append x with nstore := r } + 1 = m.room := by
          have hh : (m.nhead + 1 - m.ntail).toNat = (m.nhead - m.ntail).toNat + 1 := by bv_omega
          have ht : (m.append x).ntail = m.ntail := by rw [Mp.append_outside]
          simp only [Mp.room, Mp.append_nhead, ht, hh, hs, List.length_cons]
          omega
        rw [← hstep]
        refine .cons hs ?_ (ih _ (by omega))
        simp only [Mp.room] at hstep ⊢
        omega
      · rename_i hfull
        rw [show m.room = 0 by simp only [Mp.room]; omega]
        exact .refl m

/-- PAGEREQ is not sent while no stage-2 request waits. -/
theorem State.notifyPages_idle (s : State) (h : ∀ id q, (id, q) ∈ s.pages → q.stage2 = true → q.taken = true) :
    s.notifyPages = s := by
  have hw : (s.pages.filter fun x => x.2.stage2 && !x.2.taken) = [] := by
    rw [List.filter_eq_nil_iff]
    intro x hx
    cases h2 : x.2.stage2 with
    | false => simp
    | true => simp [h x.1 x.2 hx h2]
  unfold State.notifyPages
  simp [hw]

end Sys2Proof.Machine

namespace Sys2Proof.Claims
open Sys2Proof.Machine

/-- An event of a cycle of its own finds no slot of its cycle in use. -/
theorem LogPast.cycleSlots {s : State} (h : LogPast s) : s.mp.cycleSlots s.time = [] := by
  rw [Mp.cycleSlots, List.filter_eq_nil_iff]
  intro k hk hv
  simp only [Bool.and_eq_true, decide_eq_true_eq] at hv
  have := h k (List.mem_range.1 hk) hv.1
  omega

/-- Logging an event counts it and gives it the lowest free slot (R184, R185). -/
theorem logEvent_logged (s : State) (cls src part addr detail : Nat) :
    Logged s (s.logEvent cls src part addr detail) cls src part addr detail where
  count c := by
    simp only [State.logEvent, State.stamp, Mp.place_counters, tabGet, tabFind_tabPut]
    by_cases h : cls = c
    · subst h; simp
    · simp [h, Ne.symm h]
  entry hp k hk hfree hlow := by
    have hl : lowestClear 64 0 s.mp.logvalid.toNat = some k :=
      lowestClear_eq (by rw [bitOf_toNat, hfree]) 64 0 (by omega) (by omega) fun i _ hi => by rw [bitOf_toNat, hlow i hi]
    rw [State.logEvent_free cls src part addr detail hp.cycleSlots hl]
    exact ⟨rfl, _, by rw [tabFind_tabPut, if_pos rfl], rfl, rfl, rfl, rfl⟩

theorem logEvent_onlyMp (s : State) (cls src part addr detail : Nat) : OnlyMp s (s.logEvent cls src part addr detail) := rfl

end Sys2Proof.Claims
end

section
/-! SUPPORT. Node windows (spec/01_device.md R17-R19): which slots a function's window reaches, one decrement below a node's count, and
the registration of a node that has predecessors. -/
namespace Sys2Proof.Machine

/-- Which slots a function's window reaches (R17). -/
theorem State.reaches_iff (s : State) (fn slot : Nat) :
    s.reaches fn slot = true ↔
      slot < 65536 ∧ (fn = 0 ∨ ∃ p, s.partOfFn fn = some p ∧ (s.part p).slotLo ≤ slot ∧ slot < (s.part p).slotHi) := by
  cases hp : s.partOfFn fn <;> simp [State.reaches, State.ownsSlot, hp]

/-- A lone decrement below the count of a node that waits lowers the count, and no other node hears of it (R19). -/
theorem State.decrement_below {s : State} {d : Dec} {n : Node} (hn : tabFind s.sched.nodes d.slot = some n)
    (hready : n.ready = false) (hlt : d.amount < n.count) :
    s.decrement [d] = if d.amount = 0 then s else s.setNode d.slot { n with count := n.count - d.amount } := by
  have happ : s.applyDec d = (if d.amount = 0 then s else s.setNode d.slot { n with count := n.count - d.amount }, []) := by
    unfold State.applyDec
    by_cases h0 : d.amount = 0
    · rw [if_pos h0, if_pos h0]
    · simp only [h0, hn, hready, hlt, if_false, if_true, Bool.false_eq_true]
  rw [State.decrement, List.length_singleton, Nat.add_comm 1, State.applyDecs, happ]
  cases 7 * s.sched.nodes.length <;> rfl

/-- The host's registration of a readable valid record with predecessors in a free slot of its range (R18). -/
theorem State.register_host {s s1 : State} {p slot va : Nat} {rec : List Byte} {n : Node} (fn : Nat)
    (hfree : tabFind s.sched.nodes slot = none) (hread : s.readVA agentMp p .root va 128 = (s1, .ok (rec, false)))
    (hparse : parseNode p rec = some n) (hcount : n.count ≠ 0) :
    s.register (.host fn) p slot va true = (s1.setNode slot n, true) := by
  simp [State.register, Registrar.agent, State.registerRcb, hfree, hread, hparse, hcount]

/-- A function other than 0 registers for the partition it serves. -/
theorem State.registrant_of_partOfFn {s : State} {fn p : Nat} (slot : Nat) (h : s.partOfFn fn = some p) :
    s.registrant fn slot = some p := by
  have h0 : fn ≠ 0 := by rintro rfl; simp [State.partOfFn] at h
  rw [State.registrant, if_neg h0, h]

/-- The fields of a registration's word (R17). -/
theorem registration_word {slot va : Nat} (hs : slot < 65536) (ha : va % 128 = 0) (hv : va < 2 ^ 52) :
    let w := (BitVec.ofNat 64 (slot * 2 ^ 48 + va / 128)).toNat
    bits w 63 48 = slot ∧ bits w 44 0 * 128 = va ∧ bits w 47 45 = 0 := by
  simp only [bits, BitVec.toNat_ofNat]
  omega

end Sys2Proof.Machine

namespace Sys2Proof.Claims
open Sys2Proof.Machine

/-- A bad access to a node window is logged, and that is all (R17). -/
theorem nodeWindowBadAccess_logged {s : State} (hi : Idle s) (fn off : Nat) :
    ∃ t, exec (.nodeWindowBadAccess fn off) s = .next t ∧ OnlyMp s t ∧ Logged s t 11 2049 (s.fnPart fn) 0 off :=
  ⟨_, event_idle _ hi, logEvent_onlyMp _ _ _ _ _ _, logEvent_logged _ _ _ _ _ _⟩

/-- A decrement beyond a function's window is logged, and that is all (R17, R19). -/
theorem nodeDecrement_outside {s : State} (hi : Idle s) {fn slot : Nat} (d : Word) (h : ¬s.reaches fn slot = true) :
    ∃ t, exec (.nodeDecrement fn slot d) s = .next t ∧ OnlyMp s t ∧ Logged s t 11 2049 (s.fnPart fn) 0 slot := by
  refine ⟨s.logEvent 11 2049 (s.fnPart fn) 0 slot, ?_, logEvent_onlyMp _ _ _ _ _ _, logEvent_logged _ _ _ _ _ _⟩
  rw [show exec (.nodeDecrement fn slot d) s = .next _ from event_idle _ hi, if_neg h]
  rfl

/-- A decrement within reach and below the node's count lowers that count alone; as a release it waits for the replicas (R19, R23). -/
theorem nodeDecrement_within {s : State} (hi : Idle s) {fn slot : Nat} {d : Word} {n : Node} (h : s.reaches fn slot = true)
    (hn : tabFind s.sched.nodes slot = some n) (hready : n.ready = false) (hlt : d.toNat < n.count) :
    ∃ t, exec (.nodeDecrement fn slot d) s = .next t ∧
      t = { s with sched := { s.sched with nodes := t.sched.nodes }, home := { s.home with replicaLag := [] } } ∧
      ∀ j, tabFind t.sched.nodes j =
        if j = slot then some { n with count := n.count - d.toNat } else tabFind s.sched.nodes j := by
  have hexec : exec (.nodeDecrement fn slot d) s =
      .next (s.syncReplicas.decrement [⟨slot, d.toNat, srcHost, s.fnPart fn⟩]) := by
    rw [show exec (.nodeDecrement fn slot d) s = .next _ from event_idle _ hi, if_pos h]
  refine ⟨_, hexec, ?_⟩
  rw [State.decrement_below (s := s.syncReplicas) (d := ⟨slot, d.toNat, srcHost, s.fnPart fn⟩) (n := n) hn hready hlt]
  dsimp only
  split
  · rename_i h0
    refine ⟨rfl, fun j => ?_⟩
    rw [h0]
    split
    · subst_vars; exact hn
    · rfl
  · refine ⟨rfl, fun j => ?_⟩
    simp only [State.setNode, State.syncReplicas_sched, tabFind_tabPut, eq_comm]

/-- A registration of a readable valid record with predecessors adds its node, and the window's status says so (R17, R18). -/
theorem registration_adds {s s1 : State} (hi : Idle s) {fn slot p va : Nat} {rec : List Byte} {n : Node}
    (h : s.reaches fn slot = true) (hfn : s.partOfFn fn = some p) (hfree : tabFind s.sched.nodes slot = none) (ha : va % 128 = 0)
    (hv : va < 2 ^ 52) (hread : s.readVA agentMp p .root va 128 = (s1, .ok (rec, false))) (hparse : parseNode p rec = some n)
    (hcount : n.count ≠ 0) :
    ∃ t, exec (.registration fn (BitVec.ofNat 64 (slot * 2 ^ 48 + va / 128))) s = .next t ∧
      t.sched = { s.sched with
        nodes := tabPut s.sched.nodes slot n
        lastReg := tabPut s.sched.lastReg fn (BitVec.ofNat 32 (slot + 2 ^ 16)) } := by
  obtain ⟨hslot, hva, hzero⟩ := registration_word ((s.reaches_iff fn slot).1 h).1 ha hv
  have hsched : s1.sched = s.sched := by
    have := (s.readVA_frame agentMp p .root va 128).sched
    rwa [hread] at this
  refine ⟨_, event_idle _ hi, ?_⟩
  simp only [hslot, hva, hzero, h, s.registrant_of_partOfFn slot hfn, State.register_host fn hfree hread hparse hcount,
    decide_true, Bool.and_self, State.setNode, hsched, if_true]
  rfl

/-- NTAIL frees entries of the ring, which take what the MP kept back (R167). -/
theorem ntailWrite_drains {s : State} (hi : Idle s) (w : Word)
    (hp : ∀ id q, (id, q) ∈ s.pages → q.stage2 = true → q.taken = true) :
    ∃ d, exec (.ntailWrite w) s = .next { s with mp := d } ∧
      Mp.Drained { s.mp with ntail := w } d (Mp.room { s.mp with ntail := w }) := by
  refine ⟨_, ?_, Mp.drain_drained 1024 _ ?_⟩
  · rw [show exec (.ntailWrite w) s = .next _ from event_idle _ hi]
    exact congrArg _ (State.notifyPages_idle _ hp)
  · simp only [Mp.room]
    omega

end Sys2Proof.Claims
end

section
/-! The scope statements: the host's registers and node windows, and the values at reset. -/
namespace Sys2Proof.Claims
open Sys2Proof.Machine

/-- Settles O39: with no pack in the latch each of these rows is its effect on the state, the log takes what is refused, and reading a
node's record changes nothing of the scheduler. -/
theorem hostRegistersAndNodes : Obligations.HostRegistersAndNodes := by
  intro s hi
  refine ⟨fun w => event_idle _ hi, fun w => ?_, fun off w _ => event_idle _ hi, fun w hp => ?_, nodeWindowBadAccess_logged hi, ?_⟩
  · rw [show exec (.nlostClear w) s = .next _ from event_idle _ hi]
    split <;> rfl
  · obtain ⟨d, hexec, hd⟩ := ntailWrite_drains hi w hp
    refine ⟨_, hexec, ?_, hd.nhead, hd.nstore, fun i hk => ?_, ?_⟩
    · rw [hd.outside]
    · exact (hd.ring i (by omega)).trans (if_pos hk)
    · rw [hd.outside]
  · intro fn slot
    dsimp only
    simp only [← State.reaches_iff]
    exact ⟨fun d => ⟨nodeDecrement_outside hi d, fun n h => nodeDecrement_within hi h⟩,
      fun p va s1 rec n h hfn hfree ha hv => registration_adds hi h hfn hfree ha hv⟩

/-- Settles O57: no table of the reset state lists anything, so each core and each partition is at its defaults and each byte of memory
is 0. -/
theorem resetValues : Obligations.ResetValues :=
  ⟨rfl, rfl, rfl, rfl, rfl, rfl, by decide, fun _ => ⟨rfl, rfl, rfl, rfl, rfl, rfl, rfl, fun _ => rfl⟩,
    fun _ => ⟨rfl, rfl, rfl, rfl, rfl⟩, fun _ => rfl, reset_wf.1, rfl, rfl, rfl, rfl⟩

end Sys2Proof.Claims
end

section
/-! SUPPORT. Taking a trap (spec/09_counters_events.md R187, R188): the words of a side-buffer level, the pack after trap entry, and the
state in which nothing has to finish before. -/
namespace Sys2Proof.Machine

/-! The words of a level. -/

/-- Listed words read as they stood in the list. -/
theorem tabGet_wordTab (ws : List Word) : ∀ i k, tabGet 0 (wordTab i ws) (i + k) = ws.getD k 0 := by
  -- Words are listed from `i` up.
  have below : ∀ (ws : List Word) (i j : Nat), j < i → tabFind (wordTab i ws) j = none := by
    intro ws
    induction ws with
    | nil => intro _ _ _; rfl
    | cons w ws ih =>
      intro i j h
      unfold wordTab
      split
      · exact ih _ _ (by omega)
      · rw [tabFind_cons, if_neg (by omega), ih _ _ (by omega)]
  induction ws with
  | nil => intro i k; rfl
  | cons w ws ih =>
    intro i k
    unfold wordTab
    cases k with
    | zero =>
      split
      · rename_i h
        change (tabFind (wordTab (i + 1) ws) i).getD 0 = w
        rw [below _ _ _ (Nat.lt_succ_self i), h]; rfl
      · simp [tabGet]
    | succ k =>
      rw [List.getD_cons_succ, ← ih (i + 1) k, show i + 1 + k = i + (k + 1) by omega]
      split
      · rfl
      · rw [tabGet, tabFind_cons, if_neg (by omega)]; rfl

theorem getD_skip {α : Type} {X Y : List α} {n k : Nat} {d : α} (h : X.length = n) : (X ++ Y).getD (n + k) d = Y.getD k d := by
  subst h
  rw [List.getD_append_right _ _ _ _ (Nat.le_add_right _ _), Nat.add_sub_cancel_left]

/-- Both words of each member, in order. -/
theorem getD_flatMap_pair {α : Type} (f g : α → Word) (d : α) : ∀ (l : List α) (i : Nat), i < l.length →
    (l.flatMap fun x => [f x, g x]).getD (2 * i) 0 = f (l.getD i d) ∧
      (l.flatMap fun x => [f x, g x]).getD (2 * i + 1) 0 = g (l.getD i d)
  | [], _, h => absurd h (Nat.not_lt_zero _)
  | x :: l, 0, _ => ⟨rfl, rfl⟩
  | x :: l, i + 1, h => by
    have := getD_flatMap_pair f g d l i (by simpa using h)
    simpa [show 2 * (i + 1) = 2 * i + 2 by omega] using this

@[simp] theorem pair_loWord_hiWord (x : DWord) : pair (loWord x) (hiWord x) = x := by
  simp only [pair, loWord, hiWord]
  exact BitVec.extractLsb'_append_extractLsb'_eq_extractLsb' (by rfl) |>.trans (by simp)

/-- The level that a trap leaves (R188). -/
def Pack.trapLevel (p : Pack) (t : Raise) (region : DWord) : Level :=
  ⟨wordTab 0 (levelWords p t region), tidyEntries p.replay⟩

section
variable (p : Pack) (t : Raise) (region : DWord)

theorem Pack.trapLevel_word {k : Nat} (h : k ≠ 7) : (p.trapLevel t region).word k = (levelWords p t region).getD k 0 := by
  rw [Level.word, if_neg h]
  rw [← tabGet_wordTab _ 0 k, Nat.zero_add]; rfl

/-- The thread list that a level saves. -/
theorem getD_threads {l : Nat} (h : l < 32) : ((List.range 32).map p.thread).getD l {} = p.thread l := by
  simp [List.getD_eq_getElem?_getD, h]


theorem Pack.trapLevel_head {k : Nat} (h : k < 7) : (p.trapLevel t region).word k =
    [BitVec.ofNat 32 (t.cls.index + 16 * p.priv.code), t.lanes, loWord (t.pc.zeroExtend 64), hiWord (t.pc.zeroExtend 64),
      loWord (BitVec.ofNat 64 t.addr), hiWord (BitVec.ofNat 64 t.addr), BitVec.ofNat 32 t.detail, 0].getD k 0 := by
  rw [p.trapLevel_word t region (by omega), levelWords]
  simp only [List.append_assoc]
  exact List.getD_append _ _ _ _ (by simp; omega)

theorem Pack.trapLevel_saved {k : Nat} (h : k < 8) : (p.trapLevel t region).word (8 + k) = p.sreg (56 + k) := by
  rw [p.trapLevel_word t region (by omega), levelWords]
  simp only [List.append_assoc]
  rw [getD_skip (n := 8) rfl, List.getD_append _ _ _ _ (by simpa using h)]
  simp [List.getD_eq_getElem?_getD, h]

/-- Doublewords that a level keeps for each thread, low word first. -/
theorem Pack.trapLevel_pairs (f : Thread → DWord) {n l : Nat} (hl : l < 32) (hn : 8 ≤ n)
    (h : ∀ k, k < 64 → (levelWords p t region).getD (n + k) 0 =
      (((List.range 32).map p.thread).flatMap fun x => [loWord (f x), hiWord (f x)]).getD k 0) :
    (p.trapLevel t region).word64 (n + 2 * l) = f (p.thread l) := by
  have hp := getD_flatMap_pair (fun x => loWord (f x)) (fun x => hiWord (f x)) {} ((List.range 32).map p.thread) l (by simpa using hl)
  rw [getD_threads p hl] at hp
  rw [Level.word64, p.trapLevel_word t region (by omega), p.trapLevel_word t region (by omega), h _ (by omega), Nat.add_assoc,
    h _ (by omega), hp.1, hp.2, pair_loWord_hiWord]

theorem Pack.trapLevel_pc {l : Nat} (h : l < 32) :
    (p.trapLevel t region).word64 (16 + 2 * l) = (p.thread l).pc.zeroExtend 64 := by
  refine p.trapLevel_pairs t region (fun x => x.pc.zeroExtend 64) h (by omega) fun k hk => ?_
  simp only [levelWords, List.append_assoc]
  rw [show 16 + k = 8 + (8 + k) by omega, getD_skip (n := 8) rfl, getD_skip (n := 8) rfl]
  exact List.getD_append _ _ _ _ hk

theorem Pack.trapLevel_meet {l : Nat} (h : l < 32) : (p.trapLevel t region).word64 (80 + 2 * l) = (p.thread l).meet := by
  refine p.trapLevel_pairs t region (·.meet) h (by omega) fun k hk => ?_
  simp only [levelWords, List.append_assoc]
  rw [show 80 + k = 8 + (8 + (64 + k)) by omega, getD_skip (n := 8) rfl, getD_skip (n := 8) rfl, getD_skip (n := 64) rfl]
  exact List.getD_append _ _ _ _ hk

theorem Pack.trapLevel_jmask {l : Nat} (h : l < 32) : (p.trapLevel t region).word (144 + l) = (p.thread l).jmask := by
  rw [p.trapLevel_word t region (by omega), levelWords]
  simp only [List.append_assoc]
  rw [show 144 + l = 8 + (8 + (64 + (64 + l))) by omega, getD_skip (n := 8) rfl, getD_skip (n := 8) rfl, getD_skip (n := 64) rfl, getD_skip (n := 64) rfl,
    List.getD_append _ _ _ _ (by simpa using h)]
  simp [List.getD_eq_getElem?_getD, h]

theorem Pack.trapLevel_region : (p.trapLevel t region).word64 176 = region := by
  have at' : ∀ k, (p.trapLevel t region).word (176 + k) = [loWord region, hiWord region].getD k 0 := by
    intro k
    rw [p.trapLevel_word t region (by omega), levelWords]
    exact getD_skip rfl
  rw [Level.word64, at' 0, at' 1]
  exact pair_loWord_hiWord region

end

end Sys2Proof.Machine
end

section
/-! SUPPORT. Trap entry (spec/09_counters_events.md R187, R188): the pack after it, which region handles it, and the halt of a
partition. -/
namespace Sys2Proof.Machine

/-! The pack after trap entry. -/

theorem Thread.enterTrap_held (t : Thread) (base : DWord) (c : TrapClass) : (t.enterTrap base c).held = false := by
  unfold Thread.enterTrap
  split
  · simp [Thread.held, *]
  · simp [Thread.held, Thread.meetValid]

theorem Pack.enterTrap_thread (p : Pack) (t : Raise) (region base : DWord) (root : Bool) (l : Nat) :
    (p.enterTrap t region base root).thread l = (p.thread l).enterTrap base t.cls := by
  have h : (p.threads.map fun x => x.enterTrap base t.cls).getD l { exited := true } =
      (p.threads.getD l { exited := true }).enterTrap base t.cls := by
    rw [List.getD_eq_getElem?_getD, List.getD_eq_getElem?_getD, List.getElem?_map]
    cases p.threads[l]? <;> rfl
  exact h

/-- Where no thread is held, meeting holds change no thread (R146). -/
theorem Pack.settleMeets_noneHeld {p : Pack} (now : Nat) (bound : Option Nat) (h : ∀ t, t ∈ p.threads → t.held = false) :
    p.settleMeets now bound = { p with meets := (p.settleMeets now bound).meets } := by
  have hf : p.threads.filter (·.held) = [] := List.filter_eq_nil_iff.2 fun t ht => by rw [h t ht]; exact Bool.false_ne_true
  have : p.heldAddrs = [] := by rw [Pack.heldAddrs, hf]; rfl
  rw [Pack.settleMeets, this]
  rfl

/-- After a trap nothing is held and no window is open: what follows an instruction changes meeting records alone. -/
theorem State.settle_noneHeld (s : State) {t : State} (hw : t.pk.windows = []) (h : ∀ u, u ∈ t.pk.threads → u.held = false) :
    s.settle t = { t with pk := { t.pk with meets := (s.settle t).pk.meets } } := by
  have ht : t.pk.tickWindows s.pk.windows s.act = t.pk := by simp [Pack.tickWindows, hw]
  have hp : ∀ b : Bool, (if b = true then t.pk.tickWindows s.pk.windows s.act else t.pk) = t.pk := by
    intro b; rw [ht]; exact ite_self _
  unfold State.settle
  split
  · rfl
  · dsimp only
    rw [hp]
    conv_lhs => rw [Pack.settleMeets_noneHeld _ _ h]

theorem Pack.enterTrap_noneHeld (p : Pack) (t : Raise) (region base : DWord) (root : Bool) :
    ∀ u, u ∈ (p.enterTrap t region base root).threads → u.held = false := by
  intro u hu
  obtain ⟨x, _, rfl⟩ := List.mem_map.1 (show u ∈ p.threads.map (fun x => x.enterTrap base t.cls) from hu)
  exact Thread.enterTrap_held _ _ _

/-! The state. -/

/-- Nothing has to finish before a trap of the pack in the latch, and it waits for no queue entry and no handle. -/
structure State.Undisturbed (s : State) : Prop where
  replay : s.pk.replay = []
  late : s.pk.late = []
  stalls : (s.core s.here).stalls = []
  allocs : (s.core s.here).allocs = []

theorem State.Undisturbed.settled {s : State} (h : s.Undisturbed) : s.settleEntries.dropStalls = s := by
  obtain ⟨h1, h2, h3, h4⟩ := h
  have : s.settleEntries = s := by simp [State.settleEntries, h1, h2]
  rw [this, State.dropStalls, h3, h4]
  rfl

/-- A trap below ROOT, with a level to spare, whose region handles it. -/
theorem State.trap_enters {s s' : State} {t : Raise} {region base : DWord} {root : Bool} (h : s.Undisturbed)
    (hp : s.pk.priv ≠ .root) (hl : s.pk.sb.length < 4) (hr : s.trapRegion = (s', some (region, base, root))) :
    s.trap t = { s' with pk := s'.pk.enterTrap t region base root } := by
  have hc : (s.pk.priv == .root || decide (s.pk.sb.length = Config.trapLevels)) = false := by
    have : s.pk.sb.length ≠ Config.trapLevels := by unfold Config.trapLevels; omega
    simp [hp, this]
  unfold State.trap
  rw [h.settled]
  simp only [hc, hr, Bool.false_eq_true, if_false]

/-- A trap with all four levels in use, or at ROOT, halts the partition (R187). -/
theorem State.trap_halts {s : State} {t : Raise} (h : s.Undisturbed) (hl : s.pk.priv = .root ∨ s.pk.sb.length = 4) :
    s.trap t = s.haltPartition t.cls := by
  have hc : (s.pk.priv == .root || decide (s.pk.sb.length = Config.trapLevels)) = true := by
    unfold Config.trapLevels
    rcases hl with hl | hl <;> simp [hl]
  unfold State.trap
  rw [h.settled]
  simp only [hc, if_true]

/-- The region of a trap at the first level is the group's own (R187). -/
theorem State.trapRegion_first {s : State} {g : Group} (h : s.pk.sb = []) (hg : s.group s.pk.group = some g) :
    s.trapRegion = (s, some (g.rcb, s.pk.trapbase, g.root)) := by
  simp [State.trapRegion, State.myGroup, h, hg]

theorem State.readRcb_frame (s : State) (core part va : Nat) : s.ReadFrame (s.readRcb core part va).1 := by
  have h := s.readVA_frame core part .root va 256
  unfold State.readRcb
  split
  · exact .refl s
  · dsimp only
    split <;> exact h

/-- The region of a trap at a further level is the parent of the last level's, at its own TRAPBASE (R187). -/
theorem State.trapRegion_parent {s s1 s2 : State} {lv : Level} {r h : Rcb} (hl : s.pk.sb.getLast? = some lv)
    (h1 : s.readRcb s.here s.pk.part (lv.word64 176).toNat = (s1, some r))
    (h2 : s1.readRcb s.here s.pk.part r.parent = (s2, some h)) (hi : h.parent = 0 ∨ bitOf h.inherit 6 = false) :
    s.trapRegion = (s2, some (BitVec.ofNat 64 r.parent, BitVec.ofNat 64 h.trapbase, decide (h.parent = 0))) := by
  have hf := s.readRcb_frame s.here s.pk.part (lv.word64 176).toNat
  rw [h1] at hf
  have hsite : s1.site = s.site := hf.site
  have hpk : s1.pk = s.pk := hf.pk
  have hhere : s1.here = s.here := by simp only [State.here, hsite]
  have hb : State.baseOf 64 s2 h = (s2, some h.trapbase) := by
    rw [State.baseOf, if_neg]
    rcases hi with hi | hi <;> simp [hi]
  simp only [State.trapRegion, hl, h1, hhere, hpk, h2, hb, Option.map_some]

/-! Halting a partition. -/

/-- A notification changes the ring, the MP's store and the stamps (R167). -/
theorem State.notify_outside (s : State) (code part : Nat) (detail : List Byte) :
    s.notify code part detail = { s with
      stamps := (s.notify code part detail).stamps
      mp := { s.mp with
        nseq := (s.notify code part detail).mp.nseq, ring := (s.notify code part detail).mp.ring
        nhead := (s.notify code part detail).mp.nhead, msix := (s.notify code part detail).mp.msix
        nstore := (s.notify code part detail).mp.nstore, nlost := (s.notify code part detail).mp.nlost } } := by
  unfold State.notify
  dsimp only
  split
  · rw [Mp.append_outside]; rfl
  · split <;> rfl

/-- Halting a partition sets its mark, counts an event and notifies the host (R187). -/
theorem State.haltPartition_outside (s : State) (c : TrapClass) :
    s.haltPartition c = { s with
      parts := (s.haltPartition c).parts, mp := (s.haltPartition c).mp, stamps := (s.haltPartition c).stamps } := by
  unfold State.haltPartition
  dsimp only
  rw [State.notify_outside]
  rfl

theorem State.haltPartition_halted (s : State) (c : TrapClass) : ((s.haltPartition c).part s.pk.part).halted = true := by
  unfold State.haltPartition
  dsimp only
  rw [State.notify_outside]
  simp [State.part, State.logEvent, State.stamp, State.modPart, tabGet, tabFind_tabPut]

end Sys2Proof.Machine

namespace Sys2Proof.Claims
open Sys2Proof.Machine

/-- Trap entry leaves what R187 and R188 say. -/
theorem entered_enterTrap (p : Pack) (t : Raise) (region base : DWord) (root : Bool) (hr : p.replay = []) :
    Entered region base root t.cls t.lanes t.pc.toNat t.addr t.detail p (p.enterTrap t region base root) := by
  refine ⟨⟨p.trapLevel t region, rfl, by simp [Pack.trapLevel, tidyEntries, hr], p.trapLevel_head t region (by omega),
    p.trapLevel_head t region (by omega), ?_, ?_, p.trapLevel_head t region (by omega), fun k => p.trapLevel_saved t region,
    fun l hl => ⟨p.trapLevel_pc t region hl, p.trapLevel_meet t region hl, p.trapLevel_jmask t region hl⟩,
    p.trapLevel_region t region⟩, rfl, rfl, fun r => ?_, fun l _ => ?_, rfl⟩
  · rw [Level.word64, p.trapLevel_head t region (by omega), p.trapLevel_head t region (by omega)]
    refine (pair_loWord_hiWord _).trans (BitVec.eq_of_toNat_eq ?_)
    simp
  · rw [Level.word64, p.trapLevel_head t region (by omega), p.trapLevel_head t region (by omega)]
    exact pair_loWord_hiWord _
  · simp only [Pack.enterTrap, Pack.sreg_setS, eq_comm (a := r)]
    by_cases h : 57 = r
    · subst h; rfl
    · rw [if_neg h, if_neg h]; rfl
  · rw [Pack.enterTrap_thread]
    rfl

/-- Meeting records are free in what a trap leaves. -/
theorem Entered.withMeets {region base : DWord} {root : Bool} {c : TrapClass} {lanes : LaneMask} {pc addr detail : Nat} {p q : Pack}
    (h : Entered region base root c lanes pc addr detail p q) (m : List Meeting) :
    Entered region base root c lanes pc addr detail p { q with meets := m } := by
  obtain ⟨hlv, hpriv, hwait, hs, ht, hq⟩ := h
  exact ⟨hlv, hpriv, hwait, hs, ht, by rw [hq]⟩

/-- Halting a partition is logged in class 15 with the class of the trap (R185, R187). -/
theorem haltPartition_logged (s : State) (c : TrapClass) :
    Logged s (s.haltPartition c) 15 s.here (s.pk.part + 1) 0 c.index := by
  obtain ⟨hcount, hentry⟩ :=
    logEvent_logged (s.modPart s.pk.part fun x => { x with halted := true }) 15 s.here (s.pk.part + 1) 0 c.index
  unfold State.haltPartition
  dsimp only
  rw [State.notify_outside]
  exact ⟨hcount, hentry⟩

end Sys2Proof.Claims
end

section
/-! Breakpoints (spec/11_lane_instructions.md R248). -/
namespace Sys2Proof.Claims
open Sys2Proof.Machine

/-- The pack when a brk raises its trap: its active threads stand at the brk, the other issuing threads after it. -/
def atBreak (gd : Guard) (s : State) : State :=
  { s with pk := s.pk.onLanes (s.act &&& ~~~(activeOf s gd)) fun _ u => { u with pc := u.pc + 8 } }

theorem exec_brk {gd : Guard} {code : BitVec 16} {s : State} (h : Ready (.brk gd code) s) (ha : activeOf s gd ≠ 0) :
    exec (.brk gd code) s = .next (s.settle ((atBreak gd s).trap ⟨.brk, activeOf s gd, 0, code.toNat, s.ipc⟩)) := by
  refine (issue_ready h _).trans ?_
  dsimp only
  rw [show s.active (·.guarded gd) = activeOf s gd from rfl, if_neg ha]
  rfl

/-- What a brk leaves when its trap is delivered. -/
theorem brk_enters {gd : Guard} {code : BitVec 16} {s s' : State} {region base : DWord} {root : Bool}
    (h : Ready (.brk gd code) s) (ha : activeOf s gd ≠ 0) (hu : (atBreak gd s).Undisturbed) (hp : s.pk.priv ≠ .root)
    (hl : s.pk.sb.length < 4) (hr : (atBreak gd s).trapRegion = (s', some (region, base, root)))
    (hpk : s'.pk = (atBreak gd s).pk) :
    ∃ t, exec (.brk gd code) s = .next t ∧ t = { s' with pk := t.pk } ∧
      Entered region base root .brk (activeOf s gd) s.ipc.toNat 0 code.toNat (atBreak gd s).pk t.pk := by
  refine ⟨_, exec_brk h ha, ?_⟩
  rw [State.trap_enters hu hp hl hr, hpk, State.settle_noneHeld s rfl (Pack.enterTrap_noneHeld _ _ _ _ _)]
  exact ⟨rfl, (entered_enterTrap _ ⟨.brk, activeOf s gd, 0, code.toNat, s.ipc⟩ _ _ _ hu.replay).withMeets _⟩

/-- Settles O7: a brk raises BREAK at the pack its active threads leave, and the trap goes to the group's region, to the parent of the
last level's region, or halts the partition. -/
theorem breakpoint : Obligations.Breakpoint := by
  refine ⟨fun gd code s g h hm ha => ?_, fun gd code s s1 s2 lv r hb h hs ha hp hlv hl h1 h2 hi => ?_, fun gd code s h hs ha hl => ?_⟩
  · obtain ⟨hlow, hfirst, hgroup, hreplay, hlate, hstalls, hallocs⟩ := hm
    obtain ⟨t, hexec, ht, he⟩ := brk_enters h ha ⟨hreplay, hlate, hstalls, hallocs⟩ hlow (by rw [hfirst]; exact Nat.zero_lt_succ _)
      (State.trapRegion_first (s := atBreak gd s) hfirst hgroup) rfl
    exact ⟨t, hexec, he, by rw [ht]; rfl⟩
  · obtain ⟨hreplay, hlate, hstalls, hallocs⟩ := hs
    have hpk : s2.pk = (atBreak gd s).pk := by
      have f1 := State.readRcb_frame (atBreak gd s) s.here s.pk.part (lv.word64 176).toNat
      have f2 := s1.readRcb_frame s.here s.pk.part r.parent
      rw [show State.readRcb (atBreak gd s) s.here s.pk.part (lv.word64 176).toNat = (s1, some r) from h1] at f1
      rw [h2] at f2
      exact f2.pk.trans f1.pk
    obtain ⟨t, hexec, ht, he⟩ := brk_enters h ha ⟨hreplay, hlate, hstalls, hallocs⟩ hp hl
      (State.trapRegion_parent (s := atBreak gd s) hlv h1 h2 hi) hpk
    exact ⟨t, hexec, ht, he⟩
  · obtain ⟨hreplay, hlate, hstalls, hallocs⟩ := hs
    refine ⟨_, exec_brk h ha, ?_⟩
    rw [State.trap_halts (s := atBreak gd s) ⟨hreplay, hlate, hstalls, hallocs⟩ (.inr hl)]
    refine ⟨?_, ?_, ?_⟩
    · have := State.haltPartition_halted (atBreak gd s) .brk
      rwa [State.part, ← State.settle_parts s] at this
    · rw [State.settle_sb, State.haltPartition_outside]; rfl
    · rw [State.settle_mp]
      exact (haltPartition_logged (atBreak gd s) .brk).count 15

end Sys2Proof.Claims
end

section
/-! The checks at issue (spec/10_encoding.md R205-R211) and what their traps do. -/
namespace Sys2Proof.Machine

/-- Only the core's waits differ when a pack no longer waits. -/
theorem State.dropStalls_outside (s : State) : s.dropStalls = { s with cores := s.dropStalls.cores } := by
  unfold State.dropStalls
  split <;> rfl

/-- The checks of R211, each made only where those before it pass. -/
theorem State.check_illegal {s : State} {i : Instr} (h : ¬(i.wf = true ∧ privAllows i s.pk.priv s.pk.sb.length = true)) :
    s.check i = .trap .illegal s.act := by
  have : (!i.wf || !privAllows i s.pk.priv s.pk.sb.length) = true := by
    cases hw : i.wf <;> simp_all
  rw [State.check, if_pos this]

section
variable {s : State} {i : Instr} (hw : i.wf = true) (hp : privAllows i s.pk.priv s.pk.sb.length = true)
include hw hp

theorem State.check_role (hr : roleAllows i s.pk.role = false) : s.check i = .trap .role s.act := by
  simp [State.check, hw, hp, hr]

theorem State.check_operand (hr : roleAllows i s.pk.role = true) (ho : s.operandBad i = true) :
    s.check i = .trap .operand s.act := by
  simp [State.check, hw, hp, hr, ho]

theorem State.check_lookahead (hr : roleAllows i s.pk.role = true) (ho : s.operandBad i = false) (hl : s.lookaheadLanes i ≠ 0) :
    s.check i = .trap .lookahead (s.lookaheadLanes i) := by
  simp only [State.check, hw, hp, hr, ho, Bool.not_true, Bool.or_self, Bool.false_eq_true, if_false, if_pos hl]

theorem State.check_wait (hr : roleAllows i s.pk.role = true) (ho : s.operandBad i = false) (hl : s.lookaheadLanes i = 0)
    (hm : s.mustWait i = true) : s.check i = .wait := by
  simp [State.check, hw, hp, hr, ho, hl, hm]

end

/-- A check that makes the instruction wait leaves the state as it is. -/
theorem issue_wait {i : Instr} {s : State} (body : State → State) (h : s.site.isSome = true) (hc : s.check i = .wait) :
    issue i body s = .next s := by
  unfold issue
  cases hs : s.site with
  | none => simp [hs] at h
  | some x => simp only [hc]

end Sys2Proof.Machine

namespace Sys2Proof.Claims
open Sys2Proof.Machine

/-- A trap of a pack that may trap enters its group's region, and nothing outside the pack differs. -/
theorem MayTrap.trapped {s : State} {g : Group} (h : MayTrap s g) (t : Raise) :
    Trapped s.pk g t.cls t.lanes t.pc.toNat t.addr t.detail s (s.trap t) := by
  obtain ⟨hlow, hfirst, hgroup, hreplay, hlate, hstalls, hallocs⟩ := h
  have hl : s.pk.sb.length < 4 := by rw [hfirst]; exact Nat.zero_lt_succ _
  rw [State.trap_enters ⟨hreplay, hlate, hstalls, hallocs⟩ hlow hl (State.trapRegion_first hfirst hgroup)]
  exact ⟨entered_enterTrap _ t _ _ _ hreplay, rfl⟩

/-- A check that fails for every issuing thread is a trap with no other effect. -/
theorem exec_checkTrap {i : Instr} {s : State} {g : Group} {c : TrapClass} {m : LaneMask} (he : encode i ≠ [])
    (hs : s.site.isSome = true) (hm : MayTrap s g) (hw : c ≠ .watch) (hc : s.check i = .trap c m) (ha : s.act &&& ~~~m = 0) :
    ∃ t, exec i s = .next t ∧ Trapped s.pk g c m s.ipc.toNat 0 0 s t := by
  obtain ⟨body, hb⟩ := exec_issue i he
  have haddr : s.checkAddr i c m = 0 := by simp [State.checkAddr, hw]
  refine ⟨_, (hb s).trans ((issue_trap body hs hc ha).trans (by rw [haddr])), ?_⟩
  exact hm.trapped ⟨c, m, 0, 0, s.ipc⟩

theorem act_andNot_self (m : LaneMask) : m &&& ~~~m = 0 := BitVec.and_not_self ..

/-- A trap at ROOT with nothing in flight halts the partition (R187). -/
theorem trap_atRoot {s : State} {t : Raise} (hp : s.pk.priv = .root) (hr : s.pk.replay = []) (hl : s.pk.late = []) :
    s.trap t = s.dropStalls.haltPartition t.cls := by
  have hs : s.settleEntries = s := by simp [State.settleEntries, hr, hl]
  have hc : s.dropStalls.pk.priv = .root := by rw [State.dropStalls_outside]; exact hp
  simp [State.trap, hs, hc]

end Sys2Proof.Claims
end

section
/-! The checks at issue in their order, and words that are no instruction (spec/10_encoding.md R202, R205-R211). -/
namespace Sys2Proof.Claims
open Sys2Proof.Machine

/-- The checks of R211, one after another, for an instruction of a pack that may trap. -/
theorem checks_inOrder {i : Instr} {s : State} {g : Group} (he : encode i ≠ []) (hs : s.site.isSome = true) (hm : MayTrap s g) :
    let traps := fun (c : TrapClass) (m : LaneMask) => ∃ t, exec i s = .next t ∧ Trapped s.pk g c m s.ipc.toNat 0 0 s t
    let legal := i.wf = true ∧ privAllows i s.pk.priv s.pk.sb.length = true
    let played := legal ∧ roleAllows i s.pk.role = true
    let named := played ∧ s.operandBad i = false
    (¬legal → traps .illegal s.act) ∧
    (legal → roleAllows i s.pk.role = false → traps .role s.act) ∧
    (played → s.operandBad i = true → traps .operand s.act) ∧
    (named → ∀ m, s.lookaheadLanes i = m → m ≠ 0 → s.act &&& ~~~m = 0 → traps .lookahead m) ∧
    (named → s.lookaheadLanes i = 0 → s.mustWait i = true → exec i s = .next s) := by
  have trap := fun {c m} => exec_checkTrap (c := c) (m := m) he hs hm
  refine ⟨fun h => ?_, fun ⟨hw, hp⟩ hr => ?_, fun ⟨⟨hw, hp⟩, hr⟩ ho => ?_, fun ⟨⟨⟨hw, hp⟩, hr⟩, ho⟩ m hl h0 ha => ?_,
    fun ⟨⟨⟨hw, hp⟩, hr⟩, ho⟩ hl hm => ?_⟩
  · exact trap (by decide) (State.check_illegal h) (act_andNot_self _)
  · exact trap (by decide) (State.check_role hw hp hr) (act_andNot_self _)
  · exact trap (by decide) (State.check_operand hw hp hr ho) (act_andNot_self _)
  · subst hl
    exact trap (by decide) (State.check_lookahead hw hp hr ho h0) ha
  · obtain ⟨body, hb⟩ := exec_issue i he
    exact (hb s).trans (issue_wait body hs (State.check_wait hw hp hr ho hl hm))

/-- A v register beyond the allotment is a bad operand (R32, R208). -/
theorem operandBad_beyondAllotment {d : VReg} (a : Src) {s : State} (h : s.pk.allot ≤ d.toNat) : s.operandBad (.movB32 d a) = true := by
  have hu : s.uses (.movB32 d a) = laInt d a [] false := rfl
  have hd : one d.toNat ∈ (laInt d a [] false).vw := by simp [laInt, Uses.and]
  have hb : spanBad s.pk.allot (one d.toNat) = true := by simp [spanBad, one, Nat.lt_succ_of_le h]
  have : ((laInt d a [] false).vr ++ (laInt d a [] false).vw).any (spanBad s.pk.allot) = true :=
    List.any_eq_true.2 ⟨_, List.mem_append_right _ hd, hb⟩
  simp only [State.operandBad, hu, this, Bool.or_true, Bool.true_or]

/-- Words that are no instruction trap at their turn to issue (R202, R320). -/
theorem begin_noInstruction {s : State} {c sl : Nat} {m : LaneMask} {pc : BitVec 52} {q : State} {w0 w1 : Word}
    (hf : State.fetchInstr { s with act := m, ipc := pc, pk := { s.pk with wait := .none } } c sl { s.pk with wait := .none }
      (!s.env.defer || s.pk.filled) pc = (q, .words w0 w1))
    (hd : match decode w0 w1 with | .ok _ => False | .error _ => True) :
    s.begin c sl m pc = (State.raise { q with pk := { q.pk with filled := false } } .illegal m 0 0, .stop) := by
  cases hx : decode w0 w1 with
  | ok i => rw [hx] at hd; exact hd.elim
  | error e =>
    unfold State.begin
    dsimp only
    rw [hf]
    simp only [hx]

/-- A reserved form at ROOT halts the partition, whose packs then issue no more (R187). -/
theorem halt_atRoot {i : Instr} {s : State} (he : encode i ≠ []) (hs : s.site.isSome = true) (hp : s.pk.priv = .root)
    (hr : s.pk.replay = []) (hl : s.pk.late = []) (hw : i.wf = false) :
    ∃ t, exec i s = .next t ∧ (t.part s.pk.part).halted = true ∧ Logged s t 15 s.here (s.pk.part + 1) 0 0 ∧
      t.pk = s.pk ∧ ∀ p, p.part = s.pk.part → t.mayIssue p = false := by
  obtain ⟨body, hb⟩ := exec_issue i he
  have hc : s.check i = .trap .illegal s.act := State.check_illegal (by simp [hw])
  refine ⟨_, (hb s).trans (issue_trap body hs hc (act_andNot_self _)), ?_⟩
  rw [State.raise, trap_atRoot hp hr hl]
  have hhalt : ((s.dropStalls.haltPartition .illegal).part s.pk.part).halted = true := by
    have := s.dropStalls.haltPartition_halted .illegal
    rwa [show s.dropStalls.pk = s.pk by rw [State.dropStalls_outside]] at this
  refine ⟨hhalt, ?_, ?_, fun p hpart => ?_⟩
  · have := haltPartition_logged s.dropStalls .illegal
    rw [State.dropStalls_outside] at this ⊢
    exact ⟨this.count, this.entry⟩
  · rw [State.haltPartition_outside, State.dropStalls_outside]
  · simp [State.mayIssue, hpart, hhalt]

/-- Settles O59: each check of R211 is made where those before it pass, and is a trap with no other effect; the examples are cases of
the privilege and role tables. -/
theorem checksInOrder : Obligations.ChecksInOrder := by
  refine ⟨fun i s g he hs hm => checks_inOrder he hs hm, fun s hp => ?_, fun s h => ?_, fun r => ?_,
    fun d a s h => operandBad_beyondAllotment a h, fun s c sl m pc q w0 w1 g hf hd hm => ?_,
    fun i s he hs hp hr hl hw => halt_atRoot he hs hp hr hl hw⟩
  · have hroot : (s.pk.priv == .root) = false := by simp [hp]
    exact ⟨fun a => hroot, fun d a b => ⟨hroot, hroot⟩⟩
  · change (s.pk.priv != .user && s.pk.sb.length != 0) = false
    rcases h with h | h <;> simp [h]
  · cases r <;> decide
  · exact ⟨_, begin_noInstruction hf hd, hm.trapped ⟨.illegal, m, 0, 0, q.ipc⟩⟩

end Sys2Proof.Claims
end

section
/-! SUPPORT. Accesses of the device to memory (spec/04_memories.md R85-R97, spec/08_tables.md R153-R160): the primitive steps that
reads, writes and translations are made of, and what all of them leave alone besides: the packs in their slots, the MP's registers
outside its error log, and the replicas that lag. -/
namespace Sys2Proof.Machine

/-- State `t` comes from `s` by primitive steps of accesses: reads at a home slice, events logged, entries of the translation caches,
time stamps, and, where `w` is set, writes at a home slice. -/
inductive State.Access (w : Bool) : State → State → Prop
  | refl (s : State) : Access w s s
  | trans {s t u : State} : Access w s t → Access w t u → Access w s u
  | log (s : State) (cls src part addr detail : Nat) : Access w s (s.logEvent cls src part addr detail)
  | read (s : State) (mirror : Bool) (a n : Nat) : Access w s (s.sliceRead mirror a n).2.2
  | walks (s : State) (cl : List (Nat × Trans)) (u1 u2 : List (Nat × WalkEntry)) :
    Access w s { s with clusterTlb := cl, s1u := u1, s2u := u2 }
  | tlb (s : State) (c : Nat) (f : List Trans → List Trans) : Access w s (s.modCore c fun k => { k with tlb := f k.tlb })
  | stamped (s : State) (src : Nat) : Access w s (s.stamp src).2
  | write (s : State) (elide wide : Bool) (bs : Tab Byte) : w = true → Access w s (s.homeWrite elide wide bs)

open State (Access)

section
variable {w : Bool}

theorem State.Access.foldl {α : Type} {f : State → α → State} (h : ∀ (s : State) x, Access w s (f s x)) (l : List α) :
    ∀ s : State, Access w s (l.foldl f s) := by
  induction l with
  | nil => exact .refl
  | cons x l ih => exact fun s => (h s x).trans (ih _)

theorem State.homeLoad_access (s : State) (core pa attr n : Nat) : Access w s (s.homeLoad core pa attr n).2.2 := by
  unfold State.homeLoad
  dsimp only
  split <;> exact .read s _ _ _

theorem State.readEntry_access (s : State) (hpa mbz : Nat) : Access w s (s.readEntry hpa mbz).1 := by
  unfold State.readEntry
  dsimp only
  split_ifs <;> exact .read s false hpa 8

theorem State.leafTable2_access (s : State) (die part gpa : Nat) : Access w s (s.leafTable2 die part gpa).1 := by
  unfold State.leafTable2
  dsimp only
  split
  · exact .refl s
  · split
    · exact s.readEntry_access _ _
    · have h := fun a b c d => (s.readEntry_access (w := w) a b).trans (State.readEntry_access _ c d)
      split
      · exact h _ _ _ _
      · exact (h _ _ _ _).trans (.walks _ _ _ _)

theorem State.leaf2_access (s : State) (die part gpa : Nat) : Access w s (s.leaf2 die part gpa).1 := by
  have h := s.leafTable2_access (w := w) die part gpa
  unfold State.leaf2
  dsimp only
  split
  · exact h
  · split
    · exact h.trans (State.readEntry_access _ _ _)
    · split <;> exact h.trans (State.readEntry_access _ _ _)

theorem State.tableAddr_access (s : State) (die part gpa : Nat) : Access w s (s.tableAddr die part gpa).1 := by
  unfold State.tableAddr
  dsimp only
  split <;> exact s.leaf2_access die part gpa

theorem State.leafTable1_access (s : State) (die part va : Nat) : Access w s (s.leafTable1 die part va).1 := by
  unfold State.leafTable1
  dsimp only
  split
  · exact .refl s
  · have h1 := s.tableAddr_access (w := w) die part ((s.part part).map.s1root.toNat + 8 * bits va 51 42)
    split
    · exact h1
    · rename_i root _
      have h2 := h1.trans (State.readEntry_access _ root mbzTable1)
      split
      · exact h2
      · rename_i e1 _
        have h3 := h2.trans (State.tableAddr_access _ die part (bits e1 47 16 * 65536 + 8 * bits va 41 29))
        split
        · exact h3
        · rename_i mid _
          have h4 := h3.trans (State.readEntry_access _ mid mbzTable1)
          split
          · exact h4
          · rename_i e2 _
            have h5 := h4.trans (State.tableAddr_access _ die part (bits e2 47 16 * 65536))
            split
            · exact h5
            · exact h5.trans (.walks _ _ _ _)

theorem State.walk_access (s : State) (die part va : Nat) : Access w s (s.walk die part va).1 := by
  have h := s.leafTable1_access (w := w) die part va
  unfold State.walk
  dsimp only
  split
  · exact h
  · have k := fun a b => h.trans (State.readEntry_access (w := w) _ a b)
    split
    · exact k _ _
    · split <;> exact (k _ _).trans (State.leaf2_access _ _ _ _)

/-! Translations: one for a use that sets ELIDE may write the leaf. -/

theorem State.logXlat_access (s : State) (core part : Nat) (x : XFault) : Access w s (s.logXlat core part x) := by
  cases x with
  | bad a => exact .log s _ _ _ _ _
  | page b a => exact .refl s
  | ecc => exact .refl s

theorem State.askElide_access (s : State) (use : PageUse) (t : Trans) (hw : use.elides = true → w = true) :
    Access w s (s.askElide use t).1 := by
  unfold State.askElide
  dsimp only
  split
  · rename_i h
    simp only [Bool.and_eq_true] at h
    dsimp only
    exact .write s _ _ _ (hw h.1.1)
  · exact .refl s

theorem State.fillTrans_access (s : State) (core : Nat) (t : Trans) : Access w s (s.fillTrans core t) :=
  (Access.tlb s core fun l => cap 64 (t :: l)).trans (.walks _ _ _ _)

theorem State.dropTrans_access (s : State) (core part vpn : Nat) : Access w s (s.dropTrans core part vpn) :=
  (Access.tlb s core fun l => l.filter fun t => !t.hits part vpn).trans (.walks _ _ _ _)

theorem State.walkFor_access (s : State) (core part : Nat) (priv : Priv) (acc : Acc) (use : PageUse) (va : Nat)
    (hw : use.elides = true → w = true) : Access w s (s.walkFor core part priv acc use va).1 := by
  have h := s.walk_access (w := w) (dieOf core) part va
  unfold State.walkFor
  dsimp only
  split
  · exact h.trans (State.logXlat_access _ _ _ _)
  · split
    · exact h.trans (State.logXlat_access _ _ _ _)
    · exact (h.trans (State.askElide_access _ _ _ hw)).trans (State.fillTrans_access _ _ _)

theorem State.translate_access (s : State) (core part : Nat) (priv : Priv) (acc : Acc) (use : PageUse) (va : Nat)
    (hw : use.elides = true → w = true) : Access w s (s.translate core part priv acc use va).1 := by
  -- A cached translation is used, refused and logged, or dropped for a new walk.
  have cached : ∀ (u : State) (t : Trans), Access w u (if t.misused use then
      (u.logXlat core part (.bad t.leaf), Except.error (.bad t.leaf))
      else if t.allows acc priv then (u, .ok t)
      else (u.dropTrans core part (va / 65536)).walkFor core part priv acc use va).1 := by
    intro u t
    split
    · exact u.logXlat_access core part (.bad t.leaf)
    · split
      · exact .refl u
      · exact (u.dropTrans_access _ _ _).trans (State.walkFor_access _ _ _ _ _ _ _ hw)
  unfold State.translate
  dsimp only
  split
  · exact cached s _
  · split
    · exact (Access.tlb s core fun l => cap 64 (_ :: l)).trans (cached _ _)
    · exact s.walkFor_access _ _ _ _ _ _ hw

/-! Reads at virtual addresses. -/

theorem State.readBlock_access (s : State) (core part : Nat) (priv : Priv) (va n : Nat) :
    Access w s (s.readBlock core part priv va n).1 := by
  have h := s.translate_access (w := w) core part priv .load .flat va nofun
  unfold State.readBlock
  dsimp only
  split
  · exact .refl s
  · split
    · exact h
    · split
      · exact h
      · exact h.trans (State.homeLoad_access _ _ _ _ _)

theorem State.readPieces_access (core part : Nat) (priv : Priv) (l : List (Nat × Nat)) :
    ∀ s : State, Access w s (s.readPieces core part priv l).1 := by
  induction l with
  | nil => exact .refl
  | cons e l ih =>
    intro s
    have h := s.readBlock_access (w := w) core part priv e.1 e.2
    unfold State.readPieces
    dsimp only
    split
    · exact h
    · split <;> exact h.trans (ih _)

theorem State.readVA_access (s : State) (core part : Nat) (priv : Priv) (va n : Nat) :
    Access w s (s.readVA core part priv va n).1 :=
  State.readPieces_access core part priv _ s

theorem State.readRcb_access (s : State) (core part va : Nat) : Access w s (s.readRcb core part va).1 := by
  unfold State.readRcb
  split
  · exact .refl s
  · dsimp only
    split <;> exact s.readVA_access _ _ _ _ _

theorem State.rcbField_access (s : State) (core part va off n : Nat) : Access w s (s.rcbField core part va off n).1 := by
  unfold State.rcbField
  dsimp only
  split <;> exact s.readVA_access _ _ _ _ _

theorem State.schedRead_access (s : State) (part va n : Nat) : Access w s (s.schedRead part va n).1 := by
  unfold State.schedRead
  dsimp only
  split <;> exact s.readVA_access _ _ _ _ _

end

/-! Writes at virtual addresses, and what the device writes into an RCB. -/

theorem State.writeVA_access (s : State) (core part : Nat) (priv : Priv) (va : Nat) (bs : List Byte) :
    Access true s (s.writeVA core part priv va bs) :=
  Access.foldl (fun s p => by
    have h := s.translate_access (w := true) core part priv .store .flat p.1 nofun
    dsimp only
    split
    · exact h
    · exact h.trans (.write _ _ _ _ rfl)) _ s

theorem State.setRcbField_access (s : State) (core part va off n x : Nat) :
    Access true s (s.setRcbField core part va off n x) := s.writeVA_access _ _ _ _ _

theorem State.appendRing_access (s : State) (core part va headOff base lg : Nat) (e : List Byte) :
    Access true s (s.appendRing core part va headOff base lg e) := by
  have h := s.rcbField_access (w := true) core part va headOff 8
  unfold State.appendRing
  dsimp only
  split
  · exact h.trans (State.setRcbField_access _ _ _ _ _ _ _)
  · exact (h.trans (State.writeVA_access _ _ _ _ _ _)).trans (State.setRcbField_access _ _ _ _ _ _ _)

theorem State.regionLog_access (s : State) (core part va src kind slot cls addr bar : Nat) :
    Access true s (s.regionLog core part va src kind slot cls addr bar) := by
  have h := s.readRcb_access (w := true) core part va
  unfold State.regionLog
  dsimp only
  split
  · exact h
  · exact (h.trans (.stamped _ _)).trans (State.appendRing_access _ _ _ _ _ _ _ _)

theorem State.noteClamp_access (s : State) (part va clamp : Nat) : Access true s (s.noteClamp part va clamp) := by
  have h := s.rcbField_access (w := true) agentMp part va 128 4
  unfold State.noteClamp
  dsimp only
  split
  · exact .refl s
  · split
    · exact h
    · exact (h.trans (State.setRcbField_access _ _ _ _ _ _ _)).trans (State.regionLog_access _ _ _ _ _ _ _ _ _ _)

theorem State.effective_access (n : Nat) : ∀ (s : State) (part va : Nat), Access true s (State.effective n s part va).1 := by
  induction n with
  | zero => exact fun s _ _ => .refl s
  | succ n ih =>
    intro s part va
    have h := s.readRcb_access (w := true) agentMp part va
    unfold State.effective
    dsimp only
    split
    · exact h
    · split
      · exact h
      · split
        · exact h.trans (ih _ _ _)
        · exact (h.trans (ih _ _ _)).trans (State.noteClamp_access _ _ _ _)

/-! What every access leaves alone. -/

/-- What an access leaves as it was, besides what every read does: the packs, the MP outside its error log, the environment but for
the free values drawn, and the replicas that lag. -/
structure State.AccessFrame (s t : State) : Prop extends s.ReadFrame t where
  core : ∀ c, ∃ l, t.core c = { s.core c with tlb := l }
  mp : t.mp = { s.mp with
    counters := t.mp.counters, log := t.mp.log, logvalid := t.mp.logvalid, last := t.mp.last, lastseq := t.mp.lastseq }
  env : t.env = { s.env with free := t.env.free }
  lag : t.home.replicaLag = s.home.replicaLag

namespace State.AccessFrame

theorem refl (s : State) : s.AccessFrame s := ⟨.refl s, fun _ => ⟨_, rfl⟩, rfl, rfl, rfl⟩

/-- An update of memory, of the home slices but for the replicas that lag, and of the caches of the walks. -/
theorem update (s : State) (stamps : Tab Nat) (free : Nat) (mem : List Host.Cell) (home : Home) (cl : List (Nat × Trans))
    (u1 u2 : List (Nat × WalkEntry)) (h : home.replicaLag = s.home.replicaLag) :
    s.AccessFrame { s with
      stamps := stamps, env := { s.env with free := free }, mem := mem, home := home, clusterTlb := cl, s1u := u1, s2u := u2 } :=
  ⟨.update s _ _ _ _ _ _ _ _ _, fun _ => ⟨_, rfl⟩, rfl, rfl, h⟩

theorem trans {s t u : State} (h : s.AccessFrame t) (k : t.AccessFrame u) : s.AccessFrame u := by
  refine ⟨h.toReadFrame.trans k.toReadFrame, fun c => ?_, ?_, ?_, k.lag.trans h.lag⟩
  · obtain ⟨l, hl⟩ := h.core c
    obtain ⟨m, hm⟩ := k.core c
    exact ⟨m, by rw [hm, hl]⟩
  · rw [k.mp, h.mp]
  · rw [k.env, h.env]

theorem foldl {α : Type} {f : State → α → State} (h : ∀ (s : State) x, s.AccessFrame (f s x)) (l : List α) :
    ∀ s : State, s.AccessFrame (l.foldl f s) := by
  induction l with
  | nil => exact refl
  | cons x l ih => exact fun s => (h s x).trans (ih _)

/-- The packs of a core, and so each pack in its slot. -/
theorem packs {s t : State} (h : s.AccessFrame t) (c : Nat) : (t.core c).packs = (s.core c).packs := by
  obtain ⟨l, hl⟩ := h.core c
  rw [hl]

theorem defer {s t : State} (h : s.AccessFrame t) : t.env.defer = s.env.defer := by rw [h.env]

end State.AccessFrame

open State (AccessFrame)

theorem Mp.place_log (m : Mp) (now : Nat) (e : LogEntry) : m.place now e = { m with
    counters := (m.place now e).counters, log := (m.place now e).log, logvalid := (m.place now e).logvalid
    last := (m.place now e).last, lastseq := (m.place now e).lastseq } := by
  unfold Mp.place Mp.putLast
  dsimp only
  split
  · rfl
  · split <;> rfl

theorem State.logEvent_accessFrame (s : State) (cls src part addr detail : Nat) :
    s.AccessFrame (s.logEvent cls src part addr detail) :=
  ⟨s.logEvent_frame _ _ _ _ _, fun _ => ⟨_, rfl⟩,
    Mp.place_log { s.mp with counters := tabPut s.mp.counters cls (tabGet 0 s.mp.counters cls + 1) } s.time _, rfl, rfl⟩

/-- An error with a fresh syndrome, logged. -/
theorem State.logSyndrome_accessFrame (s : State) (cls src part addr : Nat) :
    s.AccessFrame (s.syndrome.2.logEvent cls src part addr s.syndrome.1) :=
  (AccessFrame.update s s.stamps _ s.mem s.home s.clusterTlb s.s1u s.s2u rfl).trans (State.logEvent_accessFrame _ _ _ _ _ _)

theorem State.materialise_accessFrame (s : State) (a : Nat) : s.AccessFrame (s.materialise a) := by
  unfold State.materialise
  dsimp only
  split
  · split
    · exact .refl s
    · exact .update s _ _ _ _ _ _ _ rfl
  · exact .refl s

theorem State.readMap_accessFrame (s : State) (a : Nat) : s.AccessFrame (s.readMap a) := by
  unfold State.readMap
  dsimp only
  split
  · exact .refl s
  · refine (AccessFrame.foldl (fun s w => ?_) _ s).trans (.update _ _ _ _ _ _ _ _ rfl)
    split
    · exact s.logSyndrome_accessFrame _ _ _ _
    · exact .refl s

theorem State.logReadAt_accessFrame (s : State) (src a n : Nat) : s.AccessFrame (s.logReadAt src a n) := by
  have units := AccessFrame.foldl (f := fun t u => if t.home.soft.contains u then
      t.syndrome.2.logEvent 0 src (s.groupOwner (groupOf (s.sel a))) (u * 32) t.syndrome.1 else t)
    (fun t u => by
      split
      · exact t.logSyndrome_accessFrame _ _ _ _
      · exact .refl t) (units32 a n) s
  unfold State.logReadAt
  dsimp only
  split
  · exact units.trans (State.logSyndrome_accessFrame _ _ _ _ _)
  · exact units

theorem State.allocLine_accessFrame (s : State) (mirror : Bool) (a : Nat) : s.AccessFrame (s.allocLine mirror a) := by
  unfold State.allocLine
  dsimp only
  split
  · exact .refl s
  · exact .update s _ _ _ _ _ _ _ rfl

theorem State.sliceRead_accessFrame (s : State) (mirror : Bool) (a n : Nat) : s.AccessFrame (s.sliceRead mirror a n).2.2 := by
  have h := (s.materialise_accessFrame a).trans ((s.materialise a).readMap_accessFrame a)
  unfold State.sliceRead
  dsimp only
  split
  · exact (h.trans (State.logReadAt_accessFrame _ _ _ _)).trans (State.allocLine_accessFrame _ _ _)
  · exact h.trans (State.allocLine_accessFrame _ _ _)

theorem State.unelide_accessFrame (s : State) (a : Nat) : s.AccessFrame (s.unelide a) := by
  unfold State.unelide
  dsimp only
  split
  · exact .refl s
  · split
    · exact .refl s
    · exact .update s _ _ _ _ _ _ _ rfl

theorem State.elideBlock_accessFrame (s : State) (a : Nat) (bs : List Byte) : s.AccessFrame (s.elideBlock a bs) := by
  unfold State.elideBlock
  dsimp only
  split
  · exact .update s _ _ _ _ _ _ _ rfl
  · split
    · exact .update s _ _ _ _ _ _ _ rfl
    · split <;> exact .update s _ _ _ _ _ _ _ rfl

theorem State.retileTouch_accessFrame (s : State) (a : Nat) : s.AccessFrame (s.retileTouch a) := by
  unfold State.retileTouch
  dsimp only
  split
  · exact .refl s
  · exact .update s _ _ _ _ _ _ _ rfl

theorem State.homeWrite_accessFrame (s : State) (elide wide : Bool) (bs : Tab Byte) :
    s.AccessFrame (s.homeWrite elide wide bs) := by
  cases bs with
  | nil => exact .refl s
  | cons e r =>
    have h := (s.materialise_accessFrame e.1).trans ((s.materialise e.1).readMap_accessFrame e.1)
    unfold State.homeWrite
    dsimp only
    refine .trans ?_ ((State.allocLine_accessFrame _ _ _).trans (State.retileTouch_accessFrame _ _))
    refine .trans ?_ (.update _ _ _ _ _ _ _ _ ?_)
    · split
      · exact h.trans (State.elideBlock_accessFrame _ _ _)
      · exact (h.trans (State.unelide_accessFrame _ _)).trans (.update _ _ _ _ _ _ _ _ rfl)
    · split_ifs <;> rfl

/-- An access keeps the frame, whatever it is made of. -/
theorem State.Access.frame {w : Bool} {s t : State} (h : Access w s t) : s.AccessFrame t := by
  induction h with
  | refl s => exact .refl s
  | trans _ _ h k => exact h.trans k
  | log s cls src part addr detail => exact s.logEvent_accessFrame _ _ _ _ _
  | read s mirror a n => exact s.sliceRead_accessFrame _ _ _
  | walks s cl u1 u2 => exact .update s _ _ _ _ _ _ _ rfl
  | tlb s c f =>
    refine ⟨.update s _ _ _ _ _ _ _ _ _, fun k => ?_, rfl, rfl, rfl⟩
    rw [State.core_modCore]
    by_cases h : k = c
    · subst h; rw [if_pos rfl]; exact ⟨_, rfl⟩
    · rw [if_neg h]; exact ⟨_, rfl⟩
  | stamped s src => exact .update s _ _ _ _ _ _ _ rfl
  | write s elide wide bs _ => exact s.homeWrite_accessFrame _ _ _

end Sys2Proof.Machine
end

section
/-! SUPPORT. How a pack instruction ends (R276): the pack goes on or waits, and what settles after it changes neither. -/
namespace Sys2Proof.Claims

open Sys2Proof.Machine

/-- Between two packs that differ in the scoreboard alone, and in s registers as the effect says, every live thread moves on. -/
theorem PackDone.advance {p q : Pack} {e : PackEffect} (n : Nat)
    (h : q = { p with s := q.s, windows := q.windows, pend := q.pend, meets := q.meets })
    (hs : ∀ r, q.sreg r = (e.regs.lookup r).getD (p.sreg r)) (hq : e.q = none) (hg : e.goes = none) :
    PackDone n e p (q.onLanes q.live fun _ t => t.advance n) := by
  have ht : q.threads = p.threads := by rw [h]
  have hl : ∀ l, q.thread l = p.thread l := fun l => by simp only [Pack.thread, ht]
  refine ⟨?_, by rw [Pack.onLanes_threads_length, ht], hs, fun l hl32 => .inl ?_⟩
  · rw [hq]
    exact congrArg (fun x : Pack => { x with threads := (q.onLanes q.live fun _ t => t.advance n).threads }) h
  · rw [hg]
    by_cases hlen : l < q.threads.length
    · rw [Pack.thread_onLanes _ _ _ _ hlen, Pack.hasLane_live, hl]
      cases hx : (p.thread l).exited <;> simp [hl32, Thread.advance]
    · have hx := Pack.thread_out q l (by omega)
      rw [Pack.thread_out _ l (by rw [Pack.onLanes_threads_length]; omega), ← hl, hx]
      rfl

/-- A pack that only moves on. -/
theorem PackDone.next (p : Pack) (n : Nat) : PackDone n {} p (p.onLanes p.live fun _ t => t.advance n) :=
  .advance n rfl (fun _ => rfl) rfl rfl

/-- A pack that writes one s register and moves on. -/
theorem PackDone.setS (p : Pack) (n : Nat) (d : SReg) (x : Word) :
    PackDone n (putS d x) p ((p.setS d.toNat x).onLanes p.live fun _ t => t.advance n) := by
  refine .advance (q := p.setS d.toNat x) n rfl (fun r => ?_) rfl rfl
  rw [Pack.sreg_setS]
  by_cases h : d.toNat = r
  · subst h; simp [putS]
  · rw [if_neg h]
    have : (r == d.toNat) = false := by simpa using Ne.symm h
    simp [putS, List.lookup_cons, this]

/-- A pack that only begins to wait. -/
theorem PackWaits.block (p : Pack) (w : Wait) : PackWaits w p { p with wait := w } := ⟨rfl, rfl, fun _ => .refl _⟩

/-- What settles after the instruction changes the scoreboard alone. -/
theorem PackDone.settled {n : Nat} {e : PackEffect} {p : Pack} {t : State} (h : PackDone n e p t.pk) (s : State) :
    PackDone n e p (s.settle t).pk := by
  obtain ⟨hq, hlen, hs, hth⟩ := h
  refine ⟨?_, (s.settle_threads_length t).trans hlen, fun r => by rw [State.settle_sreg, hs r],
    fun l hl => (hth l hl).trans (s.settle_thread t l)⟩
  rw [(s.settle_holdsOnly t).eq]
  conv_lhs => rw [hq]

theorem PackWaits.settled {w : Wait} {p : Pack} {t : State} (h : PackWaits w p t.pk) (s : State) :
    PackWaits w p (s.settle t).pk := by
  obtain ⟨hq, hlen, hth⟩ := h
  refine ⟨?_, (s.settle_threads_length t).trans hlen, fun l => (hth l).trans (s.settle_thread t l)⟩
  rw [(s.settle_holdsOnly t).eq]
  conv_lhs => rw [hq]

/-- A body that changes the issuing pack alone. -/
theorem OnlyPack.settled {s t : State} (h : OnlyPack s t) (u : State) : OnlyPack s (u.settle t) := by
  refine (State.settle_outside u t).trans ?_
  rw [State.settle_env]
  exact congrArg (fun x : State => { x with pk := (u.settle t).pk }) h

/-- A change of the issuing pack alone, settled. -/
theorem OnlyPack.of_pk (u s : State) (p : Pack) : OnlyPack s (u.settle { s with pk := p }) :=
  OnlyPack.settled (t := { s with pk := p }) rfl u

end Sys2Proof.Claims
end

section
/-! SUPPORT. Acquire and release of an allotment (spec/05_control.md R134, R135, spec/13_pack_instructions.md R284, R285): the one pack
that waits on a unit is the one considered, and is granted where the blocks are free and energy admission allows its group. -/
namespace Sys2Proof.Machine

open State (Access)

theorem tabRising_le {α : Type} {m : Tab α} {lo : Nat} (h : tabRising m lo = true) : ∀ e ∈ m, lo ≤ e.1 := by
  induction m generalizing lo with
  | nil => exact nofun
  | cons e m ih =>
    obtain ⟨j, x⟩ := e
    simp only [tabRising, Bool.and_eq_true, decide_eq_true_eq] at h
    rintro e (_ | ⟨_, he⟩)
    · exact h.1
    · have := ih h.2 e he
      omega

/-- Where no other entry of a table counts, the one put there is all that counts. -/
theorem filterMap_tabPut {α β : Type} {m : Tab α} {lo : Nat} (h : tabRising m lo = true) (k : Nat) (x : α)
    (f : Nat × α → Option β) (hf : ∀ e ∈ m, e.1 ≠ k → f e = none) : (tabPut m k x).filterMap f = (f (k, x)).toList := by
  have one : ∀ l : Tab α, (∀ e ∈ l, f e = none) → ((k, x) :: l).filterMap f = (f (k, x)).toList := fun l hl => by
    rw [List.filterMap_cons, List.filterMap_eq_nil_iff.2 hl]
    cases f (k, x) <;> rfl
  induction m generalizing lo with
  | nil => exact one [] nofun
  | cons e m ih =>
    obtain ⟨j, y⟩ := e
    have hr := h
    simp only [tabRising, Bool.and_eq_true, decide_eq_true_eq] at h
    unfold tabPut
    split
    · refine one m fun e he => hf e (.tail _ he) ?_
      have := tabRising_le h.2 e he
      omega
    · split
      · refine one _ fun e he => hf e he ?_
        have := tabRising_le (lo := j) (by simp [tabRising, h.2]) e he
        omega
      · rw [List.filterMap_cons, hf _ (.head _) ‹_›]
        exact ih h.2 fun e he => hf e (.tail _ he)

/-! The packs that wait on a unit. -/

theorem State.packs_setPack (s : State) (c sl : Nat) (p : Pack) :
    ((s.setPack c sl p).core c).packs = tabPut (s.core c).packs sl p := by
  simp [State.setPack, State.core_modCore]

theorem State.packAt_setPack (s : State) (c sl : Nat) (p : Pack) : (s.setPack c sl p).packAt c sl = some p := by
  simp [State.packAt, State.packs_setPack, tabFind_tabPut]

/-- The packs that wait on a unit when a pack there waits and no other one does. -/
theorem State.acquiring_only (s : State) {c sl : Nat} {p : Pack} {m : Tab Pack} (hp : (s.core c).packs = tabPut m sl p)
    (hw : p.wait = .acquire) (hr : tabRising m 0 = true)
    (ha : ∀ k q, (k, q) ∈ m → k / 12 = sl / 12 → k ≠ sl → q.wait ≠ .acquire) :
    s.acquiring c (sl / 12) = [(s.acquireAge p, sl, p)] := by
  have one : (tabPut m sl p).filterMap (fun (k, q) => if k / 12 = sl / 12 && q.wait == .acquire then
      some (s.acquireAge q, k, q) else none) = [(s.acquireAge p, sl, p)] := by
    rw [filterMap_tabPut hr]
    · simp [hw]
    · rintro ⟨k, q⟩ he hk
      have := fun h1 => ha k q he h1 hk
      simpa using this
  unfold State.acquiring
  rw [hp, one]
  rfl

theorem State.acquireEnergy_access (s : State) (p : Pack) : Access true s (s.acquireEnergy p).1 := by
  unfold State.acquireEnergy
  split
  · exact .refl s
  · rename_i g _
    have h := (State.effective_access 64 s g.part g.rcb.toNat).trans (State.rcbField_access _ agentMp g.part g.rcb.toNat 136 8)
    dsimp only
    split <;> exact h

/-- The one pack that waits is granted where its blocks are free and energy admission allows its group. -/
theorem State.grantee_only (s : State) {c u a sl : Nat} {p : Pack} (h : s.acquiring c u = [(a, sl, p)]) :
    s.grantee c u (s.acquiring c u) = if p.needs ≤ s.freeBlocks c u then
      ((s.acquireEnergy p).1, if (s.acquireEnergy p).2 then some sl else none) else (s, none) := by
  rw [h]
  simp only [State.grantee, h, List.any_cons, List.any_nil, List.filter_cons, List.filter_nil, Nat.lt_irrefl, decide_false,
    Bool.and_false, Bool.or_false, Bool.false_eq_true, if_false, List.map_nil, List.sum_nil, Nat.add_zero, Bool.not_false,
    Bool.true_and, decide_eq_true_eq]
  split
  · split <;> rfl
  · rfl

/-- The pack as a grant leaves it: with its full allotment, past the instruction. -/
def Pack.granted (p : Pack) : Pack :=
  let q := { p.takeFull.tickWindows p.windows p.live with wait := .none }
  q.onLanes q.live fun _ t => t.advance 8

/-- Granting where one pack waits: it is as a grant leaves it, or nothing comes of it, and no pack changes. -/
theorem State.grantAcquire_only (s : State) {c u a sl : Nat} {p : Pack} (h : s.acquiring c u = [(a, sl, p)])
    (hp : s.packAt c sl = some p) :
    (p.needs ≤ s.freeBlocks c u ∧ (s.acquireEnergy p).2 = true →
      s.grantAcquire c u = (s.acquireEnergy p).1.setPack c sl p.granted) ∧
    (s.freeBlocks c u < p.needs ∨ (s.acquireEnergy p).2 = false → Access true s (s.grantAcquire c u)) := by
  have hq : (s.acquireEnergy p).1.packAt c sl = some p := by
    unfold State.packAt at hp ⊢
    rw [(s.acquireEnergy_access p).frame.packs, hp]
  unfold State.grantAcquire
  rw [State.grantee_only s h]
  constructor
  · rintro ⟨hn, he⟩
    simp only [if_pos hn, he, if_true, hq]
    rfl
  · intro hno
    by_cases hn : p.needs ≤ s.freeBlocks c u
    · have he : (s.acquireEnergy p).2 = false := hno.resolve_left (by omega)
      rw [if_pos hn, he]
      exact s.acquireEnergy_access p
    · rw [if_neg hn]
      exact .refl s

end Sys2Proof.Machine

namespace Sys2Proof.Claims

open Sys2Proof.Machine

theorem Pack.granted_done (p : Pack) : PackDone 8 {} { p with
    full := true, wait := .none
    threads := p.threads.map fun u => { u with v := u.v.filter fun (r, _) => decide (r < 8 * p.pro) } } p.granted := by
  refine .advance (q := { p.takeFull.tickWindows p.windows p.live with wait := .none }) 8 ?_ (fun r => ?_) rfl rfl
  · unfold Pack.tickWindows
    split <;> rfl
  · unfold Pack.tickWindows
    split <;> rfl

end Sys2Proof.Claims
end

section
/-! acquire and release (spec/13_pack_instructions.md R284, R285). -/
namespace Sys2Proof.Claims

open Sys2Proof.Machine

/-- acquire in a pack that has no block to take goes on. -/
theorem acquire_nothing {s : State} (hr : Ready .acquire s) (h : s.pk.full = true ∨ s.pk.fullBlocks ≤ s.pk.pro) :
    ∃ t, exec .acquire s = .next t ∧ OnlyPack s t ∧ PackDone 8 {} s.pk t.pk := by
  have hb : (s.pk.full || decide (s.pk.fullBlocks ≤ s.pk.pro)) = true := by simpa using h
  refine ⟨s.settle (s.next 8), ?_, OnlyPack.of_pk s s _, (PackDone.next s.pk 8).settled s⟩
  refine (issue_ready hr _).trans ?_
  rw [if_pos hb]

/-- acquire in a pack that lacks blocks, which alone waits on its unit: it joins the queue and the grants are made. -/
theorem acquire_queues {s : State} {c sl : Nat} (hr : Ready .acquire s) (hs : s.site = some (c, sl)) (hf : s.pk.full = false)
    (hb : s.pk.pro < s.pk.fullBlocks) :
    exec .acquire s = .next (s.settle (((s.block .acquire).flush.grantAcquire c (sl / 12)).reload)) := by
  have hn : (s.pk.full || decide (s.pk.fullBlocks ≤ s.pk.pro)) = false := by simp [hf]; exact hb
  refine (issue_ready hr _).trans ?_
  rw [if_neg (by rw [hn]; decide)]
  simp only [State.onStore, State.here, State.slotHere, hs]

theorem State.reload_at {s : State} {c sl : Nat} {p : Pack} (hs : s.site = some (c, sl)) (hp : s.packAt c sl = some p) :
    s.reload = { s with pk := p } := by
  simp only [State.reload, hs, hp]

/-- The two ends of such an acquire. -/
theorem acquire_lacking {s : State} {c sl : Nat} (hr : Ready .acquire s) (hs : s.site = some (c, sl)) (hf : s.pk.full = false)
    (hb : s.pk.pro < s.pk.fullBlocks)
    (ha : ∀ k p, (k, p) ∈ (s.core c).packs → k / 12 = sl / 12 → k ≠ sl → p.wait ≠ .acquire)
    (hk : tabRising (s.core c).packs 0 = true) :
    let w := (s.block .acquire).flush
    (s.pk.fullBlocks - s.pk.pro ≤ w.freeBlocks c (sl / 12) ∧ (w.acquireEnergy { s.pk with wait := .acquire }).2 = true →
      ∃ t, exec .acquire s = .next t ∧ t.site = s.site ∧
        PackDone 8 {} { s.pk with
          full := true, wait := .none
          threads := s.pk.threads.map fun u => { u with v := u.v.filter fun (r, _) => decide (r < 8 * s.pk.pro) } } t.pk) ∧
    (w.freeBlocks c (sl / 12) < s.pk.fullBlocks - s.pk.pro ∨ (w.acquireEnergy { s.pk with wait := .acquire }).2 = false →
      ∃ t, exec .acquire s = .next t ∧ t.site = s.site ∧ PackWaits .acquire s.pk t.pk) := by
  intro w
  let p : Pack := { s.pk with wait := .acquire }
  have hw : w = (s.block .acquire).setPack c sl p := by
    simp only [w, State.flush, State.block_site, hs]
    rfl
  have hsite : w.site = some (c, sl) := by rw [hw]; exact hs
  have hp : w.packAt c sl = some p := by rw [hw, State.packAt_setPack]
  have hacq : w.acquiring c (sl / 12) = [(w.acquireAge p, sl, p)] := by
    refine State.acquiring_only w ?_ rfl hk ha
    rw [hw, State.packs_setPack]
    rfl
  obtain ⟨grant, stay⟩ := w.grantAcquire_only hacq hp
  have hex := acquire_queues hr hs hf hb
  constructor
  · intro h
    have hg := grant h
    have hf := (w.acquireEnergy_access p).frame
    have hload : (w.grantAcquire c (sl / 12)).reload = { (w.acquireEnergy p).1.setPack c sl p.granted with pk := p.granted } := by
      rw [hg]
      exact State.reload_at (hf.site.trans hsite) (State.packAt_setPack _ _ _ _)
    refine ⟨_, hex, ?_, ?_⟩
    · rw [State.settle_site, hload, hs]
      exact hf.site.trans hsite
    · refine PackDone.settled ?_ s
      rw [hload]
      exact Pack.granted_done p
  · intro h
    have hf := (stay h).frame
    have hload : (w.grantAcquire c (sl / 12)).reload = { w.grantAcquire c (sl / 12) with pk := p } := by
      refine State.reload_at (hf.site.trans hsite) ?_
      rw [State.packAt, hf.packs]
      exact hp
    refine ⟨_, hex, ?_, ?_⟩
    · rw [State.settle_site, hload, hs]
      exact hf.site.trans hsite
    · refine PackWaits.settled ?_ s
      rw [hload]
      exact PackWaits.block s.pk .acquire

/-- In a sound pack no window retires its registers, so those pending are those of the scoreboard. -/
theorem Pack.upperPending_sound {p : Pack} (h : p.sound = true) :
    p.upperPending = p.pend.any fun q => match q.reg with
      | .v n => decide (8 * p.pro ≤ n)
      | _ => false := by
  have hr : ∀ q : Pend, p.retiring q = false := fun q => by
    simp only [Pack.sound, Bool.and_eq_true, List.all_eq_true, Bool.not_eq_true'] at h
    obtain ⟨-, hw⟩ := h
    exact List.any_eq_false.2 fun w hm => by simp [hw w hm]
  unfold Pack.upperPending
  congr 1
  funext q
  rw [hr]
  rfl

/-- The three ends of release. -/
theorem release_ends {s : State} (hr : Ready .release s) :
    (s.pk.full = false → ∃ t, exec .release s = .next t ∧ OnlyPack s t ∧ PackDone 8 {} s.pk t.pk) ∧
    (s.pk.full = true → s.pk.upperPending = true →
      ∃ t, exec .release s = .next t ∧ OnlyPack s t ∧ PackWaits .registers s.pk t.pk) ∧
    (s.pk.full = true → s.pk.upperPending = false → ∃ t, exec .release s = .next t ∧ OnlyPack s t ∧
      PackDone 8 {} { s.pk with
        full := false
        threads := s.pk.threads.map fun u => { u with v := u.v.filter fun (r, _) => decide (r < 8 * s.pk.pro) } } t.pk) := by
  have hex : exec .release s = .next (s.settle _) := issue_ready hr _
  refine ⟨fun hf => ?_, fun hf hu => ?_, fun hf hu => ?_⟩ <;> refine ⟨_, hex, ?_⟩
  · rw [hf]
    exact ⟨OnlyPack.of_pk s s _, (PackDone.next s.pk 8).settled s⟩
  · rw [hf, hu]
    exact ⟨OnlyPack.of_pk s s _, (PackWaits.block s.pk .registers).settled s⟩
  · rw [hf, hu]
    exact ⟨OnlyPack.of_pk s s _, (PackDone.next _ 8).settled s⟩

/-- Settles O25: the pack that alone waits on its unit is the one the grants consider. -/
theorem allotments : Obligations.Allotments := by
  unfold Obligations.Allotments
  refine ⟨fun s c sl hr hs => ⟨acquire_nothing hr, fun hf hb ha hk => acquire_lacking hr hs hf hb ha hk⟩, fun s hr => ?_⟩
  have ends := release_ends hr
  obtain ⟨-, -, sound⟩ := hr
  rw [Pack.upperPending_sound sound] at ends
  exact ends

end Sys2Proof.Claims
end

section
/-! node.reg (spec/01_device.md R17, R18, spec/13_pack_instructions.md R304). -/
namespace Sys2Proof.Machine

open State (Access)

/-- A pack has drained where every entry of its replay state is served. -/
theorem State.drained_iff {s : State} : s.drained = true ↔ Claims.Drained s := by
  simp [State.drained, Pack.drained, Claims.Drained]

/-- Replicas that do not lag are up to date. -/
theorem State.syncReplicas_upToDate {s : State} (h : s.home.replicaLag = []) : s.syncReplicas = s := by
  unfold State.syncReplicas
  rw [← h]

theorem State.withRelease_waits {s : State} (sc : Scope) (f : State → State) (h : ¬Claims.Drained s) :
    s.withRelease sc f = s.block .drain := by
  have hd : s.drained = false := by rw [← Bool.not_eq_true, State.drained_iff]; exact h
  rw [State.withRelease, hd]
  rfl

theorem State.withRelease_dev {s : State} (f : State → State) (h : Claims.Drained s) :
    s.withRelease .dev f = f s.syncReplicas := by
  rw [State.withRelease, State.drained_iff.2 h]
  rfl

/-- An answer that is not left to the bank writes its register now. -/
theorem State.answer_now {s : State} (d : Nat) (x : Word) (h : s.env.defer = false) : s.answer [(d, x)] = s.setS d x := by
  unfold State.answer
  rw [h]
  rfl

/-! Registrations by a pack. -/

/-- A registration outside the range or in a slot in use is logged, and that is all (R17, R18). -/
theorem State.register_refused (s : State) (who : Registrar) (part slot va : Nat) (inRange : Bool)
    (h : ¬(inRange = true ∧ tabFind s.sched.nodes slot = none)) :
    s.register who part slot va inRange = (s.logEvent 11 srcMp (who.partField part) 0 slot, false) := by
  have hb : (!inRange || (tabFind s.sched.nodes slot).isSome) = true := by
    cases inRange
    · rfl
    · simpa [Option.isSome_iff_ne_none] using h
  unfold State.register
  rw [if_pos hb]

theorem State.registerRcb_access {w : Bool} (s : State) (who : Registrar) (part : Nat) (n : Node) :
    Access w s (s.registerRcb who part n).1 := by
  unfold State.registerRcb
  split
  · exact .refl s
  · dsimp only
    split <;> exact s.readVA_access _ _ _ _ _

/-- The registration of a readable valid record with predecessors, whose RCB its pack may name (R16, R18). -/
theorem State.register_core {s s1 : State} {c p slot va : Nat} {priv : Priv} {rec : List Byte} {n : Node} {inRange : Bool}
    (hin : inRange = true) (hfree : tabFind s.sched.nodes slot = none) (hread : s.readVA c p .root va 128 = (s1, .ok (rec, false)))
    (hparse : parseNode p rec = some n) (hcount : n.count ≠ 0) (hrcb : (s1.registerRcb (.core c priv) p n).2 = true) :
    s.register (.core c priv) p slot va inRange = ((s1.registerRcb (.core c priv) p n).1.setNode slot n, true) := by
  simp [State.register, Registrar.agent, hin, hfree, hread, hparse, hcount, hrcb]

end Sys2Proof.Machine

namespace Sys2Proof.Claims

open Sys2Proof.Machine

/-- A trap that the body of an instruction raises, after what settles. -/
theorem MayTrap.settled {s : State} {g : Group} (h : MayTrap s g) (t : Raise) :
    Trapped s.pk g t.cls t.lanes t.pc.toNat t.addr t.detail s (s.settle (s.trap t)) := by
  obtain ⟨hlow, hfirst, hgroup, hreplay, hlate, hstalls, hallocs⟩ := h
  have hl : s.pk.sb.length < 4 := by rw [hfirst]; exact Nat.zero_lt_succ _
  rw [State.trap_enters ⟨hreplay, hlate, hstalls, hallocs⟩ hlow hl (State.trapRegion_first hfirst hgroup),
    State.settle_noneHeld s rfl (Pack.enterTrap_noneHeld _ _ _ _ _)]
  exact ⟨(entered_enterTrap _ t _ _ _ hreplay).withMeets _, rfl⟩

/-- A node.reg at a misaligned record traps. -/
theorem nodeReg_misaligned {d a b : SReg} {s : State} {g : Group} (hr : Ready (.nodeReg d a b) s)
    (ha : (s.pk.s64 a.toNat).toNat % 128 ≠ 0) (hm : MayTrap s g) :
    ∃ t, exec (.nodeReg d a b) s = .next t ∧
      Trapped s.pk g .align s.pk.live s.ipc.toNat (s.pk.s64 a.toNat).toNat 0 s t := by
  refine ⟨_, (issue_ready hr _).trans ?_, hm.settled ⟨.align, s.pk.live, (s.pk.s64 a.toNat).toNat, 0, s.ipc⟩⟩
  dsimp only
  rw [if_pos ha]
  rfl

/-- A node.reg with accesses unfinished waits. -/
theorem nodeReg_waits {d a b : SReg} {s : State} (hr : Ready (.nodeReg d a b) s) (ha : (s.pk.s64 a.toNat).toNat % 128 = 0)
    (hd : ¬Drained s) : ∃ t, exec (.nodeReg d a b) s = .next t ∧ OnlyPack s t ∧ PackWaits .drain s.pk t.pk := by
  refine ⟨s.settle (s.block .drain), (issue_ready hr _).trans ?_, OnlyPack.of_pk s s _, (PackWaits.block s.pk .drain).settled s⟩
  dsimp only
  rw [if_neg (not_not.2 ha), State.withRelease_waits _ _ hd]

/-- A node.reg of an aligned record in a drained pack answers what the registration answers. -/
theorem nodeReg_answers {d a b : SReg} {s u : State} {ok : Bool} (hr : Ready (.nodeReg d a b) s)
    (ha : (s.pk.s64 a.toNat).toNat % 128 = 0) (hd : Drained s) (hdefer : s.env.defer = false) (hlag : s.home.replicaLag = [])
    (hu : s.register (.core s.here s.pk.priv) s.pk.part ((s.pk.sreg b.toNat).toNat % 65536) (s.pk.s64 a.toNat).toNat
      (s.ownsSlot s.pk.part ((s.pk.sreg b.toNat).toNat % 65536)) = (u, ok))
    (hpk : u.pk = s.pk) (henv : u.env.defer = s.env.defer) :
    ∃ t, exec (.nodeReg d a b) s = .next t ∧
      PackDone 8 (putS d (BitVec.ofNat 32 ((s.pk.sreg b.toNat).toNat % 65536 + if ok then 2 ^ 16 else 0))) s.pk t.pk ∧
      t.sched = u.sched ∧ t.mp = u.mp := by
  rw [show 2 ^ 16 = 65536 from rfl]
  generalize hx : BitVec.ofNat 32 ((s.pk.sreg b.toNat).toNat % 65536 + if ok then 65536 else 0) = x
  refine ⟨s.settle ((u.setS d.toNat x).next 8), (issue_ready hr _).trans ?_, ?_, ?_, ?_⟩
  · dsimp only
    rw [if_neg (not_not.2 ha), State.withRelease_dev _ hd, State.syncReplicas_upToDate hlag, hu,
      State.answer_now _ _ (henv.trans hdefer), hx]
  · refine PackDone.settled ?_ s
    have hp : ((u.setS d.toNat x).next 8).pk = (u.pk.setS d.toNat x).onLanes u.pk.live fun _ t => t.advance 8 := rfl
    rw [hp, hpk]
    exact PackDone.setS s.pk 8 d x
  · rw [State.settle_sched]; rfl
  · rw [State.settle_mp]; rfl

/-- Settles O27: the checks in their order, then the registration of R18 at the pack's own partition and privilege. -/
theorem nodeRegistration : Obligations.NodeRegistration := by
  intro d a b s hr va slot mine
  have hmine : s.ownsSlot s.pk.part slot = true ↔ mine := by simp [State.ownsSlot, mine]
  refine ⟨fun hd ha => nodeReg_waits hr ha hd, fun g ha hm => nodeReg_misaligned hr ha hm,
    fun hd ha hdefer hlag => ⟨fun hno => ?_, fun s1 rec n hin hfree hread hparse hcount hrcb => ?_⟩⟩
  · have hreg := s.register_refused (.core s.here s.pk.priv) s.pk.part slot va (s.ownsSlot s.pk.part slot) (by rwa [hmine])
    obtain ⟨t, hexec, hpk, hsched, hmp⟩ := nodeReg_answers hr ha hd hdefer hlag hreg rfl rfl
    refine ⟨t, hexec, hpk, hsched, ?_⟩
    rw [hmp]
    exact (logEvent_logged s _ _ _ _ _).count 11
  · have hreg := State.register_core (hmine.2 hin) hfree hread hparse hcount hrcb
    have hf := (s.readVA_access (w := false) s.here s.pk.part .root va 128).frame
    rw [hread] at hf
    have hf2 := hf.trans (s1.registerRcb_access (w := false) (.core s.here s.pk.priv) s.pk.part n).frame
    obtain ⟨t, hexec, hpk, hsched, -⟩ := nodeReg_answers hr ha hd hdefer hlag hreg hf2.pk hf2.defer
    rw [if_pos rfl] at hpk
    refine ⟨t, hexec, hpk, ?_⟩
    exact hsched.trans (congrArg (fun x : Sched => { x with nodes := tabPut x.nodes slot n }) hf2.sched)

end Sys2Proof.Claims
end

section
/-! SUPPORT. Decrements of nodes (spec/01_device.md R19-R23): a decrement and those that follow from it change nodes, the error log and
what accesses change, and a property of a node that becoming ready and completing keep is kept by all of them. -/
namespace Sys2Proof.Machine

open State (Access)

/-- What the scheduler's look at a tensor record and its page leaves alone. -/
structure State.RecordFrame (s t : State) : Prop where
  pk : t.pk = s.pk
  sched : t.sched = s.sched
  lag : t.home.replicaLag = s.home.replicaLag

theorem State.RecordFrame.refl (s : State) : s.RecordFrame s := ⟨rfl, rfl, rfl⟩

theorem State.RecordFrame.trans {s t u : State} (h : s.RecordFrame t) (k : t.RecordFrame u) : s.RecordFrame u :=
  ⟨k.pk.trans h.pk, k.sched.trans h.sched, k.lag.trans h.lag⟩

theorem State.Access.recordFrame {w : Bool} {s t : State} (h : Access w s t) : s.RecordFrame t :=
  ⟨h.frame.pk, h.frame.sched, h.frame.lag⟩

theorem State.tensorRec_recordFrame (s : State) (core part tid : Nat) : s.RecordFrame (s.tensorRec core part tid).1 := by
  unfold State.tensorRec
  dsimp only
  split
  · exact .refl s
  · split
    · split <;> exact .refl s
    · have h := (s.readBlock_access (w := false) core part .root ((s.part part).ttbase.toNat + 64 * tid) 64).recordFrame
      split
      · exact h
      · split
        · exact h
        · split <;> exact h.trans ⟨rfl, rfl, rfl⟩

theorem State.tileDie_recordFrame (s : State) (n : Node) : s.RecordFrame (s.tileDie n).1 := by
  unfold State.tileDie
  split
  · exact .refl s
  · rename_i tid box _ _
    have h := s.tensorRec_recordFrame agentMp n.part tid
    dsimp only
    split
    · exact h
    · split
      · exact h
      · have k := fun u (r : TRec) => h.trans
          (State.translate_access (w := true) _ agentMp n.part .root .load u (r.base + box * 65536) fun _ => rfl).recordFrame
        split <;> exact k _ _

/-! What decrements leave alone. -/

/-- Decrements leave the pack in the latch as it is, and no replica behind that was up to date. -/
structure State.DecFrame (s t : State) : Prop where
  pk : t.pk = s.pk
  lag : s.home.replicaLag = [] → t.home.replicaLag = []

theorem State.DecFrame.refl (s : State) : s.DecFrame s := ⟨rfl, id⟩

theorem State.DecFrame.trans {s t u : State} (h : s.DecFrame t) (k : t.DecFrame u) : s.DecFrame u :=
  ⟨k.pk.trans h.pk, fun x => k.lag (h.lag x)⟩

theorem State.RecordFrame.decFrame {s t : State} (h : s.RecordFrame t) : s.DecFrame t := ⟨h.pk, h.lag.trans⟩

theorem State.tryFree_decFrame (s : State) (slot : Nat) : s.DecFrame (s.tryFree slot) := by
  unfold State.tryFree
  split
  · split <;> exact ⟨rfl, id⟩
  · exact .refl s

theorem State.completeNode_decFrame (s : State) (slot src : Nat) : s.DecFrame (s.completeNode slot src).1 := by
  unfold State.completeNode
  split
  · exact .refl s
  · split
    · exact .refl s
    · refine .trans ?_ (State.tryFree_decFrame _ _)
      exact ⟨rfl, fun _ => rfl⟩

/-- The die a ready node is given: that of its flags, or of its first declared box (R20). -/
def State.readyDie (s : State) (n : Node) : State × Option Nat := if bitOf n.flags 3 then (s, some (bits n.flags 4 4)) else s.tileDie n

theorem State.readyDie_recordFrame (s : State) (n : Node) : s.RecordFrame (s.readyDie n).1 := by
  unfold State.readyDie
  split
  · exact .refl s
  · exact s.tileDie_recordFrame n

/-- A node as it becomes ready (R20). -/
def Node.readied (n : Node) (time src : Nat) (die : Option Nat) : Node :=
  { n with ready := true, count := 0, readyTime := time, readySrc := src, die := die.getD (srcDie src) }

/-- A node becoming ready: none, or one that is set ready and, without groups, completes at once. -/
theorem State.makeReady_eq (s : State) (slot src : Nat) : s.makeReady slot src =
    match tabFind s.sched.nodes slot with
    | none => (s, [])
    | some n =>
      let u := s.readyDie n
      let t := u.1.setNode slot (n.readied u.1.time src u.2)
      if n.groups = 0 then t.completeNode slot src else (t, []) := by
  unfold State.makeReady State.readyDie Node.readied
  cases tabFind s.sched.nodes slot <;> rfl

theorem State.makeReady_decFrame (s : State) (slot src : Nat) : s.DecFrame (s.makeReady slot src).1 := by
  rw [State.makeReady_eq]
  split
  · exact .refl s
  · rename_i n _
    have h : s.DecFrame ((s.readyDie n).1.setNode slot (n.readied (s.readyDie n).1.time src (s.readyDie n).2)) :=
      (s.readyDie_recordFrame n).decFrame.trans ⟨rfl, id⟩
    dsimp only
    split
    · exact h.trans (State.completeNode_decFrame _ _ _)
    · exact h

theorem State.applyDec_decFrame (s : State) (d : Dec) : s.DecFrame (s.applyDec d).1 := by
  unfold State.applyDec
  split
  · exact .refl s
  · split
    · exact ⟨rfl, id⟩
    · split
      · exact ⟨rfl, id⟩
      · split
        · exact ⟨rfl, id⟩
        · refine .trans ?_ (State.makeReady_decFrame _ _ _)
          split <;> exact ⟨rfl, id⟩

theorem State.applyDecs_decFrame (n : Nat) : ∀ (s : State) (ds : List Dec), s.DecFrame (State.applyDecs n s ds) := by
  induction n with
  | zero => exact fun s _ => .refl s
  | succ n ih =>
    intro s ds
    cases ds with
    | nil => exact .refl s
    | cons d rest => exact (s.applyDec_decFrame d).trans (ih _ _)

theorem State.decrement_decFrame (s : State) (ds : List Dec) : s.DecFrame (s.decrement ds) := s.applyDecs_decFrame _ ds

/-! What decrements keep of a node. -/

/-- The node at `slot`, if there is one, has the property. -/
def State.NodeHas (Q : Node → Prop) (s : State) (slot : Nat) : Prop := ∀ n, tabFind s.sched.nodes slot = some n → Q n

/-- A property of nodes that a smaller count of a node that waits, becoming ready and completing keep. -/
structure Node.Kept (Q : Node → Prop) : Prop where
  count : ∀ n c, Q n → n.ready = false → Q { n with count := c }
  readied : ∀ n time src die, Q n → Q (n.readied time src die)
  completed : ∀ n l src, Q n → Q { n with done := true, listing := l, endSrc := src }

theorem Node.ready_kept : Node.Kept fun n => n.ready = true :=
  ⟨fun _ _ h k => absurd (h.symm.trans k) nofun, fun _ _ _ _ _ => rfl, fun _ _ _ h => h⟩

theorem Node.done_kept : Node.Kept fun n => n.done = true := ⟨fun _ _ h _ => h, fun _ _ _ _ h => h, fun _ _ _ _ => rfl⟩

section
variable {Q : Node → Prop} {s : State} {slot : Nat}

theorem State.NodeHas.of_sched {t : State} (h : s.NodeHas Q slot) (hs : t.sched = s.sched) : t.NodeHas Q slot := by
  unfold State.NodeHas at h ⊢
  rwa [hs]

theorem State.NodeHas.setNode (h : s.NodeHas Q slot) (j : Nat) (n : Node) (hn : j = slot → Q n) :
    (s.setNode j n).NodeHas Q slot := by
  intro m hm
  rw [State.setNode, tabFind_tabPut] at hm
  split at hm
  · cases hm; exact hn ‹_›
  · exact h m hm

theorem State.NodeHas.tryFree (h : s.NodeHas Q slot) (j : Nat) : (s.tryFree j).NodeHas Q slot := by
  unfold State.tryFree
  split
  · split
    · intro m hm
      rw [tabFind_tabDel] at hm
      split at hm
      · cases hm
      · exact h m hm
    · exact h
  · exact h

theorem State.NodeHas.completeNode (h : s.NodeHas Q slot) (hq : Node.Kept Q) (j src : Nat) :
    (s.completeNode j src).1.NodeHas Q slot := by
  unfold State.completeNode
  split
  · exact h
  · rename_i n hn
    split
    · exact h
    · have h0 : s.syncReplicas.NodeHas Q slot := h
      refine State.NodeHas.tryFree (h0.setNode _ _ ?_) _
      rintro rfl
      exact hq.completed _ _ _ (h n hn)

theorem State.NodeHas.makeReady (h : s.NodeHas Q slot) (hq : Node.Kept Q) (j src : Nat) :
    (s.makeReady j src).1.NodeHas Q slot := by
  rw [State.makeReady_eq]
  split
  · exact h
  · rename_i n hn
    have k : ((s.readyDie n).1.setNode j (n.readied (s.readyDie n).1.time src (s.readyDie n).2)).NodeHas Q slot := by
      refine (h.of_sched (s.readyDie_recordFrame n).sched).setNode _ _ ?_
      rintro rfl
      exact hq.readied _ _ _ _ (h n hn)
    dsimp only
    split
    · exact k.completeNode hq _ _
    · exact k

theorem State.NodeHas.applyDec (h : s.NodeHas Q slot) (hq : Node.Kept Q) (d : Dec) : (s.applyDec d).1.NodeHas Q slot := by
  unfold State.applyDec
  split
  · exact h
  · split
    · exact h.of_sched rfl
    · rename_i n hn
      split
      · exact h.of_sched rfl
      · rename_i hr
        split
        · refine h.setNode _ _ ?_
          intro hs
          exact hq.count _ _ (h n (hs ▸ hn)) (by simpa using hr)
        · refine State.NodeHas.makeReady ?_ hq _ _
          split
          · exact h.of_sched rfl
          · exact h

theorem State.NodeHas.applyDecs (hq : Node.Kept Q) (n : Nat) :
    ∀ (s : State) (ds : List Dec), s.NodeHas Q slot → (State.applyDecs n s ds).NodeHas Q slot := by
  induction n with
  | zero => exact fun _ _ h => h
  | succ n ih =>
    intro s ds h
    cases ds with
    | nil => exact h
    | cons d rest => exact ih _ _ (h.applyDec hq d)

theorem State.NodeHas.decrement (h : s.NodeHas Q slot) (hq : Node.Kept Q) (ds : List Dec) : (s.decrement ds).NodeHas Q slot :=
  State.NodeHas.applyDecs hq _ s ds h

end

/-- A node that has become ready is ready, where its slot is still live. -/
theorem State.makeReady_ready (s : State) (slot src : Nat) : (s.makeReady slot src).1.NodeHas (·.ready = true) slot := by
  rw [State.makeReady_eq]
  split
  · intro n hn
    simp_all
  · rename_i n _
    have k : ((s.readyDie n).1.setNode slot (n.readied (s.readyDie n).1.time src (s.readyDie n).2)).NodeHas (·.ready = true) slot := by
      intro m hm
      rw [State.setNode, tabFind_tabPut, if_pos rfl] at hm
      cases hm
      rfl
    dsimp only
    split
    · exact k.completeNode Node.ready_kept _ _
    · exact k

/-- A node that has completed is done, where its slot is still live. -/
theorem State.completeNode_done (s : State) (slot src : Nat) : (s.completeNode slot src).1.NodeHas (·.done = true) slot := by
  unfold State.completeNode
  split
  · intro n hn
    simp_all
  · rename_i n hn
    split
    · intro m hm
      rw [hn] at hm
      cases hm
      assumption
    · refine State.NodeHas.tryFree ?_ _
      intro m hm
      rw [State.setNode, tabFind_tabPut, if_pos rfl] at hm
      cases hm
      rfl

/-! One decrement (R19). -/

/-- A decrement that no other follows from. -/
theorem State.decrement_one {s t : State} {d : Dec} (h : s.applyDec d = (t, [])) : s.decrement [d] = t := by
  rw [State.decrement, List.length_singleton, Nat.add_comm 1, State.applyDecs, h]
  cases 7 * s.sched.nodes.length <;> rfl

theorem State.decrement_zero {s : State} {d : Dec} (h : d.amount = 0) : s.decrement [d] = s :=
  State.decrement_one (by rw [State.applyDec, if_pos h])

/-- A decrement that finds no node which waits is logged, and that is all. -/
theorem State.decrement_discarded {s : State} {d : Dec} (h : d.amount ≠ 0)
    (hn : ∀ n, tabFind s.sched.nodes d.slot = some n → n.ready = true) :
    s.decrement [d] = s.logEvent 11 d.src d.part 0 d.slot := by
  refine State.decrement_one ?_
  unfold State.applyDec
  rw [if_neg h]
  split
  · rfl
  · rename_i n hf
    rw [if_pos (hn n hf)]

/-- A decrement of a node that waits by its count or more makes it ready. -/
theorem State.decrement_readies {s : State} {d : Dec} {n : Node} (h : d.amount ≠ 0) (hn : tabFind s.sched.nodes d.slot = some n)
    (hr : n.ready = false) (hle : n.count ≤ d.amount) : (s.decrement [d]).NodeHas (·.ready = true) d.slot := by
  have k : (s.applyDec d).1.NodeHas (·.ready = true) d.slot := by
    unfold State.applyDec
    simp only [if_neg h, hn, hr, Bool.false_eq_true, if_false, if_neg (Nat.not_lt.2 hle)]
    exact State.makeReady_ready _ _ _
  rw [State.decrement, List.length_singleton, Nat.add_comm 1, State.applyDecs]
  exact State.NodeHas.applyDecs Node.ready_kept _ _ _ k

end Sys2Proof.Machine
end

section
/-! node.dec and node.done (spec/13_pack_instructions.md R305, R306). -/
namespace Sys2Proof.Claims

open Sys2Proof.Machine

/-- A pack instruction that acts on the scheduler at a release of .dev, and then goes on. -/
theorem release_runs {i : Instr} {s u : State} {body : State → State} (hr : Ready i s) (hexec : ∀ s, exec i s = issue i body s)
    (hbody : body s = u.next 8) (hu : s.syncReplicas.DecFrame u) :
    ∃ t, exec i s = .next t ∧ PackDone 8 {} s.pk t.pk ∧ t.home.replicaLag = [] ∧ t.sched = u.sched ∧ t.mp = u.mp := by
  refine ⟨s.settle (u.next 8), (hexec s).trans ((issue_ready hr body).trans (by rw [hbody])), ?_, ?_, ?_, ?_⟩
  · refine PackDone.settled ?_ s
    have hp : (u.next 8).pk = u.pk.onLanes u.pk.live fun _ t => t.advance 8 := rfl
    rw [hp, hu.pk]
    exact PackDone.next s.pk 8
  · rw [State.settle_home]
    exact hu.lag rfl
  · rw [State.settle_sched]; rfl
  · rw [State.settle_mp]; rfl

/-- A pack instruction whose body waits for the pack's accesses. -/
theorem release_waits {i : Instr} {s : State} {body f : State → State} (hr : Ready i s) (hexec : ∀ s, exec i s = issue i body s)
    (hbody : body s = s.withRelease .dev f) (hd : ¬Drained s) :
    ∃ t, exec i s = .next t ∧ OnlyPack s t ∧ PackWaits .drain s.pk t.pk := by
  refine ⟨s.settle (s.block .drain), (hexec s).trans ((issue_ready hr body).trans ?_), OnlyPack.of_pk s s _,
    (PackWaits.block s.pk .drain).settled s⟩
  rw [hbody, State.withRelease_waits _ _ hd]

/-- The decrement that a node.dec makes. -/
def decOf (a b : SReg) (s : State) : Dec :=
  ⟨(s.pk.sreg a.toNat).toNat % 65536, (s.pk.sreg b.toNat).toNat, s.here, s.pk.part + 1⟩

/-- A node.dec in a drained pack. -/
theorem nodeDec_runs {a b : SReg} {s : State} (hr : Ready (.nodeDec a b) s) (hd : Drained s) :
    ∃ t, exec (.nodeDec a b) s = .next t ∧ PackDone 8 {} s.pk t.pk ∧ t.home.replicaLag = [] ∧
      t.sched = (s.syncReplicas.decrement [decOf a b s]).sched ∧ t.mp = (s.syncReplicas.decrement [decOf a b s]).mp :=
  release_runs hr (fun _ => rfl) (State.withRelease_dev _ hd) (State.decrement_decFrame _ _)

/-- A node.done in a drained pack completes the node of its group. -/
theorem nodeDone_runs {s : State} {g : Group} (hr : Ready .nodeDone s) (hg : s.group s.pk.group = some g) (hd : Drained s) :
    let u := s.syncReplicas.completeNode g.slot s.here
    ∃ t, exec .nodeDone s = .next t ∧ PackDone 8 {} s.pk t.pk ∧ t.home.replicaLag = [] ∧ t.sched = (u.1.decrement u.2).sched := by
  intro u
  have hm : s.syncReplicas.myGroup = some g := hg
  obtain ⟨t, hexec, hpk, hlag, hsched, -⟩ := release_runs (u := u.1.decrement u.2) hr (fun _ => rfl)
    ((State.withRelease_dev _ hd).trans (by simp only [hm]; rfl))
    ((State.completeNode_decFrame _ _ _).trans (State.decrement_decFrame _ _))
  exact ⟨t, hexec, hpk, hlag, hsched⟩

/-- Settles O28: the decrement of R19 at a release, and the completion of R22. -/
theorem nodeUpdates : Obligations.NodeUpdates := by
  refine ⟨fun a b s hr => ?_, fun s g n hr hg hn => ?_⟩
  · refine ⟨fun hd => release_waits hr (fun _ => rfl) rfl hd, fun hd => ?_⟩
    obtain ⟨t, hexec, hpk, hlag, hsched, hmp⟩ := nodeDec_runs hr hd
    refine ⟨t, hexec, hpk, hlag, fun hk => ?_, fun hk hno => ?_, fun n hk hn hready => ⟨fun hlt => ?_, fun hle => ?_⟩⟩
    · rw [State.decrement_zero (d := decOf a b s) hk] at hsched hmp
      exact ⟨hsched, hmp⟩
    · rw [State.decrement_discarded (s := s.syncReplicas) (d := decOf a b s) hk hno] at hsched hmp
      refine ⟨hsched, ?_⟩
      rw [hmp]
      exact (logEvent_logged s.syncReplicas _ _ _ _ _).count 11
    · rw [State.decrement_below (s := s.syncReplicas) (d := decOf a b s) hn hready hlt, if_neg (c := (decOf a b s).amount = 0) hk] at hsched hmp
      refine ⟨hmp, ?_, fun j hj => ?_⟩
      · rw [hsched]
        exact (tabFind_tabPut _ _ _ _).trans (if_pos rfl)
      · rw [hsched]
        exact (tabFind_tabPut _ _ _ _).trans (if_neg (Ne.symm hj))
    · rw [hsched]
      exact State.decrement_readies (d := decOf a b s) (s := s.syncReplicas) hk hn hready hle
  · refine ⟨fun hd => release_waits hr (fun _ => rfl) rfl hd, fun hd => ?_⟩
    obtain ⟨t, hexec, hpk, hlag, hsched⟩ := nodeDone_runs hr hg hd
    refine ⟨t, hexec, hpk, hlag, ?_⟩
    rw [hsched]
    exact (State.completeNode_done _ _ _).decrement Node.done_kept _

end Sys2Proof.Claims
end

section
/-! SUPPORT. Accesses by bytes (spec/04_memories.md R85-R97): runs of consecutive bytes split at blocks, what a write at a home slice
leaves readable, and reads, which change no byte where no error mark is set. -/
namespace Sys2Proof.Machine

open Sys2Proof.Claims
open State (Access)

/-! Runs of bytes. -/

theorem spread_rising (bs : List Byte) : ∀ a lo, lo ≤ a → tabRising (spread a bs) lo = true := by
  induction bs with
  | nil => exact fun _ _ _ => rfl
  | cons b bs ih =>
    intro a lo h
    simp only [spread, tabRising, Bool.and_eq_true, decide_eq_true_eq]
    exact ⟨h, ih _ _ (Nat.le_refl _)⟩

theorem spread_mem (bs : List Byte) : ∀ a e, e ∈ spread a bs → a ≤ e.1 ∧ e.1 < a + bs.length := by
  induction bs with
  | nil => exact nofun
  | cons b bs ih =>
    rintro a e (_ | ⟨_, he⟩)
    · simp
    · have := ih _ _ he
      simp only [List.length_cons]
      omega

theorem tabFind_spread (bs : List Byte) : ∀ a x, tabFind (spread a bs) x =
    if a ≤ x ∧ x < a + bs.length then some (bs.getD (x - a) 0) else none := by
  induction bs with
  | nil =>
    intro a x
    rw [if_neg (by simp only [List.length_nil]; omega)]
    rfl
  | cons b bs ih =>
    intro a x
    simp only [spread, tabFind_cons, ih, List.length_cons]
    by_cases h : a = x
    · subst h
      simp
    · rw [if_neg h]
      by_cases hx : a + 1 ≤ x ∧ x < a + 1 + bs.length
      · rw [if_pos hx, if_pos (by omega), show x - a = (x - (a + 1)) + 1 by omega, List.getD_cons_succ]
      · rw [if_neg hx, if_neg (by omega)]

/-- A run within one block. -/
theorem spread_oneBlock {a : Nat} {bs : List Byte} (h : a % 128 + bs.length ≤ 128) : OneBlock (spread a bs) a :=
  ⟨spread_rising bs a 0 (Nat.zero_le _), fun e he => by have := spread_mem bs a e he; omega⟩

/-- A run stored in two parts, the first one first. -/
theorem stored_append (m : Nat → Byte) (a : Nat) (xs ys : List Byte) :
    stored (stored m a xs) (a + xs.length) ys = stored m a (xs ++ ys) := by
  funext p
  unfold stored
  rw [List.length_append]
  by_cases hx : a ≤ p ∧ p < a + xs.length
  · rw [if_neg (by omega), if_pos hx, if_pos (by omega), List.getD_append _ _ _ _ (by omega)]
  · by_cases hy : a + xs.length ≤ p ∧ p < a + xs.length + ys.length
    · rw [if_pos hy, if_pos (by omega), List.getD_append_right _ _ _ _ (by omega), show p - a - xs.length = p - (a + xs.length) by omega]
    · rw [if_neg hy, if_neg hx, if_neg (by omega)]

theorem stored_nil (m : Nat → Byte) (a : Nat) : stored m a [] = m := by
  funext p
  exact if_neg (by simp only [List.length_nil]; omega)

theorem heldBytes_add (s : State) (a m n : Nat) : heldBytes s a (m + n) = heldBytes s a m ++ heldBytes s (a + m) n := by
  simp [heldBytes, List.range_add, Nat.add_assoc]

theorem State.memBytes_held (s : State) (n : Nat) : ∀ a, s.memBytes a n = heldBytes s a n := by
  induction n with
  | zero => exact fun _ => rfl
  | succ n ih =>
    intro a
    rw [State.memBytes, ih, Nat.add_comm n 1, heldBytes_add]
    rfl

/-! What keeps bytes and the marks of errors. -/

/-- State `t` holds the bytes of `s`, and neither has an error mark or a frame to be zeroed that the other has not. -/
structure State.BytesFrame (s t : State) : Prop where
  mem : t.mem = s.mem
  elision : t.home.elision = s.home.elision
  bad : t.home.bad = s.home.bad
  soft : t.home.soft = s.home.soft
  zero : t.home.zeroGroups = s.home.zeroGroups
  mapSoft : t.home.mapSoft = s.home.mapSoft
  mapBad : t.home.mapBad = s.home.mapBad

namespace State.BytesFrame

theorem refl (s : State) : s.BytesFrame s := ⟨rfl, rfl, rfl, rfl, rfl, rfl, rfl⟩

theorem trans {s t u : State} (h : s.BytesFrame t) (k : t.BytesFrame u) : s.BytesFrame u :=
  ⟨k.mem.trans h.mem, k.elision.trans h.elision, k.bad.trans h.bad, k.soft.trans h.soft, k.zero.trans h.zero,
    k.mapSoft.trans h.mapSoft, k.mapBad.trans h.mapBad⟩

variable {s t : State} (h : s.BytesFrame t)
include h

theorem memByte (a : Nat) : t.memByte a = s.memByte a := by
  unfold State.memByte
  rw [h.mem, h.elision]

theorem blockCode (a : Nat) : t.blockCode a = s.blockCode a := by
  unfold State.blockCode
  rw [h.elision]

theorem clean (hc : Clean s) : Clean t := by
  obtain ⟨h1, h2, h3, h4, h5⟩ := hc
  exact ⟨h.bad.trans h1, h.soft.trans h2, h.zero.trans h3, h.mapSoft.trans h4, h.mapBad.trans h5⟩

theorem sound {a n : Nat} (hs : Sound s a n) : Sound t a n := fun k hk => by rw [h.blockCode]; exact hs k hk

theorem heldBytes (a n : Nat) : Claims.heldBytes t a n = Claims.heldBytes s a n := by
  simp only [Claims.heldBytes, h.memByte]

end State.BytesFrame

open State (BytesFrame)

theorem State.allocLine_bytes (s : State) (mirror : Bool) (a : Nat) : s.BytesFrame (s.allocLine mirror a) := by
  unfold State.allocLine
  dsimp only
  split <;> exact ⟨rfl, rfl, rfl, rfl, rfl, rfl, rfl⟩

theorem State.logReadAt_bytes (s : State) (src a n : Nat) : s.BytesFrame (s.logReadAt src a n) := by
  have note : ∀ (t : State) (cls ad : Nat), t.BytesFrame (t.syndrome.2.logEvent cls src (s.groupOwner (groupOf (s.sel a))) ad t.syndrome.1) :=
    fun t _ _ => ⟨rfl, rfl, rfl, rfl, rfl, rfl, rfl⟩
  have fold : ∀ (l : List Nat) (t : State), t.BytesFrame (l.foldl (fun t u => if t.home.soft.contains u then
      t.syndrome.2.logEvent 0 src (s.groupOwner (groupOf (s.sel a))) (u * 32) t.syndrome.1 else t) t) := by
    intro l
    induction l with
    | nil => exact .refl
    | cons u l ih =>
      intro t
      refine .trans ?_ (ih _)
      dsimp only
      split
      · exact note _ _ _
      · exact .refl t
  unfold State.logReadAt
  dsimp only
  split
  · exact (fold _ _).trans (note _ _ _)
  · exact fold _ _

/-- A read changes no byte where no frame is to be zeroed and no map word is in error. -/
theorem State.sliceRead_bytes (s : State) (mirror : Bool) (a n : Nat) (hc : Clean s) : s.BytesFrame (s.sliceRead mirror a n).2.2 := by
  obtain ⟨-, -, hz, hm, hm2⟩ := hc
  unfold State.sliceRead
  rw [State.materialise_idle s a hz, State.readMap_idle s a hm hm2]
  dsimp only
  split
  · exact (s.logReadAt_bytes _ _ _).trans (State.allocLine_bytes _ _ _)
  · exact s.allocLine_bytes _ _

/-- Accesses that do not write change no byte. -/
theorem State.Access.bytes {s t : State} (h : Access false s t) (hc : Clean s) : s.BytesFrame t := by
  induction h with
  | refl s => exact .refl s
  | trans _ _ ih1 ih2 => exact (ih1 hc).trans (ih2 ((ih1 hc).clean hc))
  | log s cls src part addr detail => exact ⟨rfl, rfl, rfl, rfl, rfl, rfl, rfl⟩
  | read s mirror a n => exact s.sliceRead_bytes _ _ _ hc
  | walks s cl u1 u2 => exact ⟨rfl, rfl, rfl, rfl, rfl, rfl, rfl⟩
  | tlb s c f => exact ⟨rfl, rfl, rfl, rfl, rfl, rfl, rfl⟩
  | stamped s src => exact ⟨rfl, rfl, rfl, rfl, rfl, rfl, rfl⟩
  | write s elide wide bs hw => cases hw

theorem State.AccessFrame.nodeId {s t : State} (h : s.AccessFrame t) : t.mp.nodeId = s.mp.nodeId := by rw [h.mp]

/-- Where a physical address lies. -/
theorem State.AccessFrame.paKind {s t : State} (h : s.AccessFrame t) (a : Nat) : t.paKind a = s.paKind a := by
  unfold State.paKind
  rw [h.nodeId]

/-! Writes at a home slice. -/

theorem State.unelide_clean {s : State} (hc : Clean s) (a : Nat) : Clean (s.unelide a) := by
  obtain ⟨h1, h2, h3, h4, h5⟩ := hc
  unfold State.unelide
  dsimp only
  split
  · exact ⟨h1, h2, h3, h4, h5⟩
  · split
    · exact ⟨h1, h2, h3, h4, h5⟩
    · refine ⟨?_, h2, h3, h4, h5⟩
      dsimp only
      rw [h1]
      split <;> rfl

theorem State.retileTouch_bytes (s : State) (a : Nat) : s.BytesFrame (s.retileTouch a) := by
  unfold State.retileTouch
  dsimp only
  split <;> exact ⟨rfl, rfl, rfl, rfl, rfl, rfl, rfl⟩

/-- A write without ELIDE sets no error mark, and poisons no block. -/
theorem State.homeWrite_keepsSound {s : State} (hc : Clean s) (wide : Bool) {bs : Tab Byte} {a : Nat} (hb : OneBlock bs a)
    (hp : s.blockCode a ≠ 3) :
    Clean (s.homeWrite false wide bs) ∧ ∀ x, s.blockCode x ≠ 3 → (s.homeWrite false wide bs).blockCode x ≠ 3 := by
  cases bs with
  | nil => exact ⟨hc, fun _ h => h⟩
  | cons e r =>
    obtain ⟨a0, b0⟩ := e
    have ha : a0 / 128 = a / 128 := hb.2 _ (.head _)
    have hp0 : s.blockCode a0 ≠ 3 := by
      have h1 := sameBlock.1 ha
      rw [State.blockCode_eq] at hp ⊢
      rwa [h1.1, h1.2]
    have hu := State.unelide_clean hc a0
    have hcode := fun x => (State.unelide_spec s a0 hp0 x).2
    obtain ⟨-, -, hz, hm, hm2⟩ := hc
    let w : State := { s.unelide a0 with mem := ((a0, b0) :: r).foldl (fun m e => setByte m e.1 e.2) (s.unelide a0).mem }
    have hw : Clean w := hu
    -- After the bytes only lines, tags, cached RCBs and pages being re-tiled change.
    have after : w.BytesFrame (s.homeWrite false wide ((a0, b0) :: r)) := by
      obtain ⟨hbad, hsoft, -⟩ := hu
      unfold State.homeWrite
      simp only [State.materialise_idle s a0 hz, State.readMap_idle s a0 hm hm2, Bool.and_false, Bool.false_eq_true, if_false,
        hbad, hsoft, List.isEmpty_nil, Bool.and_self, if_true]
      refine .trans ?_ ((State.allocLine_bytes _ _ _).trans (State.retileTouch_bytes _ _))
      refine ⟨rfl, ?_, ?_, ?_, ?_, ?_, ?_⟩ <;> split_ifs <;> simp only [w, hbad, hsoft]
    refine ⟨after.clean hw, fun x hx => ?_⟩
    rw [after.blockCode, show w.blockCode x = (s.unelide a0).blockCode x from rfl, hcode]
    split
    · decide
    · exact hx

end Sys2Proof.Machine
end

section
/-! SUPPORT. The host's accesses to memory (spec/01_device.md R28, spec/08_tables.md R157): where a piece goes, what one piece does, and a
run of pieces, one for each block. -/
namespace Sys2Proof.Machine

open Sys2Proof.Claims
open State (Access BytesFrame)

/-! Pieces. -/

/-- A run within one block is one piece. -/
theorem pieces_one {a n : Nat} (k : Nat) (hn : n ≠ 0) (h : a % 128 + n ≤ 128) : pieces (k + 2) a n = [(a, n)] := by
  have hm : min n (128 - a % 128) = n := by omega
  unfold pieces
  rw [if_neg hn]
  dsimp only
  rw [hm, Nat.sub_self]
  unfold pieces
  rw [if_pos rfl]

/-- The rounds that a run needs: one for each block it touches. -/
theorem pieces_rounds (a n : Nat) : n + a % 128 ≤ 128 * (n / 128 + 2) := by omega

/-! Where a piece goes. -/

theorem State.hostPlace_local (s : State) (store : Bool) {addr : Nat} (h : addr < Config.hbmBytes) :
    s.hostPlace 0 addr store = (s, some (localAt s addr, false)) := by
  have hb : bitOf addr 51 = false := by
    have : addr / 2 ^ 51 = 0 := Nat.div_eq_of_lt (Nat.lt_trans h (by decide))
    unfold bitOf
    rw [this]
    rfl
  unfold State.hostPlace
  rw [if_pos rfl, hb, if_neg Bool.false_ne_true, if_pos h]
  rfl

theorem State.hostPlace_host (s : State) (store : Bool) {addr : Nat} (h : 2 ^ 51 ≤ addr) (h2 : addr < 2 ^ 52) :
    s.hostPlace 0 addr store = (s, some (addr, false)) := by
  have hb : bitOf addr 51 = true := by
    have : addr / 2 ^ 51 = 1 := by omega
    unfold bitOf
    rw [this]
    rfl
  unfold State.hostPlace
  rw [if_pos rfl, if_pos hb, Nat.mod_eq_of_lt h2]

/-- A virtual function's piece goes to the frame of its leaf where the leaf permits, and nowhere else (R157). -/
theorem State.hostPlace_leaf {s s1 : State} {fn p addr e a : Nat} (store : Bool) (hfn : fn ≠ 0) (hp : s.partOfFn fn = some p)
    (ha : addr < 2 ^ 48) (hl : s.leaf2 (dieOf agentHost) p addr = (s1, .ok (e, a))) :
    s.hostPlace fn addr store =
      if bitOf e 11 then (s1.logXlat agentHost p (.bad a), none)
      else if !bitOf e (if store then 2 else 1) || s1.paKind (bits e 51 16 * 65536 + addr % 65536) = .reserved then (s1, none)
      else (s1, some (bits e 51 16 * 65536 + addr % 65536, bitOf e 10)) := by
  unfold State.hostPlace
  rw [if_neg hfn, hp]
  dsimp only
  rw [if_neg (Nat.not_le.2 ha), hl]

/-! One piece. -/

theorem State.snoop_bytes (s : State) (addr : Nat) : s.BytesFrame (s.snoop addr) := ⟨rfl, rfl, rfl, rfl, rfl, rfl, rfl⟩

theorem State.byHost_bytes (s : State) (pa : Nat) (t : State) : t.BytesFrame (s.byHost pa t) := by
  unfold State.byHost
  split <;> exact ⟨rfl, rfl, rfl, rfl, rfl, rfl, rfl⟩

theorem State.byHost_mp (s : State) (pa : Nat) (t : State) : (s.byHost pa t).mp = t.mp := by
  unfold State.byHost
  split <;> rfl

/-- The state in which a piece is written: the host has taken its own granule back. -/
def State.hostReady (s : State) (pa : Nat) : State := if bitOf pa 51 then s.snoop pa else s

theorem State.hostReady_bytes (s : State) (pa : Nat) : s.BytesFrame (s.hostReady pa) := by
  unfold State.hostReady
  split
  · exact s.snoop_bytes pa
  · exact .refl s

theorem State.hostWritePiece_eq {s u : State} {fn addr pa : Nat} {el : Bool} (bs : List Byte)
    (hp : s.hostPlace fn addr true = (u, some (pa, el))) :
    s.hostWritePiece fn addr bs = (u.hostReady pa).byHost pa ((u.hostReady pa).homeWrite el true (spread pa bs)) := by
  unfold State.hostWritePiece
  rw [hp]
  rfl

/-- A piece stores its bytes. -/
theorem State.hostWritePiece_stored {s u : State} {fn addr pa : Nat} {el : Bool} {bs : List Byte}
    (hp : s.hostPlace fn addr true = (u, some (pa, el))) (hc : Clean u) (hb : pa % 128 + bs.length ≤ 128)
    (hs : Sound u pa bs.length) : (s.hostWritePiece fn addr bs).memByte = stored u.memByte pa bs := by
  funext x
  rw [State.hostWritePiece_eq bs hp, (State.byHost_bytes _ _ _).memByte]
  have hr := u.hostReady_bytes pa
  obtain ⟨-, -, hz, -⟩ := hr.clean hc
  cases hbs : bs with
  | nil => rw [stored_nil]; exact hr.memByte x
  | cons b r =>
    rw [← hbs]
    have h3 : (u.hostReady pa).blockCode pa ≠ 3 := hr.sound hs 0 (by rw [hbs]; exact Nat.succ_pos _)
    rw [State.homeWrite_memByte _ _ _ _ pa hz (spread_oneBlock hb) (.inl h3), tabFind_spread, hr.memByte]
    unfold stored
    split <;> rfl

/-- A piece without ELIDE leaves what a further one needs. -/
theorem State.hostWritePiece_keeps {s u : State} {fn addr pa : Nat} {bs : List Byte}
    (hp : s.hostPlace fn addr true = (u, some (pa, false))) (hc : Clean u) (hb : pa % 128 + bs.length ≤ 128)
    (hs : u.blockCode pa ≠ 3) :
    Clean (s.hostWritePiece fn addr bs) ∧ (s.hostWritePiece fn addr bs).mp.nodeId = u.mp.nodeId ∧
      ∀ x, u.blockCode x ≠ 3 → (s.hostWritePiece fn addr bs).blockCode x ≠ 3 := by
  rw [State.hostWritePiece_eq bs hp]
  have hr := u.hostReady_bytes pa
  have hrmp : (u.hostReady pa).mp = u.mp := by unfold State.hostReady; split <;> rfl
  obtain ⟨clean, codes⟩ := State.homeWrite_keepsSound (hr.clean hc) true (spread_oneBlock hb) (by rwa [hr.blockCode])
  have hh := (u.hostReady pa).byHost_bytes pa ((u.hostReady pa).homeWrite false true (spread pa bs))
  refine ⟨hh.clean clean, ?_, fun x hx => ?_⟩
  · rw [State.byHost_mp, (State.homeWrite_accessFrame _ _ _ _).mp, hrmp]
  · rw [hh.blockCode]
    exact codes x (by rwa [hr.blockCode])

/-- A read of a sound block answers its bytes, and changes none of them, whoever makes it. -/
theorem State.hostReadPiece (s : State) {pa m : Nat} (hc : Clean s) (hs : s.blockCode pa ≠ 3) :
    s.BytesFrame (s.byHost pa (s.homeRead pa m).2.2) ∧ (s.homeRead pa m).1 = heldBytes s pa m ∧ (s.homeRead pa m).2.1 = false := by
  have h := hc
  obtain ⟨hb, hsoft, hz, hm, hm2⟩ := h
  obtain ⟨h1, h2, -⟩ := s.homeRead_clean pa m hb hsoft hz hm hm2 hs
  exact ⟨(s.sliceRead_bytes false pa m hc).trans (s.byHost_bytes _ _), h1.trans (s.memBytes_held m pa), h2⟩

/-! Runs of pieces by function 0: each goes to its address displaced by whole blocks. -/

/-- Every address of a run goes to that address displaced by `base`, wherever node `node` looks for it. -/
def HostRun (node base : Nat) (store : Bool) (addr n : Nat) : Prop :=
  ∀ (u : State), u.mp.nodeId = node → ∀ va, addr ≤ va → va < addr + n → u.hostPlace 0 va store = (u, some (base + va, false))

section
variable {node base : Nat}

/-- The pieces of a write from `va` to the end of the data. -/
theorem State.hostWrites_stored {addr : Nat} {data : List Byte} (hbase : base % 128 = 0) (hpl : HostRun node base true addr data.length) (k : Nat) :
    ∀ (va n : Nat) (s : State), Clean s → s.mp.nodeId = node → addr ≤ va → va + n = addr + data.length → (n ≠ 0 → n + va % 128 ≤ 128 * k) →
      Sound s (base + va) n →
      ((pieces k va n).foldl (fun s p => s.hostWritePiece 0 p.1 ((data.drop (p.1 - addr)).take p.2)) s).memByte =
        stored s.memByte (base + va) (data.drop (va - addr)) := by
  have done : ∀ (va n : Nat) (s : State), n = 0 → va + n = addr + data.length →
      s.memByte = stored s.memByte (base + va) (data.drop (va - addr)) := by
    intro va n s hn hend
    rw [List.drop_eq_nil_of_le (by omega), stored_nil]
  induction k with
  | zero => exact fun va n s _ _ _ hend hk _ => done va n s (by omega) hend
  | succ k ih =>
    intro va n s hc hnode hva hend hk hs
    by_cases hn : n = 0
    · unfold pieces
      rw [if_pos hn]
      exact done va n s hn hend
    · unfold pieces
      rw [if_neg hn]
      dsimp only [List.foldl_cons]
      obtain ⟨m, hm⟩ : ∃ m, m = min n (128 - va % 128) := ⟨_, rfl⟩
      rw [← hm]
      have hlen : ((data.drop (va - addr)).take m).length = m := by
        rw [List.length_take, List.length_drop]
        omega
      have hplace := hpl s hnode va hva (by omega)
      have hblock : (base + va) % 128 + ((data.drop (va - addr)).take m).length ≤ 128 := by rw [hlen]; omega
      have hpiece := State.hostWritePiece_stored hplace hc hblock (by rw [hlen]; exact fun i hi => hs i (by omega))
      obtain ⟨hc2, hnode2, hcodes⟩ := State.hostWritePiece_keeps hplace hc hblock (hs 0 (by omega))
      rw [ih (va + m) (n - m) _ hc2 (hnode2.trans hnode) (by omega) (by omega) (by omega) fun i hi => hcodes _ (by
        have := hs (m + i) (by omega)
        rwa [show base + va + (m + i) = base + (va + m) + i by omega] at this), hpiece]
      have hdrop : data.drop (va + m - addr) = (data.drop (va - addr)).drop m := by
        rw [List.drop_drop]
        congr 1
        omega
      have := stored_append s.memByte (base + va) ((data.drop (va - addr)).take m) ((data.drop (va - addr)).drop m)
      rw [hlen, List.take_append_drop] at this
      rw [hdrop, ← Nat.add_assoc]
      exact this

/-- The pieces of a read answer the bytes of the run, none of them uncorrectable, and change no byte. -/
theorem State.hostRead_held {addr n0 : Nat} (hpl : HostRun node base false addr n0) (k : Nat) :
    ∀ (va n : Nat) (s : State), Clean s → s.mp.nodeId = node → addr ≤ va → va + n = addr + n0 → (n ≠ 0 → n + va % 128 ≤ 128 * k) →
      Sound s (base + va) n →
      s.BytesFrame (s.hostRead 0 (pieces k va n)).1 ∧ (s.hostRead 0 (pieces k va n)).2.1 = heldBytes s (base + va) n ∧
        (s.hostRead 0 (pieces k va n)).2.2 = false := by
  have done : ∀ (va n : Nat) (s : State), n = 0 → s.BytesFrame (s.hostRead 0 []).1 ∧
      (s.hostRead 0 []).2.1 = heldBytes s (base + va) n ∧ (s.hostRead 0 []).2.2 = false := by
    rintro va n s rfl
    exact ⟨.refl s, rfl, rfl⟩
  induction k with
  | zero => exact fun va n s _ _ _ _ hk _ => done va n s (by omega)
  | succ k ih =>
    intro va n s hc hnode hva hend hk hs
    by_cases hn : n = 0
    · unfold pieces
      rw [if_pos hn]
      exact done va n s hn
    · unfold pieces
      rw [if_neg hn]
      dsimp only
      obtain ⟨m, hm⟩ : ∃ m, m = min n (128 - va % 128) := ⟨_, rfl⟩
      rw [← hm]
      obtain ⟨h1, h2, h3⟩ := s.hostReadPiece (pa := base + va) (m := m) hc (hs 0 (by omega))
      obtain ⟨k1, k2, k3⟩ := ih (va + m) (n - m) _ (h1.clean hc)
        (by rw [State.byHost_mp, show (s.homeRead (base + va) m).2.2.mp = _ from (s.sliceRead_accessFrame false _ _).mp]; exact hnode) (by omega) (by omega) (by omega)
        (h1.sound fun i hi => by
          have := hs (m + i) (by omega)
          rwa [show base + va + (m + i) = base + (va + m) + i by omega] at this)
      unfold State.hostRead
      rw [hpl s hnode va hva (by omega)]
      dsimp only
      refine ⟨h1.trans k1, ?_, ?_⟩
      · rw [h2, k2, h1.heldBytes, ← Nat.add_assoc, ← heldBytes_add, show m + (n - m) = n by omega]
      · rw [h3, k3]
        rfl

end

end Sys2Proof.Machine
end

section
/-! The host's memory windows (spec/01_device.md R28, spec/04_memories.md R87, spec/08_tables.md R157). -/
namespace Sys2Proof.Claims

open Sys2Proof.Machine
open State (Access)

/-- A write by function 0 of a run that goes to its addresses displaced by whole blocks. -/
theorem hostWrite_stored {s : State} (hi : Idle s) (hc : Clean s) {base addr : Nat} {data : List Byte} (hbase : base % 128 = 0)
    (hpl : HostRun s.mp.nodeId base true addr data.length) (hs : Sound s (base + addr) data.length) :
    ∃ t, exec (.hostMemWrite 0 addr data) s = .next t ∧ ∀ p, t.memByte p = stored s.memByte (base + addr) data p := by
  refine ⟨_, event_idle _ hi, fun p => ?_⟩
  have h := State.hostWrites_stored hbase hpl (data.length / 128 + 2) addr data.length s hc rfl (Nat.le_refl _) rfl
    (fun _ => pieces_rounds _ _) hs
  rw [Nat.sub_self, List.drop_zero] at h
  exact congrFun h p

/-- A read by function 0 of such a run. -/
theorem hostRead_answers {s : State} (hi : Idle s) (hc : Clean s) {base addr n : Nat} (hpl : HostRun s.mp.nodeId base false addr n)
    (hs : Sound s (base + addr) n) :
    ∃ t, exec (.hostMemRead 0 addr n) s = .next t ∧ t.mp.mailbox.readData = heldBytes s (base + addr) n ∧
      t.mp.mailbox.poison = false ∧ ∀ p, t.memByte p = s.memByte p := by
  obtain ⟨h1, h2, h3⟩ := State.hostRead_held hpl (n / 128 + 2) addr n s hc rfl (Nat.le_refl _) rfl (fun _ => pieces_rounds _ _) hs
  exact ⟨_, event_idle _ hi, h2, h3, fun p => h1.memByte p⟩

/-- Offsets of local HBM. -/
theorem hostRun_local (s : State) (store : Bool) {addr n : Nat} (h : addr + n ≤ Config.hbmBytes) :
    HostRun s.mp.nodeId (s.mp.nodeId * 2 ^ 41) store addr n := by
  intro u hu va _ hva
  rw [u.hostPlace_local store (by omega), localAt, hu]

/-- Addresses of the host's own memory. -/
theorem hostRun_host (node : Nat) (store : Bool) {addr n : Nat} (hb : bitOf addr 51 = true) (h : addr + n ≤ 2 ^ 52) :
    HostRun node 0 store addr n := by
  intro u _ va hva hva2
  have hlo : 2 ^ 51 ≤ addr := by
    refine Nat.le_of_not_lt fun hlt => ?_
    unfold bitOf at hb
    rw [Nat.div_eq_of_lt hlt] at hb
    exact absurd hb (by decide)
  rw [Nat.zero_add]
  exact u.hostPlace_host store (by omega) (by omega)

section
variable {s s1 : State} {fn p addr e a pa : Nat} {data : List Byte}

/-- A virtual function's write within a block is one piece. -/
theorem vfWrite_piece (hi : Idle s) (hblock : addr % 128 + data.length ≤ 128) (hne : data ≠ []) :
    exec (.hostMemWrite fn addr data) s = .next (s.hostWritePiece fn addr data) := by
  refine (event_idle _ hi).trans ?_
  rw [pieces_one _ (by simpa using hne) hblock]
  simp only [List.foldl_cons, List.foldl_nil, Nat.sub_self, List.drop_zero, List.take_length]

variable (hi : Idle s) (hc : Clean s) (hfn : fn ≠ 0) (hp : s.partOfFn fn = some p) (ha : addr < 2 ^ 48)
  (hblock : addr % 128 + data.length ≤ 128) (hne : data ≠ []) (hl : s.leaf2 (dieOf agentHost) p addr = (s1, .ok (e, a)))
include hi hc hfn hp ha hblock hne hl

/-- A write that the leaf permits. -/
theorem vfWrite_stored (hpa : pa = bits e 51 16 * 65536 + addr % 65536) (hw : bitOf e 2 = true) (ht : bitOf e 11 = false) (hk : s.paKind pa = .hbm)
    (hs : Sound s pa data.length) :
    ∃ t, exec (.hostMemWrite fn addr data) s = .next t ∧
      ∀ q, t.memByte q = stored s.memByte pa data q := by
  refine ⟨_, vfWrite_piece hi hblock hne, fun q => ?_⟩
  have hacc := s.leaf2_access (w := false) (dieOf agentHost) p addr
  rw [hl] at hacc
  have hb := hacc.bytes hc
  have hk1 : s1.paKind pa = .hbm := (hacc.frame.paKind _).trans hk
  have hplace := State.hostPlace_leaf true hfn hp ha hl
  rw [← hpa, ht, hk1] at hplace
  simp only [hw, Bool.false_eq_true, if_false, if_true, Bool.not_true, Bool.false_or, reduceCtorEq, decide_false] at hplace
  rw [State.hostWritePiece_stored hplace (hb.clean hc) (by omega) (hb.sound hs)]
  unfold stored
  rw [hb.memByte]

/-- A write that the leaf refuses changes no byte. -/
theorem vfWrite_dropped (hno : bitOf e 2 = false ∨ bitOf e 11 = true) :
    ∃ t, exec (.hostMemWrite fn addr data) s = .next t ∧ ∀ q, t.memByte q = s.memByte q := by
  refine ⟨_, vfWrite_piece hi hblock hne, fun q => ?_⟩
  have hacc := s.leaf2_access (w := false) (dieOf agentHost) p addr
  rw [hl] at hacc
  have hb := hacc.bytes hc
  unfold State.hostWritePiece
  rw [State.hostPlace_leaf true hfn hp ha hl]
  cases ht : bitOf e 11 with
  | true => exact hb.memByte q
  | false =>
    have hw : bitOf e 2 = false := hno.resolve_right (by rw [ht]; decide)
    simp only [hw, Bool.false_eq_true, if_false, if_true, Bool.not_false, Bool.true_or]
    exact hb.memByte q

/-- A read that the leaf permits. -/
theorem vfRead_answers (hpa : pa = bits e 51 16 * 65536 + addr % 65536) (hr : bitOf e 1 = true) (ht : bitOf e 11 = false) (hk : s.paKind pa = .hbm)
    (hs : Sound s pa data.length) :
    ∃ t, exec (.hostMemRead fn addr data.length) s = .next t ∧
      t.mp.mailbox.readData = heldBytes s pa data.length := by
  refine ⟨_, event_idle _ hi, ?_⟩
  have hlen : data.length ≠ 0 := by simpa using hne
  have hacc := s.leaf2_access (w := false) (dieOf agentHost) p addr
  rw [hl] at hacc
  have hb := hacc.bytes hc
  have hk1 : s1.paKind pa = .hbm := (hacc.frame.paKind _).trans hk
  have hplace := State.hostPlace_leaf false hfn hp ha hl
  rw [← hpa, ht, hk1] at hplace
  simp only [hr, Bool.false_eq_true, if_false, Bool.not_true, Bool.false_or, reduceCtorEq, decide_false] at hplace
  obtain ⟨-, hread, -⟩ := s1.hostReadPiece (m := data.length) (hb.clean hc) (hb.sound hs 0 (Nat.pos_of_ne_zero hlen))
  rw [pieces_one _ hlen hblock]
  simp only [State.hostRead, hplace, List.append_nil]
  exact hread.trans (hb.heldBytes _ _)

end

/-- A snoop takes one granule from the memory-side cache, and no other. -/
theorem hostSnoop_takes {s : State} (hi : Idle s) (addr : Nat) : let g := (2 ^ 51 + addr % 2 ^ 51) / 256
    ∃ t, exec (.hostSnoop addr) s = .next t ∧
      t = { s with home := { s.home with hostOwned := t.home.hostOwned, lines := t.home.lines } } ∧
      g ∉ t.home.hostOwned ∧ g ∉ t.home.lines ∧
      ∀ k, k ≠ g → (k ∈ t.home.lines ↔ k ∈ s.home.lines) ∧ (k ∈ t.home.hostOwned ↔ k ∈ s.home.hostOwned) := by
  intro g
  have out : ∀ l : List Nat, g ∉ l.filter (· ≠ g) := fun l h => by simp at h
  have other : ∀ (l : List Nat) k, k ≠ g → (k ∈ l.filter (· ≠ g) ↔ k ∈ l) := fun l k hk => by simp [hk]
  exact ⟨s.snoop addr, event_idle _ hi, rfl, out _, out _, fun k hk => ⟨other _ k hk, other _ k hk⟩⟩

/-- Settles O40: each access is its pieces, one a block, and each piece goes where the window or the stage-2 leaf says. -/
theorem hostMemory : Obligations.HostMemory := by
  intro s hi hc
  refine ⟨fun addr data h hs => ?_, fun addr data hb h hs => ?_, fun addr n h hs => ?_,
    fun fn addr data p s1 e a hfn hp ha hblock hne hl => ?_, hostSnoop_takes hi⟩
  · exact hostWrite_stored hi hc (by omega) (hostRun_local s true h) hs
  · have h0 := hostWrite_stored hi hc rfl (hostRun_host s.mp.nodeId true hb h) (by rwa [Nat.zero_add])
    rwa [Nat.zero_add] at h0
  · exact hostRead_answers hi hc (hostRun_local s false h) hs
  · intro pa
    have hpa : pa = bits e 51 16 * 65536 + addr % 65536 := rfl
    exact ⟨vfWrite_stored hi hc hfn hp ha hblock hne hl hpa, vfWrite_dropped hi hc hfn hp ha hblock hne hl,
      vfRead_answers hi hc hfn hp ha hblock hne hl hpa⟩

end Sys2Proof.Claims
end

section
/-! SUPPORT. Fields of a number by its bits, and barrier objects (spec/09_counters_events.md R178, R179): the fields of the 128-bit number
that the model updates, before and after an update. -/
namespace Sys2Proof.Machine

open Sys2Proof.Claims

/-! Bit fields. -/

theorem testBit_bits (x hi lo i : Nat) : (bits x hi lo).testBit i = (decide (i < hi + 1 - lo) && x.testBit (lo + i)) := by
  rw [bits, Nat.testBit_mod_two_pow, Nat.testBit_div_two_pow, Nat.add_comm i]

/-- A field replaced, by the parts below it, in it, and above it. -/
theorem putBits_eq (x hi lo v : Nat) : putBits x hi lo v =
    2 ^ lo * (2 ^ (hi + 1 - lo) * (x / 2 ^ lo / 2 ^ (hi + 1 - lo)) + v % 2 ^ (hi + 1 - lo)) + x % 2 ^ lo := by
  unfold putBits bits
  have h1 := Nat.div_add_mod x (2 ^ lo)
  have h2 := Nat.div_add_mod (x / 2 ^ lo) (2 ^ (hi + 1 - lo))
  generalize x / 2 ^ lo / 2 ^ (hi + 1 - lo) = h at *
  generalize x / 2 ^ lo % 2 ^ (hi + 1 - lo) = f at *
  generalize x % 2 ^ lo = l at *
  rw [← h2] at h1
  rw [← h1, Nat.mul_add, Nat.mul_add, Nat.mul_comm f]
  rw [Nat.mul_comm (v % _)]
  omega

theorem testBit_putBits (x hi lo v i : Nat) : (putBits x hi lo v).testBit i =
    if lo ≤ i ∧ i < lo + (hi + 1 - lo) then v.testBit (i - lo) else x.testBit i := by
  rw [putBits_eq, Nat.testBit_two_pow_mul_add _ (Nat.mod_lt _ (Nat.two_pow_pos _)),
    Nat.testBit_two_pow_mul_add _ (Nat.mod_lt _ (Nat.two_pow_pos _))]
  by_cases hlo : i < lo
  · rw [if_pos hlo, if_neg (by omega), Nat.testBit_mod_two_pow]
    simp [hlo]
  · rw [if_neg hlo]
    by_cases hhi : i - lo < hi + 1 - lo
    · rw [if_pos hhi, if_pos (by omega), Nat.testBit_mod_two_pow]
      simp [hhi]
    · rw [if_neg hhi, if_neg (by omega), Nat.testBit_div_two_pow, Nat.testBit_div_two_pow]
      congr 1
      omega

/-- The field that was replaced. -/
theorem bits_putBits (x hi lo v : Nat) : bits (putBits x hi lo v) hi lo = v % 2 ^ (hi + 1 - lo) := by
  refine Nat.eq_of_testBit_eq fun i => ?_
  rw [testBit_bits, testBit_putBits, Nat.testBit_mod_two_pow]
  by_cases hi' : i < hi + 1 - lo
  · rw [if_pos (by omega), Nat.add_sub_cancel_left]
  · simp [hi']

/-- A field apart from the one that was replaced. -/
theorem bits_putBits_apart {hi lo hi' lo' : Nat} (x v : Nat) (h : hi < lo' ∨ hi' < lo) :
    bits (putBits x hi lo v) hi' lo' = bits x hi' lo' := by
  refine Nat.eq_of_testBit_eq fun i => ?_
  rw [testBit_bits, testBit_bits, testBit_putBits]
  by_cases hi : i < hi' + 1 - lo'
  · rw [if_neg (by omega)]
  · simp [hi]

/-! Numbers in bytes. -/

/-- Each byte of a number. -/
theorem natOfBytes_byte (l : List Byte) : ∀ k, k < l.length → BitVec.ofNat 8 (natOfBytes l / 256 ^ k) = l.getD k 0 := by
  induction l with
  | nil => exact fun k hk => absurd hk (Nat.not_lt_zero k)
  | cons b l ih =>
    intro k hk
    cases k with
    | zero =>
      refine BitVec.eq_of_toNat_eq ?_
      simp only [natOfBytes, pow_zero, Nat.div_one, BitVec.toNat_ofNat, List.getD_cons_zero]
      have := b.isLt
      omega
    | succ k =>
      have hb := b.isLt
      rw [natOfBytes, Nat.pow_succ', ← Nat.div_div_eq_div_mul, show (b.toNat + 256 * natOfBytes l) / 256 = natOfBytes l by omega,
        List.getD_cons_succ]
      exact ih k (by simpa using hk)

theorem bytesOfNat_byte (n : Nat) : ∀ x k, k < n → (bytesOfNat n x).getD k 0 = BitVec.ofNat 8 (x / 256 ^ k) := by
  induction n with
  | zero => exact fun x k hk => absurd hk (Nat.not_lt_zero k)
  | succ n ih =>
    intro x k hk
    cases k with
    | zero => simp [bytesOfNat]
    | succ k => rw [bytesOfNat, List.getD_cons_succ, ih _ _ (by omega), Nat.div_div_eq_div_mul, Nat.pow_succ']

theorem bytesOfNat_range (n : Nat) : ∀ x, bytesOfNat n x = (List.range n).map fun k => BitVec.ofNat 8 (x / 256 ^ k) := by
  induction n with
  | zero => exact fun _ => rfl
  | succ n ih =>
    intro x
    rw [bytesOfNat, ih, List.range_succ_eq_map, List.map_cons, List.map_map, pow_zero, Nat.div_one]
    congr 2
    funext k
    rw [Function.comp_apply, Nat.div_div_eq_div_mul, Nat.pow_succ']

/-- The number in some of the bytes that hold a number. -/
theorem numberAt_of_bytes {m : Nat → Byte} {a x w : Nat} (h : ∀ k, k < w → m (a + k) = BitVec.ofNat 8 (x / 256 ^ k)) {o n : Nat}
    (hn : o + n ≤ w) : numberAt m (a + o) n = x / 256 ^ o % 256 ^ n := by
  have hb : (List.range n).map (fun k => m (a + o + k)) = bytesOfNat n (x / 256 ^ o) := by
    rw [bytesOfNat_range]
    refine List.map_congr_left fun k hk => ?_
    rw [List.mem_range] at hk
    rw [Nat.add_assoc, h _ (by omega), Nat.div_div_eq_div_mul, Nat.pow_add]
  rw [numberAt, hb, natOfBytes_bytesOfNat]

/-! Barrier objects. -/

/-- The fields of a barrier object held as one number (R178). -/
def barrierOf (b : Nat) : Barrier :=
  { expBytes := bits b 31 0, bytes := bits b 63 32, expArr := bits b 79 64, arr := bits b 95 80
    phase := decide (bits b 96 96 = 1), fault := decide (bits b 97 97 = 1), pfault := decide (bits b 98 98 = 1)
    above := bits b 127 99 }

/-- The object at an offset, where the vault holds the bytes of that number. -/
theorem barrierAt_of_bytes {s : State} {c off b : Nat}
    (h : ∀ k, k < 16 → byteAt (s.core c).vault (off + k) = BitVec.ofNat 8 (b / 256 ^ k)) : barrierAt s c off = barrierOf b := by
  have f := fun o n (hn : o + n ≤ 16) => numberAt_of_bytes (m := byteAt (s.core c).vault) h hn
  have h97 : b / 2 ^ 97 = b / 2 ^ 96 / 2 := (Nat.div_div_eq_div_mul b (2 ^ 96) 2).symm
  have h98 : b / 2 ^ 98 = b / 2 ^ 96 / 4 := (Nat.div_div_eq_div_mul b (2 ^ 96) 4).symm
  have h99 : b / 2 ^ 99 = b / 2 ^ 96 / 8 := (Nat.div_div_eq_div_mul b (2 ^ 96) 8).symm
  unfold barrierAt barrierOf bits
  simp only [f 0 4 (by decide), f 4 4 (by decide), f 8 2 (by decide), f 10 2 (by decide), f 12 4 (by decide)]
  rw [show b / 256 ^ 12 = b / 2 ^ 96 from rfl, h97, h98, h99]
  generalize b / 2 ^ 96 = y
  rw [Barrier.mk.injEq]
  refine ⟨rfl, rfl, rfl, rfl, decide_eq_decide.2 ?_, decide_eq_decide.2 ?_, decide_eq_decide.2 ?_, ?_⟩ <;> omega

theorem bytesAt_getD (m : List Host.Cell) (n : Nat) : ∀ a k, k < n → (bytesAt m a n).getD k 0 = byteAt m (a + k) := by
  induction n with
  | zero => exact fun a k hk => absurd hk (Nat.not_lt_zero k)
  | succ n ih =>
    intro a k hk
    cases k with
    | zero => rfl
    | succ k => rw [bytesAt, List.getD_cons_succ, ih _ _ (by omega), Nat.add_assoc, Nat.add_comm 1]

/-- The fields of the object are those of the number the model reads. -/
theorem barrierAt_eq (s : State) (c off : Nat) : barrierAt s c off = barrierOf (s.barrier c off) := by
  refine barrierAt_of_bytes fun k hk => ?_
  rw [State.barrier, natOfBytes_byte _ k (by rw [State.vaultRead, bytesAt_length]; exact hk), State.vaultRead, bytesAt_getD _ _ _ _ hk]

/-- A barrier object put back has the fields of the number put, and no other vault byte changes. -/
theorem State.setBarrier_spec (s : State) (c off b : Nat) :
    barrierAt (s.setBarrier c off b) c off = barrierOf b ∧ OtherVault s (s.setBarrier c off b) c off 16 := by
  have hbyte : ∀ k p, byteAt ((s.setBarrier c off b).core k).vault p =
      if k = c ∧ off ≤ p ∧ p < off + 16 then (bytesOfNat 16 b).getD (p - off) 0 else byteAt (s.core k).vault p := by
    intro k p
    simp only [State.setBarrier, State.core_modCore]
    by_cases h : k = c
    · subst h
      simp only [if_true, byteAt_setBytes, bytesOfNat_length, true_and]
    · rw [if_neg h, if_neg (fun x => h x.1)]
  refine ⟨barrierAt_of_bytes fun k hk => ?_, fun k p hp => ?_⟩
  · rw [hbyte, if_pos ⟨rfl, by omega, by omega⟩, Nat.add_sub_cancel_left, bytesOfNat_byte _ _ _ hk]
  · rw [hbyte, if_neg hp]

/-! The updates of R179, on the fields. -/

theorem barrierOf_put_arr (b v : Nat) : barrierOf (putBits b 95 80 v) = { barrierOf b with arr := v % 2 ^ 16 } := by
  simp (disch := decide) only [barrierOf, bits_putBits, bits_putBits_apart]

theorem barrierOf_put_bytes (b v : Nat) : barrierOf (putBits b 63 32 v) = { barrierOf b with bytes := v % 2 ^ 32 } := by
  simp (disch := decide) only [barrierOf, bits_putBits, bits_putBits_apart]

theorem barrierOf_put_expBytes (b v : Nat) : barrierOf (putBits b 31 0 v) = { barrierOf b with expBytes := v % 2 ^ 32 } := by
  simp (disch := decide) only [barrierOf, bits_putBits, bits_putBits_apart]

theorem barrierOf_put_phase (b v : Nat) : barrierOf (putBits b 96 96 v) = { barrierOf b with phase := decide (v % 2 = 1) } := by
  simp (disch := decide) only [barrierOf, bits_putBits, bits_putBits_apart]
  rfl

theorem barrierOf_put_fault (b v : Nat) : barrierOf (putBits b 97 97 v) = { barrierOf b with fault := decide (v % 2 = 1) } := by
  simp (disch := decide) only [barrierOf, bits_putBits, bits_putBits_apart]
  rfl

theorem barrierOf_put_pfault (b v : Nat) : barrierOf (putBits b 98 98 v) = { barrierOf b with pfault := decide (v % 2 = 1) } := by
  simp (disch := decide) only [barrierOf, bits_putBits, bits_putBits_apart]
  rfl

theorem barPhase_eq (b : Nat) : barPhase b = (barrierOf b).phase := rfl

/-- Where both counts are reached the phase completes. -/
theorem barrierOf_barComplete (b : Nat) : barrierOf (barComplete b) = (barrierOf b).close := by
  have hc : (decide (bits b 79 64 ≤ bits b 95 80) && decide (bits b 31 0 ≤ bits b 63 32)) = true ↔
      (barrierOf b).expArr ≤ (barrierOf b).arr ∧ (barrierOf b).expBytes ≤ (barrierOf b).bytes := by
    rw [Bool.and_eq_true, decide_eq_true_eq, decide_eq_true_eq]
    rfl
  have hf : decide (bits b 97 97 % 2 = 1) = (barrierOf b).fault := by
    have h2 : bits b 97 97 < 2 := Nat.mod_lt _ (by decide)
    rw [Nat.mod_eq_of_lt h2]
    rfl
  unfold barComplete Barrier.close
  by_cases h : (barrierOf b).expArr ≤ (barrierOf b).arr ∧ (barrierOf b).expBytes ≤ (barrierOf b).bytes
  · rw [if_pos (hc.2 h), if_pos h]
    dsimp only
    rw [barPhase_eq]
    simp only [barrierOf_put_arr, barrierOf_put_bytes, barrierOf_put_expBytes, barrierOf_put_phase, barrierOf_put_fault,
      barrierOf_put_pfault, hf]
    cases (barrierOf b).phase <;> rfl
  · rw [if_neg (fun x => h (hc.1 x)), if_neg h]

/-- An arrival. -/
theorem barrierOf_barArrived (b n : Nat) (fault : Bool) : barrierOf (barArrived b n fault) = (barrierOf b).arrive n fault := by
  have h1 : min 65535 (bits b 95 80 + 1) % 2 ^ 16 = min 65535 (bits b 95 80 + 1) := Nat.mod_eq_of_lt (by omega)
  have h2 : min (2 ^ 32 - 1) (bits b 63 32 + n) % 2 ^ 32 = min (2 ^ 32 - 1) (bits b 63 32 + n) := Nat.mod_eq_of_lt (by omega)
  unfold barArrived Barrier.arrive
  rw [barrierOf_barComplete]
  congr 1
  cases fault
  · simp (disch := decide) only [Bool.false_eq_true, if_false, barrierOf_put_bytes, barrierOf_put_arr, bits_putBits_apart, h1, h2,
      Bool.or_false]
    rfl
  · simp only [if_true, barrierOf_put_fault, barrierOf_put_arr, h1, Bool.or_true]
    rfl

/-- More bytes expected. -/
theorem barrierOf_barExpected (b n : Nat) : barrierOf (barExpected b n) = (barrierOf b).expect n := by
  have h : min (2 ^ 32 - 1) (bits b 31 0 + n) % 2 ^ 32 = min (2 ^ 32 - 1) (bits b 31 0 + n) := Nat.mod_eq_of_lt (by omega)
  unfold barExpected Barrier.expect
  rw [barrierOf_barComplete, barrierOf_put_expBytes, h]
  rfl

end Sys2Proof.Machine
end

section
/-! SUPPORT. Accesses at physical addresses that span blocks (spec/04_memories.md R85-R97): a write is split at blocks and stores its bytes,
a read answers them, an atomic reads a block that is then no longer elided. -/
namespace Sys2Proof.Machine

open Sys2Proof.Claims
open State (Access BytesFrame)

/-! Tables in rising order, split. -/

theorem tabFind_append {α : Type} (l m : Tab α) (x : Nat) : tabFind (l ++ m) x = (tabFind l x).or (tabFind m x) := by
  induction l with
  | nil => rfl
  | cons e l ih =>
    obtain ⟨j, y⟩ := e
    simp only [List.cons_append, tabFind_cons, ih]
    split <;> rfl

/-- What is listed in the first part of a rising table is not listed in the second, and each part rises. -/
theorem tabRising_append {α : Type} {l m : Tab α} : ∀ {lo : Nat}, tabRising (l ++ m) lo = true →
    tabRising l 0 = true ∧ tabRising m 0 = true ∧ ∀ x y, tabFind l x = some y → tabFind m x = none := by
  induction l with
  | nil => exact fun h => ⟨rfl, tabRising_mono _ h (Nat.zero_le _), nofun⟩
  | cons e l ih =>
    obtain ⟨j, z⟩ := e
    intro lo h
    simp only [List.cons_append, tabRising, Bool.and_eq_true, decide_eq_true_eq] at h
    obtain ⟨hlo, hr⟩ := h
    obtain ⟨hl, hm, hx⟩ := ih hr
    refine ⟨?_, hm, fun x y hy => ?_⟩
    · simp only [tabRising, Nat.zero_le, decide_true, Bool.true_and]
      refine tabRising_from hl fun e he => ?_
      exact tabRising_le hr e (List.mem_append_left _ he)
    · rw [tabFind_cons] at hy
      split at hy
      · subst_vars
        cases hf : tabFind m x with
        | none => rfl
        | some v =>
          have := tabRising_le hr _ (List.mem_append_right _ (tabFind_mem hf))
          dsimp only at this
          omega
      · exact hx x y hy

/-! Blocks. -/

/-- One more byte in front of the blocks of the later ones. -/
def consBlock (e : Nat × Byte) (acc : List (Tab Byte)) : List (Tab Byte) :=
  match acc with
  | ((a', b') :: r) :: t => if e.1 / 128 = a' / 128 then (e :: (a', b') :: r) :: t else [e] :: ((a', b') :: r) :: t
  | t => [e] :: t

theorem blocksOf_cons (e : Nat × Byte) (bs : Tab Byte) : blocksOf (e :: bs) = consBlock e (blocksOf bs) := rfl

theorem consBlock_flatten (e : Nat × Byte) (acc : List (Tab Byte)) : (consBlock e acc).flatten = e :: acc.flatten := by
  unfold consBlock
  split
  · split <;> rfl
  · rfl

theorem blocksOf_flatten (bs : Tab Byte) : (blocksOf bs).flatten = bs := by
  induction bs with
  | nil => rfl
  | cons e bs ih => rw [blocksOf_cons, consBlock_flatten, ih]

/-- The bytes of each part lie in one block. -/
theorem blocksOf_oneBlock (bs : Tab Byte) : ∀ b ∈ blocksOf bs, ∃ k, ∀ e ∈ b, e.1 / 128 = k := by
  induction bs with
  | nil => exact nofun
  | cons e bs ih =>
    rw [blocksOf_cons]
    unfold consBlock
    have one : ∃ k, ∀ x ∈ [e], x.1 / 128 = k := ⟨e.1 / 128, fun x hx => by rw [List.mem_singleton.1 hx]⟩
    split
    · rename_i a' b' r t heq
      rw [heq] at ih
      split
      · rename_i hsame
        rintro b (_ | ⟨_, hb⟩)
        · obtain ⟨k, hk⟩ := ih _ (.head _)
          refine ⟨k, fun x hx => ?_⟩
          rcases List.mem_cons.1 hx with rfl | hx
          · exact hsame.trans (hk _ (.head _))
          · exact hk x hx
        · exact ih b (.tail _ hb)
      · rintro b (_ | ⟨_, hb⟩)
        · exact one
        · exact ih b hb
    · rintro b (_ | ⟨_, hb⟩)
      · exact one
      · exact ih b hb

/-- Writes of parts that each lie in one sound block, in rising order. -/
theorem State.homeWrites_memByte (wide : Bool) (L : List (Tab Byte)) : ∀ s : State, Clean s →
    (∀ b ∈ L, ∃ k, ∀ e ∈ b, e.1 / 128 = k) → tabRising L.flatten 0 = true → (∀ e ∈ L.flatten, s.blockCode e.1 ≠ 3) → ∀ x,
      (L.foldl (fun s b => s.homeWrite false wide b) s).memByte x = (tabFind L.flatten x).getD (s.memByte x) := by
  induction L with
  | nil => exact fun s _ _ _ _ x => rfl
  | cons b L ih =>
    intro s hc hone hr hs x
    rw [List.flatten_cons] at hr hs ⊢
    obtain ⟨hb, hL, hx⟩ := tabRising_append hr
    rw [List.foldl_cons, tabFind_append]
    cases hbe : b with
    | nil => exact ih s hc (fun c h => hone c (.tail _ h)) hL (fun e he => hs e (List.mem_append_right _ he)) x
    | cons e r =>
      rw [← hbe]
      obtain ⟨k, hk⟩ := hone b (.head _)
      have he : e ∈ b := by rw [hbe]; exact .head _
      have block : OneBlock b e.1 := ⟨hb, fun y hy => (hk y hy).trans (hk e he).symm⟩
      have hcode := hs e (List.mem_append_left _ he)
      obtain ⟨hc2, hcodes⟩ := State.homeWrite_keepsSound hc wide block hcode
      rw [ih _ hc2 (fun c h => hone c (.tail _ h)) hL (fun y hy => hcodes _ (hs y (List.mem_append_right _ hy))) x,
        State.homeWrite_memByte s false wide b e.1 hc.2.2.1 block (.inl hcode)]
      cases hf : tabFind b x with
      | none => rfl
      | some v => rw [hx x v hf]; rfl

/-- A run of sound bytes written at physical addresses. -/
theorem State.writeBytes_stored {s : State} (hc : Clean s) (wide : Bool) {a : Nat} {bs : List Byte} (hs : Sound s a bs.length) :
    (s.writeBytes false wide (spread a bs)).memByte = stored s.memByte a bs := by
  funext x
  have hw := State.homeWrites_memByte wide (blocksOf (spread a bs)) s hc (blocksOf_oneBlock _)
  rw [blocksOf_flatten] at hw
  refine (hw (spread_rising bs a 0 (Nat.zero_le _)) (fun e he => ?_) x).trans ?_
  · obtain ⟨h1, h2⟩ := spread_mem bs a e he
    have := hs (e.1 - a) (by omega)
    rwa [show a + (e.1 - a) = e.1 by omega] at this
  · rw [tabFind_spread]
    unfold stored
    split <;> rfl

/-- A run of sound bytes read at physical addresses. -/
theorem State.readHpa_held (k : Nat) : ∀ (a n : Nat) (s : State), Clean s → (n ≠ 0 → n + a % 128 ≤ 128 * k) → Sound s a n →
    s.BytesFrame (s.readHpa (pieces k a n)).1 ∧ (s.readHpa (pieces k a n)).2.1 = heldBytes s a n ∧
      (s.readHpa (pieces k a n)).2.2 = false := by
  have done : ∀ (a n : Nat) (s : State), n = 0 →
      s.BytesFrame (s.readHpa []).1 ∧ (s.readHpa []).2.1 = heldBytes s a n ∧ (s.readHpa []).2.2 = false := by
    rintro a n s rfl
    exact ⟨.refl s, rfl, rfl⟩
  induction k with
  | zero => exact fun a n s _ hk _ => done a n s (by omega)
  | succ k ih =>
    intro a n s hc hk hs
    unfold pieces
    by_cases hn : n = 0
    · rw [if_pos hn]
      exact done a n s hn
    · rw [if_neg hn]
      dsimp only
      obtain ⟨m, hm⟩ : ∃ m, m = min n (128 - a % 128) := ⟨_, rfl⟩
      rw [← hm]
      have h := hc
      obtain ⟨hb, hsoft, hz, hms, hmb⟩ := h
      obtain ⟨h1, h2, -⟩ := s.homeRead_clean a m hb hsoft hz hms hmb (hs 0 (by omega))
      have hf : s.BytesFrame (s.homeRead a m).2.2 := s.sliceRead_bytes false a m hc
      obtain ⟨k1, k2, k3⟩ := ih (a + m) (n - m) _ (hf.clean hc) (by omega) (hf.sound fun i hi => by
        have := hs (m + i) (by omega)
        rwa [← Nat.add_assoc] at this)
      unfold State.readHpa
      dsimp only
      refine ⟨hf.trans k1, ?_, ?_⟩
      · rw [h1, k2, hf.heldBytes, s.memBytes_held, ← heldBytes_add, show m + (n - m) = n by omega]
      · rw [h2, k3]
        rfl

/-- What an atomic reads: the bytes of a sound block, which holds them still and is no longer elided. -/
theorem State.atomicRead_held {s : State} (hc : Clean s) {a : Nat} (n : Nat) (hs : s.blockCode a ≠ 3) :
    (s.atomicRead a n).1 = heldBytes s a n ∧ (s.atomicRead a n).2.1 = false ∧ Clean (s.atomicRead a n).2.2 ∧
      (s.atomicRead a n).2.2.blockCode a ≠ 3 ∧ (s.atomicRead a n).2.2.mp.nodeId = s.mp.nodeId ∧ ∀ x, (s.atomicRead a n).2.2.memByte x = s.memByte x := by
  have hu := State.unelide_clean hc a
  have spec := State.unelide_spec s a hs
  have hcode : (s.unelide a).blockCode a ≠ 3 := by
    rw [(spec a).2, if_pos rfl]
    decide
  obtain ⟨-, -, hz, hm, hm2⟩ := hc
  have hbroken : s.mapBroken a = false := by
    unfold State.mapBroken
    rw [hm2]
    rfl
  have hread : s.atomicRead a n = (s.unelide a).homeRead a n := by
    unfold State.atomicRead
    rw [State.materialise_idle s a hz, State.readMap_idle s a hm hm2]
    dsimp only
    rw [hbroken]
    rfl
  have hmp : ((s.unelide a).homeRead a n).2.2.mp.nodeId = s.mp.nodeId :=
    ((s.unelide_accessFrame a).trans ((s.unelide a).sliceRead_accessFrame false a n)).nodeId
  have hf : (s.unelide a).BytesFrame ((s.unelide a).homeRead a n).2.2 := (s.unelide a).sliceRead_bytes false a n hu
  have h := hu
  obtain ⟨ub, us, uz, um, um2⟩ := h
  obtain ⟨h1, h2, -⟩ := (s.unelide a).homeRead_clean a n ub us uz um um2 hcode
  rw [hread]
  refine ⟨?_, h2, hf.clean hu, by rwa [hf.blockCode], hmp, fun x => (hf.memByte x).trans (spec x).1⟩
  rw [h1, State.memBytes_held]
  simp only [heldBytes, (spec _).1]

end Sys2Proof.Machine
end

section
/-! The units of the memory system (spec/01_device.md R29, spec/06_consistency.md R120, R121, R128, spec/09_counters_events.md R179). -/
namespace Sys2Proof.Claims

open Sys2Proof.Machine

/-! Barrier updates at a bank. -/

/-- A bank with no error mark applies an update to the object, and to nothing else. -/
theorem applyBank_clean {s : State} {c : Nat} (hb : (s.core c).vaultBad = []) (hs : (s.core c).vaultSoft = []) (op : BankOp) :
    s.applyBank c op = match op with
      | .arrive off n f => s.setBarrier c off (barArrived (s.barrier c off) n f)
      | .expect off n => s.setBarrier c off (barExpected (s.barrier c off) n) := by
  have hc : ∀ off, s.correctVault c off 16 = s := fun off => by
    unfold State.correctVault
    rw [hs]
    rfl
  have hv : ∀ off, s.vaultBroken c off 16 = false := fun off => by
    unfold State.vaultBroken
    rw [hb]
    rfl
  cases op <;> simp only [State.applyBank, hc, hv, Bool.false_eq_true, if_false]

/-- The bank of a core once its head update has left the queue. -/
def withBank (s : State) (c : Nat) (rest : List BankOp) : State := s.modCore c fun k => { k with bank := rest }

/-- The queue is not part of the vault. -/
theorem withBank_vault (s : State) (c : Nat) (rest : List BankOp) (k : Nat) :
    ((withBank s c rest).core k).vault = (s.core k).vault := by
  rw [withBank, State.core_modCore]
  split
  · subst_vars; rfl
  · rfl

/-- The head update of a bank leaves the queue, and the object takes it. -/
theorem vaultBankUpdate_applies {s : State} (hi : Idle s) {c off b : Nat} {op : BankOp} {rest : List BankOp} {f : Barrier → Barrier}
    (hq : (s.core c).bank = op :: rest)
    (hop : (withBank s c rest).applyBank c op = (withBank s c rest).setBarrier c off b)
    (hf : barrierOf b = f (barrierOf ((withBank s c rest).barrier c off))) :
    ∃ t, exec (.vaultBankUpdate c) s = .next t ∧ barrierAt t c off = f (barrierAt s c off) ∧ (t.core c).bank = rest ∧
      OtherVault s t c off 16 := by
  have hv := withBank_vault s c rest
  obtain ⟨hat, hother⟩ := (withBank s c rest).setBarrier_spec c off b
  have hbar : (withBank s c rest).barrier c off = s.barrier c off := by
    rw [State.barrier, State.vaultRead, hv]
    rfl
  refine ⟨(withBank s c rest).setBarrier c off b, ?_, ?_, ?_, fun k p hp => ?_⟩
  · refine (event_idle _ hi).trans ?_
    rw [hq]
    exact congrArg _ hop
  · rw [hat, hf, hbar, barrierAt_eq]
  · simp [State.setBarrier, State.core_modCore, withBank]
  · rw [hother k p hp, hv]

/-- The two updates a bank makes. -/
theorem vaultBankUpdates {s : State} (hi : Idle s) {c : Nat} (off : Nat) (rest : List BankOp) (hb : (s.core c).vaultBad = [])
    (hs : (s.core c).vaultSoft = []) :
    (∀ n f, (s.core c).bank = .arrive off n f :: rest → ∃ t, exec (.vaultBankUpdate c) s = .next t ∧
      barrierAt t c off = (barrierAt s c off).arrive n f ∧ (t.core c).bank = rest ∧ OtherVault s t c off 16) ∧
    ∀ n, (s.core c).bank = .expect off n :: rest → ∃ t, exec (.vaultBankUpdate c) s = .next t ∧
      barrierAt t c off = (barrierAt s c off).expect n ∧ (t.core c).bank = rest ∧ OtherVault s t c off 16 := by
  have hc : (withBank s c rest).core c = { s.core c with bank := rest } := by
    rw [withBank, State.core_modCore, if_pos rfl]
  have happly := fun op => applyBank_clean (s := withBank s c rest) (c := c) (by rw [hc]; exact hb) (by rw [hc]; exact hs) op
  exact ⟨fun n f hq => vaultBankUpdate_applies (f := (·.arrive n f)) hi hq (happly _) (barrierOf_barArrived _ n f),
    fun n hq => vaultBankUpdate_applies (f := (·.expect n)) hi hq (happly _) (barrierOf_barExpected _ n)⟩

/-! Requests of another device. -/

/-- An aligned atomic lies in one block. -/
theorem localAt_aligned (s : State) {a : Nat} (ty : AtomTy) (ha : a % atomBytes ty = 0) : localAt s a % 128 + atomBytes ty ≤ 128 := by
  have h128 : localAt s a % 128 = a % 128 := by unfold localAt; omega
  rw [h128]
  cases ty <;> simp only [atomBytes] at ha ⊢ <;> omega

section
variable {s : State} (hi : Idle s) (hc : Clean s)
include hi hc

theorem remoteLoad_answers {a n : Nat} (h : a + n ≤ Config.hbmBytes) (hs : Sound s (localAt s a) n) :
    ∃ t, exec (.remoteRequest (.load a n)) s = .next t ∧ t.home.remoteData = heldBytes s (localAt s a) n ∧
      t.home.remoteError = false ∧ ∀ y, t.memByte y = s.memByte y := by
  obtain ⟨hf, hdata, hbad⟩ := State.readHpa_held (n / 128 + 2) (localAt s a) n s hc (fun _ => pieces_rounds _ _) hs
  refine ⟨(s.readHpa (pieces (n / 128 + 2) (localAt s a) n)).1.answerRemote (heldBytes s (localAt s a) n) false,
    (event_idle _ hi).trans ?_, rfl, rfl, fun y => hf.memByte y⟩
  dsimp only
  rw [if_neg (Nat.not_lt.2 h), show s.localPa a = localAt s a from rfl, hdata, hbad]

theorem remoteStore_stores {a : Nat} {bs : List Byte} (h : a + bs.length ≤ Config.hbmBytes) (hs : Sound s (localAt s a) bs.length) :
    ∃ t, exec (.remoteRequest (.store a bs)) s = .next t ∧ ∀ y, t.memByte y = stored s.memByte (localAt s a) bs y := by
  refine ⟨s.writeBytes false true (spread (localAt s a) bs), (event_idle _ hi).trans ?_,
    fun y => congrFun (State.writeBytes_stored hc true hs) y⟩
  dsimp only
  rw [if_neg (Nat.not_lt.2 h)]
  rfl

theorem remoteRmw_updates {a : Nat} {ty : AtomTy} {op : AtomOp} (v : DWord) (h : a + atomBytes ty ≤ Config.hbmBytes)
    (ha : a % atomBytes ty = 0) (hop : op.okFor ty = true) (hs : Sound s (localAt s a) (atomBytes ty)) :
    let old := numberAt s.memByte (localAt s a) (atomBytes ty)
    ∃ t, exec (.remoteRequest (.rmw a ty op v)) s = .next t ∧ t.home.remoteError = false ∧
      t.home.remoteData = heldBytes s (localAt s a) (atomBytes ty) ∧
      ∀ y, t.memByte y = stored s.memByte (localAt s a)
        (bytesOfNat (atomBytes ty) (atomResult ty op old (v.toNat % 256 ^ atomBytes ty))) y := by
  intro old
  have hn : 0 < atomBytes ty := by cases ty <;> decide
  have hblock : ∀ x, localAt s a % 128 + (bytesOfNat (atomBytes ty) x).length ≤ 128 := fun x => by
    rw [bytesOfNat_length]
    exact localAt_aligned s ty ha
  have hsound : s.blockCode (localAt s a) ≠ 3 := by
    have := hs 0 hn
    rwa [Nat.add_zero] at this
  obtain ⟨hold, hbad, clean, hcode, hnode, hmem⟩ := State.atomicRead_held hc (atomBytes ty) hsound
  let u := (s.atomicRead (localAt s a) (atomBytes ty)).2.2
  refine ⟨(u.homeWrite false true (spread (localAt s a) (bytesOfNat (atomBytes ty) (atomResult ty op old
    (v.toNat % 256 ^ atomBytes ty))))).answerRemote (heldBytes s (localAt s a) (atomBytes ty)) false,
    (event_idle _ hi).trans ?_, rfl, rfl, fun y => ?_⟩
  · have hall : (decide (Config.hbmBytes < a + atomBytes ty) || decide (a % atomBytes ty ≠ 0) || !op.okFor ty) = false := by
      simp [ha, hop, h]
    dsimp only
    rw [hall, show s.localPa a = localAt s a from rfl, hbad, hold]
    have hpa : (s.atomicRead (localAt s a) (atomBytes ty)).2.2.localPa a = localAt s a := by rw [State.localPa, hnode, localAt]
    have hold2 : natOfBytes (heldBytes s (localAt s a) (atomBytes ty)) = old := rfl
    simp only [Bool.false_eq_true, if_false, hpa, hold2, u]
  · refine (State.homeWrite_memByte u false true _ (localAt s a) clean.2.2.1 (spread_oneBlock (hblock _)) (.inl hcode) y).trans ?_
    rw [tabFind_spread, hmem]
    unfold stored
    split <;> rfl

end

/-! Promotions. -/

/-- The first promotion that satisfies a condition is the one changed. -/
theorem modFirst_split {f : Promotion → Bool} (g : Promotion → Promotion) {x : Promotion} (post : List Promotion) (hx : f x = true) :
    ∀ pre : List Promotion, (∀ y, y ∈ pre → f y = false) → modFirst f g (pre ++ x :: post) = pre ++ g x :: post
  | [], _ => by rw [List.nil_append, modFirst, if_pos hx]; rfl
  | y :: pre, h => by
    rw [List.cons_append, modFirst, if_neg (by rw [h y (.head _)]; decide),
      modFirst_split g post hx pre fun z hz => h z (.tail _ hz), List.cons_append]

/-- The two halves of a promotion. -/
theorem promotion_halves {s : State} (hi : Idle s) {slice : Nat} {pre post : List Promotion} {x : Promotion}
    (hp : s.home.promoting = pre ++ x :: post) (hx : x.slice = slice) :
    (x.asked = false → (∀ y, y ∈ pre → ¬(y.slice = slice ∧ y.asked = false)) →
      exec (.promotionRequest slice) s =
        .next { s with home := { s.home with promoting := pre ++ { x with asked := true } :: post } }) ∧
    (x.asked = true → x.replied = false → (∀ y, y ∈ pre → ¬(y.slice = slice ∧ y.asked = true ∧ y.replied = false)) →
      exec (.promotionReply slice) s =
        .next { s with home := { s.home with promoting := pre ++ { x with replied := true } :: post, replicaLag := [] } }) := by
  refine ⟨fun ha hpre => ?_, fun ha hr hpre => ?_⟩ <;> refine (event_idle _ hi).trans ?_ <;> dsimp only
  · rw [hp, modFirst_split _ post (by simp [hx, ha]) pre fun y hy => ?_]
    have := hpre y hy
    simpa [imp_iff_not_or] using this
  · have hdue : (decide (x.slice = slice) && x.asked && !x.replied) = true := by simp [hx, ha, hr]
    rw [hp, if_pos (List.any_eq_true.2 ⟨x, List.mem_append_right _ (.head _), hdue⟩), modFirst_split _ post hdue pre fun y hy => ?_]
    · rfl
    · have := hpre y hy
      simpa [imp_iff_not_or, or_assoc] using this

/-- Settles O45: a bank's update in the fields of the object, requests at local addresses, and promotions in the order of the list. -/
theorem memorySystemEvents : Obligations.MemorySystemEvents := by
  intro s hi
  refine ⟨fun c off rest hb hs => vaultBankUpdates hi off rest hb hs, fun hc => ⟨fun a n h hs => remoteLoad_answers hi hc h hs,
    fun a bs h hs => remoteStore_stores hi hc h hs, fun a ty op v h ha hop hs => remoteRmw_updates hi hc v h ha hop hs⟩,
    fun slice pre x post hp hx => promotion_halves hi hp hx⟩

end Sys2Proof.Claims
end

section
/-! SUPPORT. Events on one resident pack: the pack goes through the latch and back into its slot, and nothing else of the machine is touched
that the event does not touch; and what the registers of a pack read after several are written. -/
namespace Sys2Proof.Machine

open Sys2Proof.Claims
open State (Access AccessFrame)

/-- A pack in the latch, as an event loads it. -/
def State.latched (s : State) (c sl : Nat) (p : Pack) : State := { s with site := some (c, sl), pk := p }

section
variable {s : State} {c sl : Nat} {p : Pack} (hi : Idle s) (hp : s.packAt c sl = some p)
include hi hp

/-- Between instructions an operation on a pack is the operation on the latch. -/
theorem State.onPack_latched (f : State → State) : s.onPack c sl f = (f (s.latched c sl p)).unload := by
  have hu : s.unload = s := by
    unfold Idle at hi
    simp only [State.unload, State.flush, hi]
    rw [← hi]
  unfold State.onPack
  rw [hu]
  simp only [hp, State.load]
  rfl

/-- The pack as the operation leaves it is in its slot. -/
theorem State.onPack_packAt {f : State → State} (hf : (f (s.latched c sl p)).site = some (c, sl)) :
    (s.onPack c sl f).packAt c sl = some (f (s.latched c sl p)).pk := by
  rw [State.onPack_latched hi hp]
  simp only [State.unload, State.flush, hf]
  exact State.packAt_setPack _ _ _ _

/-- An operation on the pack alone changes its slot alone. -/
theorem State.onPack_slot {f : State → State} {q : Pack} (hf : f (s.latched c sl p) = s.latched c sl q) :
    OnlySlot s (s.onPack c sl f) c sl ∧ (s.onPack c sl f).packAt c sl = some q := by
  refine ⟨?_, by rw [State.onPack_packAt hi hp (by rw [hf]; rfl), hf]; rfl⟩
  rw [State.onPack_latched hi hp, hf]
  have hcore : ∀ k, (s.latched c sl q).unload.core k = if k = c then { s.core c with packs := tabPut (s.core c).packs sl q } else s.core k :=
    fun k => State.core_modCore (s.latched c sl q) c (fun k => { k with packs := tabPut k.packs sl q }) k
  refine ⟨?_, fun k => ?_, fun k n hkn => ?_⟩
  · unfold Idle at hi
    simp only [State.unload, State.flush, State.latched, State.setPack, State.modCore, State.setCore]
    rw [← hi]
  · rw [hcore]
    split
    · subst_vars; rfl
    · rfl
  · unfold State.packAt
    rw [hcore]
    split
    · subst_vars
      rw [tabFind_tabPut, if_neg (fun h => hkn ⟨rfl, h.symm⟩)]
    · rfl

end

/-! Tables. -/

/-- An entry put again in a rising table. -/
theorem tabPut_same {α : Type} {m : Tab α} {lo k : Nat} {x : α} (hr : tabRising m lo = true) (h : tabFind m k = some x) :
    tabPut m k x = m := by
  induction m generalizing lo with
  | nil => cases h
  | cons e m ih =>
    obtain ⟨j, y⟩ := e
    simp only [tabRising, Bool.and_eq_true, decide_eq_true_eq] at hr
    unfold tabPut
    rw [tabFind_cons] at h
    by_cases hj : j = k
    · rw [if_pos hj] at h ⊢
      cases h
      rw [hj]
    · rw [if_neg hj] at h ⊢
      have := tabRising_le hr.2 _ (tabFind_mem h)
      dsimp only at this
      rw [if_neg (by omega), ih hr.2 h]

/-! Lanes. -/

theorem hasLane_single {l : Nat} (hl : l < 32) (k : Nat) : hasLane (1#32 <<< l) k = decide (k = l) := by
  unfold hasLane
  rw [BitVec.getLsbD_shiftLeft, BitVec.getLsbD_one]
  by_cases h : k = l
  · subst h; simp [hl]
  · by_cases hk : k < l
    · simp [h, hk]
    · have : k - l ≠ 0 := by omega
      simp [h, this]

/-! Registers written in a row. -/

/-- The last write to a register is what it reads. -/
theorem Pack.sreg_foldl_setS (n : Nat) : ∀ (l : List (Nat × Word)) (p : Pack),
    (l.foldl (fun (p : Pack) (r, w) => p.setS r w) p).sreg n = (l.reverse.lookup n).getD (p.sreg n)
  | [], _ => rfl
  | (r, w) :: l, p => by
    rw [List.foldl_cons, Pack.sreg_foldl_setS n l, Pack.sreg_setS, List.reverse_cons, List.lookup_append]
    by_cases h : r = n
    · subst h
      rw [if_pos rfl]
      cases l.reverse.lookup r <;> simp
    · have hb : (n == r) = false := by simpa using Ne.symm h
      rw [if_neg h]
      cases l.reverse.lookup n <;> simp [List.lookup_cons, hb]

theorem Pack.foldl_setS_rest : ∀ (l : List (Nat × Word)) (p : Pack),
    l.foldl (fun (p : Pack) (r, w) => p.setS r w) p = { p with s := (l.foldl (fun (p : Pack) (r, w) => p.setS r w) p).s }
  | [], _ => rfl
  | (r, w) :: l, p => by
    rw [List.foldl_cons]
    exact (Pack.foldl_setS_rest l (p.setS r w)).trans rfl

theorem Pack.setSs_rest : ∀ (ws : List Word) (p : Pack) (n : Nat), p.setSs n ws = { p with s := (p.setSs n ws).s }
  | [], _, _ => rfl
  | w :: ws, p, n => (Pack.setSs_rest ws (p.setS n w) (n + 1)).trans rfl

/-- Consecutive registers written. -/
theorem Pack.sreg_setSs (r : Nat) : ∀ (ws : List Word) (p : Pack) (n : Nat),
    (p.setSs n ws).sreg r = if n ≤ r ∧ r < n + ws.length then ws.getD (r - n) 0 else p.sreg r
  | [], p, n => by rw [if_neg (by simp only [List.length_nil]; omega)]; rfl
  | w :: ws, p, n => by
    rw [Pack.setSs, Pack.sreg_setSs r ws, Pack.sreg_setS, List.length_cons]
    by_cases h : n = r
    · subst h
      rw [if_neg (by omega), if_pos rfl, if_pos (by omega), Nat.sub_self, List.getD_cons_zero]
    · by_cases hr : n + 1 ≤ r ∧ r < n + 1 + ws.length
      · rw [if_pos hr, if_pos (by omega), show r - n = (r - (n + 1)) + 1 by omega, List.getD_cons_succ]
      · rw [if_neg hr, if_neg h, if_neg (by omega)]

/-- The words of consecutive bytes of memory. -/
theorem wordsOfBytes_held (s : State) (k : Nat) : ∀ a, wordsOfBytes (heldBytes s a (4 * k)) =
    (List.range k).map fun i => BitVec.ofNat 32 (numberAt s.memByte (a + 4 * i) 4) := by
  induction k with
  | zero => exact fun _ => rfl
  | succ k ih =>
    intro a
    have h4 : heldBytes s a 4 = [s.memByte a, s.memByte (a + 1), s.memByte (a + 2), s.memByte (a + 3)] := rfl
    rw [show 4 * (k + 1) = 4 + 4 * k by omega, heldBytes_add, h4]
    simp only [List.cons_append, List.nil_append, wordsOfBytes, ih, List.range_succ_eq_map, List.map_cons, List.map_map]
    congr 2
    funext i
    rw [Function.comp_apply, show a + 4 + 4 * i = a + 4 * (i + 1) by omega]

/-! A read of a page that the core holds. -/

/-- A read of a sound block at either slice answers its bytes. -/
theorem State.sliceRead_held {s : State} (hc : Clean s) (mirror : Bool) {a : Nat} (n : Nat) (hs : s.blockCode a ≠ 3) :
    (s.sliceRead mirror a n).1 = heldBytes s a n ∧ (s.sliceRead mirror a n).2.1 = false := by
  obtain ⟨hb, hsoft, hz, hm, hm2⟩ := hc
  have hk : s.mapBroken a = false := by
    unfold State.mapBroken
    rw [hm2]
    rfl
  have hu : s.uncorrectable a n = false := by
    simp only [State.uncorrectable, hb, hk, List.contains_nil, List.any_eq_false.2 (fun _ _ => Bool.false_ne_true), Bool.and_false,
      Bool.false_or, Bool.or_false]
    exact decide_eq_false hs
  unfold State.sliceRead
  rw [State.materialise_idle s a hz, State.readMap_idle s a hm hm2]
  dsimp only
  rw [hu, hsoft]
  exact ⟨s.memBytes_held n a, rfl⟩

/-- A load within a block of a page whose translation the core holds, where no replica lags. -/
theorem State.readVA_cached {s : State} {core part va n : Nat} {priv : Priv} {x : Trans} (hc : Clean s)
    (hlag : s.home.replicaLag = []) (hva : va < 2 ^ 52) (hn : n ≠ 0) (hblock : va % 128 + n ≤ 128)
    (hx : (s.core core).tlb.find? (·.hits part (va / 65536)) = some x) (hm : x.misused .flat = false)
    (ha : x.allows .load priv = true) (hk : s.paKind (x.pa va) = .hbm) (hs : s.blockCode (x.pa va) ≠ 3) :
    ∃ u, s.readVA core part priv va n = (u, .ok (heldBytes s (x.pa va) n, false)) ∧ s.AccessFrame u := by
  have htr : s.translate core part priv .load .flat va = (s, .ok x) := by
    unfold State.translate
    dsimp only
    rw [hx]
    simp only [hm, ha, Bool.false_eq_true, if_false, if_true]
  obtain ⟨hbytes, hbad⟩ := State.sliceRead_held hc (s.mirrored core (x.pa va) x.attr) n hs
  let u := (s.sliceRead (s.mirrored core (x.pa va) x.attr) (x.pa va) n).2.2
  have hframe : s.AccessFrame u := s.sliceRead_accessFrame _ _ _
  have hload : s.homeLoad core (x.pa va) x.attr n = (heldBytes s (x.pa va) n, false, u) := by
    unfold State.homeLoad
    have hl : (s.sliceRead (s.mirrored core (x.pa va) x.attr) (x.pa va) n).2.2.home.replicaLag.isEmpty = true := by
      rw [hframe.lag, hlag]
      rfl
    dsimp only
    rw [hl, Bool.not_true, Bool.and_false, if_neg Bool.false_ne_true, hbytes, hbad]
  have hblk : s.readBlock core part priv va n = (u, .ok (heldBytes s (x.pa va) n, false)) := by
    unfold State.readBlock
    rw [if_neg (Nat.not_le.2 hva), htr]
    dsimp only
    rw [hk, if_neg (by decide), hload]
  refine ⟨u, ?_, hframe⟩
  unfold State.readVA
  rw [pieces_one _ hn hblock]
  simp only [State.readPieces, hblk, List.append_nil, Bool.or_false]

end Sys2Proof.Machine
end

section
/-! Timers that come due, grants, and replies to a pack's own accesses (spec/05_control.md R135, R136, spec/07_queues.md R141, R146). -/
namespace Sys2Proof.Machine

open Sys2Proof.Claims

/-! Meetings: threads and records change, nothing else of the pack. -/

theorem Pack.settleMeets_rest (now : Nat) (bound : Option Nat) (p : Pack) :
    p.settleMeets now bound = { p with threads := (p.settleMeets now bound).threads, meets := (p.settleMeets now bound).meets } := by
  have fold : ∀ (as : List (BitVec 52)) (q : Pack), as.foldl (fun p a => p.settleAt now bound a) q = { q with
      threads := (as.foldl (fun p a => p.settleAt now bound a) q).threads
      meets := (as.foldl (fun p a => p.settleAt now bound a) q).meets } := by
    intro as
    induction as with
    | nil => exact fun _ => rfl
    | cons a as ih => exact fun q => (ih (q.settleAt now bound a)).trans rfl
  unfold Pack.settleMeets
  dsimp only
  rw [fold]

theorem Thread.clearMeet_held (t : Thread) : t.clearMeet.held = false := by
  have h : t.clearMeet.meetValid = false := by
    simp [Thread.clearMeet, Thread.meetValid]
  unfold Thread.held
  rw [h]
  simp

/-- A thread that is not held stays so. -/
theorem SameButMeet.held {a b : Thread} (h : SameButMeet a b) (ha : a.held = false) : b.held = false := by
  rcases h with rfl | rfl
  · exact ha
  · exact a.clearMeet_held

/-- A deadline releases the threads held at its address. -/
theorem Pack.timeoutAt_thread (p : Pack) (r : Meeting) (l : Nat) (hl : l < p.threads.length) :
    (p.timeoutAt r).thread l = if hasLane (p.heldAt r.addr) l then (p.thread l).clearMeet else p.thread l :=
  Pack.thread_onLanes p (p.heldAt r.addr) (fun _ t => t.clearMeet) l hl

theorem Pack.timeoutAt_length (p : Pack) (r : Meeting) : (p.timeoutAt r).threads.length = p.threads.length :=
  Pack.onLanes_threads_length _ _ _

/-! Grants of queue entries. -/

/-- A pack in the latch as it is in its slot has the lanes queued that are counted there. -/
theorem State.occ_latched {s : State} {c sl : Nat} {p : Pack} (hi : Idle s) (hp : s.packAt c sl = some p) (k : Nat) (q : QueueId) :
    (s.latched c sl p).occ k q = s.occ k q := by
  cases q with
  | cpy => rfl
  | tile => rfl
  | atom =>
    unfold State.occ
    unfold Idle at hi
    have hp2 : (s.latched c sl p).packAt c sl = some p := hp
    simp only [hi, show (s.latched c sl p).site = some (c, sl) from rfl]
    by_cases h : c = k
    · subst h
      simp only [if_true, hp2, show (s.latched c sl p).pk = p from rfl, Nat.sub_self]
      rfl
    · simp only [if_neg h]
      rfl

theorem State.mayTake_latched {s : State} {c sl : Nat} {p : Pack} (hi : Idle s) (hp : s.packAt c sl = some p) (k part : Nat) (q : QueueId) :
    (s.latched c sl p).mayTake k part q = s.mayTake k part q := by
  have ho : (s.latched c sl p).occ k = s.occ k := funext (State.occ_latched hi hp k)
  unfold State.mayTake
  rw [ho]
  rfl

/-- The first stalled request of a queue is granted where the queue may take it. -/
theorem State.granted_first {s : State} {q : QueueId} {rest : List (QueueId × Nat)} (hs : (s.core s.here).stalls = (q, s.slotHere) :: rest)
    (hm : s.mayTake s.here s.pk.part q = true) : s.granted q = true := by
  unfold State.granted
  rw [hs, hm, List.takeWhile_cons_of_neg (by simp)]
  rfl

/-- A pack all of whose lanes have their entries is entering no instruction. -/
theorem Pack.entering_none {p : Pack} (h : ∀ e, e ∈ p.replay → e.queued = e.mask) : p.entering = false := by
  refine List.any_eq_false.2 fun e he => ?_
  cases e.access with
  | none => simp
  | some a => simp [h e he, BitVec.and_self]

/-! The pool of page requests. -/

theorem lowestFree_le (m : Tab PageReq) (n : Nat) : ∀ k, lowestFree n k m ≤ k + n := by
  induction n with
  | zero => exact fun k => Nat.le_refl k
  | succ n ih =>
    intro k
    unfold lowestFree
    split
    · omega
    · have := ih (k + 1)
      omega

end Sys2Proof.Machine

namespace Sys2Proof.Claims

open Sys2Proof.Machine

section
variable {s : State} {c sl : Nat} {p : Pack} (hi : Idle s) (hp : s.packAt c sl = some p)
include hi hp

/-- An event that is an operation on one pack alone. -/
theorem event_onPack {f : State → State} {q : Pack} (hf : f (s.latched c sl p) = s.latched c sl q) :
    ∃ t, event (fun s => s.onPack c sl f) s = .next t ∧ OnlySlot s t c sl ∧ t.packAt c sl = some q :=
  ⟨_, event_idle _ hi, s.onPack_slot hi hp hf⟩

/-- The deadline of a meeting record (R146). -/
theorem joinTimeout_releases {r : Meeting} (hr : p.meetingDue s.time = some r) :
    ∃ t q, exec (.joinTimeout c sl) s = .next t ∧ OnlySlot s t c sl ∧ t.packAt c sl = some q ∧
      q = { p with fstat := p.fstat ||| 0x40, threads := q.threads, meets := q.meets } ∧ q.threads.length = p.threads.length ∧
      ∀ l, SameButMeet (p.thread l) (q.thread l) ∧
        ((p.thread l).held = true → (p.thread l).pc = r.addr → l < 32 → l < p.threads.length → (q.thread l).held = false) := by
  let bound := (s.latched c sl p).joinBound
  obtain ⟨t, hexec, hslot, hq⟩ := event_onPack hi hp (q := (p.timeoutAt r).settleMeets s.time bound)
    (f := fun s => match s.pk.meetingDue s.time with
      | some r => { s with pk := (s.pk.timeoutAt r).settleMeets s.time s.joinBound }
      | none => s) (by
    have hr2 : (s.latched c sl p).pk.meetingDue (s.latched c sl p).time = some r := hr
    simp only [hr2]
    rfl)
  have hold := (p.timeoutAt r).settleMeets_holdsOnly s.time bound
  refine ⟨t, _, hexec, hslot, hq, ?_, hold.rest.2.trans (p.timeoutAt_length r), fun l => ?_⟩
  · exact (Pack.settleMeets_rest s.time bound (p.timeoutAt r)).trans rfl
  · by_cases hl : l < p.threads.length
    · have hth := p.timeoutAt_thread r l hl
      by_cases hh : hasLane (p.heldAt r.addr) l = true
      · rw [if_pos hh] at hth
        refine ⟨SameButMeet.trans (.inr hth) (hold.thread l), fun _ _ _ _ => (hold.thread l).held ?_⟩
        rw [hth]
        exact Thread.clearMeet_held _
      · rw [if_neg hh] at hth
        refine ⟨SameButMeet.trans (.inl hth) (hold.thread l), fun h1 h2 h3 _ => absurd ?_ hh⟩
        simp [Pack.heldAt, h1, h2, h3]
    · have hout := p.thread_out l (by omega)
      have hout2 := (p.timeoutAt r).thread_out l (by rw [p.timeoutAt_length]; omega)
      exact ⟨SameButMeet.trans (.inl (hout2.trans hout.symm)) (hold.thread l), fun _ _ _ h => absurd h hl⟩

/-- The end of a yield window (R247). -/
theorem yieldWindowEnd_ends {l : Nat} (hl : l < 32) (hlen : l < p.threads.length) :
    ∃ t q, exec (.yieldWindowEnd c sl l) s = .next t ∧ OnlySlot s t c sl ∧ t.packAt c sl = some q ∧
      q = { p with threads := q.threads } ∧
      ∀ k, q.thread k = if k = l ∧ (p.thread k).yield = 1 then { p.thread k with yield := 0 } else p.thread k := by
  let q : Pack := p.onLanes (1#32 <<< l) fun _ t => if t.yield = 1 then { t with yield := 0 } else t
  obtain ⟨t, hexec, hslot, hq⟩ := event_onPack hi hp (q := q)
    (f := fun s => s.onLanes (1#32 <<< l) fun _ t => if t.yield = 1 then { t with yield := 0 } else t) rfl
  refine ⟨t, q, hexec, hslot, hq, rfl, fun k => ?_⟩
  by_cases hk : k < p.threads.length
  · rw [Pack.thread_onLanes _ _ _ _ hk, hasLane_single hl]
    by_cases h : k = l
    · simp [h]
    · simp [h]
  · rw [q.thread_out k (by rw [Pack.onLanes_threads_length]; omega), p.thread_out k (by omega), if_neg (fun h => by omega)]

/-- The wake of ssleep (R281), not before its time. -/
theorem ssleepWake_wakes {d : Nat} (hw : p.wait = .sleep d) :
    (s.time < d → ∃ t, exec (.ssleepWake c sl) s = .next t ∧ OnlySlot s t c sl ∧ t.packAt c sl = some p) ∧
    (d ≤ s.time → ∃ t q, exec (.ssleepWake c sl) s = .next t ∧ OnlySlot s t c sl ∧ t.packAt c sl = some q ∧
      PackDone 4 {} { p with wait := .none } q) := by
  have hw2 : (s.latched c sl p).pk.wait = .sleep d := hw
  refine ⟨fun hd => ?_, fun hd => ?_⟩
  · refine event_onPack hi hp ?_
    simp only [hw2]
    exact if_neg (Nat.not_le.2 hd)
  · let q : Pack := { p.tickWindows p.windows p.live with wait := .none }
    have hthreads : q.threads = p.threads := by
      simp only [q]
      unfold Pack.tickWindows
      split <;> rfl
    have hlive : q.live = p.live := by simp only [Pack.live, Pack.thread, hthreads]
    obtain ⟨t, hexec, hslot, hq⟩ := event_onPack hi hp (q := q.onLanes q.live fun _ t => t.advance 4)
      (f := fun s => match s.pk.wait with
        | .sleep t =>
          if t ≤ s.time then
            State.advance { s with pk := { s.pk.tickWindows s.pk.windows s.pk.live with wait := .none } } s.pk.live 4
          else s
        | _ => s) (by
      simp only [hw2]
      rw [hlive]
      exact (if_pos hd).trans rfl)
    refine ⟨t, _, hexec, hslot, hq, PackDone.advance (q := q) 4 ?_ (fun r => ?_) rfl rfl⟩
    · simp only [q]
      unfold Pack.tickWindows
      split <;> rfl
    · simp only [q]
      unfold Pack.tickWindows
      split <;> rfl

/-- The grant of an acquire (R135). -/
theorem acquireGrant_grants (hw : p.wait = .acquire) (hlist : Listed s)
    (ha : ∀ k q, (k, q) ∈ (s.core c).packs → k / 12 = sl / 12 → k ≠ sl → q.wait ≠ .acquire)
    (hn : p.fullBlocks - p.pro ≤ s.freeBlocks c (sl / 12)) (he : (s.acquireEnergy p).2 = true) :
    ∃ t q, exec (.acquireGrant c (sl / 12)) s = .next t ∧ t.packAt c sl = some q ∧
      PackDone 8 {} { p with
        full := true, wait := .none
        threads := p.threads.map fun u => { u with v := u.v.filter fun (r, _) => decide (r < 8 * p.pro) } } q := by
  obtain ⟨-, hr⟩ := hlist
  have hacq := s.acquiring_only (tabPut_same (hr c) hp).symm hw (hr c) ha
  obtain ⟨hg, -⟩ := s.grantAcquire_only hacq hp
  refine ⟨s.grantAcquire c (sl / 12), p.granted, event_idle _ hi, ?_, Pack.granted_done p⟩
  rw [hg ⟨hn, he⟩, State.packAt_setPack]

/-- The grant of a queue entry (R136). -/
theorem queueEntryGrant_frees {Q : QueueId} {rest : List (QueueId × Nat)} (hw : p.wait = .queue Q) (hs : (s.core c).stalls = (Q, sl) :: rest)
    (hqueued : ∀ e, e ∈ p.replay → e.queued = e.mask) (hm : s.mayTake c p.part Q = true) :
    ∃ t, exec (.queueEntryGrant c Q) s = .next t ∧ t.packAt c sl = some { p with wait := .none } ∧
      (t.core c).stalls = (s.core c).stalls := by
  have hL : ((s.latched c sl p).core (s.latched c sl p).here).stalls = (Q, (s.latched c sl p).slotHere) :: rest := hs
  have hgr : (s.latched c sl p).granted Q = true := State.granted_first hL ((State.mayTake_latched hi hp c p.part Q).trans hm)
  have hent : (s.latched c sl p).pk.entering = false := Pack.entering_none hqueued
  have hfind : (s.core c).stalls.find? (fun x => decide (x.1 = Q)) = some (Q, sl) := by
    rw [hs, List.find?_cons_of_pos (by simp)]
  let f : State → State := fun s =>
    let freed := fun (p : Pack) => if p.wait == .queue Q then { p with wait := .none } else p
    if !s.granted Q then s
    else if Q = .atom && s.pk.entering then
      let (p, all) := s.pk.enterNext
      if all then (State.unstall { s with pk := freed p } Q).wake else { s with pk := p }
    else { s with pk := freed s.pk }
  have hw2 : (p.wait == Wait.queue Q) = true := by rw [hw]; exact beq_self_eq_true _
  have hf : f (s.latched c sl p) = s.latched c sl { p with wait := .none } := by
    simp only [f, hgr, hent, Bool.and_false, Bool.not_true, Bool.false_eq_true, if_false]
    rw [show (s.latched c sl p).pk = p from rfl, hw2]
    rfl
  obtain ⟨⟨-, hcore, -⟩, hat⟩ := s.onPack_slot hi hp hf
  refine ⟨s.onPack c sl f, (event_idle _ hi).trans ?_, hat, ?_⟩
  · show Host.Outcome.next (match (s.core c).stalls.find? (fun x => decide (x.1 = Q)) with
      | none => s
      | some (_, sl) => s.onPack c sl f) = _
    rw [hfind]
  · rw [hcore c]

/-- The reply to a fetch (R320). -/
theorem fetchReply_fills (hf : State.fetchLate (s.latched c sl p) c sl = true) :
    ∃ t, exec (.fetchReply c sl) s = .next t ∧ OnlySlot s t c sl ∧ t.packAt c sl = some { p with filled := true } :=
  event_onPack hi hp (by rw [if_pos hf]; rfl)

/-- The oldest reply to an access of the pack (R283). -/
theorem packAccessReply_takes {x : Late} {rest : List Late} (hl : p.late = x :: rest) (hid : ∀ y, y ∈ rest → y.id ≠ x.id) :
    ∃ t q, exec (.packAccessReply c sl) s = .next t ∧ OnlySlot s t c sl ∧ t.packAt c sl = some q ∧
      q = { p with s := q.s, pend := q.pend, late := rest } ∧ (∀ w, w ∈ q.pend → w.owner ≠ x.id) ∧
      ∀ r, q.sreg r = (x.s.reverse.lookup r).getD (p.sreg r) := by
  obtain ⟨t, hexec, hslot, hq⟩ := event_onPack hi hp (q := p.takeLate x)
    (f := fun s => match s.pk.late with
      | l :: _ => { s with pk := s.pk.takeLate l }
      | [] => s) (by
    have hl2 : (s.latched c sl p).pk.late = x :: rest := hl
    simp only [hl2]
    rfl)
  have hlate : p.late.filter (·.id ≠ x.id) = rest := by
    rw [hl, List.filter_cons_of_neg (by simp)]
    exact List.filter_eq_self.2 fun y hy => by simpa using hid y hy
  refine ⟨t, _, hexec, hslot, hq, ?_, fun w hw => ?_, fun r => ?_⟩
  · unfold Pack.takeLate
    rw [Pack.foldl_setS_rest, hlate]
    rfl
  · unfold Pack.takeLate Pack.unpend at hw
    simpa using (List.mem_filter.1 hw).2
  · exact Pack.sreg_foldl_setS r x.s p

/-- The argument load (R15). -/
theorem argumentLoad_fills {g : Group} {n : Nat} {x : Trans} (hg : s.group p.group = some g) (hargs : p.args = .pending)
    (hwait : p.wait ≠ .parked) (hreq : p.req = none) (hhalt : (s.part p.part).halted = false) (hc : Clean s)
    (hlag : s.home.replicaLag = []) (harg : g.arg.toNat = n * 64) (hva : n * 64 + 64 ≤ 2 ^ 52)
    (hx : (s.core c).tlb.find? (·.hits p.part (n * 64 / 65536)) = some x) (hm : x.misused .flat = false)
    (ha : x.allows .load p.priv = true) (hk : s.paKind (x.pa (n * 64)) = .hbm) (hs : Sound s (x.pa (n * 64)) 64) :
    ∃ t q, exec (.argumentLoadReply c sl) s = .next t ∧ t.packAt c sl = some q ∧
      q = { p with s := q.s, pend := q.pend, args := .done } ∧ (∀ w, w ∈ q.pend → w.owner ≠ argOwner) ∧
      ∀ r, q.sreg r = if r < 16 then BitVec.ofNat 32 (numberAt s.memByte (x.pa (n * 64) + 4 * r) 4) else p.sreg r := by
  have hdue : s.argDue c sl = true := by
    simp [State.argDue, hp, hg, Pack.argReady, hargs, hwait, hreq, hhalt]
  let pc := (p.thread ((lanesOf p.live).headD 0)).pc
  let L : State := { s.latched c sl p with act := p.live, ipc := pc }
  have hL : Clean L := hc
  have hcode : L.blockCode (x.pa (n * 64)) ≠ 3 := by
    have := hs 0 (by decide)
    rwa [Nat.add_zero] at this
  obtain ⟨u, hread, hframe⟩ := State.readVA_cached (s := L) (core := c) (priv := p.priv) (n := 64) hL hlag (by omega) (by decide)
    (by omega) hx hm ha hk hcode
  have hupk : u.pk = p := hframe.pk
  have hpack : State.packRead L (n * 64) 64 = (u, .ok (heldBytes s (x.pa (n * 64)) 64)) := by
    have hbad : L.answeredBad (n * 64) = false := by
      unfold State.answeredBad
      rw [show L.pk.req = none from hreq]
    have hforget : u.forgetReq (n * 64) = u := by
      unfold State.forgetReq
      rw [hupk, hreq]
    unfold State.packRead
    rw [if_neg (by omega), hbad, if_neg Bool.false_ne_true, show L.readVA L.here L.pk.part L.pk.priv (n * 64) 64 = _ from hread]
    simp only [Bool.false_eq_true, if_false, hforget]
    rfl
  let q : Pack := p.argDone.setSs 0 (wordsOfBytes (heldBytes s (x.pa (n * 64)) 64))
  have hload : (s.latched c sl p).loadArgs g = { u with ipc := pc, pk := q } := by
    have hreq2 : (s.latched c sl p).pk.req = none := hreq
    have hpack2 : State.packRead { s.latched c sl p with act := (s.latched c sl p).pk.live, ipc := pc } (n * 64) 64 = _ := hpack
    unfold State.loadArgs
    simp only [hreq2, harg]
    rw [show ((s.latched c sl p).pk.thread ((lanesOf (s.latched c sl p).pk.live).headD 0)).pc = pc from rfl, hpack2]
    simp only [hupk]
    rfl
  let f : State → State := fun s => match s.myGroup with | some g => s.loadArgs g | none => s
  have hf : f (s.latched c sl p) = { u with ipc := pc, pk := q } := by
    have hg2 : (s.latched c sl p).myGroup = some g := hg
    simp only [f, hg2, hload]
  have hat := s.onPack_packAt hi hp (f := f) (by rw [hf]; exact hframe.site)
  rw [hf] at hat
  refine ⟨s.onPack c sl f, q, (event_idle _ hi).trans ?_, hat, ?_, fun w hw => ?_, fun r => ?_⟩
  · exact congrArg _ (if_pos hdue)
  · exact (Pack.setSs_rest _ p.argDone 0).trans rfl
  · have : w ∈ p.argDone.pend := by
      rw [show q.pend = p.argDone.pend from by simp only [q]; rw [Pack.setSs_rest]] at hw
      exact hw
    simpa using (List.mem_filter.1 this).2
  · have hwords := wordsOfBytes_held s 16 (x.pa (n * 64))
    have hlen : (wordsOfBytes (heldBytes s (x.pa (n * 64)) 64)).length = 16 := by
      rw [show 64 = 4 * 16 from rfl, hwords, List.length_map, List.length_range]
    simp only [q]
    rw [Pack.sreg_setSs, hlen, show 64 = 4 * 16 from rfl, hwords]
    by_cases hr : r < 16
    · rw [if_pos (by omega), if_pos hr, Nat.sub_zero, List.getD_eq_getElem?_getD, List.getElem?_map, List.getElem?_range hr]
      rfl
    · rw [if_neg (by omega), if_neg hr]
      rfl

end

/-- The grant of an entry of the page-request pool (R141). -/
theorem pageRequestEntry_granted {s : State} (hi : Idle s) {r : PageReq} {rest : List PageReq} (ho : s.overflow = r :: rest)
    (hm : s.pageMayTake r.fn = true) (hw : r.waiter = .idle) (h2 : r.stage2 = false) :
    ∃ t id, exec (.pageRequestEntryGrant r.fn) s = .next t ∧ t.overflow = rest ∧ id ≤ 2048 ∧
      ∀ j, tabFind t.pages j = if j = id then some r else tabFind s.pages j := by
  have hfind : s.overflow.find? (fun x => x.fn = r.fn) = some r := by rw [ho, List.find?_cons_of_pos (by simp)]
  let u : State := { s with overflow := rest }
  have hu : u.pageMayTake r.fn = true := hm
  have hplace : u.placeRequest r = { u with pages := tabPut u.pages (lowestFree 2048 0 u.pages) r } := by
    unfold State.placeRequest
    rw [if_pos hu, h2]
    dsimp only
    rw [if_neg Bool.false_ne_true]
    unfold State.tellWaiter
    rw [hw]
  refine ⟨u.placeRequest r, lowestFree 2048 0 s.pages, (event_idle _ hi).trans ?_, by rw [hplace], ?_, fun j => ?_⟩
  · rw [hfind]
    dsimp only
    rw [if_pos hm, ho, List.erase_cons_head]
  · have := lowestFree_le s.pages 2048 0
    omega
  · rw [hplace]
    dsimp only
    rw [tabFind_tabPut]
    by_cases h : j = lowestFree 2048 0 s.pages
    · rw [if_pos h, if_pos h.symm]
    · rw [if_neg h, if_neg (Ne.symm h)]

/-- Settles O43: each event acts on the pack in its slot, or on its queue. -/
theorem timersAndGrants : Obligations.TimersAndGrants := by
  intro s c sl p hi hp
  refine ⟨fun r hr => joinTimeout_releases hi hp hr, fun l hl hlen => yieldWindowEnd_ends hi hp hl hlen,
    fun d hw => ssleepWake_wakes hi hp hw, fun hw hlist ha hn he _ => acquireGrant_grants hi hp hw hlist ha hn he,
    fun Q rest hw hs _ hq hm => queueEntryGrant_frees hi hp hw hs hq hm, fun hf => fetchReply_fills hi hp hf,
    fun x rest hl hid => packAccessReply_takes hi hp hl hid,
    fun g n x hg hargs hwait hreq hhalt hc hlag harg hva hx hm ha hk hs => ?_,
    fun r rest ho hm hw h2 => pageRequestEntry_granted hi ho hm hw h2⟩
  exact argumentLoad_fills hi hp hg hargs hwait hreq hhalt hc hlag harg hva hx hm ha hk hs

end Sys2Proof.Claims
end

section
/-! SUPPORT. What the scheduler's and the MP's work leaves alone (spec/07_queues.md R131-R133, spec/01_device.md R25-R27,
spec/09_counters_events.md R183): pools, admission and metering. -/
namespace Sys2Proof.Machine

open Sys2Proof.Claims
open State (Access)

/-! Pools. -/

theorem State.nodePrio_access (s : State) (n : Node) : Access true s (s.nodePrio n).1 := State.effective_access 64 s n.part n.rcb.toNat

/-- Ordering a pool reads the RCBs of its nodes. -/
theorem State.poolOf_access (s : State) (die : Nat) : Access true s (s.poolOf die).1 := by
  have fold : ∀ (l : Tab Node) (x : State × List PoolKey), Access true x.1 (l.foldl (fun (s, ks) (slot, n) =>
      if n.waiting && n.die = die && !(s.region n.part n.rcb.toNat).torn then
        let (s, p) := s.nodePrio n
        (s, insertPool ⟨p, n.readyTime, n.readySrc, slot⟩ ks)
      else (s, ks)) x).1 := by
    intro l
    induction l with
    | nil => exact fun x => .refl x.1
    | cons e l ih =>
      intro x
      refine .trans ?_ (ih _)
      dsimp only
      split
      · exact x.1.nodePrio_access e.2
      · exact .refl x.1
  exact fold s.sched.nodes (s, [])

/-! Regions. -/

theorem State.part_modPart (s : State) (p : Nat) (f : Partition → Partition) (q : Nat) :
    (s.modPart p f).part q = if q = p then f (s.part p) else s.part q := by
  simp only [State.modPart, State.part, tabGet, tabFind_tabPut]
  by_cases h : p = q
  · rw [if_pos h, if_pos h.symm]
    rfl
  · rw [if_neg h, if_neg (Ne.symm h)]

theorem State.region_modRegion (s : State) (part va : Nat) (f : Region → Region) :
    (s.modRegion part va f).region part va = f (s.region part va) := by
  rw [State.modRegion, State.region, State.part_modPart, if_pos rfl]
  exact tabGet_tabSet_same _ _ _ _

/-- An access leaves the regions as they are. -/
theorem State.Access.region {w : Bool} {s t : State} (h : Access w s t) (part va : Nat) : t.region part va = s.region part va := by
  unfold State.region State.part
  rw [h.frame.parts]

theorem State.rcbPieces_access {w : Bool} (s : State) (part va : Nat) : Access w s (s.rcbPieces part va).1 := by
  have piece : ∀ (u : State) (a : Nat), Access w u (match u.translate agentMp part .root .load .flat a with
      | (s, .ok t) => (s, [t.pa a / 64])
      | (s, .error _) => (s, []) : State × List Nat).1 := by
    intro u a
    have h := u.translate_access (w := w) agentMp part .root .load .flat a nofun
    split <;> rename_i heq <;> rw [heq] at h <;> exact h
  exact (piece s va).trans (piece _ (va + 64))

/-! Admission leaves the nodes alone. -/

theorem State.admissionRcb_sched (s : State) (part va : Nat) : (s.admissionRcb part va).1.sched = s.sched := by
  have h := (State.effective_access 64 s part va).frame.sched
  unfold State.admissionRcb
  dsimp only
  split
  · split <;> exact h
  · exact h

theorem State.scrubHeld_sched (s : State) (part va : Nat) (r : Rcb) : (s.scrubHeld part va r).1.sched = s.sched := by
  have h := (s.rcbPieces_access (w := true) part va).frame.sched
  unfold State.scrubHeld
  split
  · rfl
  · dsimp only
    split
    · exact h
    · split
      · exact h
      · exact ((State.setRcbField_access _ _ _ _ _ _ _).frame.sched).trans
          (((State.rcbField_access (w := true) _ _ _ _ _ _).frame.sched).trans h)

/-! Clocks and counts of the MP. -/

/-- The counts of the MP and the clocks of the cores are as before. -/
structure State.ClockFrame (s t : State) : Prop where
  planning : t.mp.planning = s.mp.planning
  measured : t.mp.measured = s.mp.measured
  corrections : t.mp.corrections = s.mp.corrections
  mhz : ∀ c, (t.core c).mhz = (s.core c).mhz
  mhzNext : ∀ c, (t.core c).mhzNext = (s.core c).mhzNext

theorem State.ClockFrame.refl (s : State) : s.ClockFrame s := ⟨rfl, rfl, rfl, fun _ => rfl, fun _ => rfl⟩

theorem State.ClockFrame.trans {s t u : State} (h : s.ClockFrame t) (k : t.ClockFrame u) : s.ClockFrame u :=
  ⟨k.planning.trans h.planning, k.measured.trans h.measured, k.corrections.trans h.corrections,
    fun c => (k.mhz c).trans (h.mhz c), fun c => (k.mhzNext c).trans (h.mhzNext c)⟩

theorem State.Access.clockFrame {w : Bool} {s t : State} (h : Access w s t) : s.ClockFrame t := by
  have hf := h.frame
  refine ⟨by rw [hf.mp], by rw [hf.mp], by rw [hf.mp], fun c => ?_, fun c => ?_⟩ <;>
  · obtain ⟨l, hl⟩ := hf.core c
    rw [hl]

theorem State.unstick_clockFrame (l : List Nat) : ∀ s : State, s.ClockFrame (s.unstick l) := by
  induction l with
  | nil => exact .refl
  | cons slot rest ih =>
    intro s
    refine .trans ?_ (ih _)
    exact ⟨rfl, rfl, rfl, fun _ => rfl, fun _ => rfl⟩

/-- Counting a boundary at which the head of a pool is stuck. -/
theorem State.countStuck_clockFrame (s : State) (die : Nat) : s.ClockFrame (s.countStuck die) := by
  have h := (s.poolOf_access die).clockFrame
  have setNode : ∀ (u : State) slot n, u.ClockFrame (u.setNode slot n) := fun u _ _ => ⟨rfl, rfl, rfl, fun _ => rfl, fun _ => rfl⟩
  unfold State.countStuck
  split
  · rename_i heq
    rwa [heq] at h
  · rename_i u slot rest heq
    rw [heq] at h
    have k := h.trans (State.unstick_clockFrame rest u)
    dsimp only
    split
    · exact k
    · split
      · exact k.trans (setNode _ _ _)
      · exact k.trans (setNode _ _ _)
      · exact k

/-- Predicting the interval's rates. -/
theorem State.predict_clockFrame (s : State) : s.ClockFrame s.predict := by
  have fold : ∀ (l : Tab Group) (u : State), u.ClockFrame (l.foldl (fun s (_, g) =>
      let w := s.groupRate g
      State.modRegion { s with mp := { s.mp with predicted := s.mp.predicted + w } } g.part g.rcb.toNat fun x =>
        { x with rate := x.rate + w }) u) := by
    intro l
    induction l with
    | nil => exact .refl
    | cons e l ih =>
      intro u
      refine .trans ?_ (ih _)
      exact ⟨rfl, rfl, rfl, fun _ => rfl, fun _ => rfl⟩
  unfold State.predict
  refine .trans ?_ (fold _ _)
  exact ⟨rfl, rfl, rfl, fun _ => rfl, fun _ => rfl⟩

/-! Metering. -/

/-- What metering leaves alone, and that no energy counted is taken back (R183). -/
structure State.MeterFrame (s t : State) : Prop where
  clocks : s.ClockFrame t
  sched : t.sched = s.sched
  energy : ∀ p, (s.part p).energy ≤ (t.part p).energy

theorem State.MeterFrame.refl (s : State) : s.MeterFrame s := ⟨.refl s, rfl, fun _ => Nat.le_refl _⟩

theorem State.MeterFrame.trans {s t u : State} (h : s.MeterFrame t) (k : t.MeterFrame u) : s.MeterFrame u :=
  ⟨h.clocks.trans k.clocks, k.sched.trans h.sched, fun p => Nat.le_trans (h.energy p) (k.energy p)⟩

/-- What charging a region leaves alone besides: the groups, and the aggregates of the partitions. -/
structure State.ChargeFrame (s t : State) : Prop where
  clocks : s.ClockFrame t
  sched : t.sched = s.sched
  groups : t.groups = s.groups
  energy : ∀ p, (t.part p).energy = (s.part p).energy
  carry : ∀ p, (t.part p).carry = (s.part p).carry

theorem State.ChargeFrame.refl (s : State) : s.ChargeFrame s := ⟨.refl s, rfl, rfl, fun _ => rfl, fun _ => rfl⟩

theorem State.ChargeFrame.trans {s t u : State} (h : s.ChargeFrame t) (k : t.ChargeFrame u) : s.ChargeFrame u :=
  ⟨h.clocks.trans k.clocks, k.sched.trans h.sched, k.groups.trans h.groups, fun p => (k.energy p).trans (h.energy p),
    fun p => (k.carry p).trans (h.carry p)⟩

theorem State.Access.chargeFrame {w : Bool} {s t : State} (h : Access w s t) : s.ChargeFrame t := by
  have hp : ∀ p, t.part p = s.part p := fun p => by
    unfold State.part
    rw [h.frame.parts]
  exact ⟨h.clockFrame, h.frame.sched, h.frame.groups, fun p => by rw [hp], fun p => by rw [hp]⟩

theorem State.modRegion_chargeFrame (s : State) (part va : Nat) (f : Region → Region) : s.ChargeFrame (s.modRegion part va f) := by
  refine ⟨⟨rfl, rfl, rfl, fun _ => rfl, fun _ => rfl⟩, rfl, rfl, fun p => ?_, fun p => ?_⟩ <;> rw [State.modRegion, State.part_modPart] <;>
    split <;> simp_all

theorem State.chargeRegion_chargeFrame (s : State) (part va slot uj : Nat) : s.ChargeFrame (s.chargeRegion part va slot uj) := by
  have h := fun x => ((s.rcbField_access agentMp part va 136 8).trans (State.setRcbField_access _ agentMp part va 136 8 x)).trans
    (State.effective_access 64 _ part va)
  unfold State.chargeRegion
  split
  · exact .refl s
  · dsimp only
    split
    · split
      · exact (h _).chargeFrame.trans ((State.modRegion_chargeFrame _ _ _ _).trans (State.regionLog_access _ _ _ _ _ _ _ _ _ _).chargeFrame)
      · exact (h _).chargeFrame
    · exact (h _).chargeFrame

/-- Charging a group's region: the group keeps what it carries for its partition. -/
theorem State.chargeUsed_spec {s : State} {gid : Nat} {g : Group} (hg : s.group gid = some g) (pj : Nat) :
    (∃ n, (s.chargeUsed gid pj).group gid = some { g with nano := n }) ∧ s.ClockFrame (s.chargeUsed gid pj) ∧
      (s.chargeUsed gid pj).sched = s.sched ∧ (∀ p, ((s.chargeUsed gid pj).part p).energy = (s.part p).energy) ∧
      ∀ p, ((s.chargeUsed gid pj).part p).carry = (s.part p).carry := by
  have key : ∀ n uj, let u := ((s.modGroup gid fun g => { g with nano := n }).modRegion g.part g.rcb.toNat fun x =>
      { x with carry := 0 }).chargeRegion g.part g.rcb.toNat g.slot uj
      u.group gid = some { g with nano := n } ∧ s.ClockFrame u ∧ u.sched = s.sched ∧
        (∀ p, (u.part p).energy = (s.part p).energy) ∧ ∀ p, (u.part p).carry = (s.part p).carry := by
    intro n uj u
    have hf := (State.modRegion_chargeFrame (s.modGroup gid fun g => { g with nano := n }) g.part g.rcb.toNat fun x =>
      { x with carry := 0 }).trans (State.chargeRegion_chargeFrame _ g.part g.rcb.toNat g.slot uj)
    have hmod : s.ClockFrame (s.modGroup gid fun g => { g with nano := n }) := ⟨rfl, rfl, rfl, fun _ => rfl, fun _ => rfl⟩
    refine ⟨?_, hmod.trans hf.clocks, hf.sched, hf.energy, hf.carry⟩
    unfold State.group at hg ⊢
    rw [hf.groups]
    simp only [State.modGroup, tabMod, hg, tabFind_tabPut, if_true]
  unfold State.chargeUsed
  rw [hg]
  obtain ⟨h1, h2⟩ := key _ _
  exact ⟨⟨_, h1⟩, h2⟩

/-- Charging a group: its partition's aggregate takes the whole µJ of what was carried and what is new (R183). -/
theorem State.chargeGroup_spec {s : State} {gid : Nat} {g : Group} (hg : s.group gid = some g) (pj : Nat) :
    s.ClockFrame (s.chargeGroup gid pj) ∧ (s.chargeGroup gid pj).sched = s.sched ∧
      ∀ p, ((s.chargeGroup gid pj).part p).energy = (s.part p).energy +
          (if p = g.part then (g.nanoPart + (s.part g.part).carry + pj) / 1000000 else 0) ∧
        ((s.chargeGroup gid pj).part p).carry = if p = g.part then 0 else (s.part p).carry := by
  obtain ⟨⟨n, hn⟩, hclock, hsched, henergy, hcarry⟩ := State.chargeUsed_spec hg pj
  unfold State.chargeGroup State.chargeTotal
  simp only [hn]
  refine ⟨hclock.trans ⟨rfl, rfl, rfl, fun _ => rfl, fun _ => rfl⟩, hsched, fun p => ?_⟩
  rw [State.part_modPart]
  by_cases hp : p = g.part
  · rw [if_pos hp, if_pos hp, if_pos hp, hp]
    refine ⟨?_, rfl⟩
    show ((s.chargeUsed gid pj).part g.part).energy + (g.nanoPart + ((s.chargeUsed gid pj).part g.part).carry + pj) / 1000000 = _
    rw [henergy, hcarry]
  · rw [if_neg hp, if_neg hp, if_neg hp]
    exact ⟨henergy p, hcarry p⟩

theorem State.meterCore_meterFrame (s : State) (c : Nat) : s.MeterFrame (s.meterCore c).1 := by
  refine ⟨⟨rfl, rfl, rfl, fun k => ?_, fun k => ?_⟩, rfl, fun _ => Nat.le_refl _⟩ <;>
  · simp only [State.meterCore, State.core_modCore]
    split
    · subst_vars; rfl
    · rfl

/-- Reading a core's energy. -/
theorem State.meter_meterFrame (s : State) (c : Nat) : s.MeterFrame (s.meter c) := by
  have h := s.meterCore_meterFrame c
  unfold State.meter
  dsimp only
  split
  · rename_i gid g hfind
    refine h.trans ?_
    cases hg : (s.meterCore c).1.group gid with
    | none =>
      unfold State.chargeGroup State.chargeTotal State.chargeUsed
      simp only [hg]
      exact .refl _
    | some g =>
      obtain ⟨hclock, hsched, henergy⟩ := State.chargeGroup_spec hg (s.meterCore c).2
      exact ⟨hclock, hsched, fun p => by rw [(henergy p).1]; exact Nat.le_add_right _ _⟩
  · exact h

theorem State.meterAll_meterFrame (s : State) : s.MeterFrame s.meterAll := by
  have fold : ∀ (l : List Nat) (u : State), u.MeterFrame (l.foldl (·.meter) u) := by
    intro l
    induction l with
    | nil => exact .refl
    | cons c l ih => exact fun u => (u.meter_meterFrame c).trans (ih _)
  exact fold _ s

end Sys2Proof.Machine
end

section
/-! The planning interval and the energy correction (spec/01_device.md R25-R27, spec/09_counters_events.md R183). -/
namespace Sys2Proof.Claims

open Sys2Proof.Machine

theorem clockStep_ok (x : Nat) : ClockOk (clockStep x) := by
  unfold ClockOk clockStep
  omega

theorem clockOk_min {x y : Nat} (hx : ClockOk x) (hy : ClockOk y) : ClockOk (min x y) := by
  rcases Nat.le_total x y with h | h
  · rwa [Nat.min_eq_left h]
  · rwa [Nat.min_eq_right h]

/-- The governor names a clock of R10. -/
theorem nextClock_ok (s : State) (c : Nat) {k : Core} (hk : ClockOk k.mhz) : ClockOk (s.nextClock c k) := by
  unfold State.nextClock
  dsimp only
  split
  · exact clockOk_min (clockStep_ok _) (clockStep_ok _)
  · split
    · exact clockOk_min (clockStep_ok _) hk
    · exact clockStep_ok _

/-- At a boundary a core takes the clock that was named for it, and the governor names the next. -/
def turnClock (s : State) (c : Nat) : State :=
  s.modCore c fun k => { k with mhz := k.mhzNext, mhzNext := s.nextClock c { k with mhz := k.mhzNext } }

/-- What a core is at the boundary, by the counts of `s`. -/
def turned (s : State) (c : Nat) : Core :=
  { s.core c with mhz := (s.core c).mhzNext, mhzNext := s.nextClock c { s.core c with mhz := (s.core c).mhzNext } }

/-- The cores turn one by one, each by the counts of the MP that all share. -/
theorem turnClocks_spec (s : State) (n : Nat) :
    ((List.range n).foldl turnClock s).mp = s.mp ∧
      ∀ c, ((List.range n).foldl turnClock s).core c = if c < n then turned s c else s.core c := by
  induction n with
  | zero => exact ⟨rfl, fun c => (if_neg (Nat.not_lt_zero c)).symm⟩
  | succ n ih =>
    obtain ⟨hmp, hcore⟩ := ih
    rw [List.range_succ, List.foldl_append]
    refine ⟨hmp, fun c => ?_⟩
    show (turnClock _ n).core c = _
    rw [turnClock, State.core_modCore]
    by_cases h : c = n
    · rw [if_pos h, if_pos (by omega), hcore, if_neg (Nat.lt_irrefl n), h]
      unfold turned State.nextClock
      rw [hmp]
    · rw [if_neg h, hcore]
      by_cases hlt : c < n
      · rw [if_pos hlt, if_pos (by omega)]
      · rw [if_neg hlt, if_neg (by omega)]

/-- A planning interval counts one, and each core takes the clock that was named for it (R10, R26). -/
theorem planningInterval_turns {s : State} (hi : Idle s) :
    (s.time < (s.mp.planning + 1) * 10000 → exec .planningInterval s = .next s) ∧
      ((s.mp.planning + 1) * 10000 ≤ s.time → ∃ t, exec .planningInterval s = .next t ∧ t.mp.planning = s.mp.planning + 1 ∧
        t.mp.measured = Config.measuredMilliwatt (s.mp.planning + 1) ∧
        ∀ c, c < 160 → (t.core c).mhz = (s.core c).mhzNext ∧
          (ClockOk (s.core c).mhzNext → ClockOk (t.core c).mhzNext)) := by
  refine ⟨fun h => (event_idle _ hi).trans (by rw [if_pos h]), fun h => ?_⟩
  let n := s.mp.planning + 1
  let s0 : State := { s with mp := { s.mp with planning := n, measured := Config.measuredMilliwatt n } }
  let s1 := s0.meterAll.predict
  let s2 := (List.range 160).foldl turnClock s1
  have h1 : s0.ClockFrame s1 := s0.meterAll_meterFrame.clocks.trans s0.meterAll.predict_clockFrame
  obtain ⟨hmp, hcore⟩ := turnClocks_spec s1 160
  have h3 : s2.ClockFrame ((s2.countStuck 0).countStuck 1) := (s2.countStuck_clockFrame 0).trans (State.countStuck_clockFrame _ 1)
  refine ⟨(s2.countStuck 0).countStuck 1, (event_idle _ hi).trans (by rw [if_neg (Nat.not_lt.mpr h)]; rfl), ?_, ?_, fun c hc => ?_⟩
  · rw [h3.planning, hmp, h1.planning]
  · rw [h3.measured, hmp, h1.measured]
  · have hturn : s2.core c = turned s1 c := by rw [hcore, if_pos hc]
    have hnext : (s1.core c).mhzNext = (s.core c).mhzNext := h1.mhzNext c
    rw [h3.mhz, h3.mhzNext, hturn, ← hnext]
    exact ⟨rfl, fun hok => nextClock_ok s1 c hok⟩

/-- An energy correction counts one and takes no energy back; the one group of a core is charged with what was read (R25, R183). -/
theorem energyCorrection_charges {s : State} (hi : Idle s) :
    (s.time < (s.mp.corrections + 1) * 1000000 → exec .energyCorrection s = .next s) ∧
      ((s.mp.corrections + 1) * 1000000 ≤ s.time →
        ∃ t, exec .energyCorrection s = .next t ∧ t.mp.corrections = s.mp.corrections + 1 ∧ t.sched = s.sched ∧
          (∀ p, (s.part p).energy ≤ (t.part p).energy) ∧
          ((∀ gid g, (gid, g) ∈ s.groups → g.away = true) → t = { s with mp := { s.mp with corrections := s.mp.corrections + 1 } }) ∧
          ∀ gid g, s.groups = [(gid, g)] → g.away = false →
            (t.part g.part).energy = (s.part g.part).energy +
              (g.nanoPart + (s.part g.part).carry + Config.energyPicojoules g.core s.env.free) / 1000000 ∧
            (t.part g.part).carry = 0) := by
  refine ⟨fun h => (event_idle _ hi).trans (by rw [if_pos h]), fun h => ?_⟩
  let s0 : State := { s with mp := { s.mp with corrections := s.mp.corrections + 1 } }
  have hf := s0.meterAll_meterFrame
  refine ⟨s0.meterAll, (event_idle _ hi).trans (by rw [if_neg (Nat.not_lt.mpr h)]), hf.clocks.corrections, hf.sched, hf.energy, ?_, ?_⟩
  · intro haway
    have hnone : (s0.groups.filterMap fun (_, g) => if g.away then none else some g.core) = [] := by
      rw [List.filterMap_eq_nil_iff]
      intro ⟨gid, g⟩ hmem
      dsimp only
      rw [if_pos (haway gid g hmem)]
    unfold State.meterAll
    rw [hnone]
    rfl
  · intro gid g hgroups haway
    have hcores : (s0.groups.filterMap fun (_, g) => if g.away then none else some g.core) = [g.core] := by
      show (s.groups.filterMap _) = _
      rw [hgroups]
      simp [haway]
    have hfind : (s0.meterCore g.core).1.groups.find? (fun (_, x) => x.core = g.core && !x.away) = some (gid, g) := by
      show (s.groups.find? _) = _
      rw [hgroups, List.find?_cons_of_pos (by simp [haway])]
    have hg : (s0.meterCore g.core).1.group gid = some g := by
      show tabFind s.groups gid = some g
      rw [hgroups, tabFind_cons, if_pos rfl]
    have hall : s0.meterAll = (s0.meterCore g.core).1.chargeGroup gid (Config.energyPicojoules g.core s.env.free) := by
      unfold State.meterAll
      rw [hcores]
      show s0.meter g.core = _
      unfold State.meter
      dsimp only
      rw [hfind]
      rfl
    obtain ⟨-, -, henergy⟩ := State.chargeGroup_spec hg (Config.energyPicojoules g.core s.env.free)
    obtain ⟨he, hcarry⟩ := henergy g.part
    rw [if_pos rfl] at he hcarry
    rw [hall]
    exact ⟨he, hcarry⟩

end Sys2Proof.Claims
end

section
/-! Scrub tokens at regions and holds without one (spec/09_counters_events.md R175). -/
namespace Sys2Proof.Machine

open State (Access)

/-- A notification takes the next sequence number. -/
theorem State.notify_nseq (s : State) (code part : Nat) (detail : List Byte) : (s.notify code part detail).mp.nseq = s.mp.nseq + 1 := by
  unfold State.notify
  dsimp only
  split
  · unfold Mp.append
    split <;> rfl
  · split <;> rfl

theorem State.notify_region (s : State) (code part : Nat) (detail : List Byte) (p va : Nat) :
    (s.notify code part detail).region p va = s.region p va := by
  rw [State.notify_outside]
  rfl

/-- Whether a token is due is a read of the region's RCB. -/
theorem State.tokenDue_access (s : State) (part va : Nat) : Access true s (s.tokenDue part va).1 := by
  have h := s.readRcb_access (w := true) agentMp part va
  unfold State.tokenDue
  split
  · exact .refl s
  · split <;> rename_i heq <;> rw [heq] at h <;> exact h

end Sys2Proof.Machine
namespace Sys2Proof.Claims

open Sys2Proof.Machine
open State (Access)

/-- A region whose token was delivered. -/
structure TokenReleased (part va : Nat) (t : State) : Prop where
  hold : (t.region part va).hold = none
  token : (t.region part va).token ≠ none
  lag : t.home.replicaLag = []

theorem TokenReleased.access {w : Bool} {part va : Nat} {s t : State} (h : TokenReleased part va s) (ha : Access w s t) :
    TokenReleased part va t :=
  ⟨by rw [ha.region]; exact h.hold, by rw [ha.region]; exact h.token, by rw [ha.frame.lag]; exact h.lag⟩

/-- The hold of a region ends: its token lies in the pieces `ps`, in which its RCB is kept from now on. -/
theorem TokenReleased.of_held {s : State} (hlag : s.home.replicaLag = []) (part va : Nat) (ps rcbs : List Nat) :
    TokenReleased part va (let s := s.modRegion part va fun x => { x with token := some ps, hold := none }
      { s with home := { s.home with rcbs := rcbs } }) := by
  have h := s.region_modRegion part va fun x => { x with token := some ps, hold := none }
  exact ⟨congrArg Region.hold h, fun hn => Option.some_ne_none ps ((congrArg Region.token h).symm.trans hn), hlag⟩

/-- The token that is due goes to the region's buffer, the replicas are brought up to date, and the hold ends. -/
theorem scrubTokenDelivery_delivers {s : State} (hi : Idle s) {part : Nat} {rcb : DWord} {s1 : State} {r : Rcb} {hpa : Nat} {b : List Byte}
    (hdue : s.tokenDue part rcb.toNat = (s1, some r)) (htok : (s1.part part).token = some (hpa, b))
    (htakes : (s1.takesWrite agentMp part .root r.tokbuf).2 = true) :
    ∃ t, exec (.scrubTokenDelivery part rcb) s = .next t ∧ (t.region part rcb.toNat).hold = none ∧
      (t.region part rcb.toNat).token ≠ none ∧ t.home.replicaLag = [] := by
  suffices h : ∃ t, exec (.scrubTokenDelivery part rcb) s = .next t ∧ TokenReleased part rcb.toNat t by
    obtain ⟨t, hrun, hr⟩ := h
    exact ⟨t, hrun, hr.hold, hr.token, hr.lag⟩
  refine ⟨_, event_idle _ hi, ?_⟩
  dsimp only
  rw [hdue]
  dsimp only
  rw [htok]
  dsimp only
  rw [if_neg (by simp [htakes])]
  refine .access (w := true) ?_ (.trans (State.rcbField_access _ _ _ _ _ _) (State.setRcbField_access _ _ _ _ _ _ _))
  exact .of_held (State.rcbPieces_access (w := true) _ _ _).frame.lag _ _ _ _

/-- A hold is reported once, after 10 ms without a matching token. -/
theorem scrubholdTimeout_reports {s : State} (hi : Idle s) {part : Nat} {rcb : DWord} {t0 : Nat}
    (hhold : (s.region part rcb.toNat).hold = some t0) (hlogged : (s.region part rcb.toNat).holdLogged = false) :
    (s.time < t0 + 10000000 → exec (.scrubholdTimeout part rcb) s = .next s) ∧
      ((s.tokenDue part rcb.toNat).2 ≠ none → exec (.scrubholdTimeout part rcb) s = .next s) ∧
      (t0 + 10000000 ≤ s.time → (s.tokenDue part rcb.toNat).2 = none →
        ∃ t, exec (.scrubholdTimeout part rcb) s = .next t ∧ (t.region part rcb.toNat).holdLogged = true ∧
          (t.region part rcb.toNat).hold = some t0 ∧ t.mp.nseq = (s.tokenDue part rcb.toNat).1.mp.nseq + 1) := by
  refine ⟨fun h => (event_idle _ hi).trans ?_, fun h => (event_idle _ hi).trans ?_, fun hlate hnone => ?_⟩
  · dsimp only
    rw [hhold]
    dsimp only
    rw [if_pos (by simp [h])]
  · dsimp only
    rw [hhold]
    dsimp only
    rw [if_pos (by simp [Option.isSome_iff_ne_none.mpr h])]
  · let s1 := (s.tokenDue part rcb.toNat).1
    let s2 := s1.modRegion part rcb.toNat fun x => { x with holdLogged := true }
    let detail := bytesOfNat 8 rcb.toNat ++ bytesOfNat 8 t0 ++ bytesOfNat 24 0
    let s3 := s2.notify 0x85 (part + 1) detail
    have hlog := s3.regionLog_access agentMp part rcb.toNat srcMp 4 0xFFFF 0 0 0
    have hregion : s3.region part rcb.toNat = { s.region part rcb.toNat with holdLogged := true } := by
      rw [State.notify_region, State.region_modRegion, (s.tokenDue_access part rcb.toNat).region]
    refine ⟨s3.regionLog agentMp part rcb.toNat srcMp 4 0xFFFF 0 0 0, (event_idle _ hi).trans ?_, ?_, ?_, ?_⟩
    · dsimp only
      rw [hhold]
      dsimp only
      rw [if_neg (by simp [hlogged, hnone, hlate])]
    · rw [hlog.region, hregion]
    · rw [hlog.region, hregion]
      exact hhold
    · rw [hlog.frame.mp]
      exact s2.notify_nseq _ _ _

end Sys2Proof.Claims
end

section
/-! A region that is torn down: what dropping a held operation does (spec/09_counters_events.md R193). -/
namespace Sys2Proof.Machine

open State (Access)

theorem tabFind_mapped {α : Type} (f : α → α) (m : Tab α) (k : Nat) : tabFind (m.map fun (n, x) => (n, f x)) k = (tabFind m k).map f := by
  induction m with
  | nil => rfl
  | cons e m ih =>
    rw [List.map_cons, tabFind_cons, ih]
    obtain ⟨j, x⟩ := e
    rw [tabFind_cons]
    split <;> rfl

/-- The regions and the held operations are as before. -/
structure State.HoldFrame (s t : State) : Prop where
  region : ∀ part va, t.region part va = s.region part va
  orphans : t.orphans = s.orphans

namespace State.HoldFrame

theorem refl (s : State) : s.HoldFrame s := ⟨fun _ _ => rfl, rfl⟩

theorem trans {s t u : State} (h : s.HoldFrame t) (k : t.HoldFrame u) : s.HoldFrame u :=
  ⟨fun p va => (k.region p va).trans (h.region p va), k.orphans.trans h.orphans⟩

theorem foldl {α : Type} {f : State → α → State} (h : ∀ (s : State) x, s.HoldFrame (f s x)) (l : List α) :
    ∀ s : State, s.HoldFrame (l.foldl f s) := by
  induction l with
  | nil => exact refl
  | cons x l ih => exact fun s => (h s x).trans (ih _)

theorem of_parts {s t : State} (hp : t.parts = s.parts) (ho : t.orphans = s.orphans) : s.HoldFrame t :=
  ⟨fun part va => by unfold State.region State.part; rw [hp], ho⟩

end State.HoldFrame

open State (HoldFrame)

theorem State.Access.holdFrame {w : Bool} {s t : State} (h : Access w s t) : s.HoldFrame t := .of_parts h.frame.parts h.frame.orphans

/-! Arrivals at barriers. -/

theorem State.syndrome_holdFrame (s : State) : s.HoldFrame s.syndrome.2 := .of_parts rfl rfl

theorem State.logEvent_holdFrame (s : State) (cls src part addr detail : Nat) : s.HoldFrame (s.logEvent cls src part addr detail) :=
  .of_parts (s.logEvent_accessFrame cls src part addr detail).parts (s.logEvent_accessFrame cls src part addr detail).orphans

theorem State.correctVault_holdFrame (s : State) (c off n : Nat) : s.HoldFrame (s.correctVault c off n) := by
  unfold State.correctVault
  dsimp only
  split
  · exact .refl s
  · refine .trans (HoldFrame.foldl (fun u _ => ?_) _ s) (.of_parts rfl rfl)
    exact u.syndrome_holdFrame.trans (State.logEvent_holdFrame _ _ _ _ _ _)

theorem State.applyBank_holdFrame (s : State) (c : Nat) (op : BankOp) : s.HoldFrame (s.applyBank c op) := by
  have logged : ∀ off, s.HoldFrame (if (s.correctVault c off 16).vaultBroken c off 16 then (s.correctVault c off 16).logVault c
      else s.correctVault c off 16) := by
    intro off
    split
    · exact (s.correctVault_holdFrame c off 16).trans ((State.syndrome_holdFrame _).trans (State.logEvent_holdFrame _ _ _ _ _ _))
    · exact s.correctVault_holdFrame c off 16
  cases op with
  | arrive off n f => exact (logged off).trans (.of_parts rfl rfl)
  | expect off n => exact (logged off).trans (.of_parts rfl rfl)

theorem State.toBank_holdFrame (s : State) (c : Nat) (op : BankOp) : s.HoldFrame (s.toBank c op) := by
  unfold State.toBank
  split
  · exact .of_parts rfl rfl
  · exact s.applyBank_holdFrame c op

theorem State.tagRelease_holdFrame (s : State) (core key : Nat) (rel scope : Option Scope) :
    s.HoldFrame (s.tagRelease core key rel scope) := by
  unfold State.tagRelease
  split <;> split <;> exact .of_parts rfl rfl

theorem State.arrive_holdFrame (s : State) (core part grp : Nat) (bar : Word) (fault : Bool) :
    s.HoldFrame (s.arrive core part grp bar fault) := by
  unfold State.arrive
  split
  · exact (s.toBank_holdFrame _ _).trans (State.tagRelease_holdFrame _ _ _ _ _)
  · exact .refl s

theorem State.logOrphan_access (s : State) (part : Nat) (rcb : DWord) (src slot cls va bar : Nat) :
    Access true s (s.logOrphan part rcb src slot cls va bar) := by
  unfold State.logOrphan
  dsimp only
  exact ((s.regionLog_access _ _ _ _ _ _ _ _ _).trans (State.rcbField_access _ _ _ _ _ _)).trans (State.setRcbField_access _ _ _ _ _ _ _)

theorem State.dropLane_holdFrame (o : Orphan) (s : State) (l : Nat) (cls : TrapClass) : s.HoldFrame (State.dropLane o s l cls) := by
  have hlog := fun va bar => (s.logOrphan_access o.part o.rcb o.core o.slotNo cls.index va bar).holdFrame
  unfold State.dropLane
  dsimp only
  split
  · exact hlog _ _
  · exact (hlog _ _).trans (State.arrive_holdFrame _ _ _ _ _ _)

/-! Page requests. -/

theorem State.modPacks_holdFrame (s : State) (g : Pack → Pack) : s.HoldFrame (s.modPacks g) := by
  refine ⟨fun part va => ?_, rfl⟩
  unfold State.region State.part State.modPacks tabGet
  dsimp only
  rw [tabFind_mapped (fun x : Partition => { x with saved := x.saved.map fun v => { v with pack := g v.pack } })]
  cases tabFind s.parts part <;> rfl

theorem State.onStore_holdFrame {f : State → State} (h : ∀ s : State, s.HoldFrame (f s)) (s : State) : s.HoldFrame (s.onStore f) := by
  have hflush : s.HoldFrame s.flush := by
    unfold State.flush
    split <;> exact .of_parts rfl rfl
  have hreload : ∀ u : State, u.HoldFrame u.reload := by
    intro u
    unfold State.reload
    split
    · split <;> exact .of_parts rfl rfl
    · exact .refl u
  exact (hflush.trans (h _)).trans (hreload _)

theorem State.tellWaiter_holdFrame (s : State) (r : PageReq) (id : Nat) : s.HoldFrame (s.tellWaiter r id) := by
  unfold State.tellWaiter
  split
  · exact State.onStore_holdFrame (fun u => u.modPacks_holdFrame _) s
  · exact State.onStore_holdFrame (fun u => u.modPacks_holdFrame _) s
  · exact .refl s

theorem State.notifyPages_holdFrame (s : State) : s.HoldFrame s.notifyPages := by
  unfold State.notifyPages
  dsimp only
  split
  · exact .refl s
  · rw [State.notify_outside]
    exact .of_parts rfl rfl

theorem State.placeRequest_holdFrame (s : State) (r : PageReq) : s.HoldFrame (s.placeRequest r) := by
  unfold State.placeRequest
  split
  · dsimp only
    have hput : s.HoldFrame { s with pages := tabPut s.pages (lowestFree 2048 0 s.pages) r } := .of_parts rfl rfl
    split
    · exact (hput.trans (State.notifyPages_holdFrame _)).trans (State.tellWaiter_holdFrame _ _ _)
    · exact hput.trans (State.tellWaiter_holdFrame _ _ _)
  · exact .of_parts rfl rfl

theorem State.grantPages_holdFrame (n : Nat) : ∀ (l : List PageReq) (s : State), s.HoldFrame (s.grantPages n l) := by
  induction n with
  | zero => exact fun _ s => .refl s
  | succ n ih =>
    intro l s
    cases l with
    | nil => exact .refl s
    | cons r rest =>
      rw [State.grantPages]
      split
      · have herase : s.HoldFrame { s with overflow := s.overflow.erase r } := .of_parts rfl rfl
        exact (herase.trans (State.placeRequest_holdFrame _ _)).trans (ih _ _)
      · exact ih _ _

theorem State.dropRequests_holdFrame (s : State) (mine : Waiter → Bool) : s.HoldFrame (s.dropRequests mine) := by
  have hfilter : s.HoldFrame { s with overflow := s.overflow.filter fun q => !mine q.waiter } := .of_parts rfl rfl
  refine hfilter.trans (HoldFrame.foldl (fun u id => ?_) _ _)
  have hdel : u.HoldFrame { u with pages := tabDel u.pages id } := .of_parts rfl rfl
  exact hdel.trans (State.grantPages_holdFrame _ _ _)

/-! Held operations. -/

/-- A held operation of a torn region is dropped; the others stay. -/
theorem State.tearOrphan_spec (s : State) (n : Nat) : (∀ part va, (s.tearOrphan n).region part va = s.region part va) ∧
    ∀ j, tabFind (s.tearOrphan n).orphans j = if n = j then none else tabFind s.orphans j := by
  unfold State.tearOrphan
  cases ho : tabFind s.orphans n with
  | none =>
    refine ⟨fun _ _ => rfl, fun j => ?_⟩
    by_cases h : n = j
    · rw [if_pos h, ← h]
      exact ho
    · rw [if_neg h]
  | some o =>
    have hdrop : s.HoldFrame ((lanesOf o.entry.mask).foldl (fun s l => State.dropLane o s l .memfault) s) :=
      HoldFrame.foldl (fun u l => State.dropLane_holdFrame o u l .memfault) _ s
    have hreq := State.dropRequests_holdFrame (s.dropOrphan n o .memfault) (· == .orphan n)
    refine ⟨fun part va => (hreq.region part va).trans (hdrop.region part va), fun j => ?_⟩
    rw [hreq.orphans]
    show tabFind (tabDel _ n) j = _
    rw [tabFind_tabDel, hdrop.orphans]

/-- All the held operations listed are dropped. -/
theorem State.tearOrphans_spec (l : List Nat) : ∀ s : State,
    (∀ part va, (l.foldl (·.tearOrphan) s).region part va = s.region part va) ∧
      ∀ j, tabFind (l.foldl (·.tearOrphan) s).orphans j = if j ∈ l then none else tabFind s.orphans j := by
  induction l with
  | nil => exact fun s => ⟨fun _ _ => rfl, fun j => (if_neg List.not_mem_nil).symm⟩
  | cons n l ih =>
    intro s
    obtain ⟨hregion, horphans⟩ := ih (s.tearOrphan n)
    obtain ⟨hr, ho⟩ := s.tearOrphan_spec n
    refine ⟨fun part va => (hregion part va).trans (hr part va), fun j => (horphans j).trans ?_⟩
    rw [ho]
    by_cases hj : j ∈ l
    · rw [if_pos hj, if_pos (List.mem_cons_of_mem n hj)]
    · rw [if_neg hj]
      by_cases hn : n = j
      · rw [if_pos hn, if_pos (by rw [hn]; exact List.mem_cons_self)]
      · rw [if_neg hn, if_neg (by simp [hj, Ne.symm hn])]

end Sys2Proof.Machine
namespace Sys2Proof.Claims

open Sys2Proof.Machine

/-- A torn-down region holds nothing (R193). -/
theorem regionTeardown_tears {s : State} (hi : Idle s) {part : Nat} {rcb : DWord}
    (hcmds : ∀ id c, (id, c) ∈ s.cmds → ¬(c.orphan = true ∧ c.part = part ∧ c.rcb = rcb)) :
    ∃ t, exec (.regionTeardown part rcb) s = .next t ∧ (t.region part rcb.toNat).torn = true ∧
      (t.region part rcb.toNat).hold = none ∧ ∀ n o, tabFind t.orphans n = some o → ¬(o.part = part ∧ o.rcb = rcb) := by
  let u := s.modRegion part rcb.toNat fun x => { x with torn := true, hold := none }
  let os := s.orphans.filterMap fun (n, o) => if o.part = part && o.rcb = rcb then some n else none
  have hnone : (s.cmds.filterMap fun (id, c) => if c.orphan && c.part = part && c.rcb = rcb then some id else none) = [] := by
    rw [List.filterMap_eq_nil_iff]
    intro ⟨id, c⟩ hmem
    have := hcmds id c hmem
    dsimp only
    rw [if_neg (by simpa [and_assoc] using this)]
  obtain ⟨hregion, horphans⟩ := State.tearOrphans_spec os u
  have hu : u.region part rcb.toNat = { s.region part rcb.toNat with torn := true, hold := none } := State.region_modRegion _ _ _ _
  refine ⟨os.foldl (·.tearOrphan) u, (event_idle _ hi).trans ?_, ?_, ?_, fun n o hfind ⟨hpart, hrcb⟩ => ?_⟩
  · dsimp only
    rw [show (s.modRegion part rcb.toNat fun x => { x with torn := true, hold := none }).cmds = s.cmds from rfl, hnone]
    rfl
  · rw [hregion, hu]
  · rw [hregion, hu]
  · rw [horphans] at hfind
    split at hfind
    · exact absurd hfind nofun
    · rename_i hout
      refine hout (List.mem_filterMap.mpr ⟨(n, o), tabFind_mem hfind, ?_⟩)
      simp [hpart, hrcb]

end Sys2Proof.Claims
end

section
/-! Placement, reservation and overflow lists (spec/07_queues.md R131-R133, spec/01_device.md R21, R22). -/
namespace Sys2Proof.Machine

/-- A node without the flag of a co-scheduled run places its groups one by one. -/
theorem Node.runSize_single {n : Node} (h : n.flags % 2 = 0) : n.runSize = 1 := by
  have hbit : bitOf n.flags 0 = false := by simp [bitOf, h]
  rw [Node.runSize, hbit]
  rfl

/-! The group that a node starts. -/

/-- `t` has the next group of the node in the slot on a core of the die, with the node's fields, and the node goes on. -/
def GroupPlaced (die slot : Nat) (n : Node) (t : State) : Prop :=
  ∃ gid g, tabFind t.groups gid = some g ∧ g.part = n.part ∧ g.slot = slot ∧
    g.index = n.next ∧ g.core / 80 = die ∧ g.rcb = n.rcb ∧ g.arg = n.arg ∧ g.vbytes = n.vbytes ∧ g.acc = n.acc ∧
    tabFind t.sched.nodes slot = some { n with next := n.next + 1, stuck := 0 }

theorem GroupPlaced.of_same {die slot : Nat} {n : Node} {s t : State} (h : GroupPlaced die slot n s) (hg : t.groups = s.groups)
    (hn : t.sched.nodes = s.sched.nodes) : GroupPlaced die slot n t := by
  unfold GroupPlaced
  rw [hg, hn]
  exact h

theorem State.setPacks_rest (c : Nat) (f : ToPlace → Pack) (l : List (Nat × ToPlace)) : ∀ u : State,
    (l.foldl (fun s (sl, p) => s.setPack c sl (f p)) u).groups = u.groups ∧
      (l.foldl (fun s (sl, p) => s.setPack c sl (f p)) u).sched = u.sched := by
  induction l with
  | nil => exact fun _ => ⟨rfl, rfl⟩
  | cons x l ih => exact fun u => ih _

theorem State.startGroup_groups (s : State) (slot : Nat) (n : Node) (r : Rcb) (c : Nat) (ps : List (Nat × ToPlace)) (base : Nat) :
    (s.startGroup slot n r c ps base).groups = tabPut s.groups s.env.fresh {
      part := n.part, slot := slot, index := n.next, core := c, rcb := n.rcb, arg := n.arg, vbase := base
      vbytes := n.vbytes, acc := n.acc, root := r.parent = 0, est := n.est, placed := s.env.fresh } :=
  (State.setPacks_rest c (newPack n s.env.fresh (r.parent = 0) r.trapbase) ps _).1

theorem State.startGroup_nodes (s : State) (slot : Nat) (n : Node) (r : Rcb) (c : Nat) (ps : List (Nat × ToPlace)) (base : Nat) :
    (s.startGroup slot n r c ps base).sched.nodes = tabPut s.sched.nodes slot { n with next := n.next + 1, stuck := 0 } :=
  congrArg Sched.nodes (State.setPacks_rest c (newPack n s.env.fresh (r.parent = 0) r.trapbase) ps _).2

theorem State.startGroup_places (s : State) (slot : Nat) (n : Node) (r : Rcb) {die c : Nat} (hc : c / 80 = die) (ps : List (Nat × ToPlace))
    (base : Nat) : GroupPlaced die slot n (s.startGroup slot n r c ps base) := by
  unfold GroupPlaced
  rw [State.startGroup_groups, State.startGroup_nodes]
  exact ⟨s.env.fresh, _, (tabFind_tabPut _ _ _ _).trans (if_pos rfl), rfl, rfl, rfl, hc, rfl, rfl, rfl, rfl,
    (tabFind_tabPut _ _ _ _).trans (if_pos rfl)⟩

/-- One group is placed on the first core of the list that takes it. -/
theorem State.placeRun_one {s : State} {slot : Nat} {n : Node} (hn : tabFind s.sched.nodes slot = some n) (r : Rcb) {die : Nat} {t : State} :
    ∀ {cs : List Nat}, (∀ c, c ∈ cs → c / 80 = die) → s.placeRun slot r 1 cs = (t, true) → GroupPlaced die slot n t := by
  intro cs
  induction cs with
  | nil => exact fun _ h => absurd h (by simp [State.placeRun])
  | cons c rest ih =>
    intro hcs h
    rw [State.placeRun, hn] at h
    dsimp only at h
    split at h
    · rw [State.placeRun] at h
      obtain ⟨rfl, -⟩ := Prod.mk.inj h
      exact s.startGroup_places slot n r (hcs c List.mem_cons_self) _ _
    · exact ih (fun k hk => hcs k (List.mem_cons_of_mem c hk)) h

/-- The first cluster that takes the group takes it on a core of its own. -/
theorem State.placeIn_one {s : State} {slot : Nat} {n : Node} (hn : tabFind s.sched.nodes slot = some n) (hrun : n.runSize = 1) (r : Rcb)
    {die : Nat} {cs : List Nat} (hcs : ∀ c, c ∈ cs → c / 80 = die) {t : State} :
    ∀ {ks : List Nat}, s.placeIn slot n r cs ks = some t → GroupPlaced die slot n t := by
  intro ks
  induction ks with
  | nil => exact nofun
  | cons k rest ih =>
    intro h
    rw [State.placeIn, hrun] at h
    split at h
    · split at h
      · rename_i u hplace
        obtain rfl := Option.some.inj h
        exact State.placeRun_one hn r (fun c hc => hcs c (List.mem_filter.mp hc).1) hplace
      · exact ih h
    · exact ih h

/-- The cores that may take a group are those of the die. -/
theorem State.coresFor_die {s : State} {die slot : Nat} {n : Node} {c : Nat} (h : c ∈ s.coresFor die slot n) : c / 80 = die := by
  obtain ⟨j, hj, rfl⟩ := List.mem_map.mp (List.mem_filter.mp h).1
  have := List.mem_range.mp hj
  omega

/-- A node that places on a die has its next group there. -/
theorem State.tryPlace_places {s : State} {die slot : Nat} {n : Node} {t : State} (hn : tabFind s.sched.nodes slot = some n)
    (hrun : n.runSize = 1) (h : s.tryPlace die slot n = (t, .yes)) : GroupPlaced die slot n t := by
  unfold State.tryPlace at h
  dsimp only at h
  split at h
  · exact absurd (congrArg Prod.snd h) nofun
  · split at h
    · exact absurd (congrArg Prod.snd h) nofun
    · rename_i r hr
      split at h
      · exact absurd (congrArg Prod.snd h) nofun
      · split at h
        · rename_i u hplace
          have hsched := ((State.rcbField_access (w := true) _ agentMp n.part n.rcb.toNat 136 8).frame.sched).trans
            ((State.scrubHeld_sched _ n.part n.rcb.toNat r).trans (s.admissionRcb_sched n.part n.rcb.toNat))
          split at h
          · obtain ⟨rfl, -⟩ := Prod.mk.inj h
            exact (State.placeIn_one ((congrArg (fun x : Sched => tabFind x.nodes slot) hsched).trans hn) hrun r
              (fun c hc => State.coresFor_die hc) hplace).of_same rfl rfl
          · exact absurd (congrArg Prod.snd h) nofun
        · exact absurd (congrArg Prod.snd h) nofun

/-! Reservations. -/

theorem leastBy_mem {key : Nat → Nat} {y : Nat} : ∀ {l : List Nat}, leastBy key l = some y → y ∈ l := by
  intro l
  induction l generalizing y with
  | nil => exact nofun
  | cons x l ih =>
    intro h
    rw [leastBy] at h
    split at h
    · rw [← Option.some.inj h]
      exact List.mem_cons_self
    · rename_i z hz
      have hmem := List.mem_cons_of_mem x (ih hz)
      rw [← Option.some.inj h]
      split
      · exact hmem
      · exact List.mem_cons_self

/-- The first of a rising list with the smallest key. -/
theorem leastBy_least {key : Nat → Nat} {k : Nat} : ∀ {l : List Nat}, k ∈ l → l.Pairwise (· < ·) →
    (∀ j, j ∈ l → key k < key j ∨ (key k = key j ∧ k ≤ j)) → leastBy key l = some k := by
  intro l
  induction l with
  | nil => exact fun h => absurd h List.not_mem_nil
  | cons x l ih =>
    intro hk hl hmin
    obtain ⟨hx, hl⟩ := List.pairwise_cons.mp hl
    have hrest := fun j hj => hmin j (List.mem_cons_of_mem x hj)
    rw [leastBy]
    rcases List.mem_cons.mp hk with rfl | hk
    · cases hy : leastBy key l with
      | none => rfl
      | some y =>
        have hmem : y ∈ l := leastBy_mem hy
        dsimp only
        rw [if_neg]
        rcases hrest y hmem with h | ⟨h, -⟩ <;> omega
    · rw [ih hk hl hrest]
      dsimp only
      rw [if_pos]
      have := hx k hk
      rcases hmin x List.mem_cons_self with h | ⟨-, h⟩ <;> omega

end Sys2Proof.Machine
end

section
/-! The scheduler's events, and O47 (spec/07_queues.md R131-R133, spec/01_device.md R21, R22). -/
namespace Sys2Proof.Claims

open Sys2Proof.Machine

/-- The first node of the die's pool places its group, and the walk goes on from there. -/
theorem groupDispatch_places {s : State} (hi : Idle s) {die : Nat} {s1 : State} {slot : Nat} {rest : List Nat} {n : Node} {s2 : State}
    (hdie : die < 2) (hback : s.waitingBack = []) (hrest : s.waitingRest = []) (hpool : s.poolOf die = (s1, slot :: rest))
    (hn : tabFind (s1.unstick rest).sched.nodes slot = some n) (hflags : n.flags % 2 = 0)
    (hplace : (s1.unstick rest).tryPlace die slot n = (s2, .yes)) :
    exec (.groupDispatch die) s = .next (s2.walkPool die false rest).1 ∧ GroupPlaced die slot n s2 := by
  refine ⟨(event_idle _ hi).trans ?_, State.tryPlace_places hn (Node.runSize_single hflags) hplace⟩
  have hwalk : (s1.unstick rest).walkPool die false (slot :: rest) = ((s2.walkPool die false rest).1, true) := by
    rw [State.walkPool, hn]
    dsimp only
    rw [if_neg (by simp), hplace]
    rfl
  rw [if_pos hdie, hback, hrest]
  show Host.Outcome.next (s.walkDie die).1 = _
  rw [State.walkDie, hpool]
  dsimp only [List.tail_cons]
  rw [hwalk]

/-- A node that has waited ten whole intervals reserves the core that lacks least. -/
theorem reservation_names {s : State} (hi : Idle s) {die : Nat} {s1 : State} {slot : Nat} {rest : List Nat} {n : Node} {k : Nat}
    (hdie : die < 2) (hfree : tabFind s.sched.reserved die = none) (hpool : s.poolOf die = (s1, slot :: rest))
    (hn : tabFind s1.sched.nodes slot = some n) (hstuck : 10 < n.stuck) (hflags : n.flags % 2 = 0) (hk : k / 80 = die)
    (hmay : s1.mayPlace n.part k = true)
    (hleast : ∀ j, j / 80 = die → s1.mayPlace n.part j = true →
      s1.lacking n k < s1.lacking n j ∨ (s1.lacking n k = s1.lacking n j ∧ k ≤ j)) :
    ∃ t, exec (.reservation die) s = .next t ∧ t.sched.reserved = tabPut s.sched.reserved die (slot, k) ∧ t.groups = s.groups := by
  have hf := (s.poolOf_access die).frame
  rw [hpool] at hf
  let cs := ((List.range 80).map (die * 80 + ·)).filter (s1.mayPlace n.part)
  have hmem : ∀ j, j ∈ cs ↔ j / 80 = die ∧ s1.mayPlace n.part j = true := by
    intro j
    simp only [cs, List.mem_filter, List.mem_map, List.mem_range]
    refine and_congr_left fun _ => ⟨?_, fun h => ⟨j % 80, Nat.mod_lt j (by decide), by omega⟩⟩
    rintro ⟨i, hi, rfl⟩
    omega
  have hrising : cs.Pairwise (· < ·) :=
    ((List.pairwise_map.mpr (List.pairwise_lt_range.imp fun h => Nat.add_lt_add_left h _))).filter _
  have htarget : s1.reserveTarget die n = some k := by
    unfold State.reserveTarget
    dsimp only
    rw [if_pos (Node.runSize_single hflags)]
    exact leastBy_least ((hmem k).mpr ⟨hk, hmay⟩) hrising fun j hj => hleast j ((hmem j).mp hj).1 ((hmem j).mp hj).2
  refine ⟨{ s1 with sched := { s1.sched with reserved := tabPut s1.sched.reserved die (slot, k) } }, (event_idle _ hi).trans ?_, ?_, hf.groups⟩
  · rw [if_neg (by simp [hfree]; omega), hpool]
    dsimp only
    rw [hn]
    dsimp only
    rw [if_neg (by omega), htarget]
  · show tabPut s1.sched.reserved die (slot, k) = _
    rw [hf.sched]

/-- An overflow list without entries frees its node's slot. -/
theorem overflowListRead_frees {s : State} (hi : Idle s) {slot : Nat} {n : Node} {s1 : State} (hn : tabFind s.sched.nodes slot = some n)
    (hdone : n.done = true) (hlisting : n.listing = true) (hended : n.next ≤ n.ended)
    (hread : s.schedRead n.part n.overflow.toNat 4 = (s1, some 0)) :
    ∃ t, exec (.overflowListRead slot) s = .next t ∧
      ∀ j, tabFind t.sched.nodes j = if j = slot then none else tabFind s.sched.nodes j := by
  have hf := (s.schedRead_access (w := true) n.part n.overflow.toNat 4).frame
  rw [hread] at hf
  have hsched : s1.sched = s.sched := hf.sched
  let m : Node := { n with listing := false }
  have hset : tabFind (s1.setNode slot m).sched.nodes slot = some m := (tabFind_tabPut _ _ _ _).trans (if_pos rfl)
  refine ⟨(s1.setNode slot m).tryFree slot, (event_idle _ hi).trans ?_, fun j => ?_⟩
  · rw [hn]
    dsimp only
    rw [if_pos (by simp [hdone, hlisting]), hread]
    show Host.Outcome.next ((match tabFind s1.sched.nodes slot with
      | some m => s1.setNode slot { m with listing := false }
      | none => s1).tryFree slot) = _
    rw [hsched, hn]
  · rw [State.tryFree, hset]
    dsimp only
    rw [if_pos (by simp [m, hdone, hended])]
    show tabFind (tabDel (tabPut s1.sched.nodes slot m) slot) j = _
    rw [tabFind_tabDel, tabFind_tabPut, hsched]
    by_cases h : j = slot
    · rw [if_pos h, if_pos h.symm]
    · rw [if_neg h, if_neg (Ne.symm h), if_neg (Ne.symm h)]

/-- Settles O47: each event of the scheduler and of the MP by its own lemma. -/
theorem scheduling : Obligations.Scheduling := by
  intro s hi
  refine ⟨fun die s1 slot rest n s2 hdie hback hrest hpool hn hflags hplace => groupDispatch_places hi hdie hback hrest hpool hn hflags hplace,
    fun die s1 slot rest n k hdie hfree hpool hn hstuck hflags hk hmay hleast =>
      reservation_names hi hdie hfree hpool hn hstuck hflags hk hmay hleast,
    fun slot n s1 hn hdone hlisting hended hread => overflowListRead_frees hi hn hdone hlisting hended hread,
    planningInterval_turns hi, energyCorrection_charges hi,
    fun part rcb s1 r hpa b hdue htok htakes => scrubTokenDelivery_delivers hi hdue htok htakes,
    fun part rcb t0 hhold hlogged => scrubholdTimeout_reports hi hhold hlogged,
    fun part rcb hcmds => regionTeardown_tears hi hcmds⟩

end Sys2Proof.Claims
end

section
/-! SUPPORT for O58. Memory keeps its canonical form, one rule for each operation: a store writes through `putBytes`, which keeps
it (`State.homeWrite_wf`), and nothing else touches memory. `Canonical.f` says so of the state function `f`, and the rules
chain by dots in the order in which `f` calls what it uses. Here: memory, translation and the layout monitor. -/
namespace Sys2Proof.Machine

/-- The canonical form of a memory (log 2): its addresses rise, once each, and no listed byte reads 0. -/
def Canonical (m : List Host.Cell) : Prop := Memory.wf m = true

/-- A next state, if the outcome is one, has a canonical memory. -/
def CanonicalNext (o : Out) : Prop := ∀ t, o = .next t → Canonical t.mem

variable {s : State}

theorem CanonicalNext.next (hm : Canonical s.mem) : CanonicalNext (.next s) := by
  rintro t ⟨⟩
  exact hm

theorem CanonicalNext.fault {x : Fault} : CanonicalNext (.fault x) := by
  intro _ h
  cases h

theorem Canonical.foldl {α : Type} {f : State → α → State} {l : List α} (hm : Canonical s.mem)
    (hf : ∀ s x, Canonical s.mem → Canonical (f s x).mem) : Canonical (l.foldl f s).mem := by
  induction l generalizing s with
  | nil => exact hm
  | cons x l ih => exact ih (hf _ _ hm)

theorem Canonical.ite {c : Prop} {i : Decidable c} {s t : State} (hs : Canonical s.mem) (ht : Canonical t.mem) :
    Canonical (if c then s else t).mem := by
  split <;> assumption

theorem Canonical.logEvent {c x p a d : Nat} (hm : Canonical s.mem) : Canonical (s.logEvent c x p a d).mem :=
  hm

theorem Canonical.readMap {a : Nat} (hm : Canonical s.mem) : Canonical (s.readMap a).mem :=
  (State.readMap_keeps s a).1 ▸ hm

theorem Canonical.materialise {a : Nat} (hm : Canonical s.mem) : Canonical (s.materialise a).mem :=
  State.materialise_mem s a ▸ hm

theorem Canonical.allocLine {m : Bool} {a : Nat} (hm : Canonical s.mem) : Canonical (s.allocLine m a).mem :=
  (State.allocLine_keeps s m a).1 ▸ hm

theorem Canonical.homeWrite {elide wide : Bool} {bs : Tab Byte} (hm : Canonical s.mem) : Canonical (s.homeWrite elide wide bs).mem :=
  State.homeWrite_wf s _ _ _ hm

theorem Canonical.unelide {a : Nat} (hm : Canonical s.mem) : Canonical (s.unelide a).mem :=
  State.unelide_wf s _ hm

theorem Canonical.elideBlock {a : Nat} {bs : List Byte} (hm : Canonical s.mem) : Canonical (s.elideBlock a bs).mem :=
  State.elideBlock_wf s _ _ hm

theorem Canonical.fst {α : Type} {p : State × α} {t : State} {r : α} (hm : Canonical p.1.mem) (h : p = (t, r)) : Canonical t.mem := by
  rw [h] at hm
  exact hm

theorem Canonical.foldlFst {α β : Type} {f : State × β → α → State × β} {l : List α} {x : State × β} (hm : Canonical x.1.mem)
    (hf : ∀ s b a, Canonical s.mem → Canonical (f (s, b) a).1.mem) : Canonical (l.foldl f x).1.mem := by
  induction l generalizing x with
  | nil => exact hm
  | cons a l ih => exact ih (hf _ _ _ hm)

theorem Canonical.setCore {c : Nat} {k : Core} (hm : Canonical s.mem) : Canonical (s.setCore c k).mem :=
  hm

theorem Canonical.modCore {c : Nat} {f : Core → Core} (hm : Canonical s.mem) : Canonical (s.modCore c f).mem :=
  hm

theorem Canonical.modPart {p : Nat} {f : Machine.Partition → Machine.Partition} (hm : Canonical s.mem) : Canonical (s.modPart p f).mem :=
  hm

theorem Canonical.modGroup {g : Nat} {f : Machine.Group → Machine.Group} (hm : Canonical s.mem) : Canonical (s.modGroup g f).mem :=
  hm

theorem Canonical.modCmd {i : Nat} {f : Cmd → Cmd} (hm : Canonical s.mem) : Canonical (s.modCmd i f).mem :=
  hm

theorem Canonical.setPack {c slot : Nat} {p : Pack} (hm : Canonical s.mem) : Canonical (s.setPack c slot p).mem :=
  hm

theorem Canonical.delPack {c slot : Nat} (hm : Canonical s.mem) : Canonical (s.delPack c slot).mem :=
  hm

theorem Canonical.modPacks {g : Pack → Pack} (hm : Canonical s.mem) : Canonical (s.modPacks g).mem :=
  hm

theorem Canonical.flush (hm : Canonical s.mem) : Canonical s.flush.mem := by
  unfold State.flush
  split
  · exact hm.setPack
  · exact hm

theorem Canonical.reload (hm : Canonical s.mem) : Canonical s.reload.mem := by
  unfold State.reload
  split
  · split <;> exact hm
  · exact hm

theorem Canonical.onStore {f : State → State} (hm : Canonical s.mem) (hf : ∀ s, Canonical s.mem → Canonical (f s).mem) :
    Canonical (s.onStore f).mem :=
  (hf _ hm.flush).reload

theorem Canonical.freshId (hm : Canonical s.mem) : Canonical s.freshId.2.mem :=
  hm

theorem Canonical.freeWord (hm : Canonical s.mem) : Canonical s.freeWord.2.mem :=
  hm

theorem Canonical.stamp {src : Nat} (hm : Canonical s.mem) : Canonical (s.stamp src).2.mem :=
  hm

theorem Canonical.notify {code part : Nat} {detail : List Byte} (hm : Canonical s.mem) : Canonical (s.notify code part detail).mem :=
  hm

theorem Canonical.syndrome (hm : Canonical s.mem) : Canonical s.syndrome.2.mem :=
  hm

theorem Canonical.logReadAt {src a n : Nat} (hm : Canonical s.mem) : Canonical (s.logReadAt src a n).mem :=
  .ite (.logEvent (.syndrome (.foldl hm (fun _ _ h => .ite h.syndrome.logEvent h))))
    (.foldl hm (fun _ _ h => .ite h.syndrome.logEvent h))

theorem Canonical.logRead {a n : Nat} (hm : Canonical s.mem) : Canonical (s.logRead a n).mem :=
  hm.logReadAt

theorem Canonical.sliceRead {mirror : Bool} {a n : Nat} (hm : Canonical s.mem) : Canonical (s.sliceRead mirror a n).2.2.mem :=
  .allocLine (.ite hm.materialise.readMap.logReadAt hm.materialise.readMap)

theorem Canonical.homeRead {a n : Nat} (hm : Canonical s.mem) : Canonical (s.homeRead a n).2.2.mem :=
  hm.sliceRead

theorem Canonical.homeLoad {core pa attr n : Nat} (hm : Canonical s.mem) : Canonical (s.homeLoad core pa attr n).2.2.mem := by
  unfold State.homeLoad
  dsimp only
  split <;> exact hm.sliceRead

theorem Canonical.atomicRead {a n : Nat} (hm : Canonical s.mem) : Canonical (s.atomicRead a n).2.2.mem :=
  .homeRead (.ite hm.materialise.readMap hm.materialise.readMap.unelide)

theorem Canonical.byHost {pa : Nat} {t : State} (ht : Canonical t.mem) : Canonical (s.byHost pa t).mem :=
  .ite ht ht

theorem Canonical.retileTouch {a : Nat} (hm : Canonical s.mem) : Canonical (s.retileTouch a).mem :=
  .ite hm hm

theorem Canonical.writeBytes {elide wide : Bool} {bs : Tab Byte} (hm : Canonical s.mem) : Canonical (s.writeBytes elide wide bs).mem :=
  .foldl hm fun _ _ h => h.homeWrite

theorem Canonical.lagReplica {core : Nat} {bs : Tab Byte} (hm : Canonical s.mem) : Canonical (s.lagReplica core bs).mem :=
  .ite hm hm

theorem Canonical.seenBy {core a n : Nat} (hm : Canonical s.mem) : Canonical (s.seenBy core a n).mem :=
  .ite hm hm

theorem Canonical.syncReplicas (hm : Canonical s.mem) : Canonical s.syncReplicas.mem :=
  hm

theorem Canonical.syncDie {die : Nat} (hm : Canonical s.mem) : Canonical (s.syncDie die).mem :=
  .ite hm hm

theorem Canonical.access {w : Bool} {s t : State} (hm : Canonical s.mem) (h : State.Access w s t) : Canonical t.mem := by
  induction h with
  | refl s => exact hm
  | trans _ _ ih ih' => exact ih' (ih hm)
  | log => exact hm
  | read => exact hm.sliceRead
  | walks => exact hm
  | tlb => exact hm
  | stamped => exact hm
  | write => exact hm.homeWrite

theorem Canonical.readEntry {hpa mbz : Nat} (hm : Canonical s.mem) : Canonical (s.readEntry hpa mbz).1.mem :=
  hm.access (w := false) (s.readEntry_access _ _)

theorem Canonical.leafTable2 {die part gpa : Nat} (hm : Canonical s.mem) : Canonical (s.leafTable2 die part gpa).1.mem :=
  hm.access (w := false) (s.leafTable2_access _ _ _)

theorem Canonical.leaf2 {die part gpa : Nat} (hm : Canonical s.mem) : Canonical (s.leaf2 die part gpa).1.mem :=
  hm.access (w := false) (s.leaf2_access _ _ _)

theorem Canonical.tableAddr {die part gpa : Nat} (hm : Canonical s.mem) : Canonical (s.tableAddr die part gpa).1.mem := by
  unfold State.tableAddr
  dsimp only
  split <;> exact hm.leaf2

theorem Canonical.leafTable1 {die part va : Nat} (hm : Canonical s.mem) : Canonical (s.leafTable1 die part va).1.mem :=
  hm.access (w := false) (s.leafTable1_access _ _ _)

theorem Canonical.walk {die part va : Nat} (hm : Canonical s.mem) : Canonical (s.walk die part va).1.mem :=
  hm.access (w := false) (s.walk_access _ _ _)

theorem Canonical.logXlat {core part : Nat} {x : XFault} (hm : Canonical s.mem) : Canonical (s.logXlat core part x).mem := by
  unfold State.logXlat
  split
  · exact hm.logEvent
  · exact hm

theorem Canonical.fillTrans {core : Nat} {t : Trans} (hm : Canonical s.mem) : Canonical (s.fillTrans core t).mem :=
  hm

theorem Canonical.askElide {use : PageUse} {t : Trans} (hm : Canonical s.mem) : Canonical (s.askElide use t).1.mem := by
  unfold State.askElide
  split
  · exact hm.homeWrite
  · exact hm

theorem Canonical.walkFor {core part : Nat} {priv : Priv} {acc : Machine.Acc} {use : PageUse} {va : Nat} (hm : Canonical s.mem) :
    Canonical (s.walkFor core part priv acc use va).1.mem := by
  unfold State.walkFor
  dsimp only
  split
  · exact hm.walk.logXlat
  · split
    · exact hm.walk.logXlat
    · exact hm.walk.askElide.fillTrans

theorem Canonical.dropTrans {core part vpn : Nat} (hm : Canonical s.mem) : Canonical (s.dropTrans core part vpn).mem :=
  hm

theorem Canonical.translate {core part : Nat} {priv : Priv} {acc : Machine.Acc} {use : PageUse} {va : Nat} (hm : Canonical s.mem) :
    Canonical (s.translate core part priv acc use va).1.mem := by
  unfold State.translate
  dsimp only
  split
  · split
    · exact hm.logXlat
    · split
      · exact hm
      · exact hm.dropTrans.walkFor
  · split
    · split
      · exact hm.modCore.logXlat
      · split
        · exact hm.modCore
        · exact hm.modCore.dropTrans.walkFor
    · exact hm.walkFor

theorem Canonical.invalidate {part : Nat} {stage2 : Bool} {lo n : Nat} (hm : Canonical s.mem) :
    Canonical (s.invalidate part stage2 lo n).mem :=
  hm

theorem Canonical.dropPartTrans {part : Nat} (hm : Canonical s.mem) : Canonical (s.dropPartTrans part).mem :=
  hm

theorem Canonical.readBlock {core part : Nat} {priv : Priv} {va n : Nat} (hm : Canonical s.mem) :
    Canonical (s.readBlock core part priv va n).1.mem := by
  unfold State.readBlock
  dsimp only
  split
  · exact hm
  · split
    · exact hm.translate
    · split
      · exact hm.translate
      · exact hm.translate.homeLoad

theorem Canonical.tensorRec {core part tid : Nat} (hm : Canonical s.mem) : Canonical (s.tensorRec core part tid).1.mem := by
  unfold State.tensorRec
  dsimp only
  split
  · exact hm
  · split
    · split <;> exact hm
    · split
      · exact hm.readBlock
      · split
        · exact hm.readBlock
        · split <;> exact hm.readBlock.modPart

theorem Canonical.noteMonitor {part tid page : Nat} {r : TRec} (hm : Canonical s.mem) : Canonical (s.noteMonitor part tid page r).mem :=
  .ite hm hm

theorem Canonical.setMonitor {m : Monitor} (hm : Canonical s.mem) : Canonical (s.setMonitor m).mem :=
  hm

theorem Canonical.readMonitor {part tid page frame : Nat} (hm : Canonical s.mem) : Canonical (s.readMonitor part tid page frame).mem :=
  .ite hm hm

theorem Canonical.useMonitor {part tid page frame : Nat} {r : TRec} (hm : Canonical s.mem) :
    Canonical (s.useMonitor part tid page frame r).mem :=
  hm.readMonitor.noteMonitor

theorem Canonical.queueRetile {r : Retile} (hm : Canonical s.mem) : Canonical (s.queueRetile r).1.mem := by
  unfold State.queueRetile
  split <;> exact hm

theorem Canonical.windowEnd {r : TRec} {m : Monitor} {cand : Option Nat} {pl : PageLeaf} (hm : Canonical s.mem) :
    Canonical (s.windowEnd r m cand pl).mem := by
  unfold State.windowEnd
  refine .ite hm.setMonitor ?_
  split
  · exact .ite hm.queueRetile.setMonitor hm.setMonitor
  · exact hm.setMonitor

theorem Canonical.report {r : TRec} {part tid page cls size : Nat} {pl : PageLeaf} (hm : Canonical s.mem) :
    Canonical (s.report r part tid page cls size pl).mem :=
  .ite hm.useMonitor (.ite hm.useMonitor.setMonitor hm.useMonitor.windowEnd)

theorem Canonical.pinPage {r : TRec} {part tid page l : Nat} {pl : PageLeaf} (hm : Canonical s.mem) :
    Canonical (s.pinPage r part tid page l pl).mem := by
  unfold State.pinPage
  dsimp only
  exact .ite hm.useMonitor.setMonitor (.ite hm.useMonitor.setMonitor hm.useMonitor.queueRetile.setMonitor)

theorem Canonical.unpinPage {r : TRec} {part tid page : Nat} {pl : PageLeaf} (hm : Canonical s.mem) :
    Canonical (s.unpinPage r part tid page pl).mem :=
  .ite hm.useMonitor.setMonitor (.ite hm.useMonitor.setMonitor hm.useMonitor)

theorem Canonical.advisePage {r : TRec} {part tid page cls : Nat} {unsettle : Bool} {pl : PageLeaf} (hm : Canonical s.mem) :
    Canonical (s.advisePage r part tid page cls unsettle pl).mem :=
  .ite hm.useMonitor hm.useMonitor.windowEnd

theorem Canonical.publishRecord {m : Monitor} {t : Retile} (hm : Canonical s.mem) : Canonical (s.publishRecord m t).mem := by
  unfold State.publishRecord
  refine .ite (.ite hm.readMonitor.setMonitor hm.readMonitor.queueRetile.setMonitor) ?_
  split
  · exact .ite hm.readMonitor.setMonitor (.ite hm.readMonitor.setMonitor hm.readMonitor.queueRetile.setMonitor)
  · exact hm.readMonitor.setMonitor
  · exact hm.readMonitor.setMonitor

theorem Canonical.abandonRecord {m : Monitor} {t : Retile} (hm : Canonical s.mem) : Canonical (s.abandonRecord m t).mem :=
  .ite hm.readMonitor.queueRetile.setMonitor hm.readMonitor.setMonitor

end Sys2Proof.Machine
end

section
/-! SUPPORT for O58. Canonical memory: the vaults, the region control blocks, page requests and the lanes of an access. -/
namespace Sys2Proof.Machine

variable {s : State}

theorem Canonical.vaultWrite {c off : Nat} {bs : List Byte} (hm : Canonical s.mem) : Canonical (s.vaultWrite c off bs).mem :=
  hm

theorem Canonical.mendVault {n : Nat} {at' : List (Nat × Nat)} (hm : Canonical s.mem) : Canonical (s.mendVault n at').mem :=
  .foldl hm fun _ _ h => .ite h h.modCore

theorem Canonical.correctVault {c off n : Nat} (hm : Canonical s.mem) : Canonical (s.correctVault c off n).mem :=
  .ite hm (.modCore (.foldl hm (fun _ _ h => h.syndrome.logEvent)))

theorem Canonical.logVault {c : Nat} (hm : Canonical s.mem) : Canonical (s.logVault c).mem :=
  hm

theorem Canonical.setBarrier {c off b : Nat} (hm : Canonical s.mem) : Canonical (s.setBarrier c off b).mem :=
  hm

theorem Canonical.applyBank {c : Nat} {op : BankOp} (hm : Canonical s.mem) : Canonical (s.applyBank c op).mem := by
  unfold State.applyBank
  split <;> exact .setBarrier (.ite hm.correctVault.logVault hm.correctVault)

theorem Canonical.toBank {c : Nat} {op : BankOp} (hm : Canonical s.mem) : Canonical (s.toBank c op).mem :=
  .ite hm.modCore hm.applyBank

theorem Canonical.drainBank {c : Nat} (hm : Canonical s.mem) : Canonical (s.drainBank c).mem :=
  .ite hm (.foldl hm.modCore (fun _ _ h => h.applyBank))

theorem Canonical.readHpa {l : List (Nat × Nat)} (hm : Canonical s.mem) : Canonical (s.readHpa l).1.mem := by
  induction l generalizing s with
  | nil => exact hm
  | cons e l ih =>
    unfold State.readHpa
    exact ih hm.homeRead

theorem Canonical.readPieces {core part : Nat} {priv : Priv} {l : List (Nat × Nat)} (hm : Canonical s.mem) :
    Canonical (s.readPieces core part priv l).1.mem :=
  hm.access (w := false) (State.readPieces_access _ _ _ _ s)

theorem Canonical.readVA {core part : Nat} {priv : Priv} {va n : Nat} (hm : Canonical s.mem) :
    Canonical (s.readVA core part priv va n).1.mem :=
  hm.readPieces

theorem Canonical.writeVA {core part : Nat} {priv : Priv} {va : Nat} {bs : List Byte} (hm : Canonical s.mem) :
    Canonical (s.writeVA core part priv va bs).mem := by
  unfold State.writeVA
  dsimp only
  refine .foldl hm fun s x h => ?_
  split
  · exact h.translate
  · exact h.translate.homeWrite

theorem Canonical.takesWrite {core part : Nat} {priv : Priv} {va : Nat} (hm : Canonical s.mem) :
    Canonical (s.takesWrite core part priv va).1.mem :=
  hm.translate

theorem Canonical.readRcb {core part va : Nat} (hm : Canonical s.mem) : Canonical (s.readRcb core part va).1.mem := by
  unfold State.readRcb
  dsimp only
  split
  · exact hm
  · split <;> exact hm.readVA

theorem Canonical.rcbField {core part va off n : Nat} (hm : Canonical s.mem) : Canonical (s.rcbField core part va off n).1.mem := by
  unfold State.rcbField
  dsimp only
  split <;> exact hm.readVA

theorem Canonical.setRcbField {core part va off n x : Nat} (hm : Canonical s.mem) : Canonical (s.setRcbField core part va off n x).mem :=
  hm.writeVA

theorem Canonical.appendRing {core part va headOff base lg : Nat} {e : List Byte} (hm : Canonical s.mem) :
    Canonical (s.appendRing core part va headOff base lg e).mem := by
  unfold State.appendRing
  dsimp only
  exact .setRcbField (.ite hm.rcbField hm.rcbField.writeVA)

theorem Canonical.regionLog {core part va src kind slot cls addr bar : Nat} (hm : Canonical s.mem) :
    Canonical (s.regionLog core part va src kind slot cls addr bar).mem := by
  unfold State.regionLog
  dsimp only
  split
  · exact hm.readRcb
  · exact hm.readRcb.stamp.appendRing

theorem Canonical.notifyPages (hm : Canonical s.mem) : Canonical s.notifyPages.mem :=
  .ite hm hm.notify

theorem Canonical.tellWaiter {r : PageReq} {id : Nat} (hm : Canonical s.mem) : Canonical (s.tellWaiter r id).mem := by
  unfold State.tellWaiter
  split
  · exact .onStore hm fun _ h => h.modPacks
  · exact .onStore hm fun _ h => h.modPacks
  · exact hm

theorem Canonical.placeRequest {r : PageReq} (hm : Canonical s.mem) : Canonical (s.placeRequest r).mem :=
  .ite (.tellWaiter (.ite (.notifyPages hm) hm)) hm

theorem Canonical.requestPage {part core : Nat} {stage2 : Bool} {access addr : Nat} {w : Waiter} {held : Bool} (hm : Canonical s.mem) :
    Canonical (s.requestPage part core stage2 access addr w held).mem :=
  .ite hm hm.stamp.placeRequest

theorem Canonical.grantPages {n : Nat} {l : List PageReq} (hm : Canonical s.mem) : Canonical (s.grantPages n l).mem := by
  induction l generalizing s n with
  | nil => cases n <;> exact hm
  | cons r l ih =>
    cases n with
    | zero => exact hm
    | succ n =>
      unfold State.grantPages
      exact .ite (ih (.placeRequest hm)) (ih hm)

theorem Canonical.freePage {id : Nat} (hm : Canonical s.mem) : Canonical (s.freePage id).mem :=
  .grantPages hm

theorem Canonical.forgetReq {va : Nat} (hm : Canonical s.mem) : Canonical (s.forgetReq va).mem := by
  unfold State.forgetReq
  split
  · exact .ite hm hm
  · exact hm

theorem Canonical.parkPack {α : Type} {access va : Nat} {st2 : Bool} {a : Nat} (hm : Canonical s.mem) :
    Canonical (s.parkPack access va st2 a : State × PackRes α).1.mem := by
  unfold State.parkPack
  split
  · exact hm.forgetReq
  · exact .requestPage hm

theorem Canonical.packFault {α : Type} {access va : Nat} {x : XFault} (hm : Canonical s.mem) :
    Canonical (s.packFault access va x : State × PackRes α).1.mem := by
  unfold State.packFault
  split
  · exact hm.parkPack
  · exact hm

theorem Canonical.packRecord {tid : Nat} (hm : Canonical s.mem) : Canonical (s.packRecord tid).1.mem := by
  unfold State.packRecord
  dsimp only
  split
  · exact hm.forgetReq
  · split
    · exact (hm.tensorRec.fst ‹_›).forgetReq
    · exact hm.tensorRec

theorem Canonical.packRead {va n : Nat} (hm : Canonical s.mem) : Canonical (s.packRead va n).1.mem := by
  unfold State.packRead
  dsimp only
  split
  · exact hm
  · split
    · exact hm.forgetReq
    · split
      · exact hm.readVA.packFault
      · split
        · exact hm.readVA
        · exact hm.readVA.forgetReq

theorem Canonical.packWritable {va n : Nat} (hm : Canonical s.mem) : Canonical (s.packWritable va n).1.mem := by
  unfold State.packWritable
  dsimp only
  split
  · exact hm
  · split
    · exact hm.forgetReq.forgetReq
    · split
      · exact hm.translate.packFault
      · split
        · exact hm.translate.translate.packFault
        · exact hm.translate.translate.forgetReq.forgetReq

theorem Canonical.onLanes {m : LaneMask} {f : Nat → Thread → Thread} (hm : Canonical s.mem) : Canonical (s.onLanes m f).mem :=
  hm

theorem Canonical.setS {n : Nat} {x : Word} (hm : Canonical s.mem) : Canonical (s.setS n x).mem :=
  hm

theorem Canonical.setS64 {n : Nat} {x : DWord} (hm : Canonical s.mem) : Canonical (s.setS64 n x).mem :=
  hm

theorem Canonical.walkPages {x : Site} {priv : Priv} {acc : Acc} {code : Nat} {use : PageUse} {l : List (Nat × Nat × LaneMask)}
    (hm : Canonical s.mem) : Canonical (s.walkPages x priv acc code use l).1.mem := by
  induction l generalizing s with
  | nil => exact hm
  | cons e l ih =>
    unfold State.walkPages
    dsimp only
    split
    · exact ih hm.translate.requestPage
    · exact ih hm.translate

theorem Canonical.reportPages {x : Site} {r : TRec} {tid : Nat} {ok : List (Nat × List Word)}
    {walked : List (Nat × Except XFault Trans)} (hm : Canonical s.mem) : Canonical (s.reportPages x r tid ok walked).mem := by
  unfold State.reportPages
  dsimp only
  refine .foldl hm fun s x h => ?_
  split
  · exact h.noteMonitor
  · split
    · exact .ite h.noteMonitor h.noteMonitor.report
    · exact h

theorem Canonical.admitLanes {x : Site} {pk : Pack} {e : Entry} {a : Access} {r : Option TRec} {m : LaneMask} (hm : Canonical s.mem) :
    Canonical (s.admitLanes x pk e a r m).1.mem := by
  unfold State.admitLanes
  split
  · exact hm.walkPages.reportPages
  · exact hm.walkPages

theorem Canonical.logCore {cls core : Nat} (hm : Canonical s.mem) : Canonical (s.logCore cls core).mem :=
  hm

theorem Canonical.dropOdd {core : Nat} {secs : List Nat} (hm : Canonical s.mem) : Canonical (s.dropOdd core secs).mem :=
  .ite hm (.modCore (.foldl hm (fun _ _ h => h.logCore)))

theorem Canonical.l1Update {core : Nat} {bs : Tab Byte} (hm : Canonical s.mem) : Canonical (s.l1Update core bs).mem :=
  .ite hm hm.modCore

theorem Canonical.loadRequest {core : Nat} {plain : Bool} {n b : Nat} {here : List (Nat × Nat)} (hm : Canonical s.mem) :
    Canonical (s.loadRequest core plain n b here).1.mem := by
  unfold State.loadRequest
  dsimp only
  split
  · split
    · exact hm.dropOdd
    · exact hm.dropOdd.homeLoad.modCore
  · dsimp only
    split
    · exact hm
    · exact .ite hm.homeLoad.l1Update hm.homeLoad.l1Update

theorem Canonical.loadAll {core : Nat} {plain : Bool} {n : Nat} {pas : List (Nat × Nat)} (hm : Canonical s.mem) :
    Canonical (s.loadAll core plain n pas).1.mem :=
  Canonical.foldlFst hm fun _ _ _ h => h.loadRequest

theorem Canonical.tagRelease {core key : Nat} {rel scope : Option Scope} (hm : Canonical s.mem) :
    Canonical (s.tagRelease core key rel scope).mem := by
  unfold State.tagRelease
  split <;> exact .ite hm hm

theorem Canonical.releaseAt {core : Nat} {sc : Option Scope} (hm : Canonical s.mem) : Canonical (s.releaseAt core sc).mem := by
  unfold State.releaseAt
  split
  · exact hm.syncReplicas
  · exact hm.syncReplicas
  · exact hm.syncDie
  · exact hm.syncDie
  · exact hm

theorem Canonical.acquireL1 {core : Nat} {sc : Option Scope} (hm : Canonical s.mem) : Canonical (s.acquireL1 core sc).mem := by
  unfold State.acquireL1
  split
  · exact hm.modCore
  · exact hm.modCore
  · exact hm.modCore
  · exact hm.modCore
  · exact hm

theorem Canonical.orderRemote {core pa : Nat} {acq rel : Option Scope} (hm : Canonical s.mem) :
    Canonical (s.orderRemote core pa acq rel).mem := by
  unfold State.orderRemote
  split
  · exact hm.acquireL1.releaseAt
  · exact hm

theorem Canonical.performStores {core : Nat} {rel scope : Option Scope} {st : List (Nat × Nat × List Byte)} (hm : Canonical s.mem) :
    Canonical (s.performStores core rel scope st).mem :=
  .foldl hm fun _ _ h => .orderRemote (.foldl (.l1Update (.homeWrite (.ite h.lagReplica h))) (fun _ _ h' => h'.tagRelease))

theorem Canonical.arriveAt {core : Nat} {sc : Scope} {at' : Nat × Nat} {n : Nat} {fault : Bool} (hm : Canonical s.mem) :
    Canonical (s.arriveAt core sc at' n fault).mem :=
  hm.toBank.tagRelease

theorem Canonical.arrive {core part grp : Nat} {bar : Word} {fault : Bool} (hm : Canonical s.mem) :
    Canonical (s.arrive core part grp bar fault).mem := by
  unfold State.arrive
  split
  · exact hm.arriveAt
  · exact hm

theorem Canonical.performVault {x : Site} {a : Access} {ws : List Word} (hm : Canonical s.mem) :
    Canonical (s.performVault x a ws).1.mem := by
  unfold State.performVault
  dsimp only
  split
  · exact hm
  · split
    · exact hm.drainBank.correctVault.vaultWrite.tagRelease
    · split
      · exact hm.drainBank.correctVault.logVault
      · exact hm.drainBank.correctVault
    · split
      · exact hm.drainBank.correctVault.logVault
      · split
        · exact hm.drainBank.correctVault.vaultWrite.tagRelease
        · exact hm.drainBank.correctVault

theorem Canonical.performRmw {x : Site} {e : Entry} {a : Access} {r : Option TRec} {ws : List Word} {pa attr : Nat}
    (hm : Canonical s.mem) : Canonical (s.performRmw x e a r ws pa attr).1.mem := by
  unfold State.performRmw
  dsimp only
  split
  · exact hm.atomicRead
  · dsimp only
    split
    · refine .arrive (.syncReplicas ?_)
      refine .orderRemote ?_
      split
      · exact hm.atomicRead.seenBy.l1Update.performStores
      · exact hm.atomicRead.seenBy.l1Update
    · refine .orderRemote ?_
      split
      · exact hm.atomicRead.seenBy.l1Update.performStores
      · exact hm.atomicRead.seenBy.l1Update

theorem Canonical.performOne {x : Site} {e : Entry} {a : Access} {r : Option TRec} {ws : List Word} {pas : List (Nat × Nat)}
    (hm : Canonical s.mem) : Canonical (s.performOne x e a r ws pas).1.mem := by
  unfold State.performOne
  split
  · exact hm.performVault
  · split
    · exact hm.performRmw
    · exact hm

theorem Canonical.performEach {x : Site} {e : Entry} {a : Access} {r : Option TRec} {l : List (Nat × LaneAcc × List (Nat × Nat))}
    {lanes : Tab LaneAcc} (hm : Canonical s.mem) : Canonical (s.performEach x e a r l lanes).1.mem := by
  induction l generalizing s lanes with
  | nil => exact hm
  | cons y l ih =>
    unfold State.performEach
    dsimp only
    split <;> exact ih hm.performOne

theorem Canonical.asks {x : Site} {e : Entry} {a : Access} {todo : List (Nat × LaneAcc × List (Nat × Nat))} (hm : Canonical s.mem) :
    Canonical (s.asks x e a todo).mem := by
  unfold State.asks
  split <;> exact hm

theorem Canonical.promoteNow {id : Nat} (hm : Canonical s.mem) : Canonical (s.promoteNow id).mem :=
  .ite (.syncReplicas hm) hm

theorem Canonical.performLanes {x : Site} {e : Entry} {a : Access} {r : Option TRec} {m : LaneMask} (hm : Canonical s.mem) :
    Canonical (s.performLanes x e a r m).1.mem := by
  unfold State.performLanes
  dsimp only
  split
  · dsimp only
    split
    · exact hm.asks.performEach.mendVault
    · exact hm.asks.performEach
  · exact hm.asks.performStores
  · exact hm.asks.performStores
  · exact .foldl hm.asks.loadAll fun _ _ h => h.orderRemote
  · exact hm.asks.performEach

theorem Canonical.entryRec {x : Site} {e : Entry} {a : Access} (hm : Canonical s.mem) : Canonical (s.entryRec x e a).1.mem := by
  unfold State.entryRec
  split
  · split
    · exact hm
    · exact hm.tensorRec
  · exact hm

theorem Canonical.admitEntry {x : Site} {pk : Pack} {e : Entry} {a : Access} {m : LaneMask} (hm : Canonical s.mem) :
    Canonical (s.admitEntry x pk e a m).1.mem := by
  unfold State.admitEntry
  dsimp only
  split
  · dsimp only
    split
    · exact hm.entryRec.requestPage
    · exact hm.entryRec
  · split
    · exact hm.entryRec
    · exact hm.entryRec.admitLanes
  · exact hm.entryRec.admitLanes

theorem Canonical.runEntry {x : Site} {pk : Pack} {e : Entry} (hm : Canonical s.mem) : Canonical (s.runEntry x pk e).1.mem := by
  unfold State.runEntry
  dsimp only
  split
  · exact hm
  · split
    · split
      · exact hm.admitEntry
      · exact hm.admitEntry.performLanes
    · split
      · exact hm.admitEntry
      · exact hm.admitEntry.performLanes

end Sys2Proof.Machine
end

section
/-! SUPPORT for O58. Canonical memory: traps, what stands around the issue of an instruction, and fetch. -/
namespace Sys2Proof.Machine

variable {s : State}

theorem Canonical.advance {m : LaneMask} {n : Nat} (hm : Canonical s.mem) : Canonical (s.advance m n).mem :=
  hm

theorem Canonical.haltPartition {c : TrapClass} (hm : Canonical s.mem) : Canonical (s.haltPartition c).mem :=
  hm.modPart.logEvent.notify

theorem Canonical.baseOf {n : Nat} {r : Rcb} (hm : Canonical s.mem) : Canonical (State.baseOf n s r).1.mem := by
  induction n generalizing s r with
  | zero => exact hm
  | succ n ih =>
    unfold State.baseOf
    dsimp only
    split
    · split
      · exact hm.readRcb
      · exact ih hm.readRcb
    · exact hm

theorem Canonical.trapRegion (hm : Canonical s.mem) : Canonical s.trapRegion.1.mem := by
  unfold State.trapRegion
  dsimp only
  split
  · split <;> exact hm
  · split
    · exact hm.readRcb
    · split
      · exact hm.readRcb.readRcb
      · exact hm.readRcb.readRcb.baseOf

theorem Canonical.runOrdered {x : Site} {e : Entry} {a : Access} {m : LaneMask} (hm : Canonical s.mem) :
    Canonical (s.runOrdered x e a m).1.mem :=
  hm.runEntry.promoteNow.acquireL1.releaseAt

theorem Canonical.finishEntries {l : List Entry} (hm : Canonical s.mem) : Canonical (s.finishEntries l).mem := by
  induction l generalizing s with
  | nil => exact hm
  | cons e l ih =>
    unfold State.finishEntries
    split
    · exact ih hm
    · exact .ite (ih hm) (ih hm.runOrdered)

theorem Canonical.finishBefore {id : Nat} (hm : Canonical s.mem) : Canonical (s.finishBefore id).mem :=
  .finishEntries hm

theorem Canonical.settleEntries (hm : Canonical s.mem) : Canonical s.settleEntries.mem :=
  .ite (.ite hm hm) (.finishEntries (.ite hm hm))

theorem Canonical.dropStalls (hm : Canonical s.mem) : Canonical s.dropStalls.mem :=
  .ite hm hm.modCore

theorem Canonical.trap {t : Raise} (hm : Canonical s.mem) : Canonical (s.trap t).mem := by
  unfold State.trap
  dsimp only
  refine .ite hm.settleEntries.dropStalls.haltPartition ?_
  split
  · exact hm.settleEntries.dropStalls.trapRegion.haltPartition
  · exact hm.settleEntries.dropStalls.trapRegion

theorem Canonical.raise {c : TrapClass} {lanes : LaneMask} {addr detail : Nat} (hm : Canonical s.mem) :
    Canonical (s.raise c lanes addr detail).mem :=
  hm.trap

theorem Canonical.raisePack {c : TrapClass} {addr detail : Nat} (hm : Canonical s.mem) : Canonical (s.raisePack c addr detail).mem :=
  hm.raise

theorem Canonical.raiseEcc {addr : Nat} (hm : Canonical s.mem) : Canonical (s.raiseEcc addr).mem :=
  hm.syndrome.raisePack

theorem Canonical.retireNamed {i : Instr} (hm : Canonical s.mem) : Canonical (s.retireNamed i).mem :=
  .ite hm hm

theorem Canonical.settle {t : State} (ht : Canonical t.mem) : Canonical (s.settle t).mem := by
  rw [State.settle_mem]
  exact ht

theorem Canonical.raiseSome {c : TrapClass} {m : LaneMask} {addr detail : Nat} {body : State → State} (hm : Canonical s.mem)
    (hbody : ∀ s, Canonical s.mem → Canonical (body s).mem) : Canonical (s.raiseSome c m addr detail body).mem :=
  .ite hm.raise (.ite (.raise (hbody _ hm)) (.ite hm.raise (.ite (hbody _ hm) (hbody _ hm))))

theorem Canonical.writeFile {i : Instr} {body : State → State} (hm : Canonical s.mem)
    (hbody : ∀ s, Canonical s.mem → Canonical (body s).mem) : Canonical (s.writeFile i body).mem :=
  .ite (hbody _ hm) (hbody _ hm)

theorem Canonical.readFile {i : Instr} {body : State → State} (hm : Canonical s.mem)
    (hbody : ∀ s, Canonical s.mem → Canonical (body s).mem) : Canonical (s.readFile i body).mem :=
  .ite (hbody _ hm) (.ite (.writeFile (.foldl (.foldl hm (fun _ _ h => h.logCore)) (fun _ _ h => h.logCore))
    (fun _ h => hbody _ h)) (.raiseSome (.syndrome (.foldl (.foldl hm (fun _ _ h => h.logCore)) (fun _ _ h => h.logCore)))
      (fun _ h => .writeFile h (fun _ h' => hbody _ h'))))

theorem Canonical.readTokens {i : Instr} (hm : Canonical s.mem) : Canonical (s.readTokens i).mem :=
  .ite hm (.ite hm.acquireL1 hm)

theorem CanonicalNext.issue {i : Instr} {body : State → State} (hm : Canonical s.mem)
    (hbody : ∀ s, Canonical s.mem → Canonical (body s).mem) : CanonicalNext (issue i body s) := by
  have run : ∀ s : State, Canonical s.mem → Canonical (((s.retireNamed i).readTokens i).readFile i body).mem :=
    fun _ h => h.retireNamed.readTokens.readFile hbody
  unfold Machine.issue
  split
  · exact .fault
  · split
    · exact .next (.settle (run s hm))
    · exact .next hm
    · exact .next (hm.raiseSome run)

theorem Canonical.eachLane {n : Nat} {g : Thread → Bool} {f : Nat → Thread → Thread} (hm : Canonical s.mem) :
    Canonical (s.eachLane n g f).mem :=
  hm

theorem Canonical.afterFlags {all : Word} {bad : LaneMask} {detail : Word} (hm : Canonical s.mem) :
    Canonical (s.afterFlags all bad detail).mem :=
  .ite hm (.raise hm)

theorem Canonical.flagLanes {n : Nat} {g : Thread → Bool} {f : Nat → Thread → Thread × Word} (hm : Canonical s.mem) :
    Canonical (s.flagLanes n g f).mem :=
  hm.onLanes.afterFlags

theorem Canonical.load {core slot : Nat} (hm : Canonical s.mem) : Canonical (s.load core slot).mem := by
  unfold State.load
  split <;> exact hm

theorem Canonical.unload (hm : Canonical s.mem) : Canonical s.unload.mem :=
  hm.flush

theorem Canonical.onPack {core slot : Nat} {f : State → State} (hm : Canonical s.mem) (hf : ∀ s, Canonical s.mem → Canonical (f s).mem) :
    Canonical (s.onPack core slot f).mem := by
  unfold State.onPack
  dsimp only
  split
  · exact (hf _ hm.unload.load).unload
  · exact hm.unload

theorem Canonical.fetchMiss {core part : Nat} {priv : Priv} {pc : Nat} (hm : Canonical s.mem) :
    Canonical (s.fetchMiss core part priv pc).1.mem := by
  unfold State.fetchMiss
  dsimp only
  split
  · exact hm.translate
  · exact hm.translate
  · split
    · exact hm.translate
    · split
      · exact hm.translate.homeLoad
      · exact hm.translate.homeLoad.modCore

theorem Canonical.dropOddCode {core slot part pc : Nat} (hm : Canonical s.mem) : Canonical (s.dropOddCode core slot part pc).mem :=
  .ite hm (.modCore (.foldl hm (fun _ _ h => h.logCore)))

theorem Canonical.fetchWord {core slot part : Nat} {priv : Priv} {fill : Bool} {pc : Nat} (hm : Canonical s.mem) :
    Canonical (s.fetchWord core slot part priv fill pc).1.mem := by
  unfold State.fetchWord
  dsimp only
  split
  · exact hm.dropOddCode
  · split
    · split
      · exact hm.dropOddCode.modCore.fetchMiss
      · exact hm.dropOddCode
    · split
      · exact hm.dropOddCode.fetchMiss
      · exact hm.dropOddCode

theorem Canonical.fetchInstr {core slot : Nat} {p : Pack} {fill : Bool} {pc : BitVec 52} (hm : Canonical s.mem) :
    Canonical (s.fetchInstr core slot p fill pc).1.mem := by
  have h := hm.fetchWord (core := core) (slot := slot) (part := p.part) (priv := p.priv) (fill := fill) (pc := pc.toNat)
  unfold State.fetchInstr
  generalize s.fetchWord core slot p.part p.priv fill pc.toNat = x at h
  dsimp only
  split
  · split
    · split <;> exact h.fetchWord
    · exact h
  · exact h

theorem Canonical.takeSlot {core unit : Nat} {cs : List Cand} {k : Cand} (hm : Canonical s.mem) :
    Canonical (s.takeSlot core unit cs k).mem :=
  hm

theorem Canonical.fetchFails {f : Fetched} {va : Nat} (hm : Canonical s.mem) : Canonical (s.fetchFails f va).mem := by
  unfold State.fetchFails
  dsimp only
  split
  · split
    · exact hm.parkPack.trap
    · exact hm.parkPack
  · exact hm.syndrome.trap
  · exact hm.trap
  · exact hm

theorem Canonical.begin {core slot : Nat} {lanes : LaneMask} {pc : BitVec 52} (hm : Canonical s.mem) :
    Canonical (s.begin core slot lanes pc).1.mem := by
  unfold State.begin
  extract_lets _ u
  have h := Canonical.fetchInstr (s := u) (core := core) (slot := slot) (p := u.pk) (fill := !u.env.defer || u.pk.filled)
    (pc := pc) hm
  generalize u.fetchInstr core slot u.pk (!u.env.defer || u.pk.filled) pc = x at h
  dsimp only
  split
  · split
    · exact h
    · exact .raise h
  · exact .fetchFails h

theorem Canonical.noteBranch {core slot part : Nat} {i : Instr} {pc dest : BitVec 52} (hm : Canonical s.mem) :
    Canonical (s.noteBranch core slot part i pc dest).mem :=
  .ite hm.modCore hm

theorem Canonical.finish {core slot : Nat} {i : Instr} {pc : BitVec 52} {act : LaneMask} (hm : Canonical s.mem) :
    Canonical (s.finish core slot i pc act).mem := by
  unfold State.finish
  dsimp only
  refine .ite hm.unload ?_
  split
  · exact .ite (.unload (.ite hm hm)) (.noteBranch (.unload (.ite hm hm)))
  · exact .unload (.ite hm hm)

theorem Canonical.next {n : Nat} (hm : Canonical s.mem) : Canonical (s.next n).mem :=
  hm

theorem Canonical.jump {pc : BitVec 52} (hm : Canonical s.mem) : Canonical (s.jump pc).mem :=
  hm

theorem CanonicalNext.packForm {i : Instr} {n : Nat} {f : State → State} (hm : Canonical s.mem)
    (hf : ∀ s, Canonical s.mem → Canonical (f s).mem) : CanonicalNext (packForm i n f s) :=
  .issue hm fun s h => (hf s h).next

end Sys2Proof.Machine
end

section
/-! SUPPORT for O58. Canonical memory: loops, admission, the scheduler and the end of a group. -/
namespace Sys2Proof.Machine

variable {s : State}

theorem Canonical.block {w : Wait} (hm : Canonical s.mem) : Canonical (s.block w).mem :=
  hm

theorem Canonical.setLoopField {at' : Nat × Nat} {o n x : Nat} (hm : Canonical s.mem) : Canonical (s.setLoopField at' o n x).mem :=
  hm

theorem Canonical.setOpen {at' : Nat × Nat} {b : Bool} (hm : Canonical s.mem) : Canonical (s.setOpen at' b).mem :=
  hm

theorem Canonical.touchLoop {at' : Nat × Nat} (hm : Canonical s.mem) : Canonical (s.touchLoop at').mem :=
  .ite hm.correctVault.logVault hm.correctVault

theorem Canonical.tryWaveStored {gid : Nat} (hm : Canonical s.mem) : Canonical (s.tryWaveStored gid).mem := by
  unfold State.tryWaveStored
  split
  · exact .ite (.ite hm hm.touchLoop) (.modPacks (.acquireL1 (.setOpen (.setLoopField (.setLoopField (.ite hm hm.touchLoop))))))
  · exact hm

theorem Canonical.tryWave {gid : Nat} (hm : Canonical s.mem) : Canonical (s.tryWave gid).mem :=
  .onStore hm fun _ h => h.tryWaveStored

theorem Canonical.tryWaves {core : Nat} (hm : Canonical s.mem) : Canonical (s.tryWaves core).mem :=
  .onStore hm fun _ h => .foldl h (fun _ _ h' => h'.tryWaveStored)

theorem Canonical.leaveLoop {gid n k : Nat} {drop : Bool} (hm : Canonical s.mem) : Canonical (s.leaveLoop gid n k drop).mem := by
  unfold State.leaveLoop
  split
  · exact hm
  · exact .ite (.setOpen (.ite hm.touchLoop.setLoopField.setLoopField.setLoopField hm.touchLoop.setLoopField.setLoopField))
      (.ite hm.touchLoop.setLoopField.setLoopField.setLoopField hm.touchLoop.setLoopField.setLoopField)

theorem Canonical.withLoop {r : SReg} {f : State → Nat × Nat → State} (hm : Canonical s.mem)
    (hf : ∀ s x, Canonical s.mem → Canonical (f s x).mem) : Canonical (s.withLoop r f).mem := by
  unfold State.withLoop
  refine .ite hm.raisePack ?_
  split
  · exact hm.raisePack
  · exact .ite hm.correctVault.raisePack (.ite hm.correctVault.logVault.raiseEcc (hf _ _ hm.correctVault.modGroup))

theorem Canonical.noteClamp {part va clamp : Nat} (hm : Canonical s.mem) : Canonical (s.noteClamp part va clamp).mem := by
  unfold State.noteClamp
  dsimp only
  exact .ite hm (.ite hm.rcbField hm.rcbField.setRcbField.regionLog)

theorem Canonical.effective {n part va : Nat} (hm : Canonical s.mem) : Canonical (State.effective n s part va).1.mem :=
  hm.access (State.effective_access n s part va)

theorem Canonical.modRegion {part va : Nat} {f : Region → Region} (hm : Canonical s.mem) : Canonical (s.modRegion part va f).mem :=
  hm

theorem Canonical.admissionRcb {part va : Nat} (hm : Canonical s.mem) : Canonical (s.admissionRcb part va).1.mem := by
  unfold State.admissionRcb
  dsimp only
  split
  · split
    · exact hm.effective
    · exact hm.effective.modRegion.logEvent
  · exact hm.effective.modRegion

theorem Canonical.rcbPieces {part va : Nat} (hm : Canonical s.mem) : Canonical (s.rcbPieces part va).1.mem :=
  hm.access (w := false) (s.rcbPieces_access _ _)

theorem Canonical.scrubHeld {part va : Nat} {r : Rcb} (hm : Canonical s.mem) : Canonical (s.scrubHeld part va r).1.mem := by
  have h := hm.rcbPieces (part := part) (va := va)
  unfold State.scrubHeld
  split
  · exact hm
  · split
    rename_i t ps e
    have h := h.fst e
    split
    · exact h
    · dsimp only
      split
      · exact h
      · exact h.modRegion.rcbField.setRcbField

theorem Canonical.startGroup {slot : Nat} {n : Node} {r : Rcb} {c : Nat} {ps : List (Nat × ToPlace)} {base : Nat} (hm : Canonical s.mem) :
    Canonical (s.startGroup slot n r c ps base).mem :=
  .acquireL1 (.foldl (.modRegion hm) (fun _ _ h => h.setPack))

theorem Canonical.placeRun {slot : Nat} {r : Rcb} {k : Nat} {cs : List Nat} (hm : Canonical s.mem) :
    Canonical (s.placeRun slot r k cs).1.mem := by
  induction cs generalizing s k with
  | nil => cases k <;> exact hm
  | cons c cs ih =>
    cases k with
    | zero => exact hm
    | succ k =>
      unfold State.placeRun
      split
      · exact hm
      · split
        · exact ih hm.startGroup
        · exact ih hm

theorem Canonical.placeIn {slot : Nat} {n : Node} {r : Rcb} {cs ks : List Nat} {t : State} (hm : Canonical s.mem)
    (h : s.placeIn slot n r cs ks = some t) : Canonical t.mem := by
  induction ks with
  | nil => cases h
  | cons k ks ih =>
    unfold State.placeIn at h
    dsimp only at h
    split at h
    · split at h
      · cases h
        exact hm.placeRun.fst ‹_›
      · exact ih h
    · exact ih h

theorem Canonical.tryPlace {die slot : Nat} {n : Node} (hm : Canonical s.mem) : Canonical (s.tryPlace die slot n).1.mem := by
  unfold State.tryPlace
  dsimp only
  split
  · exact hm
  · split
    · exact hm.admissionRcb
    · split
      · exact hm.admissionRcb.scrubHeld.rcbField
      · split
        next t hp =>
          have ht : Canonical t.mem := by
            refine .placeIn ?_ hp
            exact hm.admissionRcb.scrubHeld.rcbField
          split
          · exact ht
          · exact hm.admissionRcb.scrubHeld.rcbField
        next => exact hm.admissionRcb.scrubHeld.rcbField

theorem Canonical.nodePrio {n : Node} (hm : Canonical s.mem) : Canonical (s.nodePrio n).1.mem := by
  unfold State.nodePrio
  exact hm.effective

theorem Canonical.poolOf {die : Nat} (hm : Canonical s.mem) : Canonical (s.poolOf die).1.mem :=
  hm.access (s.poolOf_access _)

theorem Canonical.walkPool {die : Nat} {steal : Bool} {l : List Nat} (hm : Canonical s.mem) :
    Canonical (s.walkPool die steal l).1.mem := by
  induction l generalizing s with
  | nil => exact hm
  | cons slot l ih =>
    unfold State.walkPool
    split
    · exact ih hm
    · split
      · exact ih hm
      · split
        · split
          · exact hm.tryPlace.fst ‹_›
          · exact ih (hm.tryPlace.fst ‹_›)
        · exact ih (hm.tryPlace.fst ‹_›)

theorem Canonical.unstick {l : List Nat} (hm : Canonical s.mem) : Canonical (s.unstick l).mem := by
  induction l generalizing s with
  | nil => exact hm
  | cons slot l ih => exact ih hm

theorem Canonical.walkDie {die : Nat} (hm : Canonical s.mem) : Canonical (s.walkDie die).1.mem := by
  unfold State.walkDie
  dsimp only
  split
  · exact hm.poolOf.unstick.walkPool.fst ‹_›
  · exact (hm.poolOf.unstick.walkPool.fst ‹_›).poolOf.walkPool

theorem Canonical.setNode {slot : Nat} {n : Node} (hm : Canonical s.mem) : Canonical (s.setNode slot n).mem :=
  hm

theorem Canonical.tryFree {slot : Nat} (hm : Canonical s.mem) : Canonical (s.tryFree slot).mem := by
  unfold State.tryFree
  split
  · exact .ite hm hm
  · exact hm

theorem Canonical.completeNode {slot src : Nat} (hm : Canonical s.mem) : Canonical (s.completeNode slot src).1.mem := by
  unfold State.completeNode
  split
  · exact hm
  · split
    · exact hm
    · exact hm.syncReplicas.setNode.tryFree

theorem Canonical.tileDie {n : Node} (hm : Canonical s.mem) : Canonical (s.tileDie n).1.mem := by
  unfold State.tileDie
  dsimp only
  split
  · exact hm
  · split
    · exact hm.tensorRec
    · split
      · exact hm.tensorRec
      · split <;> exact hm.tensorRec.translate

theorem Canonical.makeReady {slot src : Nat} (hm : Canonical s.mem) : Canonical (s.makeReady slot src).1.mem := by
  unfold State.makeReady
  dsimp only
  split
  · exact hm
  · split
    · refine .completeNode (.setNode ?_)
      split
      · exact hm
      · exact hm.tileDie
    · dsimp only
      refine .setNode ?_
      split
      · exact hm
      · exact hm.tileDie

theorem Canonical.applyDec {d : Dec} (hm : Canonical s.mem) : Canonical (s.applyDec d).1.mem := by
  unfold State.applyDec
  split
  · exact hm
  · split
    · exact hm.logEvent
    · split
      · exact hm.logEvent
      · split
        · exact hm.setNode
        · exact .makeReady (.ite hm.logEvent hm)

theorem Canonical.applyDecs {n : Nat} {l : List Dec} (hm : Canonical s.mem) : Canonical (State.applyDecs n s l).mem := by
  induction n generalizing s l with
  | zero => exact hm
  | succ n ih =>
    cases l with
    | nil => exact hm
    | cons d l =>
      unfold State.applyDecs
      exact ih hm.applyDec

theorem Canonical.decrement {ds : List Dec} (hm : Canonical s.mem) : Canonical (s.decrement ds).mem :=
  hm.applyDecs

theorem Canonical.chargeRegion {part va slot uj : Nat} (hm : Canonical s.mem) : Canonical (s.chargeRegion part va slot uj).mem := by
  unfold State.chargeRegion
  dsimp only
  refine .ite hm ?_
  split
  · exact .ite hm.rcbField.setRcbField.effective.modRegion.regionLog hm.rcbField.setRcbField.effective
  · exact hm.rcbField.setRcbField.effective

theorem Canonical.chargeUsed {gid pj : Nat} (hm : Canonical s.mem) : Canonical (s.chargeUsed gid pj).mem := by
  unfold State.chargeUsed
  split
  · exact hm
  · exact hm.modGroup.modRegion.chargeRegion

theorem Canonical.chargeTotal {gid pj : Nat} (hm : Canonical s.mem) : Canonical (s.chargeTotal gid pj).mem := by
  unfold State.chargeTotal
  split
  · exact hm
  · exact hm.modGroup.modPart

theorem Canonical.chargeGroup {gid pj : Nat} (hm : Canonical s.mem) : Canonical (s.chargeGroup gid pj).mem :=
  hm.chargeUsed.chargeTotal

theorem Canonical.carryOver {g : Machine.Group} (hm : Canonical s.mem) : Canonical (s.carryOver g).mem := by
  unfold State.carryOver
  dsimp only
  split
  · refine .chargeTotal ?_
    split
    · exact hm.chargeUsed
    · exact .ite hm hm.modRegion
  · refine .ite ?_ ?_
    · split
      · exact hm.chargeUsed
      · exact .ite hm hm.modRegion
    · refine .modPart ?_
      split
      · exact hm.chargeUsed
      · exact .ite hm hm.modRegion

theorem Canonical.tryEndGroupStored {gid : Nat} (hm : Canonical s.mem) : Canonical (s.tryEndGroupStored gid).mem := by
  unfold State.tryEndGroupStored
  dsimp only
  split
  · exact hm
  · refine .ite hm ?_
    split
    · exact .carryOver hm
    · exact .ite (.decrement (.completeNode (.setNode (.carryOver hm)))) (.tryFree (.setNode (.carryOver hm)))

theorem Canonical.reapPack {core slot : Nat} (hm : Canonical s.mem) : Canonical (s.reapPack core slot).mem := by
  unfold State.reapPack
  split
  · exact hm
  · exact .ite hm.delPack hm

theorem Canonical.orphanDrains {gid packNo : Nat} (hm : Canonical s.mem) : Canonical (s.orphanDrains gid packNo).mem :=
  .ite hm hm

theorem Canonical.afterExit (hm : Canonical s.mem) : Canonical s.afterExit.mem :=
  .ite hm (.onStore hm.orphanDrains (fun _ h => h.tryEndGroupStored.reapPack))

theorem Canonical.registerRcb {who : Registrar} {part : Nat} {n : Node} (hm : Canonical s.mem) :
    Canonical (s.registerRcb who part n).1.mem := by
  unfold State.registerRcb
  dsimp only
  split
  · exact hm
  · split <;> exact hm.readVA

theorem Canonical.register {who : Registrar} {part slot va : Nat} {inRange : Bool} (hm : Canonical s.mem) :
    Canonical (s.register who part slot va inRange).1.mem := by
  unfold State.register
  dsimp only
  split
  · exact hm.logEvent
  · split
    · split
      · exact hm.readVA.logEvent
      · split
        · exact hm.readVA.registerRcb.logEvent
        · split
          · exact hm.readVA.registerRcb.setNode.makeReady.decrement
          · exact hm.readVA.registerRcb.setNode
    · exact hm.readVA.logEvent

end Sys2Proof.Machine
end

section
/-! SUPPORT for O58. Canonical memory: the instructions of a pack, its accesses and its commands to the engines. -/
namespace Sys2Proof.Machine

variable {s : State}

theorem CanonicalNext.uniForm {i : Instr} {d a b : SReg} {f : Word → Word → Word} (hm : Canonical s.mem) :
    CanonicalNext (uniForm i d a b f s) :=
  .packForm hm fun _ h => h.setS

theorem Canonical.meterCore {c : Nat} (hm : Canonical s.mem) : Canonical (s.meterCore c).1.mem :=
  hm

theorem Canonical.meter {c : Nat} (hm : Canonical s.mem) : Canonical (s.meter c).mem := by
  unfold State.meter
  dsimp only
  split
  · exact hm.meterCore.chargeGroup
  · exact hm.meterCore

theorem CanonicalNext.execSget {d : SReg} {cw : Bool} {sel : BitVec 6} {idx : BitVec 4} (hm : Canonical s.mem) :
    CanonicalNext (execSget d cw sel idx s) := by
  unfold Machine.execSget
  dsimp only
  refine .issue hm fun s h => .ite h.block ?_
  refine .next (.ite ?_ ?_)
  · refine .setS64 ?_
    split
    · exact .ite h.meter h
    · split
      · split
        · exact h.meter.freeWord
        · exact h.meter
      · split
        · exact h.freeWord
        · exact h
  · refine .setS ?_
    split
    · exact .ite h.meter h
    · split
      · split
        · exact h.meter.freeWord
        · exact h.meter
      · split
        · exact h.freeWord
        · exact h

theorem Canonical.setControl {sel : Nat} {w : Word} {x : DWord} {t : State} (hm : Canonical s.mem) (h : s.setControl sel w x = some t) :
    Canonical t.mem := by
  unfold State.setControl at h
  dsimp only at h
  split at h
  iterate 7
    · cases h
      exact hm
  all_goals
    split at h
    · cases h
      exact hm
    · cases h

theorem CanonicalNext.execSset {sel : BitVec 6} {a : SReg} (hm : Canonical s.mem) : CanonicalNext (execSset sel a s) := by
  unfold Machine.execSset
  refine .issue hm fun s h => .ite h.block ?_
  split
  · exact (h.setControl ‹_›).next
  · exact h.raisePack

theorem Canonical.withVault {a : Word} {align : Nat} {f : State → Nat × Nat → State} (hm : Canonical s.mem)
    (hf : ∀ s x, Canonical s.mem → Canonical (f s x).mem) : Canonical (s.withVault a align f).mem := by
  unfold State.withVault
  refine .ite hm.raisePack ?_
  split
  · exact hm.raisePack
  · exact hf _ _ hm.drainBank.correctVault

theorem Canonical.answer {regs : List (Nat × Word)} (hm : Canonical s.mem) : Canonical (s.answer regs).mem :=
  .ite hm hm

theorem CanonicalNext.execRdv {d a : SReg} {cnt : BitVec 4} {off : BitVec 16} (hm : Canonical s.mem) :
    CanonicalNext (execRdv d a cnt off s) := by
  unfold Machine.execRdv
  dsimp only
  refine .issue hm fun s h => .withVault h fun s _ h' => ?_
  split
  · exact h'.raisePack
  · split
    · refine .raiseEcc (.logVault ?_)
      refine .foldl h' fun s x h'' => ?_
      split
      · exact h''.correctVault
      · exact h''
    · refine .next (.answer ?_)
      refine .foldl h' fun s x h'' => ?_
      split
      · exact h''.correctVault
      · exact h''

theorem CanonicalNext.execWrv {a b : SReg} {cnt : BitVec 4} {off : BitVec 16} (hm : Canonical s.mem) :
    CanonicalNext (execWrv a b cnt off s) := by
  unfold Machine.execWrv
  refine .issue hm fun s h => .withVault h fun s _ h' => ?_
  split
  · exact h'.raisePack
  · exact .next (.mendVault (.foldl h' (fun _ _ h'' => h''.vaultWrite)))

theorem Canonical.acquireEnergy {p : Pack} (hm : Canonical s.mem) : Canonical (s.acquireEnergy p).1.mem := by
  unfold State.acquireEnergy
  dsimp only
  split
  · exact hm
  · split <;> exact hm.effective.rcbField

theorem Canonical.grantee {c u : Nat} {l : List (Nat × Nat × Pack)} (hm : Canonical s.mem) : Canonical (s.grantee c u l).1.mem := by
  induction l generalizing s with
  | nil => exact hm
  | cons e l ih =>
    unfold State.grantee
    dsimp only
    split
    · split
      · exact hm.acquireEnergy
      · exact ih hm.acquireEnergy
    · exact ih hm

theorem Canonical.grantAcquire {c u : Nat} (hm : Canonical s.mem) : Canonical (s.grantAcquire c u).mem := by
  unfold State.grantAcquire
  dsimp only
  split
  · exact hm.grantee
  · split
    · exact hm.grantee
    · exact hm.grantee.setPack

theorem Canonical.readBarrier {a : Nat} {at' : Nat × Nat} {f : State → Nat → State} (hm : Canonical s.mem)
    (hf : ∀ s x, Canonical s.mem → Canonical (f s x).mem) : Canonical (s.readBarrier a at' f).mem :=
  .ite hm.logVault.raiseEcc (hf _ _ hm)

theorem Canonical.withRelease {sc : Scope} {f : State → State} (hm : Canonical s.mem) (hf : ∀ s, Canonical s.mem → Canonical (f s).mem) :
    Canonical (s.withRelease sc f).mem :=
  .ite hm.block (hf _ hm.releaseAt)

theorem Canonical.awaitPhase {a : Nat} {at' : Nat × Nat} {ph : Bool} {sc : Scope} {stat : Option SReg} (hm : Canonical s.mem) :
    Canonical (s.awaitPhase a at' ph sc stat).mem := by
  unfold State.awaitPhase
  refine .readBarrier hm fun s _ h => .ite ?_ h.block
  refine .next ?_
  split
  · exact h.acquireL1.setS
  · exact h.acquireL1

theorem Canonical.withStage {a b : SReg} {empty : Word → Bool} {f : State → Word → Nat × Nat → State} (hm : Canonical s.mem)
    (hf : ∀ s x y, Canonical s.mem → Canonical (f s x y).mem) : Canonical (s.withStage a b empty f).mem :=
  .ite hm.raisePack (.ite hm.raisePack (.withVault hm (fun _ _ h => hf _ _ _ h)))

theorem Canonical.unstall {q : QueueId} (hm : Canonical s.mem) : Canonical (s.unstall q).mem :=
  .ite hm hm.modCore

theorem Canonical.stall {q : QueueId} (hm : Canonical s.mem) : Canonical (s.stall q).mem :=
  .ite hm.modCore.block hm.modCore

theorem Canonical.finishRest {a : Access} {e : Entry} {fs : List LaneFail} (hm : Canonical s.mem) :
    Canonical (s.finishRest a e fs).1.mem :=
  .runOrdered (.finishBefore hm)

theorem Canonical.park (hm : Canonical s.mem) : Canonical s.park.mem :=
  .ite hm.block hm

theorem Canonical.conclude {a : Access} {e : Entry} {fs : List LaneFail} (hm : Canonical s.mem) : Canonical (s.conclude a e fs).mem := by
  unfold State.conclude
  dsimp only
  split
  · refine .ite ?_ ?_
    · split
      · exact .finishRest hm
      · exact hm
    · refine .park ?_
      split
      · exact .finishRest hm
      · exact hm
  · refine .trap ?_
    split
    · dsimp only
      refine .syndrome ?_
      split
      · exact .finishRest hm
      · exact hm
    · dsimp only
      split
      · exact .finishRest hm
      · exact hm

theorem Canonical.runAccess {e : Entry} (hm : Canonical s.mem) : Canonical (s.runAccess e).mem := by
  unfold State.runAccess
  split
  · exact hm
  · exact hm.runOrdered.conclude

theorem Canonical.takeOff {a : Access} {e : Entry} (hm : Canonical s.mem) : Canonical (s.takeOff a e).mem :=
  .ite (.stall hm) hm

theorem Canonical.flyAgain {a : Access} {e : Entry} (hm : Canonical s.mem) : Canonical (s.flyAgain a e).mem :=
  .ite (.runAccess (.finishBefore hm)) (.takeOff hm)

theorem Canonical.afterReplies (hm : Canonical s.mem) : Canonical s.afterReplies.mem :=
  hm

theorem Canonical.reinject {id : Nat} (hm : Canonical s.mem) : Canonical (s.reinject id).mem := by
  unfold State.reinject
  split
  · exact hm
  · split
    · exact hm
    · exact .ite (.ite hm.afterReplies.flyAgain hm.afterReplies.conclude) hm.afterReplies.runOrdered.conclude

theorem Canonical.reinjectAll {level : Nat} {l : List Nat} (hm : Canonical s.mem) : Canonical (s.reinjectAll level l).mem := by
  induction l generalizing s with
  | nil => exact hm
  | cons id l ih =>
    unfold State.reinjectAll
    exact .ite hm (.ite hm.reinject (ih hm.reinject))

theorem Canonical.fetchLost (hm : Canonical s.mem) : Canonical s.fetchLost.mem := by
  unfold State.fetchLost
  split
  · exact .ite hm (.ite hm hm.trap)
  · exact hm

theorem Canonical.wake (hm : Canonical s.mem) : Canonical s.wake.mem :=
  .ite (.fetchLost (.reinjectAll hm)) hm

theorem Canonical.forgetLanes {id : Nat} {m : LaneMask} (hm : Canonical s.mem) : Canonical (s.forgetLanes id m).mem :=
  hm

theorem Canonical.reissue {id : Nat} (hm : Canonical s.mem) : Canonical (s.reissue id).mem := by
  unfold State.reissue
  split
  · exact hm
  · split
    · exact hm
    · exact .ite (.stall hm) hm.afterReplies.runOrdered.forgetLanes.conclude

theorem Canonical.reissueAll {level : Nat} {l : List Nat} (hm : Canonical s.mem) : Canonical (s.reissueAll level l).mem := by
  induction l generalizing s with
  | nil => exact hm
  | cons id l ih =>
    unfold State.reissueAll
    exact .ite hm (.ite hm.reissue (ih hm.reissue))

theorem Canonical.leaveInFlight {i : Instr} {a : Access} {e : Entry} {n : Nat} (hm : Canonical s.mem) :
    Canonical (s.leaveInFlight i a e n).mem :=
  .ite (.runAccess hm) (.takeOff hm)

theorem Canonical.startAccess {i : Instr} {a : Access} {m : LaneMask} {rank n bytes : Nat} (hm : Canonical s.mem) :
    Canonical (s.startAccess i a m rank n bytes).mem :=
  .ite hm.stall (.ite (.leaveInFlight (.advance (.freshId (.ite hm.unstall hm))))
    (.runAccess (.advance (.freshId (.ite hm.unstall hm)))))

theorem Canonical.recordTrap {i : Instr} {a : Access} {m : LaneMask} {bytes : Nat} {f : RecFault} (hm : Canonical s.mem) :
    Canonical (s.recordTrap i a m bytes f).mem :=
  hm.freshId.advance.conclude

theorem Canonical.laneAccess {i : Instr} {a : Access} {g : Thread → Bool} {bytes : Nat} (hm : Canonical s.mem) :
    Canonical (s.laneAccess i a g bytes).mem := by
  unfold State.laneAccess
  dsimp only
  refine .ite hm.advance (.ite hm.block ?_)
  split
  · split
    · split
      · exact hm.packRecord.parkPack.recordTrap
      · exact hm.packRecord.parkPack
    · exact hm.packRecord.recordTrap
    · split
      · exact .ite hm.packRecord.advance (.ite hm.packRecord.recordTrap hm.packRecord.startAccess)
      · exact hm.packRecord.block
      · exact .raiseSome hm.packRecord fun _ h => .ite h.advance (.ite h.recordTrap h.startAccess)
  · exact hm.startAccess

theorem CanonicalNext.memForm {i : Instr} {g : Thread → Bool} {bytes : Nat} (hm : Canonical s.mem) :
    CanonicalNext (memForm i g bytes s) := by
  refine .issue hm fun s h => ?_
  split
  · exact h.laneAccess
  · exact h

theorem Canonical.claimLanes {key : Nat → Except ClaimFail (DWord × Nat)} (hm : Canonical s.mem) : Canonical (s.claimLanes key).mem := by
  unfold State.claimLanes
  dsimp only
  split
  · exact hm.onLanes
  · exact hm.onLanes.raise

theorem Canonical.tclaimLanes {c : VReg} {tid : Nat} {r : TRec} (hm : Canonical s.mem) : Canonical (s.tclaimLanes c tid r).mem :=
  hm.claimLanes

theorem CanonicalNext.execTclaim {c : VReg} {la : BitVec 4} {x : SReg} (hm : Canonical s.mem) : CanonicalNext (execTclaim c la x s) := by
  unfold Machine.execTclaim
  dsimp only
  refine .issue hm fun s h => ?_
  split
  · split
    · exact h.packRecord.parkPack.raise
    · exact h.packRecord.parkPack
  · exact h.packRecord.raise
  · exact h.packRecord.syndrome.raise
  · exact h.packRecord.raise
  · split
    · exact h.packRecord.block
    · exact .raiseSome h.packRecord fun _ h' => h'.tclaimLanes
    · exact h.packRecord.tclaimLanes

theorem Canonical.fenceAt {sc : Scope} (hm : Canonical s.mem) : Canonical (s.fenceAt sc).mem :=
  hm.acquireL1.releaseAt

theorem CanonicalNext.execNodeDone (hm : Canonical s.mem) : CanonicalNext (execNodeDone s) := by
  unfold Machine.execNodeDone
  refine .issue hm fun s h => .withRelease h fun s h' => ?_
  refine .next ?_
  split
  · exact h'.completeNode.decrement
  · exact h'

theorem Canonical.withRecord {tid : Nat} {f : State → TRec → State} (hm : Canonical s.mem)
    (hf : ∀ s x, Canonical s.mem → Canonical (f s x).mem) : Canonical (s.withRecord tid f).mem := by
  unfold State.withRecord
  dsimp only
  split
  · split
    · exact hm.packRecord.parkPack.raisePack
    · exact hm.packRecord.parkPack
  · exact hm.packRecord.raisePack
  · exact hm.packRecord.raiseEcc
  · exact hm.packRecord.raisePack
  · exact hf _ _ hm.packRecord

theorem Canonical.mappedPage {r : TRec} {page : Nat} (hm : Canonical s.mem) : Canonical (s.mappedPage r page).1.mem := by
  unfold State.mappedPage
  dsimp only
  split
  · split
    · exact hm.logXlat
    · exact hm
  · split
    · exact (hm.walk.fst ‹_›).logXlat
    · split
      · exact (hm.walk.fst ‹_›).logXlat
      · split
        · exact (hm.walk.fst ‹_›).askElide.fillTrans.logXlat
        · exact (hm.walk.fst ‹_›).askElide.fillTrans

theorem Canonical.eachPage {r : TRec} {f : State → Nat → PageLeaf → State} {lo n : Nat} (hm : Canonical s.mem)
    (hf : ∀ s k pl, Canonical s.mem → Canonical (f s k pl).mem) : Canonical (s.eachPage r f lo n).mem := by
  induction n generalizing s lo with
  | zero => exact hm
  | succ n ih =>
    unfold State.eachPage
    dsimp only
    split
    · exact ih (hf _ _ _ hm.mappedPage)
    · exact ih hm.mappedPage

theorem Canonical.layoutForm {a b : SReg} {count : BitVec 24} {bad : TRec → Bool} {f : Nat → State → TRec → Nat → PageLeaf → State}
    (hm : Canonical s.mem) (hf : ∀ tid s r page p, Canonical s.mem → Canonical (f tid s r page p).mem) :
    Canonical (s.layoutForm a b count bad f).mem :=
  .withRecord hm fun _ _ h => .ite h.next (.ite h.raisePack (.ite h.raisePack
    (.next (.eachPage h (fun _ _ _ h' => hf _ _ _ _ _ h')))))

theorem CanonicalNext.execTquery {d a b : SReg} {img : Bool} (hm : Canonical s.mem) : CanonicalNext (execTquery d a b img s) := by
  unfold Machine.execTquery
  dsimp only
  refine .issue hm fun s h => .withRecord h fun s _ h' => ?_
  refine .ite h'.raisePack (.ite h'.forgetReq.raisePack ?_)
  split
  · split
    · exact h'.translate.packFault.raisePack
    · exact h'.translate.packFault
  · exact .next (.answer (.ite h'.translate.forgetReq h'.translate.forgetReq.useMonitor))

theorem Canonical.modEng {e : Nat} {f : Engine → Engine} (hm : Canonical s.mem) : Canonical (s.modEng e f).mem :=
  hm

theorem Canonical.zeroPlaces {ps : List (Nat × Nat)} (hm : Canonical s.mem) : Canonical (s.zeroPlaces ps).mem :=
  .foldl hm fun _ _ h => h.modEng

theorem Canonical.tilePut {h : Handle} {acc r c x : Nat} (hm : Canonical s.mem) : Canonical (s.tilePut h acc r c x).mem :=
  hm

theorem Canonical.bindHandle {h : Nat} {kind : AccKind} {ps : List (Nat × Nat)} (hm : Canonical s.mem) :
    Canonical (s.bindHandle h kind ps).mem :=
  hm.zeroPlaces.modGroup

theorem Canonical.awaitAlloc {h : BitVec 3} {kind : AccKind} (hm : Canonical s.mem) : Canonical (s.awaitAlloc h kind).mem :=
  hm

theorem Canonical.endAlloc (hm : Canonical s.mem) : Canonical s.endAlloc.mem :=
  .ite hm.modCore hm

theorem CanonicalNext.execAccalloc {h : BitVec 3} {kind : AccKind} (hm : Canonical s.mem) : CanonicalNext (execAccalloc h kind s) := by
  unfold Machine.execAccalloc
  refine .issue hm fun s h' => .ite h'.awaitAlloc ?_
  refine .ite h'.endAlloc.raisePack ?_
  split
  · exact h'.endAlloc.bindHandle.next
  · exact h'.awaitAlloc

theorem CanonicalNext.execAccfree {h : BitVec 3} (hm : Canonical s.mem) : CanonicalNext (execAccfree h s) := by
  unfold Machine.execAccfree
  refine .issue hm fun s h' => ?_
  split
  · exact h'.raisePack
  · exact .ite h'.raisePack (.ite h'.modGroup.block h'.zeroPlaces.modGroup.next)

theorem Canonical.withCommand {r bar : SReg} {tok : Bool} {f : State → List Byte → Signal → State} (hm : Canonical s.mem)
    (hf : ∀ s x y, Canonical s.mem → Canonical (f s x y).mem) : Canonical (s.withCommand r bar tok f).mem := by
  unfold State.withCommand
  refine .ite hm.raisePack ?_
  split
  · exact hm.raisePack
  · split
    · exact hm.raisePack
    · split
      · exact hm.raisePack
      · exact .ite hm.drainBank.correctVault.logVault.raiseEcc (hf _ _ _ hm.drainBank.correctVault)

theorem Canonical.readRecs {l : List Nat} (hm : Canonical s.mem) : Canonical (s.readRecs l).1.mem := by
  induction l generalizing s with
  | nil => exact hm
  | cons tid l ih =>
    unfold State.readRecs
    exact ih hm.packRecord

theorem Canonical.withCoords {c : SReg} {n : Option Nat} {f : State → List Word → State} (hm : Canonical s.mem)
    (hf : ∀ s x, Canonical s.mem → Canonical (f s x).mem) : Canonical (s.withCoords c n f).mem := by
  unfold State.withCoords
  split
  · exact hf _ _ hm
  · split
    · exact hf _ _ hm
    · exact hm.raisePack
    · exact hm.block

theorem Canonical.enqueue {i : Instr} {b : List Byte} {sig : Signal} {rs : List RecRead} {p : Plan} (hm : Canonical s.mem) :
    Canonical (s.enqueue i b sig rs p).mem := by
  unfold State.enqueue
  dsimp only
  split
  · exact hm.stall
  · refine .next ?_
    dsimp only
    split <;> exact hm.unstall

theorem Canonical.reject {x : Reject} (hm : Canonical s.mem) : Canonical (s.reject x).mem := by
  unfold State.reject
  dsimp only
  split
  · split
    · exact hm.parkPack.raisePack
    · exact hm.parkPack
  · exact .ite hm.raiseEcc hm.raisePack

theorem Canonical.recordAt {r : SReg} (hm : Canonical s.mem) : Canonical (s.recordAt r).1.mem := by
  unfold State.recordAt
  dsimp only
  split
  · exact hm
  · exact hm.drainBank

theorem Canonical.commandWith {i : Instr} {r bar : SReg} {tok : Bool} {c : SReg} {tids : List Byte → List Nat}
    {ncoord : List Byte → List TRec → Nat} {param : State → List Byte → (State → Option (List Byte) → State) → State}
    {plan : Option (List Byte) → State → List Byte → List RecRead → List Word → Except Reject Plan} (hm : Canonical s.mem)
    (hp : ∀ {s b k}, Canonical s.mem → (∀ {s} x, Canonical s.mem → Canonical (k s x).mem) → Canonical (param s b k).mem) :
    Canonical (s.commandWith i r bar tok c tids ncoord param plan).mem := by
  unfold State.commandWith
  refine Canonical.withCoords ?_ fun s cs h => h.withCommand fun s b sig h => hp h fun x h => ?_
  · split
    · exact hm.recordAt.readRecs
    · exact hm.recordAt
  · split
    · exact h.reject
    · exact h.enqueue

theorem Canonical.command {i : Instr} {r bar : SReg} {tok : Bool} {c : SReg} {tids : List Byte → List Nat}
    {ncoord : List Byte → List TRec → Nat} {plan : State → List Byte → List RecRead → List Word → Except Reject Plan}
    (hm : Canonical s.mem) : Canonical (s.command i r bar tok c tids ncoord plan).mem :=
  hm.commandWith fun h hk => hk _ h

theorem Canonical.withParams {b : List Byte} {k : State → Option (List Byte) → State} (hm : Canonical s.mem)
    (hk : ∀ {s} x, Canonical s.mem → Canonical (k s x).mem) : Canonical (s.withParams b k).mem := by
  unfold State.withParams
  dsimp only
  split
  · exact hk _ hm
  · split
    · exact hk _ hm
    · split
      · exact hm.drainBank.correctVault.logVault.raiseEcc
      · exact hk _ hm.drainBank.correctVault

theorem Canonical.drainCommand {i : Instr} {r c bar : SReg} {tok : Bool} (hm : Canonical s.mem) :
    Canonical (s.drainCommand i r c bar tok).mem :=
  hm.commandWith fun h hk => h.withParams hk

theorem CanonicalNext.execSplrefine {bar : SReg} {la : BitVec 4} {tok : Bool} (hm : Canonical s.mem) :
    CanonicalNext (execSplrefine bar la tok s) := by
  unfold Machine.execSplrefine
  dsimp only
  refine .issue hm fun s h => ?_
  split
  · exact h.raisePack
  · exact h.enqueue

end Sys2Proof.Machine
end

section
/-! SUPPORT for O58. Canonical memory: events, and the engines. -/
namespace Sys2Proof.Machine

variable {s : State}

theorem Canonical.logOrphan {part : Nat} {rcb : DWord} {src slot cls va bar : Nat} (hm : Canonical s.mem) :
    Canonical (s.logOrphan part rcb src slot cls va bar).mem := by
  unfold State.logOrphan
  dsimp only
  exact hm.regionLog.rcbField.setRcbField

theorem Canonical.dropLane {o : Orphan} {l : Nat} {cls : TrapClass} (hm : Canonical s.mem) : Canonical (s.dropLane o l cls).mem := by
  unfold State.dropLane
  exact .ite hm.logOrphan hm.logOrphan.arrive

theorem Canonical.dropOrphan {n : Nat} {o : Orphan} {cls : TrapClass} (hm : Canonical s.mem) : Canonical (s.dropOrphan n o cls).mem :=
  .foldl hm fun _ _ h => h.dropLane

theorem Canonical.runOrphan {n : Nat} {o : Orphan} (hm : Canonical s.mem) : Canonical (s.runOrphan n o).mem :=
  .ite (.foldl hm.syncReplicas.runEntry (fun _ _ h => h.dropLane)) (.foldl hm.syncReplicas.runEntry (fun _ _ h => h.dropLane))

theorem Canonical.wakeAll {l : List (Nat × Nat)} (hm : Canonical s.mem) : Canonical (s.wakeAll l).mem := by
  induction l generalizing s with
  | nil => exact hm
  | cons e l ih =>
    unfold State.wakeAll
    exact ih (.onPack hm (fun _ h => h.wake))

theorem Canonical.applyReply {id : Nat} {q : PageReq} {bad : Bool} (hm : Canonical s.mem) : Canonical (s.applyReply id q bad).mem := by
  unfold State.applyReply
  dsimp only
  split
  · exact hm.modPacks.freePage.wakeAll
  · exact hm.modPacks.freePage.wakeAll
  · exact hm.modCmd.freePage
  · split
    · exact .ite hm.freePage.dropOrphan hm.freePage.runOrphan
    · exact hm.freePage
  · exact hm.freePage

theorem Canonical.aside {f : State → State} (hm : Canonical s.mem) (hf : ∀ s, Canonical s.mem → Canonical (f s).mem) :
    Canonical (s.aside f).mem := by
  unfold State.aside
  split
  · exact (hf _ hm.unload).load
  · exact hf _ hm

theorem CanonicalNext.event {f : State → State} (hm : Canonical s.mem) (hf : ∀ s, Canonical s.mem → Canonical (f s).mem) :
    CanonicalNext (event f s) :=
  .next (hm.aside hf)

theorem Canonical.sendBack {f : Pack → List (Nat × Nat) → Bool} (hm : Canonical s.mem) : Canonical (s.sendBack f).mem :=
  .onStore hm fun _ h => .modPacks h

theorem Canonical.resend {part : Nat} (hm : Canonical s.mem) : Canonical (s.resend part).mem :=
  .ite hm.sendBack hm

theorem Canonical.invalidateSent {part : Nat} {stage2 : Bool} {lo n : Nat} (hm : Canonical s.mem) :
    Canonical (s.invalidateSent part stage2 lo n).mem :=
  hm.invalidate.resend

theorem Canonical.holdLanes {e : Entry} {m : LaneMask} (hm : Canonical s.mem) : Canonical (s.holdLanes e m).mem := by
  unfold State.holdLanes
  split
  · exact hm
  · exact hm.freshId

theorem Canonical.loseLanes {e : Entry} {a : Access} {fs : List LaneFail} (hm : Canonical s.mem) :
    Canonical (s.loseLanes e a fs).mem := by
  unfold State.loseLanes
  dsimp only
  split
  · exact .foldl hm fun _ _ h => h.holdLanes
  · exact .foldl (.foldl hm (fun _ _ h => h.holdLanes)) fun _ _ h => .ite h.logOrphan.arrive h.logOrphan

theorem Canonical.finishExiting {m : LaneMask} {l : List Entry} (hm : Canonical s.mem) : Canonical (s.finishExiting m l).mem := by
  induction l generalizing s with
  | nil => exact hm
  | cons e l ih =>
    unfold State.finishExiting
    split
    · exact .ite (ih hm) (ih (.ite hm.runOrdered.loseLanes hm.runOrdered))
    · exact ih hm

theorem Canonical.exitLanes {m : LaneMask} (hm : Canonical s.mem) : Canonical (s.exitLanes m).mem :=
  .afterExit (.tryWaves (.ite (.onLanes (.ite hm hm.finishExiting)) (.leaveLoop (.onLanes (.ite hm hm.finishExiting)))))

theorem Canonical.collect {α β : Type} {f : State → α → Got β} {l : List α} (hm : Canonical s.mem)
    (hf : ∀ s x, Canonical s.mem → Canonical (f s x).1.mem) : Canonical (collect f s l).1.mem := by
  induction l generalizing s with
  | nil => exact hm
  | cons x l ih =>
    unfold Machine.collect
    split
    · exact (hf _ _ hm).fst ‹_›
    · split <;> exact (ih ((hf _ _ hm).fst ‹_›)).fst ‹_›

theorem Canonical.engVault {c : Cmd} {a n : Nat} (hm : Canonical s.mem) : Canonical (s.engVault c a n).1.mem := by
  unfold State.engVault
  dsimp only
  split
  · exact hm
  · split
    · exact hm.drainBank.correctVault.logVault
    · exact hm.drainBank.correctVault

theorem Canonical.engFlat {c : Cmd} {va n : Nat} (hm : Canonical s.mem) : Canonical (s.engFlat c va n).1.mem := by
  unfold State.engFlat
  split <;> exact hm.readVA.fst ‹_›

theorem Canonical.engPlace {c : Cmd} {va : Nat} {bs : List Byte} (hm : Canonical s.mem) : Canonical (s.engPlace c va bs).1.mem := by
  unfold State.engPlace
  refine .collect hm fun s x h => ?_
  split
  · exact h
  · split
    · exact h.translate.fst ‹_›
    · split <;> exact h.translate.fst ‹_›

theorem Canonical.publish {core : Nat} {ps : List Put} (hm : Canonical s.mem) : Canonical (s.publish core ps).mem :=
  hm.performStores.syncReplicas

theorem Canonical.spot {c : Cmd} {r : TRec} {b : Bool} {acc : Machine.Acc} {access : Nat} {cs : List Nat} (hm : Canonical s.mem) :
    Canonical (s.spot c r b acc access cs).1.mem := by
  unfold State.spot
  dsimp only
  split
  · exact hm.translate.fst ‹_›
  · split <;> split <;> exact hm.translate.fst ‹_›

theorem Canonical.spotValue {c : Cmd} {r : TRec} {cs : List Nat} {p : Spot} (hm : Canonical s.mem) :
    Canonical (s.spotValue c r cs p).1.mem := by
  unfold State.spotValue
  dsimp only
  split <;> exact hm.homeLoad

theorem Canonical.engElems {c : Cmd} {r : TRec} {b : Bool} {at' : List (List Nat)} (hm : Canonical s.mem) :
    Canonical (s.engElems c r b at').1.mem := by
  unfold State.engElems
  refine .collect hm fun s x h => ?_
  split
  · exact h.spot.fst ‹_›
  · split <;> exact (h.spot.fst ‹_›).spotValue.fst ‹_›

theorem Canonical.reportSpots {c : Cmd} {r : TRec} {tid cls : Nat} {ps : List Spot} (hm : Canonical s.mem) :
    Canonical (s.reportSpots c r tid cls ps).mem := by
  unfold State.reportSpots
  refine Canonical.foldlFst hm fun s b p h => ?_
  dsimp only
  split
  · exact h
  · exact .ite h h.report

theorem Canonical.elemPut {c : Cmd} {r : TRec} {b : Bool} {x : List Nat × Nat} (hm : Canonical s.mem) :
    Canonical (s.elemPut c r b x).1.mem := by
  unfold State.elemPut
  split <;> exact hm.spot.fst ‹_›

theorem Canonical.elemPuts {c : Cmd} {r : TRec} {xs : List (List Nat × Nat)} (hm : Canonical s.mem) :
    Canonical (s.elemPuts c r xs).1.mem :=
  .collect hm fun _ _ h => h.elemPut

theorem Canonical.logEngine {cls e : Nat} (hm : Canonical s.mem) : Canonical (s.logEngine cls e).mem :=
  hm

theorem Canonical.correctAcc {ws : List (Nat × Nat)} {e : Nat} (hm : Canonical s.mem) : Canonical (s.correctAcc ws e).mem :=
  .ite hm (.modEng (.foldl hm (fun _ _ h => h.logEngine)))

theorem Canonical.readTile {h : Handle} {ty : Nat} {at' : List (Nat × Nat)} (hm : Canonical s.mem) :
    Canonical (s.readTile h ty at').1.mem := by
  unfold State.readTile
  dsimp only
  split
  · exact .logEngine (.foldl hm (fun _ _ h' => h'.correctAcc))
  · exact .foldl hm fun _ _ h' => h'.correctAcc

theorem Canonical.writeTile {h : Handle} {ty : Nat} {xs : List ((Nat × Nat) × Nat)} (hm : Canonical s.mem) :
    Canonical (s.writeTile h ty xs).mem :=
  .foldl (.foldl hm (fun _ _ h' => h'.tilePut)) fun _ _ h' => .ite h' h'.modEng

theorem Canonical.readCoefs {e : Nat} {cells : List Nat} (hm : Canonical s.mem) : Canonical (s.readCoefs e cells).1.mem := by
  unfold State.readCoefs
  dsimp only
  split
  · exact .logEngine (.ite hm (.modEng (.foldl hm (fun _ _ h => h.logEngine))))
  · exact .ite hm (.modEng (.foldl hm (fun _ _ h => h.logEngine)))

theorem Canonical.deviationField {ds : List Machine.Num} (hm : Canonical s.mem) : Canonical (s.deviationField ds).2.mem := by
  unfold State.deviationField
  split
  · exact hm.freeWord
  · exact hm

theorem Canonical.appendAudit {c : Cmd} {h : Handle} {ty rows cols : Nat} {res : List Nat} (hm : Canonical s.mem) :
    Canonical (s.appendAudit c h ty rows cols res).mem := by
  unfold State.appendAudit
  dsimp only
  split
  · exact hm.deviationField.deviationField.stamp.readRcb
  · exact hm.deviationField.deviationField.stamp.readRcb.appendRing

theorem Canonical.stopCmd {id : Nat} {c : Cmd} {e : Stop} (hm : Canonical s.mem) : Canonical (s.stopCmd id c e).mem := by
  unfold State.stopCmd
  split
  · exact hm
  · exact .requestPage hm

theorem Canonical.settleCmd {id : Nat} {c : Cmd} {g : Got Cmd} (hm : Canonical g.1.mem) : Canonical (State.settleCmd id c g).mem := by
  unfold State.settleCmd
  split
  · exact Canonical.stopCmd hm
  · exact hm

theorem Canonical.readPiece {c : Cmd} {p : Piece} (hm : Canonical s.mem) : Canonical (s.readPiece c p).1.mem := by
  unfold State.readPiece
  dsimp only
  split
  · split <;> exact hm.engElems.fst ‹_›
  · split <;> exact hm.engVault.fst ‹_›
  · split <;> exact hm.engFlat.fst ‹_›

theorem Canonical.readIndices {c : Cmd} (hm : Canonical s.mem) : Canonical (s.readIndices c).1.mem := by
  unfold State.readIndices
  split
  · split <;> exact hm.engVault.fst ‹_›
  · exact hm.engVault.fst ‹_›
  · exact hm.engVault.fst ‹_›

theorem Canonical.gatherPiece {c : Cmd} {p : Piece} (hm : Canonical s.mem) : Canonical (s.gatherPiece c p).1.mem := by
  unfold State.gatherPiece
  dsimp only
  split
  · exact hm
  · split
    · exact hm.engElems.fst ‹_›
    · dsimp only
      split
      · exact (hm.engElems.fst ‹_›).freeWord
      · exact hm.engElems.fst ‹_›

theorem Canonical.copyVaults {src dst : Nat × Nat} {n : Nat} (hm : Canonical s.mem) : Canonical (s.copyVaults src dst n).mem :=
  .foldl hm fun _ _ h => h.vaultWrite

theorem Canonical.deliverPiece {c : Cmd} {p : Piece} {bs : List Byte} (hm : Canonical s.mem) :
    Canonical (s.deliverPiece c p bs).1.mem := by
  unfold State.deliverPiece
  dsimp only
  split
  · exact hm
  · split
    · exact hm
    · split
      · split
        · split
          · exact hm.copyVaults
          · exact hm
        · exact hm.vaultWrite
      · split
        · split
          · exact hm.copyVaults
          · exact hm
        · exact hm.vaultWrite

theorem Canonical.reportPiece {c : Cmd} {ps : List Spot} (hm : Canonical s.mem) : Canonical (s.reportPiece c ps).1.mem := by
  unfold State.reportPiece
  dsimp only
  split
  · split
    · exact hm
    · exact hm.reportSpots
  · exact hm

theorem Canonical.copyStep {c : Cmd} (hm : Canonical s.mem) : Canonical (s.copyStep c).1.mem := by
  have piece : ∀ p, Canonical (match c.instr with | .cpyg .. => s.gatherPiece c p | _ => s.readPiece c p).1.mem := by
    intro p
    split
    · exact hm.gatherPiece
    · exact hm.readPiece
  unfold State.copyStep
  dsimp only
  split
  · exact hm
  · split
    · exact (piece _).fst ‹_›
    · rename_i p _ _ t bs ps _
      have h := ((piece p).fst ‹_›).reportPiece (c := c) (ps := ps)
      split <;> exact h.deliverPiece.fst ‹_›

theorem Canonical.startCopy {c : Cmd} (hm : Canonical s.mem) : Canonical (s.startCopy c).1.mem := by
  unfold State.startCopy
  split
  · split
    · exact hm.copyStep
    · split
      · exact hm.readIndices.fst ‹_›
      · exact (hm.readIndices.fst ‹_›).copyStep
  · exact hm.copyStep

theorem Canonical.readScales {c : Cmd} {t : TRec} {at' : List (List Nat)} (hm : Canonical s.mem) :
    Canonical (s.readScales c t at').1.mem := by
  unfold State.readScales
  split
  · exact hm
  · refine .collect hm fun s x h => ?_
    split <;> exact h.engFlat.fst ‹_›

theorem Canonical.readOperandRow {c : Cmd} {t : TRec} {trans : Bool} {k r : Nat} (hm : Canonical s.mem) :
    Canonical (s.readOperandRow c t trans k r).1.mem := by
  unfold State.readOperandRow
  dsimp only
  split
  · exact hm.engElems.fst ‹_›
  · split <;> exact (hm.engElems.fst ‹_›).readScales.fst ‹_›

theorem Canonical.pruneFed {ids : List Nat} (hm : Canonical s.mem) : Canonical (s.pruneFed ids).mem :=
  .ite hm hm

theorem Canonical.takeHeads {c : Cmd} {hs : List (KStep × KStep)} (hm : Canonical s.mem) : Canonical (s.takeHeads c hs).1.mem :=
  .foldl (.pruneFed (.foldl hm (fun _ _ h => h.modEng))) fun _ _ h => .ite h.logEngine (.ite h.logEngine h)

theorem Canonical.finishMat {id : Nat} {c : Cmd} {h : Handle} {d : MatDims} (hm : Canonical s.mem) :
    Canonical (s.finishMat id c h d).mem :=
  .ite hm.writeTile.appendAudit hm.writeTile

theorem Canonical.advanceMat {id n : Nat} (hm : Canonical s.mem) : Canonical (s.advanceMat id n).mem := by
  induction n generalizing s with
  | zero => exact hm
  | succ n ih =>
    unfold State.advanceMat
    split
    · exact hm
    · split
      · exact hm
      · refine .ite hm (.ite hm.finishMat ?_)
        split
        · exact hm
        · exact .ite hm.takeHeads.stopCmd (.ite hm.takeHeads.stopCmd (ih hm.takeHeads))

theorem Canonical.advanceCmd {id : Nat} (hm : Canonical s.mem) : Canonical (s.advanceCmd id).mem := by
  unfold State.advanceCmd
  split
  · exact hm.advanceMat
  · exact hm

theorem Canonical.advanceOn {engines : List Nat} (hm : Canonical s.mem) : Canonical (s.advanceOn engines).mem :=
  .foldl hm fun _ _ h => h.advanceCmd

theorem Canonical.readVectors {c : Cmd} {d : MatDims} (hm : Canonical s.mem) : Canonical (s.readVectors c d).1.mem := by
  unfold State.readVectors
  split
  · exact hm
  · split <;> exact .fst (.collect hm (fun _ _ h => h.engVault)) ‹_›

theorem Canonical.countAudit {c : Cmd} {d : MatDims} (hm : Canonical s.mem) : Canonical (s.countAudit c d).1.mem := by
  unfold State.countAudit
  dsimp only
  split
  · split
    · exact hm
    · exact hm.modGroup
  · split
    · exact hm
    · exact hm.modGroup

theorem Canonical.startMat {c : Cmd} (hm : Canonical s.mem) : Canonical (s.startMat c).1.mem := by
  have tile : ∀ {u : State} (h : Handle) (d : MatDims), Canonical u.mem → Canonical
    (if d.acc then u.readTile h d.ty (positions d.m d.n)
      else (u, .ok ((positions d.m d.n).map fun _ => 0))).1.mem := by
    intro u h d hu
    split
    · exact hu.readTile
    · exact hu
  unfold State.startMat
  dsimp only
  split
  · exact hm
  · split
    · exact hm.readVectors.fst ‹_›
    · have h := hm.readVectors.fst ‹_›
      split
      · exact (tile _ _ h).fst ‹_›
      · exact ((tile _ _ h).fst ‹_›).countAudit

theorem Canonical.startDrain {c : Cmd} (hm : Canonical s.mem) : Canonical (s.startDrain c).1.mem := by
  unfold State.startDrain
  dsimp only
  split
  · exact hm
  · split <;> exact hm.readTile.fst ‹_›

theorem Canonical.f4xPuts {c : Cmd} {t : TRec} (hm : Canonical s.mem) : Canonical (s.f4xPuts c t).1.mem := by
  unfold State.f4xPuts
  dsimp only
  split
  · exact hm.elemPuts.fst ‹_›
  · split
    · exact .fst (.collect (hm.elemPuts.fst ‹_›) (fun _ _ h => h.engPlace)) ‹_›
    · split <;> exact .fst (.collect (hm.elemPuts.fst ‹_›) (fun _ _ h => h.engPlace)) ‹_›

theorem Canonical.drainPuts {c : Cmd} {h : Handle} {t : TRec} (hm : Canonical s.mem) : Canonical (s.drainPuts c h t).1.mem := by
  unfold State.drainPuts
  dsimp only
  split
  · exact hm.f4xPuts
  · split
    · exact hm.elemPuts
    · split
      · exact hm.engElems.fst ‹_›
      · exact (hm.engElems.fst ‹_›).elemPuts

theorem Canonical.adamPuts {c : Cmd} {w m v : TRec} (hm : Canonical s.mem) : Canonical (s.adamPuts c w m v).1.mem := by
  unfold State.adamPuts
  dsimp only
  split
  · split <;> exact .fst (.collect (.fst (.collect hm (fun _ _ h => h.engElems)) ‹_›) (fun _ _ h => h.elemPuts)) ‹_›
  · exact .fst (.collect hm (fun _ _ h => h.engElems)) ‹_›
  · exact .fst (.collect hm (fun _ _ h => h.engElems)) ‹_›

theorem Canonical.reportAll {c : Cmd} {ts : List (TRec × Nat × List Spot)} (hm : Canonical s.mem) : Canonical (s.reportAll c ts).mem :=
  .foldl hm fun _ _ h => h.reportSpots

theorem Canonical.cutDrain {c : Cmd} (hm : Canonical s.mem) : Canonical (s.cutDrain c).1.mem := by
  unfold State.cutDrain
  split
  · split
    · exact hm.drainPuts.fst ‹_›
    · exact .ite ((hm.drainPuts.fst ‹_›).publish.reportAll.writeTile) ((hm.drainPuts.fst ‹_›).publish.reportAll)
  · split
    · exact hm.adamPuts.fst ‹_›
    · exact .ite (.writeTile (.ite ((hm.adamPuts.fst ‹_›).publish.reportAll.rcbField)
        ((hm.adamPuts.fst ‹_›).publish.reportAll.rcbField.setRcbField)))
          (.ite ((hm.adamPuts.fst ‹_›).publish.reportAll.rcbField) ((hm.adamPuts.fst ‹_›).publish.reportAll.rcbField.setRcbField))
  · exact hm

theorem Canonical.endReduce {ids : List Nat} {fail bytes : Nat} (hm : Canonical s.mem) : Canonical (s.endReduce ids fail bytes).mem :=
  .foldl hm fun _ _ h => h.modCmd

theorem Canonical.reduceStep {c : Cmd} (hm : Canonical s.mem) : Canonical (s.reduceStep c).1.mem := by
  unfold State.reduceStep
  split
  · exact hm
  · exact hm.vaultWrite

theorem Canonical.runReduce {base : Nat} {ps : List (Nat × Cmd)} (hm : Canonical s.mem) : Canonical (s.runReduce base ps).mem := by
  unfold State.runReduce
  extract_lets ids cs c0 rows cols at' bufs
  have tiles : Canonical (Machine.collect (fun s (c : Cmd) => match c.handle with
      | some h => s.readTile h 0 at'
      | none => (s, .error (.fail 13))) s cs).1.mem := by
    refine hm.collect fun s c h => ?_
    split
    · exact h.readTile
    · exact h
  split
  · exact hm.endReduce
  · split
    · exact (tiles.fst ‹_›).endReduce
    · have h := tiles.fst ‹_›
      refine .foldl ?_ fun _ _ h' => h'.modCmd
      split
      · split
        · exact h.writeTile
        · exact h
      · exact h

theorem Canonical.tryReduce {id : Nat} (hm : Canonical s.mem) : Canonical (s.tryReduce id).mem := by
  unfold State.tryReduce
  split
  · exact hm
  · refine .ite hm ?_
    split
    · exact hm
    · exact .ite hm.runReduce hm.endReduce

theorem Canonical.splineVectors {c : Cmd} {base pitch n : Nat} (hm : Canonical s.mem) :
    Canonical (s.splineVectors c base pitch n).1.mem := by
  unfold State.splineVectors
  split <;> exact .fst (.collect hm (fun _ _ h => h.engVault)) ‹_›

theorem Canonical.splineInputs {c : Cmd} {dy : Bool} (hm : Canonical s.mem) : Canonical (s.splineInputs c dy).1.mem := by
  unfold State.splineInputs
  dsimp only
  split
  · exact hm.splineVectors.fst ‹_›
  · split
    · exact hm.splineVectors.fst ‹_›
    · split <;> exact (hm.splineVectors.fst ‹_›).splineVectors.fst ‹_›

theorem Canonical.startLoad {c : Cmd} (hm : Canonical s.mem) : Canonical (s.startLoad c).1.mem := by
  unfold State.startLoad
  dsimp only
  split
  · exact hm.engFlat.fst ‹_›
  · exact (hm.engFlat.fst ‹_›).modEng

theorem Canonical.splineStart {c : Cmd} {h : Handle} {at' : List (Nat × Nat)} (hm : Canonical s.mem) :
    Canonical (s.splineStart c h at').1.mem := by
  unfold State.splineStart
  split
  · exact hm.readTile
  · exact hm

theorem Canonical.startMv {c : Cmd} {dx : Bool} (hm : Canonical s.mem) : Canonical (s.startMv c dx).1.mem := by
  unfold State.startMv
  dsimp only
  split
  · exact hm.splineInputs.fst ‹_›
  · exact hm.splineInputs.fst ‹_›
  · split
    · exact (hm.splineInputs.fst ‹_›).readCoefs.fst ‹_›
    · split
      · exact ((hm.splineInputs.fst ‹_›).readCoefs.fst ‹_›).splineStart.fst ‹_›
      · exact (((hm.splineInputs.fst ‹_›).readCoefs.fst ‹_›).splineStart.fst ‹_›).modEng.writeTile

theorem Canonical.startGrad {c : Cmd} (hm : Canonical s.mem) : Canonical (s.startGrad c).1.mem := by
  unfold State.startGrad
  dsimp only
  split
  · exact hm.splineInputs.fst ‹_›
  · exact hm.splineInputs.fst ‹_›
  · split
    · exact hm.splineInputs.fst ‹_›
    · split
      · exact .fst (.readTile (.ite (hm.splineInputs.fst ‹_›) ((hm.splineInputs.fst ‹_›).zeroPlaces))) ‹_›
      · exact .foldl (.fst (.readTile (.ite (hm.splineInputs.fst ‹_›) ((hm.splineInputs.fst ‹_›).zeroPlaces))) ‹_›) fun _ _ h =>
          h.writeTile

theorem Canonical.startGrid {c : Cmd} (hm : Canonical s.mem) : Canonical (s.startGrid c).1.mem :=
  hm

theorem Canonical.startRefine {c : Cmd} (hm : Canonical s.mem) : Canonical (s.startRefine c).1.mem := by
  unfold State.startRefine
  split
  · exact hm
  · split
    · exact hm.readCoefs.fst ‹_›
    · exact (hm.readCoefs.fst ‹_›).modEng

theorem Canonical.startOne {c : Cmd} (hm : Canonical s.mem) : Canonical (s.startOne c).1.mem := by
  unfold State.startOne
  split
  · exact hm.startCopy
  · exact hm.startCopy
  · exact hm
  · exact hm
  · split
    · exact hm.startMat
    · exact hm
  · split
    · exact hm.startMat
    · exact hm
  · exact hm.startDrain
  · exact hm.startGrid
  · exact hm.startLoad
  · exact hm.startMv
  · exact hm.startGrad
  · exact hm.startRefine
  · exact hm

theorem Canonical.goOn {c : Cmd} (hm : Canonical s.mem) : Canonical (s.goOn c).1.mem := by
  unfold State.goOn
  split
  · exact hm.copyStep
  · exact hm.reduceStep

theorem CanonicalNext.execEngineCommandStart {core id : Nat} (hm : Canonical s.mem) :
    CanonicalNext (execEngineCommandStart core id s) := by
  unfold Machine.execEngineCommandStart
  refine .event hm fun s h => .ite h ?_
  split
  · exact .ite h.goOn.settleCmd h.startOne.settleCmd.advanceCmd.tryReduce
  · exact h

theorem Canonical.feedStep {id : Nat} {c : Cmd} {h : Handle} {t : TRec} (hm : Canonical s.mem) : Canonical (s.feedStep id c h t).mem := by
  unfold State.feedStep
  dsimp only
  split
  · exact .stopCmd (.fst (.collect hm (fun _ _ h' => h'.readOperandRow)) ‹_›)
  · exact .advanceOn (.foldl (.reportSpots (.fst (.collect hm (fun _ _ h' => h'.readOperandRow)) ‹_›)) (fun _ _ h' => h'.modEng))

theorem CanonicalNext.execKstepWrite {core id : Nat} (hm : Canonical s.mem) : CanonicalNext (execKstepWrite core id s) := by
  unfold Machine.execKstepWrite
  refine .event hm fun s h => .ite h ?_
  split
  · exact h
  · split
    · exact h.feedStep
    · exact h

theorem Canonical.keepFed {id : Nat} {c : Cmd} (hm : Canonical s.mem) : Canonical (s.keepFed id c).mem :=
  .ite hm hm.modCore

theorem Canonical.signalCmd {id : Nat} {c : Cmd} (hm : Canonical s.mem) : Canonical (s.signalCmd id c).mem := by
  unfold State.signalCmd
  refine .tryEndGroupStored ?_
  split
  · exact hm.arriveAt.keepFed
  · exact hm.modPacks.keepFed
  · exact hm.keepFed

theorem Canonical.cutCopy {c : Cmd} {dst : Side} {rows n w : Nat} (hm : Canonical s.mem) :
    Canonical (s.cutCopy c dst rows n w).1.mem := by
  unfold State.cutCopy
  dsimp only
  split
  · split
    · exact hm.elemPuts.fst ‹_›
    · exact (hm.elemPuts.fst ‹_›).publish.reportSpots
  · split
    · exact .fst (.collect hm (fun _ _ h => h.engPlace)) ‹_›
    · exact .publish (.fst (.collect hm (fun _ _ h => h.engPlace)) ‹_›)
  · exact hm

theorem Canonical.cutOne {c : Cmd} (hm : Canonical s.mem) : Canonical (s.cutOne c).1.mem := by
  unfold State.cutOne
  split
  · exact hm.cutCopy
  · exact hm.cutCopy
  · exact hm.cutDrain
  · exact hm

theorem Canonical.dropDrain {c : Cmd} (hm : Canonical s.mem) : Canonical (s.dropDrain c).mem := by
  unfold State.dropDrain
  exact hm.logOrphan

theorem CanonicalNext.execEngineCommandCompletion {core id : Nat} (hm : Canonical s.mem) :
    CanonicalNext (execEngineCommandCompletion core id s) := by
  unfold Machine.execEngineCommandCompletion
  refine .event hm fun s h => .ite h ?_
  split
  · exact h
  · refine .ite (.signalCmd (.ite h.dropDrain h)) ?_
    split
    · exact .signalCmd (.ite ((h.cutOne.fst ‹_›).dropDrain) (h.cutOne.fst ‹_›))
    · exact (h.cutOne.fst ‹_›).stopCmd
    · exact (h.cutOne.fst ‹_›).signalCmd

end Sys2Proof.Machine
end

section
/-! SUPPORT for O58. Canonical memory: re-tiling, the services at ROOT, eviction and the images of packs. -/
namespace Sys2Proof.Machine

variable {s : State}

theorem Canonical.retileCopy {t : Retile} {x : BoxShape} {bs : List Nat} (hm : Canonical s.mem) : Canonical (s.retileCopy t x bs).mem :=
  .foldl hm fun _ _ h => h.homeWrite

theorem Canonical.putRetile {t : Retile} (hm : Canonical s.mem) : Canonical (s.putRetile t).mem :=
  hm

theorem Canonical.dropRetile {t : Retile} (hm : Canonical s.mem) : Canonical (s.dropRetile t).mem :=
  hm

theorem Canonical.takeBackDone (hm : Canonical s.mem) : Canonical s.takeBackDone.mem :=
  .ite hm hm

theorem Canonical.poolFrame {part frame : Nat} (hm : Canonical s.mem) : Canonical (s.poolFrame part frame).mem :=
  hm.modPart.takeBackDone

theorem Canonical.abandon {t : Retile} (hm : Canonical s.mem) : Canonical (s.abandon t).mem :=
  .abandonRecord (.ite hm.dropRetile hm.dropRetile.poolFrame)

theorem Canonical.retileReads {t : Retile} {segs : List Nat} {f : State → BoxShape → State} (hm : Canonical s.mem)
    (hf : ∀ s x, Canonical s.mem → Canonical (f s x).mem) : Canonical (s.retileReads t segs f).mem := by
  unfold State.retileReads
  dsimp only
  refine .ite hm.abandon ?_
  split
  · exact hm.materialise.logRead.abandon
  · exact hf _ _ hm.materialise

theorem CanonicalNext.execRetileStart {stack : Nat} (hm : Canonical s.mem) : CanonicalNext (execRetileStart stack s) := by
  unfold Machine.execRetileStart
  dsimp only
  refine .event hm fun s h => ?_
  split
  · refine .ite h (.ite h.abandon ?_)
    split
    · exact h.modPart.putRetile
    · exact h
  · exact h

theorem Canonical.beginPass {t : Retile} {x : BoxShape} {n : Nat} (hm : Canonical s.mem) : Canonical (s.beginPass t x n).mem :=
  hm.retileCopy.putRetile

theorem Canonical.schedule {t : Retile} (hm : Canonical s.mem) : Canonical (s.schedule t).mem :=
  .ite hm.abandon hm.putRetile

theorem CanonicalNext.execRetileCopyEnd {stack : Nat} (hm : Canonical s.mem) : CanonicalNext (execRetileCopyEnd stack s) := by
  unfold Machine.execRetileCopyEnd
  refine .event hm fun s h => ?_
  split
  · exact .ite h (.retileReads h (fun _ _ h' => .ite h'.retileCopy.schedule h'.retileCopy.beginPass))
  · exact h

theorem CanonicalNext.execRetileDirtyPassEnd {stack : Nat} (hm : Canonical s.mem) : CanonicalNext (execRetileDirtyPassEnd stack s) := by
  unfold Machine.execRetileDirtyPassEnd
  refine .event hm fun s h => ?_
  split
  · split
    · exact .retileReads h fun _ _ h' => .ite h'.beginPass h'.schedule
    · exact h
  · exact h

theorem CanonicalNext.execRetileDirtyCopyDone {stack : Nat} (hm : Canonical s.mem) : CanonicalNext (execRetileDirtyCopyDone stack s) := by
  unfold Machine.execRetileDirtyCopyDone
  refine .event hm fun s h => ?_
  split
  · split
    · exact .retileReads h fun _ _ h' => h'.retileCopy.putRetile
    · exact h
  · exact h

theorem Canonical.moveTags {t : Retile} {x : BoxShape} (hm : Canonical s.mem) : Canonical (s.moveTags t x).mem :=
  .ite hm hm

theorem CanonicalNext.execRetilePublish {stack : Nat} (hm : Canonical s.mem) : CanonicalNext (execRetilePublish stack s) := by
  unfold Machine.execRetilePublish
  refine .event hm fun s h => ?_
  split
  · split
    · exact .ite h (.retileReads h (fun _ _ h' => .putRetile (.resend (.moveTags h'.retileCopy.homeWrite))))
    · exact h
  · exact h

theorem CanonicalNext.execRetileRelease {stack : Nat} (hm : Canonical s.mem) : CanonicalNext (execRetileRelease stack s) := by
  unfold Machine.execRetileRelease
  refine .event hm fun s h => ?_
  split
  · exact .ite h h.dropRetile.poolFrame.modPart.takeBackDone.publishRecord
  · exact h

theorem CanonicalNext.execMonitorReport {slice : Nat} (hm : Canonical s.mem) : CanonicalNext (execMonitorReport slice s) := by
  refine .event hm fun s h => ?_
  split
  · exact h
  · rename_i x _
    extract_lets _ u
    have h := Canonical.tensorRec (s := u) (core := agentMp) (part := x.part) (tid := x.tid) h
    split
    next hr =>
      have h := h.fst hr
      split
      · exact h.report
      · exact h
    next hr => exact h.fst hr

theorem CanonicalNext.service {i : Instr} {n : Nat} {f : State → State} (hm : Canonical s.mem)
    (hf : ∀ s, Canonical s.mem → Canonical (f s).mem) : CanonicalNext (service i n f s) :=
  .issue hm fun s h => .ite (hf s h) h.raisePack

theorem Canonical.served {d : SReg} {x : Nat} (hm : Canonical s.mem) : Canonical (s.served d x).mem :=
  hm

theorem Canonical.queueCommit {c : Commit} (hm : Canonical s.mem) : Canonical (s.queueCommit c).mem :=
  hm

theorem CanonicalNext.execTakePageRequest {d a b : SReg} (hm : Canonical s.mem) : CanonicalNext (execTakePageRequest d a b s) := by
  unfold Machine.execTakePageRequest
  refine .service hm fun s h => .withVault h fun s _ h' => ?_
  split
  · exact h'.block
  · exact .served (.vaultWrite h')

theorem CanonicalNext.execReply {d a b : SReg} (hm : Canonical s.mem) : CanonicalNext (execReply d a b s) := by
  unfold Machine.execReply
  refine .service hm fun s h => .ite h.served ?_
  split
  · exact h.logEvent.served
  · exact .aside h.served fun _ h' => h'.applyReply

theorem Canonical.donate {gpa : Nat} (hm : Canonical s.mem) : Canonical (s.donate gpa).1.mem := by
  unfold State.donate
  dsimp only
  split
  · exact hm
  · split
    · exact hm.leaf2
    · split
      · exact hm.leaf2
      · exact .modPart (.onStore hm.leaf2.homeWrite (fun _ h => h.invalidateSent))

theorem Canonical.donateList {va n k : Nat} (hm : Canonical s.mem) : Canonical (s.donateList va n k).1.mem := by
  induction n generalizing s va k with
  | zero => exact hm
  | succ n ih =>
    unfold State.donateList
    dsimp only
    split
    · exact ih hm.readVA.donate
    · exact hm.readVA

theorem CanonicalNext.execSbget {d a b : SReg} (hm : Canonical s.mem) : CanonicalNext (execSbget d a b s) := by
  unfold Machine.execSbget
  refine .issue hm fun s h => ?_
  split
  · exact .ite h.raisePack h.setS.next
  · exact h.raisePack

theorem CanonicalNext.execRqget {d a b : SReg} (hm : Canonical s.mem) : CanonicalNext (execRqget d a b s) := by
  unfold Machine.execRqget
  refine .issue hm fun s h => ?_
  split
  · exact .ite h.raisePack h.setS.next
  · exact h.raisePack

theorem CanonicalNext.execRqput {d a b : SReg} (hm : Canonical s.mem) : CanonicalNext (execRqput d a b s) := by
  unfold Machine.execRqput
  dsimp only
  refine .issue hm fun s h => ?_
  split
  · exact .next h
  · exact h.raisePack

theorem Canonical.stopEntries {l : List Entry} (hm : Canonical s.mem) : Canonical (s.stopEntries l).mem := by
  induction l generalizing s with
  | nil => exact hm
  | cons e l ih =>
    unfold State.stopEntries
    dsimp only
    split
    · exact ih hm
    · split
      · split
        · exact ih hm
        · exact ih hm.performLanes.promoteNow.acquireL1.releaseAt
      · split
        · exact ih hm
        · exact ih hm.performLanes.promoteNow.acquireL1.releaseAt

theorem Canonical.pendingAlloc (hm : Canonical s.mem) : Canonical s.pendingAlloc.mem := by
  unfold State.pendingAlloc
  split
  · exact hm.freshId
  · exact hm

theorem Canonical.stopPack (hm : Canonical s.mem) : Canonical s.stopPack.mem :=
  .pendingAlloc (.stopEntries hm)

theorem Canonical.evict {core slot : Nat} (hm : Canonical s.mem) : Canonical (s.evict core slot).mem := by
  unfold State.evict
  dsimp only
  split
  · exact .onPack hm fun _ h => h.stopPack
  · exact .modPart (.modCore (.delPack (.onPack hm (fun _ h => h.stopPack))))

theorem Canonical.evictEach {l : List (Nat × Nat)} (hm : Canonical s.mem) : Canonical (s.evictEach l).mem := by
  induction l generalizing s with
  | nil => exact hm
  | cons e l ih => exact ih hm.evict

theorem Canonical.readShadow {core : Nat} {v : Saved} (hm : Canonical s.mem) : Canonical (s.readShadow core v).1.mem :=
  .foldl (.foldl hm (fun _ _ h => h.syndrome.logEvent)) fun _ _ h => h.syndrome.logEvent

theorem Canonical.resumePack (hm : Canonical s.mem) : Canonical s.resumePack.mem :=
  .ite hm (.fetchLost (.reissueAll hm))

theorem Canonical.toBoundary {id n : Nat} (hm : Canonical s.mem) : Canonical (s.toBoundary id n).mem := by
  induction n generalizing s with
  | zero => exact hm
  | succ n ih =>
    unfold State.toBoundary
    split
    · exact hm
    · exact .ite (ih hm.copyStep.settleCmd) hm

theorem Canonical.stopCmds {gid : Nat} {engines : List Nat} (hm : Canonical s.mem) : Canonical (s.stopCmds gid engines).mem :=
  .foldl (.foldl hm (fun _ _ h => h.toBoundary)) fun _ _ h => h.modEng

theorem Canonical.swapOut {gid : Nat} (hm : Canonical s.mem) : Canonical (s.swapOut gid).mem := by
  unfold State.swapOut
  split
  · exact hm
  · exact .ite hm (.modGroup (.modPart (.ite hm.stopCmds.drainBank hm.stopCmds.drainBank.correctVault)))

theorem Canonical.swapAll {f : Machine.Group → Bool} (hm : Canonical s.mem) : Canonical (s.swapAll f).mem :=
  .foldl hm fun _ _ h => .ite h.swapOut h

theorem Canonical.rebind {gid old c : Nat} {l : List (Nat × Handle)} {t : State} (hm : Canonical s.mem)
    (h : s.rebind gid old c l = some t) : Canonical t.mem := by
  induction l generalizing s with
  | nil =>
    cases h
    exact hm
  | cons e l ih =>
    unfold State.rebind at h
    dsimp only at h
    split at h
    · exact ih hm h
    · split at h
      · cases h
      · exact ih hm.modGroup h

theorem Canonical.engineBack {gid : Nat} {p : Machine.Partition} {c : Nat} (hm : Canonical s.mem) :
    Canonical (s.engineBack gid p c).mem := by
  unfold State.engineBack
  split
  · exact hm
  · refine .foldl ?_ fun _ _ h => h.modEng
    split
    · exact hm.modEng
    · exact hm

theorem Canonical.placeBack {gid c : Nat} {t : State} (hm : Canonical s.mem) (h : s.placeBack gid c = some t) : Canonical t.mem := by
  unfold State.placeBack at h
  dsimp only at h
  split at h
  · cases h
  · split at h
    · split at h
      · cases h
      · split at h
        · cases h
        · have hr := (hm.modGroup).rebind ‹_›
          cases h
          exact .modPart (.foldl hr.engineBack.modCore (fun _ _ h' => h'.readShadow.setPack))

    · cases h

theorem Canonical.placeSomewhere {gid : Nat} {l : List Nat} {t : State} (hm : Canonical s.mem) (h : s.placeSomewhere gid l = some t) :
    Canonical t.mem := by
  induction l with
  | nil => cases h
  | cons c l ih =>
    unfold State.placeSomewhere at h
    split at h
    · cases h
      exact hm.placeBack ‹_›
    · exact ih h

theorem Canonical.resumeGroup {gid : Nat} (hm : Canonical s.mem) : Canonical (s.resumeGroup gid).mem := by
  unfold State.resumeGroup
  dsimp only
  split
  · exact .tryWaves (.foldl hm (fun _ _ h => .onPack h (fun _ h' => h'.resumePack)))
  · exact .foldl hm fun _ _ h => .onPack h (fun _ h' => h'.resumePack)

theorem Canonical.placeRest {gid : Nat} (hm : Canonical s.mem) : Canonical (s.placeRest gid).mem := by
  unfold State.placeRest
  split
  · exact hm
  · split
    · exact (hm.placeSomewhere ‹_›).modPart
    · exact hm

theorem Canonical.freeBytes {n : Nat} (hm : Canonical s.mem) : Canonical (s.freeBytes n).1.mem := by
  induction n generalizing s with
  | zero => exact hm
  | succ n ih => exact ih hm.freeWord

theorem Canonical.remake {gid : Nat} {f : Pack → Pack} {t : Nat → Engine → Engine} (hm : Canonical s.mem) :
    Canonical (s.remake gid f t).mem := by
  unfold State.remake
  split
  · exact hm
  · exact .ite hm.modPacks.modPart (.foldl hm.modPacks.modPart (fun _ _ h => h.modEng))

theorem Canonical.scramble {gid : Nat} (hm : Canonical s.mem) : Canonical (s.scramble gid).mem := by
  unfold State.scramble
  exact .remake hm

theorem Canonical.revert {gid : Nat} {x : Snapshot} (hm : Canonical s.mem) : Canonical (s.revert gid x).mem := by
  unfold State.revert
  split
  · exact hm
  · exact hm.remake

theorem Canonical.recall {part gid : Nat} {own bs : List Byte} {bad : Bool} (hm : Canonical s.mem) :
    Canonical (s.recall part gid own bs bad).mem := by
  unfold State.recall
  refine .ite hm ?_
  split
  · exact .ite hm.scramble hm.revert
  · exact hm.scramble

theorem Canonical.remember {part gid : Nat} {bs : List Byte} (hm : Canonical s.mem) : Canonical (s.remember part gid bs).mem := by
  unfold State.remember
  split
  · exact hm
  · exact hm.modPart

theorem Canonical.drainImages {part : Nat} (hm : Canonical s.mem) : Canonical (s.drainImages part).mem := by
  unfold State.drainImages
  dsimp only
  exact .foldl hm fun _ _ h => h.freeBytes.writeBytes.remember.modPart

theorem Canonical.fetchImage {part gid : Nat} (hm : Canonical s.mem) : Canonical (s.fetchImage part gid).mem := by
  unfold State.fetchImage
  dsimp only
  split
  · exact hm
  · exact hm.readHpa.readHpa.recall.modPart

theorem Canonical.bringBack {l : List Nat} (hm : Canonical s.mem) : Canonical (s.bringBack l).mem := by
  induction l generalizing s with
  | nil => exact hm
  | cons gid l ih =>
    unfold State.bringBack
    split
    · exact ih hm
    · rename_i g _
      extract_lets cs t
      have ht : Canonical t.mem := .ite hm hm.swapOut
      clear_value cs t
      split
      · refine ih (Canonical.resumeGroup ?_)
        cases hp : (t.fetchImage g.part gid).placeSomewhere gid cs with
        | none => exact ht.fetchImage
        | some u => exact ht.fetchImage.placeSomewhere hp
      · exact ih ht

end Sys2Proof.Machine
end

section
/-! SUPPORT for O58. Canonical memory: context images, the host and the mailbox. -/
namespace Sys2Proof.Machine

variable {s : State}

theorem Canonical.setContext {x : Machine.Context} (hm : Canonical s.mem) : Canonical (s.setContext x).mem :=
  hm

theorem Canonical.ctxAnswer {d : SReg} {va : Nat} {h : CtxHead} {write : Bool} (hm : Canonical s.mem) :
    Canonical (s.ctxAnswer d va h write).mem :=
  .next (.setS (.ite hm.writeVA hm))

theorem Canonical.ctxAccess {α : Type} {va : Nat} {r : State × PackRes α} {f : State → α → State} (hm : Canonical r.1.mem)
    (hf : ∀ s x, Canonical s.mem → Canonical (f s x).mem) : Canonical (State.ctxAccess va r f).mem := by
  unfold State.ctxAccess
  split
  · exact hf _ _ hm
  · exact hm
  · exact Canonical.raisePack hm
  · exact Canonical.raiseEcc hm

theorem Canonical.ctxWritable {va n : Nat} {f : State → State} (hm : Canonical s.mem) (hf : ∀ s, Canonical s.mem → Canonical (f s).mem) :
    Canonical (s.ctxWritable va n f).mem :=
  .ctxAccess hm.packWritable fun _ _ h => hf _ h

theorem Canonical.beginSave {gid va : Nat} (hm : Canonical s.mem) : Canonical (s.beginSave gid va).1.mem :=
  hm.freeWord.writeVA.modGroup.setContext

theorem Canonical.saveChunk {d : SReg} {gid va : Nat} {h : CtxHead} (hm : Canonical s.mem) : Canonical (s.saveChunk d gid va h).mem := by
  unfold State.saveChunk
  dsimp only
  refine .ite (.block (.aside hm (fun _ h' => h'.evictEach)))
    (.ctxWritable (.aside hm (fun _ h' => h'.evictEach)) fun s h'' => ?_)
  refine .ctxAnswer (.writeVA ?_)
  refine .ite ?_ ?_
  · refine .remember (.setContext ?_)
    split
    · exact .freeBytes (.onStore h'' (fun _ h' => h'.swapOut))
    · exact .onStore h'' fun _ h' => h'.swapOut
  · refine .setContext ?_
    split
    · exact .freeBytes (.onStore h'' (fun _ h' => h'.swapOut))
    · exact .onStore h'' fun _ h' => h'.swapOut

theorem CanonicalNext.execCtxsave {d a b : SReg} (hm : Canonical s.mem) : CanonicalNext (execCtxsave d a b s) := by
  unfold Machine.execCtxsave
  refine .issue hm fun s h => .ite h.raisePack ?_
  split
  · exact h.raisePack
  · exact .ctxAccess h.packRead fun _ _ h' => .ite h'.raisePack
      (.ite h'.raisePack (.ctxWritable h' (fun _ h'' => .ite h''.saveChunk h''.beginSave.saveChunk)))

theorem Canonical.vaultBack {gid i : Nat} {bs : List Byte} (hm : Canonical s.mem) : Canonical (s.vaultBack gid i bs).mem := by
  unfold State.vaultBack
  split
  · exact hm.modCore
  · exact hm

theorem Canonical.restChunk {d : SReg} {gid va : Nat} {h : CtxHead} (hm : Canonical s.mem) : Canonical (s.restChunk d gid va h).mem := by
  unfold State.restChunk
  refine hm.packRead.ctxAccess fun s bs h => ?_
  extract_lets
  exact .ctxAnswer (.ite (.aside (.modGroup (.modPart (.ite h.setContext h.setContext.vaultBack)))
    (fun _ h' => h'.recall.resumeGroup)) (.ite h.setContext h.setContext.vaultBack))

theorem Canonical.restPlace {gid : Nat} (hm : Canonical s.mem) : Canonical (s.restPlace gid).1.mem := by
  unfold State.restPlace
  split
  · split
    · exact hm
    · exact .onStore hm.setContext fun _ h => h.placeRest
  · exact hm

theorem CanonicalNext.execCtxrest {d a b : SReg} (hm : Canonical s.mem) : CanonicalNext (execCtxrest d a b s) := by
  unfold Machine.execCtxrest
  refine .issue hm fun s h => .ite h.raisePack ?_
  split
  · exact h.raisePack
  · exact .ctxAccess h.packRead fun _ _ h' => .ite h'.raisePack
      (.ite h'.ctxAnswer (.ite h'.raisePack (.ctxWritable h'
        (fun _ h'' => .ite (.restChunk (.restPlace (.ite h''.writeVA h''))) (.block (.restPlace (.ite h''.writeVA h'')))))))

theorem CanonicalNext.execRegistration {fn : Nat} {w : DWord} (hm : Canonical s.mem) : CanonicalNext (execRegistration fn w s) := by
  unfold Machine.execRegistration
  dsimp only
  refine .event hm fun s h => ?_
  dsimp only
  split
  · exact h.register
  · exact h.logEvent

theorem Canonical.hostPlace {fn addr : Nat} {store : Bool} (hm : Canonical s.mem) : Canonical (s.hostPlace fn addr store).1.mem := by
  unfold State.hostPlace
  dsimp only
  split
  · split
    · exact hm
    · split <;> exact hm
  · split
    · exact hm
    · split
      · exact hm
      · split
        · exact (hm.leaf2.fst ‹_›).logXlat
        · split
          · exact (hm.leaf2.fst ‹_›).logXlat
          · split <;> split <;> exact hm.leaf2.fst ‹_›

theorem Canonical.snoop {addr : Nat} (hm : Canonical s.mem) : Canonical (s.snoop addr).mem :=
  hm

theorem Canonical.hostWritePiece {fn addr : Nat} {bs : List Byte} (hm : Canonical s.mem) :
    Canonical (s.hostWritePiece fn addr bs).mem := by
  unfold State.hostWritePiece
  split
  · exact hm.hostPlace.fst ‹_›
  · exact .byHost (.homeWrite (.ite ((hm.hostPlace.fst ‹_›).snoop) (hm.hostPlace.fst ‹_›)))

theorem Canonical.hostRead {fn : Nat} {l : List (Nat × Nat)} (hm : Canonical s.mem) : Canonical (s.hostRead fn l).1.mem := by
  induction l generalizing s with
  | nil => exact hm
  | cons e l ih =>
    unfold State.hostRead
    dsimp only
    split
    · exact ih (hm.hostPlace.fst ‹_›)
    · exact ih ((hm.hostPlace.fst ‹_›).homeRead.byHost)

theorem Canonical.mailed {code status : Nat} (hm : Canonical s.mem) : Canonical (s.mailed code status).mem :=
  hm

theorem Canonical.refusedMail {code : Nat} (hm : Canonical s.mem) : Canonical (s.refusedMail code).mem :=
  hm

theorem Canonical.mapFails (hm : Canonical s.mem) : Canonical s.mapFails.mem :=
  hm

theorem CanonicalNext.execStage {hpa : Nat} (hm : Canonical s.mem) : CanonicalNext (execStage hpa s) := by
  unfold Machine.execStage
  dsimp only
  refine .event hm fun s h => .ite h.readHpa.refusedMail ?_
  split
  · exact .ite (.mailed h.readHpa.writeBytes) h.readHpa.writeBytes.mapFails.refusedMail
  · exact h.readHpa.writeBytes.mapFails.refusedMail

theorem Canonical.dropUnmapped {part : Nat} (hm : Canonical s.mem) : Canonical (s.dropUnmapped part).mem :=
  .foldl hm fun _ _ h => h.abandon

theorem Canonical.unelideFrame {f : Nat} (hm : Canonical s.mem) : Canonical (s.unelideFrame f).mem :=
  .foldl hm fun _ _ h => h.unelide

theorem Canonical.frameService {part page count : Nat} (hm : Canonical s.mem) : Canonical (s.frameService part page count).mem :=
  .ite hm (.foldl hm (fun _ _ h => .ite h.unelideFrame h))

theorem Canonical.frameList {hpa n : Nat} (hm : Canonical s.mem) : Canonical (s.frameList hpa n).1.mem := by
  induction n generalizing s hpa with
  | zero => exact hm
  | succ n ih =>
    unfold State.frameList
    dsimp only
    split
    · exact hm.homeRead.byHost
    · exact ih hm.homeRead.byHost

theorem CanonicalNext.execToken {part : Nat} (hm : Canonical s.mem) : CanonicalNext (execToken part s) := by
  unfold Machine.execToken
  refine .event hm fun s h => ?_
  split
  · exact .mailed h
  · exact h.refusedMail

theorem CanonicalNext.execPreq {hpa : Nat} {reserved : Bool} (hm : Canonical s.mem) : CanonicalNext (execPreq hpa reserved s) := by
  unfold Machine.execPreq
  refine .event hm fun s h => .ite h.mailed ?_
  split
  · exact h.mailed
  · exact .mailed (.homeWrite h)

theorem CanonicalNext.execPreply {arg : DWord} {reserved : Bool} (hm : Canonical s.mem) : CanonicalNext (execPreply arg reserved s) := by
  unfold Machine.execPreply
  refine .event hm fun s h => .ite h.mailed ?_
  split
  · exact .ite h.applyReply.mailed h.logEvent.mailed
  · exact h.logEvent.mailed

end Sys2Proof.Machine
end

section
/-! SUPPORT for O58. Canonical memory: timers, grants, replies and the requests of home slices. -/
namespace Sys2Proof.Machine

variable {s : State}

theorem CanonicalNext.execGroupDispatch {die : Nat} (hm : Canonical s.mem) : CanonicalNext (execGroupDispatch die s) :=
  .event hm fun _ h => .ite (.walkDie (.foldl h.bringBack (fun _ _ h' => h'.placeRest))) h

theorem CanonicalNext.execReservation {die : Nat} (hm : Canonical s.mem) : CanonicalNext (execReservation die s) := by
  refine .event hm fun s h => ?_
  have h' := h.poolOf (die := die)
  split
  · exact h
  · split
    next hp =>
      have h' := h'.fst hp
      split
      · split
        · exact h'
        · split <;> exact h'
      · exact h'
    next hp => exact h'.fst hp

theorem Canonical.loadArgs {g : Machine.Group} (hm : Canonical s.mem) : Canonical (s.loadArgs g).mem := by
  unfold State.loadArgs
  dsimp only
  split
  · exact .packRead hm
  · exact .packRead hm
  · exact .raisePack (.packRead hm)
  · exact .raiseEcc (.packRead hm)

theorem CanonicalNext.execArgumentLoadReply {core slot : Nat} (hm : Canonical s.mem) :
    CanonicalNext (execArgumentLoadReply core slot s) := by
  unfold Machine.execArgumentLoadReply
  refine .event hm fun s h => .ite ?_ h
  refine .onPack h fun s h' => ?_
  split
  · exact h'.loadArgs
  · exact h'

theorem Canonical.schedRead {part va n : Nat} (hm : Canonical s.mem) : Canonical (s.schedRead part va n).1.mem := by
  unfold State.schedRead
  dsimp only
  split <;> exact hm.readVA

theorem Canonical.overflowEntries {n : Node} {va k : Nat} (hm : Canonical s.mem) : Canonical (s.overflowEntries n va k).mem := by
  induction k generalizing s va with
  | zero => exact hm
  | succ k ih =>
    unfold State.overflowEntries
    split
    · exact ih ((hm.schedRead.fst ‹_›).decrement)
    · exact (hm.schedRead.fst ‹_›).logEvent

theorem CanonicalNext.execOverflowListRead {slot : Nat} (hm : Canonical s.mem) : CanonicalNext (execOverflowListRead slot s) := by
  unfold Machine.execOverflowListRead
  refine .event hm fun s h => ?_
  split
  · refine .ite ?_ h
    refine .tryFree ?_
    split
    · refine .setNode ?_
      split
      · exact (h.schedRead.fst ‹_›).overflowEntries
      · exact (h.schedRead.fst ‹_›).logEvent
    · split
      · exact (h.schedRead.fst ‹_›).overflowEntries
      · exact (h.schedRead.fst ‹_›).logEvent
  · exact h

theorem Canonical.predict (hm : Canonical s.mem) : Canonical s.predict.mem :=
  .foldl hm fun _ _ h => .modRegion h

theorem Canonical.countStuck {die : Nat} (hm : Canonical s.mem) : Canonical (s.countStuck die).mem := by
  unfold State.countStuck
  dsimp only
  split
  · exact hm.poolOf.fst ‹_›
  · split
    · exact (hm.poolOf.fst ‹_›).unstick
    · split
      · exact (hm.poolOf.fst ‹_›).unstick.setNode
      · exact (hm.poolOf.fst ‹_›).unstick.setNode
      · exact (hm.poolOf.fst ‹_›).unstick

theorem Canonical.meterAll (hm : Canonical s.mem) : Canonical s.meterAll.mem :=
  .foldl hm fun _ _ h => h.meter

theorem CanonicalNext.execPlanningInterval (hm : Canonical s.mem) : CanonicalNext (execPlanningInterval s) := by
  refine .event hm fun s h => ?_
  split
  · exact h
  · extract_lets n _ u v w
    have hu : Canonical u.mem := h
    have hw : Canonical w.mem := .foldl hu.meterAll.predict fun _ _ h => h.modCore
    exact hw.countStuck.countStuck

theorem CanonicalNext.execEnergyCorrection (hm : Canonical s.mem) : CanonicalNext (execEnergyCorrection s) := by
  -- For any interval: with the number written out, the kernel would compute with it.
  have due (n : Nat) : CanonicalNext (Machine.event (fun s : State => if s.time < (s.mp.corrections + 1) * n then s
      else State.meterAll { s with mp := { s.mp with corrections := s.mp.corrections + 1 } }) s) := by
    refine .event hm fun s h => ?_
    split
    · exact h
    · exact .meterAll h
  exact due 1000000

theorem Canonical.tokenDue {part va : Nat} (hm : Canonical s.mem) : Canonical (s.tokenDue part va).1.mem := by
  unfold State.tokenDue
  split
  · exact hm
  · split <;> exact hm.readRcb.fst ‹_›

theorem CanonicalNext.execScrubTokenDelivery {part : Nat} {rcb : DWord} (hm : Canonical s.mem) :
    CanonicalNext (execScrubTokenDelivery part rcb s) := by
  refine .event hm fun s h => ?_
  extract_lets va
  split
  next t r hp =>
    have h := h.tokenDue.fst hp
    split
    · have h := h.takesWrite (core := agentMp) (part := part) (priv := .root) (va := r.tokbuf)
      generalize t.takesWrite agentMp part .root r.tokbuf = x at h
      dsimp only
      split
      · exact h
      · refine .setRcbField (.rcbField ?_)
        dsimp only
        exact h.writeVA.syncReplicas.rcbPieces.modRegion
    · exact h
  next hp => exact h.tokenDue.fst hp

theorem CanonicalNext.execScrubholdTimeout {part : Nat} {rcb : DWord} (hm : Canonical s.mem) :
    CanonicalNext (execScrubholdTimeout part rcb s) := by
  unfold Machine.execScrubholdTimeout
  dsimp only
  refine .event hm fun s h => ?_
  split
  · exact .ite h h.tokenDue.modRegion.notify.regionLog
  · exact h

theorem Canonical.dropRequests {mine : Waiter → Bool} (hm : Canonical s.mem) : Canonical (s.dropRequests mine).mem :=
  .foldl hm fun _ _ h => h.freePage

theorem Canonical.tearOrphan {n : Nat} (hm : Canonical s.mem) : Canonical (s.tearOrphan n).mem := by
  unfold State.tearOrphan
  split
  · exact hm.dropOrphan.dropRequests
  · exact hm

theorem Canonical.tearDrain {id : Nat} (hm : Canonical s.mem) : Canonical (s.tearDrain id).mem := by
  unfold State.tearDrain
  split
  · exact hm.dropDrain.signalCmd.dropRequests
  · exact hm

theorem CanonicalNext.execJoinTimeout {core slot : Nat} (hm : Canonical s.mem) : CanonicalNext (execJoinTimeout core slot s) := by
  unfold Machine.execJoinTimeout
  refine .event hm fun s h => .onPack h fun s h' => ?_
  split <;> exact h'

theorem CanonicalNext.execYieldWindowEnd {core slot lane : Nat} (hm : Canonical s.mem) :
    CanonicalNext (execYieldWindowEnd core slot lane s) :=
  .event hm fun _ h => .onPack h (fun _ h' => h'.onLanes)

theorem CanonicalNext.execSsleepWake {core slot : Nat} (hm : Canonical s.mem) : CanonicalNext (execSsleepWake core slot s) := by
  unfold Machine.execSsleepWake
  refine .event hm fun s h => .onPack h fun s h' => ?_
  split
  · exact .ite (.advance h') h'
  · exact h'

theorem CanonicalNext.execAcquireGrant {core unit : Nat} (hm : Canonical s.mem) : CanonicalNext (execAcquireGrant core unit s) :=
  .event hm fun _ h => h.grantAcquire

theorem CanonicalNext.execQueueEntryGrant {core : Nat} {q : QueueId} (hm : Canonical s.mem) :
    CanonicalNext (execQueueEntryGrant core q s) := by
  unfold Machine.execQueueEntryGrant
  refine .event hm fun s h => ?_
  split
  · exact h
  · exact .onPack h fun _ h' => .ite h' (.ite (.ite (.wake (.unstall h')) h') h')

theorem CanonicalNext.execFetchReply {core slot : Nat} (hm : Canonical s.mem) : CanonicalNext (execFetchReply core slot s) :=
  .event hm fun _ h => .onPack h (fun _ h' => .ite h' h')

theorem CanonicalNext.execPageRequestEntryGrant {fn : Nat} (hm : Canonical s.mem) : CanonicalNext (execPageRequestEntryGrant fn s) := by
  unfold Machine.execPageRequestEntryGrant
  refine .event hm fun s h => ?_
  split
  · exact h
  · exact .ite (.placeRequest h) h

theorem Canonical.walkFirst {e : Entry} {a : Access} {page : Nat} {m : LaneMask} (hm : Canonical s.mem) :
    Canonical (s.walkFirst e a page m).1.mem := by
  unfold State.walkFirst
  split
  · exact hm
  · exact hm.walkPages

theorem CanonicalNext.execWalkComplete {core slot entry lane : Nat} (hm : Canonical s.mem) :
    CanonicalNext (execWalkComplete core slot entry lane s) := by
  unfold Machine.execWalkComplete
  refine .event hm fun s h => .ite h ?_
  refine .onPack h fun s h' => ?_
  split
  · exact .ite h'.walkFirst.admitEntry.conclude h'
  · exact h'

theorem Canonical.performNow {e : Entry} {a : Access} {m : LaneMask} (hm : Canonical s.mem) : Canonical (s.performNow e a m).mem :=
  hm.performLanes.releaseAt.conclude

theorem CanonicalNext.execHomeSliceRequest {core slot entry lane : Nat} (hm : Canonical s.mem) :
    CanonicalNext (execHomeSliceRequest core slot entry lane s) := by
  unfold Machine.execHomeSliceRequest
  refine .event hm fun s h => .onPack h fun s h' => ?_
  split
  · exact h'
  · split
    · exact .ite h' (.ite h'.performNow h')
    · exact h'

theorem Canonical.answerRequest {r : Nat × Nat} (hm : Canonical s.mem) : Canonical (s.answerRequest r).mem := by
  unfold State.answerRequest
  split
  · refine .onPack hm fun s h => ?_
    split
    · exact h.performNow
    · exact h
  · exact hm

theorem CanonicalNext.execHbmReadReply {slice : Nat} (hm : Canonical s.mem) : CanonicalNext (execHbmReadReply slice s) :=
  .event hm fun _ h => .foldl h (fun _ _ h' => h'.answerRequest)

theorem CanonicalNext.execAtomicPerform {core slot entry lane : Nat} (hm : Canonical s.mem) :
    CanonicalNext (execAtomicPerform core slot entry lane s) := by
  unfold Machine.execAtomicPerform
  refine .event hm fun s h => .onPack h fun s h' => ?_
  split
  · exact h'
  · split
    · exact .ite h' h'.performNow
    · exact h'

theorem CanonicalNext.execLaneReply {core slot entry lane : Nat} (hm : Canonical s.mem) :
    CanonicalNext (execLaneReply core slot entry lane s) := by
  unfold Machine.execLaneReply
  refine .event hm fun s h => .onPack h fun s h' => ?_
  split
  · exact h'
  · split
    · exact .ite h' (.acquireL1 h')
    · exact h'

theorem CanonicalNext.execPromotionRequest {slice : Nat} (hm : Canonical s.mem) : CanonicalNext (execPromotionRequest slice s) :=
  .event hm fun _ h => h

theorem CanonicalNext.execPromotionReply {slice : Nat} (hm : Canonical s.mem) : CanonicalNext (execPromotionReply slice s) :=
  .event hm fun _ h => .ite (.syncReplicas h) h

theorem CanonicalNext.execVaultBankUpdate {core : Nat} (hm : Canonical s.mem) : CanonicalNext (execVaultBankUpdate core s) := by
  unfold Machine.execVaultBankUpdate
  refine .event hm fun s h => ?_
  split
  · exact h.modCore.applyBank
  · exact h

theorem CanonicalNext.execPackAccessReply {core slot : Nat} (hm : Canonical s.mem) : CanonicalNext (execPackAccessReply core slot s) := by
  unfold Machine.execPackAccessReply
  refine .event hm fun s h => .onPack h fun s h' => ?_
  split <;> exact h'

theorem Canonical.answerRemote {bs : List Byte} {bad : Bool} (hm : Canonical s.mem) : Canonical (s.answerRemote bs bad).mem :=
  hm

theorem CanonicalNext.execRemoteRequest {req : RemoteReq} (hm : Canonical s.mem) : CanonicalNext (execRemoteRequest req s) := by
  unfold Machine.execRemoteRequest
  refine .event hm fun s h => ?_
  split
  · exact .ite h.answerRemote h.readHpa.answerRemote
  · exact .ite h h.writeBytes
  · exact .ite h.answerRemote (.ite h.atomicRead.answerRemote h.atomicRead.homeWrite.answerRemote)

theorem CanonicalNext.execHbmRecalibration {channel : Nat} (hm : Canonical s.mem) : CanonicalNext (execHbmRecalibration channel s) :=
  .event hm fun _ h => .ite h h

end Sys2Proof.Machine
end

section
/-! SUPPORT for O58. Canonical memory: the arithmetic forms, and what the management processor does at due times. -/
namespace Sys2Proof.Machine

variable {s : State}

theorem CanonicalNext.f32Form {i : Instr} {d : VReg} {a : Src} {b : VReg} {x : Bool} {f : Word → Nat → Nat → Nat → Flagged}
    (hm : Canonical s.mem) : CanonicalNext (f32Form i d a b x f s) :=
  .issue hm fun _ h => h.flagLanes

theorem CanonicalNext.f64Form {i : Instr} {d : VReg} {a : Src} {b : VReg} {x : Bool} {f : Word → Nat → Nat → Nat → Flagged}
    (hm : Canonical s.mem) : CanonicalNext (f64Form i d a b x f s) :=
  .issue hm fun _ h => h.flagLanes

theorem CanonicalNext.x2Form {fmt : Fmt} {i : Instr} {d : VReg} {a : Src} {b : VReg} {x : Bool} {f : Word → Nat → Nat → Nat → Flagged}
    (hm : Canonical s.mem) : CanonicalNext (x2Form fmt i d a b x f s) :=
  .issue hm fun _ h => h.flagLanes

theorem CanonicalNext.flagForm {i : Instr} {g : Guard} {f : State → Nat → Thread → Thread × Word} (hm : Canonical s.mem) :
    CanonicalNext (flagForm i g f s) :=
  .issue hm fun _ h => h.flagLanes

theorem Canonical.openUnit {t : State} {dst : List RegName} {n : Nat} {m : LaneMask} (ht : Canonical t.mem) :
    Canonical (s.openUnit t dst n m).mem := by
  unfold State.openUnit
  split <;> exact ht

theorem CanonicalNext.unitForm {i : Instr} {g : Guard} {la : BitVec 4} {dst : List RegName} {f : State → Nat → Thread → Thread × Word}
    (hm : Canonical s.mem) : CanonicalNext (unitForm i g la dst f s) :=
  .issue hm fun _ h => .openUnit h.flagLanes

theorem CanonicalNext.unit32 {i : Instr} {g : Guard} {d a : VReg} {la : BitVec 4} {f : Word → Word → Flagged} (hm : Canonical s.mem) :
    CanonicalNext (unit32 i g d a la f s) :=
  .unitForm hm

theorem CanonicalNext.unit64 {i : Instr} {g : Guard} {d a : VReg} {la : BitVec 4} {f : Word → Nat → Flagged} (hm : Canonical s.mem) :
    CanonicalNext (unit64 i g d a la f s) :=
  .unitForm hm

theorem CanonicalNext.intForm {i : Instr} {d : VReg} {a : Src} {f : Thread → Word → Word} (hm : Canonical s.mem) :
    CanonicalNext (intForm i d a f s) :=
  .issue hm fun _ h => h.eachLane

theorem CanonicalNext.immForm {i : Instr} {d a : VReg} {f : Word → Word} (hm : Canonical s.mem) : CanonicalNext (immForm i d a f s) :=
  .issue hm fun _ h => h.eachLane

theorem CanonicalNext.wideForm {i : Instr} {g : Guard} {f : Thread → Thread} (hm : Canonical s.mem) : CanonicalNext (wideForm i g f s) :=
  .issue hm fun _ h => h.eachLane

theorem CanonicalNext.pullForm {i : Instr} {d : VReg} {a : Src} {b : VReg} {src : Nat → Word → Option Nat} (hm : Canonical s.mem) :
    CanonicalNext (pullForm i d a b src s) :=
  .issue hm fun _ h => h.eachLane

theorem CanonicalNext.execGraceExpiry {part : Nat} (hm : Canonical s.mem) : CanonicalNext (execGraceExpiry part s) := by
  unfold Machine.execGraceExpiry
  refine .event hm fun s h => ?_
  split
  · exact .ite h h.evictEach.modPart
  · exact .ite h.evictEach h

theorem CanonicalNext.execShadowSwapDone {part : Nat} (hm : Canonical s.mem) : CanonicalNext (execShadowSwapDone part s) := by
  unfold Machine.execShadowSwapDone
  refine .event hm fun s h => ?_
  split
  · exact .ite h.swapAll.modPart h
  · exact h.swapAll

theorem CanonicalNext.execSaveDrainDone {part : Nat} (hm : Canonical s.mem) : CanonicalNext (execSaveDrainDone part s) := by
  unfold Machine.execSaveDrainDone
  exact .event hm fun _ h => .ite h.drainImages.modPart h

theorem Canonical.quietGroups (hm : Canonical s.mem) : Canonical s.quietGroups.mem :=
  .foldl hm fun _ _ h => h.abandon

theorem Canonical.startCommit {c : Commit} {rest : List Commit} (hm : Canonical s.mem) : Canonical (s.startCommit c rest).mem := by
  unfold State.startCommit
  split
  · exact .ite (.mapFails hm) hm
  · exact .evictEach (.quietGroups hm)

theorem Canonical.drainLeaving (hm : Canonical s.mem) : Canonical s.drainLeaving.mem := by
  unfold State.drainLeaving
  exact .foldl hm fun _ _ h => h.drainImages

theorem Canonical.setCommit {c : Commit} (hm : Canonical s.mem) : Canonical (s.setCommit c).mem :=
  hm

theorem CanonicalNext.execCommitPhase (hm : Canonical s.mem) : CanonicalNext (execCommitPhase s) := by
  unfold Machine.execCommitPhase
  refine .event hm fun s h => ?_
  split
  · exact h
  · split
    · exact h.startCommit
    · exact .ite h.drainLeaving.quietGroups.setCommit h
    · exact .ite h.quietGroups.setCommit h
    · exact h

theorem Canonical.scrubPartition {p : Nat} (hm : Canonical s.mem) : Canonical (s.scrubPartition p).mem :=
  .dropPartTrans (.modPart (.foldl hm (fun _ _ h => h.freePage)))

theorem Canonical.scrubCluster {k : Nat} (hm : Canonical s.mem) : Canonical (s.scrubCluster k).mem :=
  hm

theorem Canonical.scrubGroup {g user : Nat} (hm : Canonical s.mem) : Canonical (s.scrubGroup g user).mem :=
  hm

theorem CanonicalNext.execScrub {unit : UnitRef} (hm : Canonical s.mem) : CanonicalNext (execScrub unit s) := by
  unfold Machine.execScrub
  dsimp only
  refine .event hm fun s h => ?_
  split
  · refine .ite ?_ h
    split
    · exact .scrubCluster (.ite h.setCommit.scrubPartition (.ite h.setCommit.dropPartTrans h.setCommit))
    · exact .scrubGroup (.ite h.setCommit.scrubPartition (.ite h.setCommit.dropPartTrans h.setCommit))
  · exact h

theorem CanonicalNext.execScrubDone {unit : UnitRef} (hm : Canonical s.mem) : CanonicalNext (execScrubDone unit s) := by
  unfold Machine.execScrubDone
  refine .event hm fun s h => ?_
  split
  · exact .ite h.setCommit h
  · exact h

theorem Canonical.unmapGroup {part g : Nat} (hm : Canonical s.mem) : Canonical (s.unmapGroup part g).mem :=
  .foldl hm fun _ _ h => h.homeWrite

theorem Canonical.takeRecord {t : Nat} {new : PartRec} {p : Nat} (hm : Canonical s.mem) : Canonical (s.takeRecord t new p).mem :=
  .ite hm (.modPart (.ite (.scrubPartition (.foldl hm (fun _ _ h => h.unmapGroup)))
    (.dropPartTrans (.foldl hm (fun _ _ h => h.unmapGroup)))))

theorem Canonical.tokenFor {c : Commit} {old : List PartRec} {p : Nat} {out : DWord} (hm : Canonical s.mem) :
    Canonical (s.tokenFor c old p out).mem :=
  .ite hm hm

theorem Canonical.notifyCut {c : Commit} (hm : Canonical s.mem) : Canonical (s.notifyCut c).mem :=
  .foldl (.foldl hm (fun _ _ h => h.notify)) fun _ _ h => h.notify

theorem Canonical.tick {c : Commit} {t : Nat} (hm : Canonical s.mem) : Canonical (s.tick c t).mem :=
  .notifyCut (.foldl (.foldl hm.sendBack (fun _ _ h => h.takeRecord)) (fun _ _ h => .foldl h (fun _ _ h' => h'.tokenFor)))

theorem CanonicalNext.execLayoutVersionTick (hm : Canonical s.mem) : CanonicalNext (execLayoutVersionTick s) := by
  unfold Machine.execLayoutVersionTick
  refine .event hm fun s h => ?_
  split
  · split
    · exact .ite h h.tick
    · exact h
  · exact h

theorem CanonicalNext.execScrubTokenSigned {part : Nat} (hm : Canonical s.mem) : CanonicalNext (execScrubTokenSigned part s) := by
  unfold Machine.execScrubTokenSigned
  refine .event hm fun s h => ?_
  split
  · exact h
  · exact .ite (.modPart (.writeBytes h)) (.writeBytes h)

theorem CanonicalNext.execRevocation {unit : UnitRef} (hm : Canonical s.mem) : CanonicalNext (execRevocation unit s) :=
  .event hm fun _ h => .ite h h

theorem Canonical.repairLanes {st x bad : Nat} (hm : Canonical s.mem) : Canonical (s.repairLanes st x bad).mem :=
  .ite (.ite hm hm) (.ite hm hm)

theorem Canonical.trainStack {full : Bool} {n st : Nat} (hm : Canonical s.mem) : Canonical (s.trainStack full n st).mem :=
  .foldl hm fun _ _ h => h.repairLanes

theorem Canonical.train {full : Bool} (hm : Canonical s.mem) : Canonical (s.train full).mem :=
  .foldl hm fun _ _ h => h.trainStack

theorem CanonicalNext.execColdBoot (hm : Canonical s.mem) : CanonicalNext (execColdBoot s) := by
  refine .event hm fun s _ => .train ?_
  exact reset_wf.1

end Sys2Proof.Machine
end

section
/-! O58: every instruction and event keeps memory canonical, hence every turn, hence a step. -/
namespace Sys2Proof.Machine

variable {s : State}

theorem Canonical.clockTick (hm : Canonical s.mem) : Canonical s.clockTick.mem :=
  hm

theorem Canonical.popTape (hm : Canonical s.mem) : Canonical s.popTape.mem :=
  hm

theorem Canonical.loadB {core slot : Nat} {pc : BitVec 52} (hm : Canonical s.mem) : Canonical (s.loadB core slot pc).1.mem :=
  hm.load

theorem Canonical.loadA {core unit : Nat} {cs : List Cand} {k : Cand} (hm : Canonical s.mem) : Canonical (s.loadA core unit cs k).mem :=
  hm.takeSlot.load

-- `exec` is unfolded first: the unifier compares a form with all of `exec` otherwise.
theorem CanonicalNext.exec {i : Instr} (hm : Canonical s.mem) : CanonicalNext (exec i s) := by
  cases i with dsimp only [Machine.exec]
  | addI32 | addI32Sat | subI32 | subI32Sat | mulI32 | mulhiI32 | mulhiN32 | minI32 | maxI32 | minN32 | maxN32 | andB32 |
    orB32 | xorB32 | andnB32 | shlB32 | shrN32 | shrI32 | rotB32 | popcB32 | clzB32 | brevB32 | lsbB32 | movB32 | permB8 |
    addX2I16 | addX2I16Sat | subX2I16 | subX2I16Sat | minX2I16 | maxX2I16 | dot4I8 | dot4N8 => exact .intForm hm
  | pullIdx | pullXor | pullBack | pullFwd => exact .pullForm hm
  | faddF32 | fsubF32 | fmulF32 | fminF32 | fmaxF32 | fmacF32 => exact .f32Form hm
  | faddF64 | fsubF64 | fmulF64 | fminF64 | fmaxF64 | fmacF64 => exact .f64Form hm
  | faddX2Bf16 | fmulX2Bf16 | fmacX2Bf16 | faddX2F16 | fmulX2F16 | fmacX2F16 => exact .x2Form hm
  | dot2Bf16 | qblkF4x => exact .issue hm fun _ h => h.flagLanes
  | nop | meet | unmeet | yield | fclass | meetm | vote => exact .issue hm fun _ h => h.eachLane
  | addiI32 | muliI32 | andiB32 | oriB32 | xoriB32 | shliB32 | shriN32 | shriI32 | moviB32 => exact .immForm hm
  | bra | jal => exact .issue hm fun _ h => h.onLanes
  | exit => exact .issue hm fun _ h => .ite h.block (.ite h.advance h.advance.exitLanes)
  | ldB8 | ldI8 | ldB16 | ldI16 | ldB32 | ldB64 | ldB128 | stB8 | stB16 | stB32 | stB64 | stB128 | tld | tst | tstp | vldB32 |
    vldB64 | vldB128 | vstB32 | vstB64 | vstB128 | atom | cas | red | tatom | tred | vatom | ldAcq | stRel => exact .memForm hm
  | claim => exact .issue hm fun _ h => h.claimLanes
  | tclaim => exact .execTclaim hm
  | madI32 | madwI32 | madwN32 | addI64 | subI64 | addcN32 | bfxI32 | bfxN32 | bfiB32 | bitfnB32 | cselB32 | cmpI32 | cmpN32 |
    cmpI64 | pset => exact .wideForm hm
  | fcmpF32 | fcmpF64 | ffmaF32 | ffmaF64 | ffmaX2Bf16 | cvt | dqblkF4x => exact .flagForm hm
  | frcpF32 | frsqF32 | fsqrtF32 | fexp2F32 | flog2F32 | fsinpF32 | fcospF32 | frndF32 => exact .unit32 hm
  | fsqrtF64 | frndF64 => exact .unit64 hm
  | fdivF32 | fdivF64 => exact .unitForm hm
  | fence => exact .issue hm fun _ h => .ite h.advance (.ite h.block h.fenceAt.advance)
  | jr => exact .issue hm fun _ h => .ite h.onLanes h.onLanes.raise
  | brk => exact .issue hm fun _ h => .ite h.advance h.advance.raise
  | sadd | ssub | smul | sand | sor | sxor | sshl | sshr | smin | smax => exact .uniForm hm
  | sadd64 => exact .packForm hm fun _ h => h.setS64
  | smov | ssel | svote | smovi | saddi | smovhi | smovl => exact .packForm hm fun _ h => h.setS
  | scmp => exact .packForm hm fun _ h => h
  | sget => exact .execSget hm
  | sset => exact .execSset hm
  | sbra => exact .issue hm fun _ h => .ite h.jump h.next
  | scall => exact .issue hm fun _ h => .ite h.setS64.jump h.next
  | sret => exact .issue hm fun _ h => .ite h.next (.ite h.raisePack (.ite h.raisePack h.jump))
  | ssleep => exact .issue hm fun _ h => .ite h.block h.next
  | cpy | cpyf | cpyg | mma | mmv | accreduce | splgrid | splload | splmv | splgrad => exact .issue hm fun _ h => h.command
  | accdrain => exact .issue hm fun _ h => h.drainCommand
  | splrefine => exact .execSplrefine hm
  | item => exact .issue hm fun _ h => .withLoop h (fun _ _ h' => .next h')
  | admitWave => exact .issue hm fun _ h => .ite h.raisePack (.withLoop h (fun _ _ h' => .ite h'.block.tryWave h'.acquireL1.next))
  | iret => exact .issue hm fun _ h => .ite h.block (.withLoop h (fun _ _ h' => .tryWaves (.next (.syncReplicas h'.leaveLoop))))
  | rdv => exact .execRdv hm
  | wrv => exact .execWrv hm
  | barInit => exact .issue hm fun _ h => .ite h.raisePack (.withVault h (fun _ _ h' => h'.vaultWrite.next))
  | barArrive => exact .issue hm fun _ h => .withVault h (fun _ _ h' => .withRelease h' (fun _ h'' => h''.arriveAt.next))
  | barExpect => exact .issue hm fun _ h => .withVault h (fun _ _ h' => h'.toBank.next)
  | barWait => exact .issue hm fun _ h => .withVault h (fun _ _ h' => h'.awaitPhase)
  | barTest =>
    exact .issue hm fun _ h => .withVault h (fun _ _ h' => .readBarrier h' (fun _ _ h'' => .next (.answer (.ite h''.acquireL1 h''))))
  | stgWait => exact .issue hm fun _ h => .withStage h (fun _ _ _ h' => h'.awaitPhase)
  | stgDone => exact .issue hm fun _ h => .withStage h (fun _ _ _ h' => .withRelease h' (fun _ h'' => h''.arriveAt.setS.next))
  | acquire => exact .issue hm fun _ h => .ite h.next (.onStore h.block (fun _ h' => h'.grantAcquire))
  | release => exact .issue hm fun _ h => .ite h.next (.ite h.block (.next h))
  | accalloc => exact .execAccalloc hm
  | accfree => exact .execAccfree hm
  | nodeReg => exact .issue hm fun _ h => .ite h.raisePack (.withRelease h (fun _ h' => h'.register.answer.next))
  | nodeDec => exact .issue hm fun _ h => .withRelease h (fun _ h' => h'.decrement.next)
  | nodeDone => exact .execNodeDone hm
  | tadvise => exact .issue hm fun _ h => .layoutForm h (fun _ _ _ _ _ h' => h'.advisePage)
  | tpin => exact .issue hm fun _ h => .layoutForm h (fun _ _ _ _ _ h' => h'.pinPage)
  | tunpin => exact .issue hm fun _ h => .layoutForm h (fun _ _ _ _ _ h' => h'.unpinPage)
  | tquery => exact .execTquery hm
  | tdef => exact .issue hm fun _ h => .withRelease h (fun _ h' => h'.modPart.next)
  | sfence => exact .issue hm fun _ h => .ite h.block h.fenceAt.next
  | icinv => exact .issue hm fun _ h => .next (.ite h h)
  | sys => exact .issue hm fun _ h => h.raisePack
  | stage1Invalidate => exact .service hm fun _ h => .ite h.served (.served (.onStore h (fun _ h' => h'.invalidateSent)))
  | stage1Root => exact .service hm fun _ h => .ite h.served h.queueCommit.served
  | takePageRequest => exact .execTakePageRequest hm
  | reply => exact .execReply hm
  | donateRetileFrames => exact .service hm fun _ h => h.donateList.served
  | rti => exact .issue hm fun _ h => .reinjectAll h
  | rqget => exact .execRqget hm
  | rqput => exact .execRqput hm
  | sbget => exact .execSbget hm
  | ctxsave => exact .execCtxsave hm
  | ctxrest => exact .execCtxrest hm
  | nodeDecrement => exact .event hm fun _ h => .ite h.syncReplicas.decrement h.logEvent
  | registration => exact .execRegistration hm
  | nodeWindowBadAccess => exact .event hm fun _ h => h.logEvent
  | hostMemWrite => exact .event hm fun _ h => .foldl h (fun _ _ h' => h'.hostWritePiece)
  | hostMemRead => exact .event hm fun _ h => h.hostRead
  | hostSnoop => exact .event hm fun _ h => h.snoop
  | stage => exact .execStage hm
  | commit => exact .event hm fun _ h => .ite h.refusedMail (.mailed h)
  | xlinv => exact .event hm fun _ h => h.invalidateSent.dropUnmapped.frameService.mailed
  | frames => exact .event hm fun _ h => .mailed (.foldl h.frameList (fun _ _ h' => .ite h'.modPart h'))
  | framesTakeBack => exact .event hm fun _ h => .ite h.frameList.modPart.mailed h.frameList
  | assign => exact .event hm fun _ h => .ite h.modPart.mailed h.refusedMail
  | token => exact .execToken hm
  | cert => exact .event hm fun _ h => .mailed h
  | preq => exact .execPreq hm
  | preply => exact .execPreply hm
  | preempt => exact .event hm fun _ h => .ite h.modPart.evictEach.mailed h.refusedMail
  | resume => exact .event hm fun _ h => .ite h.refusedMail h.modPart.bringBack.mailed
  | ntailWrite => exact .event hm fun _ h => .notifyPages h
  | nlostClear | retirement | ralvanPortLoss => exact .event hm fun _ h => .ite h h
  | logvalidWrite | registerWrite | firmwareReload | refresh => exact .event hm fun _ h => h
  | groupDispatch => exact .execGroupDispatch hm
  | reservation => exact .execReservation hm
  | argumentLoadReply => exact .execArgumentLoadReply hm
  | overflowListRead => exact .execOverflowListRead hm
  | planningInterval => exact .execPlanningInterval hm
  | energyCorrection => exact .execEnergyCorrection hm
  | scrubTokenDelivery => exact .execScrubTokenDelivery hm
  | scrubholdTimeout => exact .execScrubholdTimeout hm
  | joinTimeout => exact .execJoinTimeout hm
  | yieldWindowEnd => exact .execYieldWindowEnd hm
  | ssleepWake => exact .execSsleepWake hm
  | acquireGrant => exact .execAcquireGrant hm
  | queueEntryGrant => exact .execQueueEntryGrant hm
  | laneReply => exact .execLaneReply hm
  | fetchReply => exact .execFetchReply hm
  | walkComplete => exact .execWalkComplete hm
  | pageRequestEntryGrant => exact .execPageRequestEntryGrant hm
  | homeSliceRequest => exact .execHomeSliceRequest hm
  | hbmReadReply => exact .execHbmReadReply hm
  | atomicPerform => exact .execAtomicPerform hm
  | vaultBankUpdate => exact .execVaultBankUpdate hm
  | remoteRequest => exact .execRemoteRequest hm
  | promotionRequest => exact .execPromotionRequest hm
  | promotionReply => exact .execPromotionReply hm
  | patrol =>
    exact .event hm fun _ h => .ite h (.foldl (.foldl h (fun _ _ h' => h'.syndrome.logEvent)) (fun _ _ h' => h'.syndrome.logEvent))
  | hbmRecalibration => exact .execHbmRecalibration hm
  | linkRetrain => exact .event hm fun _ h => .ite h.logEvent h
  | monitorReport => exact .execMonitorReport hm
  | retileStart => exact .execRetileStart hm
  | retileCopyEnd => exact .execRetileCopyEnd hm
  | retileDirtyPassEnd => exact .execRetileDirtyPassEnd hm
  | retilePublish => exact .execRetilePublish hm
  | retileDirtyCopyDone => exact .execRetileDirtyCopyDone hm
  | retileRelease => exact .execRetileRelease hm
  | engineCommandStart => exact .execEngineCommandStart hm
  | kstepWrite => exact .execKstepWrite hm
  | engineCommandCompletion => exact .execEngineCommandCompletion hm
  | graceExpiry => exact .execGraceExpiry hm
  | shadowSwapDone => exact .execShadowSwapDone hm
  | saveDrainDone => exact .execSaveDrainDone hm
  | commitPhase => exact .execCommitPhase hm
  | layoutVersionTick => exact .execLayoutVersionTick hm
  | revocation => exact .execRevocation hm
  | scrub => exact .execScrub hm
  | scrubDone => exact .execScrubDone hm
  | scrubTokenSigned => exact .execScrubTokenSigned hm
  | coldBoot => exact .execColdBoot hm
  | warmReset => exact .event hm fun _ h => h.train
  | regionTeardown =>
    exact .event hm fun _ h => .foldl (.foldl h.modRegion (fun _ _ h' => h'.tearOrphan)) (fun _ _ h' => h'.tearDrain)
  | packAccessReply => exact .execPackAccessReply hm

theorem CanonicalNext.run {d : Due} (hm : Canonical s.mem) : CanonicalNext (d.run s) := by
  cases d with
  | joinTimeout => exact .execJoinTimeout hm
  | ssleepWake => exact .execSsleepWake hm
  | yieldWindowEnd => exact .execYieldWindowEnd hm
  | scrubTokenSigned => exact .execScrubTokenSigned hm
  | revocation => exact .execRevocation hm
  | commitPhase => exact .execCommitPhase hm
  | graceExpiry => exact .execGraceExpiry hm
  | shadowSwapDone => exact .execShadowSwapDone hm
  | scrubDone => exact .execScrubDone hm
  | scrub => exact .execScrub hm
  | layoutVersionTick => exact .execLayoutVersionTick hm
  | saveDrainDone => exact .execSaveDrainDone hm
  | planningInterval => exact .execPlanningInterval hm
  | energyCorrection => exact .execEnergyCorrection hm
  | hbmRecalibration => exact .execHbmRecalibration hm
  | vaultBankUpdate => exact .execVaultBankUpdate hm
  | argumentLoadReply => exact .execArgumentLoadReply hm
  | fetchReply => exact .execFetchReply hm
  | packAccessReply => exact .execPackAccessReply hm
  | walkComplete => exact .execWalkComplete hm
  | homeSliceRequest => exact .execHomeSliceRequest hm
  | atomicPerform => exact .execAtomicPerform hm
  | hbmReadReply => exact .execHbmReadReply hm
  | laneReply => exact .execLaneReply hm
  | promotionReply => exact .execPromotionReply hm
  | promotionRequest => exact .execPromotionRequest hm
  | acquireGrant => exact .execAcquireGrant hm
  | queueEntryGrant => exact .execQueueEntryGrant hm
  | pageRequestEntryGrant => exact .execPageRequestEntryGrant hm
  | monitorReport => exact .execMonitorReport hm
  | retileStart => exact .execRetileStart hm
  | retileCopyEnd => exact .execRetileCopyEnd hm
  | retileDirtyPassEnd => exact .execRetileDirtyPassEnd hm
  | retilePublish => exact .execRetilePublish hm
  | retileDirtyCopyDone => exact .execRetileDirtyCopyDone hm
  | retileRelease => exact .execRetileRelease hm
  | engineCommandCompletion => exact .execEngineCommandCompletion hm
  | kstepWrite => exact .execKstepWrite hm
  | engineCommandStart => exact .execEngineCommandStart hm
  | scrubTokenDelivery => exact .execScrubTokenDelivery hm
  | scrubholdTimeout => exact .execScrubholdTimeout hm
  | overflowListRead => exact .execOverflowListRead hm
  | groupDispatch => exact .execGroupDispatch hm
  | reservation => exact .execReservation hm

theorem CanonicalNext.runAt {core slot : Nat} {m : LaneMask} {pc : BitVec 52} (hm : Canonical s.mem) :
    CanonicalNext (runAt core slot m pc s) := by
  unfold Machine.runAt
  split
  · rename_i t i hb
    have h : CanonicalNext (Machine.exec i t) := .exec (hm.begin.fst hb)
    split
    · rename_i u hu
      exact .next (h u hu).finish
    · exact h
  · have h := hm.begin.fst ‹_›
    exact .next (.ite (.unload h) h.unload)

theorem CanonicalNext.act {t : Turn} (hm : Canonical s.mem) : CanonicalNext (act t s) := by
  cases t with dsimp only [Machine.act]
  | evict => exact .next hm.evict
  | event =>
    split
    · exact .exec hm.popTape
    · exact .next hm.popTape
  | due => exact .run hm
  | portB =>
    split
    · exact .next hm.loadB.unload
    · exact .runAt hm.loadB
  | portA => exact .runAt hm.loadA
  | idle => exact .next hm

theorem CanonicalNext.actFirst {l : List Turn} (hm : Canonical s.mem) : CanonicalNext (actFirst s l) := by
  induction l with
  | nil => exact .next hm
  | cons t l ih =>
    have h : CanonicalNext (Machine.act t s) := .act hm
    unfold Machine.actFirst
    split
    · rename_i u hu
      split
      · exact ih
      · exact .next (h u hu)
    · exact h

theorem CanonicalNext.step (hm : Canonical s.mem) : CanonicalNext (step s) := by
  unfold Machine.step
  dsimp only
  split
  · exact .actFirst hm.unload.clockTick
  · exact .act hm.unload.clockTick

end Sys2Proof.Machine
end

section
namespace Sys2Proof.Claims
open Sys2Proof.Machine

/-- Settles O58: a step is an instruction or an event between functions none of which leaves the canonical form. -/
theorem memoryStaysCanonical : Obligations.MemoryStaysCanonical := by
  intro s t hm ht
  exact CanonicalNext.step hm t ht

end Sys2Proof.Claims
end

section
/-! SUPPORT for O60. The rational number a finite value stands for: comparison and distance are those of rationals, the values of
the codes of a format rise, and the rounded value is one of the two codes next to the exact one. -/
namespace Sys2Proof.Machine

/-! Values as rationals. -/

/-- The sign of a value. -/
def signOf (neg : Bool) : ℚ := if neg then -1 else 1

/-- The number `± m * 2^e`. -/
def ratOf (neg : Bool) (m : Nat) (e : Int) : ℚ := signOf neg * (m * 2 ^ e)

theorem abs_signOf (neg : Bool) : |signOf neg| = 1 := by
  cases neg <;> simp [signOf]

theorem signOf_not (neg : Bool) : signOf (!neg) = -signOf neg := by
  cases neg <;> simp [signOf]

theorem abs_ratOf (neg : Bool) (m : Nat) (e : Int) : |ratOf neg m e| = m * 2 ^ e := by
  have h : (0 : ℚ) ≤ m * 2 ^ e := by positivity
  rw [ratOf, abs_mul, abs_signOf, one_mul, abs_of_nonneg h]

theorem scaled_mul_zpow {neg : Bool} {m : Nat} {e lo : Int} (h : lo ≤ e) :
    (scaled neg m e lo : ℚ) * 2 ^ lo = ratOf neg m e := by
  obtain ⟨d, rfl⟩ := Int.le.dest h
  have hd : (lo + d - lo).toNat = d := by omega
  have hz : (2 : ℚ) ^ (lo + (d : Int)) = 2 ^ lo * 2 ^ d := by rw [zpow_add₀ two_ne_zero, zpow_natCast]
  unfold scaled ratOf signOf
  rw [hd, hz]
  cases neg <;> simp <;> ring

theorem cmpFin_mul_zpow (n1 : Bool) (m1 : Nat) (e1 : Int) (n2 : Bool) (m2 : Nat) (e2 : Int) :
    (cmpFin n1 m1 e1 n2 m2 e2 : ℚ) * 2 ^ min e1 e2 = ratOf n1 m1 e1 - ratOf n2 m2 e2 := by
  rw [← scaled_mul_zpow (min_le_left e1 e2), ← scaled_mul_zpow (min_le_right e1 e2), cmpFin]
  push_cast
  ring

theorem cmpFin_nonpos_iff {n1 n2 : Bool} {m1 m2 : Nat} {e1 e2 : Int} :
    cmpFin n1 m1 e1 n2 m2 e2 ≤ 0 ↔ ratOf n1 m1 e1 ≤ ratOf n2 m2 e2 := by
  have hp : (0 : ℚ) < 2 ^ min e1 e2 := by positivity
  rw [← sub_nonpos (a := ratOf _ _ _), ← cmpFin_mul_zpow, ← not_lt (a := (0 : ℚ)), mul_pos_iff_of_pos_right hp, not_lt, Int.cast_nonpos]

theorem cmpFin_eq_zero_iff {n1 n2 : Bool} {m1 m2 : Nat} {e1 e2 : Int} :
    cmpFin n1 m1 e1 n2 m2 e2 = 0 ↔ ratOf n1 m1 e1 = ratOf n2 m2 e2 := by
  have hp : (2 : ℚ) ^ min e1 e2 ≠ 0 := by positivity
  rw [← sub_eq_zero (a := ratOf _ _ _), ← cmpFin_mul_zpow, mul_eq_zero_iff_right hp, Int.cast_eq_zero]

theorem distance_fin (n1 : Bool) (m1 : Nat) (e1 : Int) (n2 : Bool) (m2 : Nat) (e2 : Int) :
    ∃ m e, distance (.fin n1 m1 e1) (.fin n2 m2 e2) = .fin false m e ∧
      ratOf false m e = |ratOf n1 m1 e1 - ratOf n2 m2 e2| := by
  have hadd : ∀ r n m e, addFin r n1 m1 e1 n m e = .fin (addFin r n1 m1 e1 n m e).isNeg
      (scaled n1 m1 e1 (min e1 e) + scaled n m e (min e1 e)).natAbs (min e1 e) := by
    intro r n m e
    unfold addFin
    dsimp only
    split
    · simp [*, Num.isNeg]
    · rfl
  refine ⟨(scaled n1 m1 e1 (min e1 e2) + scaled (!n2) m2 e2 (min e1 e2)).natAbs, min e1 e2, ?_, ?_⟩
  · rw [distance, Num.neg, Num.add, hadd]
  · have hneg : ratOf (!n2) m2 e2 = -ratOf n2 m2 e2 := by rw [ratOf, signOf_not, neg_mul, ratOf]
    rw [sub_eq_add_neg, ← hneg, ← scaled_mul_zpow (min_le_left e1 e2), ← scaled_mul_zpow (min_le_right e1 e2), ← add_mul, abs_mul,
      abs_of_nonneg (zpow_nonneg (two_pos (α := ℚ)).le _)]
    simp [ratOf, signOf, Nat.cast_natAbs]

/-! The values of the codes of a format. -/

/-- What the six formats have in common: a mantissa, and room for the sign bit above the finite codes. -/
def Fmt.Regular (f : Fmt) : Prop := 1 ≤ f.mbits ∧ 0 < f.top ∧ f.top < 2 ^ (f.ebits + f.mbits)

theorem Fmt.regular {f : Fmt} (hf : f ∈ [fp64, fp32, fp16, bf16, Machine.e4m3, e5m2]) : f.Regular := by
  simp only [List.mem_cons, List.not_mem_nil, or_false] at hf
  rcases hf with rfl | rfl | rfl | rfl | rfl | rfl <;> exact ⟨by decide, by decide, by decide⟩

/-- The magnitude of the finite code `c` (R55). -/
def Fmt.value (f : Fmt) (c : Nat) : ℚ :=
  if c / 2 ^ f.mbits = 0 then ((c % 2 ^ f.mbits : Nat) : ℚ) * 2 ^ (f.emin - f.mbits)
  else ((2 ^ f.mbits + c % 2 ^ f.mbits : Nat) : ℚ) * 2 ^ (((c / 2 ^ f.mbits : Nat) : Int) - f.bias - f.mbits)

/-- `k` significant bits at most and the unit `u` are those of a value of the format, `k` one too large included (a carry). -/
def Fmt.Fits (f : Fmt) (k : Nat) (u : Int) : Prop :=
  f.emin - f.mbits ≤ u ∧ k ≤ 2 ^ (f.mbits + 1) ∧ (u = f.emin - f.mbits ∨ 2 ^ f.mbits ≤ k)

theorem Fmt.value_code {f : Fmt} {k : Nat} {u : Int} (h : f.Fits k u) : f.value (f.code k u) = k * 2 ^ u := by
  obtain ⟨hu, hk, hn⟩ := h
  obtain ⟨d, rfl⟩ := Int.le.dest hu
  have hp : 0 < 2 ^ f.mbits := by positivity
  have hd : (f.emin - f.mbits + (d : Int) - (f.emin - f.mbits)).toNat = d := by omega
  have he : f.emin = 1 - (f.bias : Int) := rfl
  unfold Fmt.code
  rw [hd]
  unfold Fmt.value
  rcases Nat.lt_or_ge k (2 ^ f.mbits) with hlt | hge
  · -- subnormal
    obtain rfl : d = 0 := by omega
    simp [Nat.div_eq_of_lt hlt, Nat.mod_eq_of_lt hlt]
  rw [pow_succ] at hk
  obtain ⟨j, rfl⟩ := Nat.exists_eq_add_of_le hge
  have hc : d * 2 ^ f.mbits + (2 ^ f.mbits + j) = j + 2 ^ f.mbits * (d + 1) := by ring
  rw [hc, Nat.add_mul_div_left _ _ hp, Nat.add_mul_mod_self_left]
  rcases Nat.lt_or_ge j (2 ^ f.mbits) with hj | hj
  · -- normal
    rw [Nat.div_eq_of_lt hj, Nat.mod_eq_of_lt hj, if_neg (by omega)]
    congr 2
    push_cast
    omega
  · -- a carry into the next binade
    obtain rfl : j = 2 ^ f.mbits := by omega
    rw [Nat.div_self hp, Nat.mod_self, if_neg (by omega), show ((1 + (d + 1) : Nat) : Int) - f.bias - f.mbits =
      f.emin - f.mbits + d + 1 by push_cast; omega, zpow_add₀ two_ne_zero]
    push_cast
    ring

theorem Fmt.code_succ (f : Fmt) (k : Nat) (u : Int) : f.code (k + 1) u = f.code k u + 1 := rfl

/-- Every code is that of some `k * 2 ^ u` which the format holds with `k` not the carry. -/
theorem Fmt.exists_code (f : Fmt) (c : Nat) : ∃ k u, f.Fits k u ∧ k < 2 ^ (f.mbits + 1) ∧ f.code k u = c := by
  have hp : 0 < 2 ^ f.mbits := by positivity
  have hm := Nat.mod_lt c hp
  have hdm := Nat.div_add_mod c (2 ^ f.mbits)
  rcases Nat.eq_zero_or_pos (c / 2 ^ f.mbits) with h0 | h1
  · refine ⟨c % 2 ^ f.mbits, f.emin - f.mbits, ⟨le_rfl, by omega, .inl rfl⟩, by omega, ?_⟩
    rw [h0] at hdm
    simp [Fmt.code]
    omega
  · obtain ⟨d, hd⟩ := Nat.exists_eq_add_of_lt h1
    refine ⟨2 ^ f.mbits + c % 2 ^ f.mbits, f.emin - f.mbits + d, ⟨by omega, by omega, .inr (by omega)⟩, by omega, ?_⟩
    rw [hd] at hdm
    unfold Fmt.code
    rw [show (f.emin - f.mbits + (d : Int) - (f.emin - f.mbits)).toNat = d by omega]
    linarith

theorem Fmt.value_strictMono (f : Fmt) : StrictMono f.value := by
  refine strictMono_nat_of_lt_succ fun c => ?_
  obtain ⟨k, u, hfit, hk, rfl⟩ := f.exists_code c
  have hs : f.Fits (k + 1) u := ⟨hfit.1, hk, hfit.2.2.imp_right (by omega)⟩
  rw [← Fmt.code_succ, Fmt.value_code hfit, Fmt.value_code hs]
  push_cast
  gcongr
  linarith

theorem Fmt.value_zero (f : Fmt) : f.value 0 = 0 := by
  simp [Fmt.value]

/-! Decoding. -/

theorem Fmt.decode_eq_fin {f : Fmt} {y : Nat} {n : Bool} {j : Nat} {w : Int} (h : f.decode y = .fin n j w) :
    |ratOf n j w| = f.value (y % 2 ^ (f.ebits + f.mbits)) := by
  rw [abs_ratOf]
  unfold Fmt.decode at h
  unfold Fmt.value
  dsimp only at h
  split at h
  · cases h
  · split at h
    · split at h <;> cases h
    · split at h <;> cases h <;> simp [*]

theorem Fmt.decode_pack {f : Fmt} (hf : f.Regular) {c : Nat} (hc : c < f.top) (neg : Bool) :
    ∃ k u, f.decode (f.pack neg c) = .fin neg k u ∧ ratOf neg k u = signOf neg * f.value c := by
  have hlt : c < 2 ^ (f.ebits + f.mbits) := hc.trans hf.2.2
  have hsign : bitOf (f.pack neg c) (f.ebits + f.mbits) = neg := by
    cases neg <;> simp [bitOf, Fmt.pack, Nat.div_eq_of_lt hlt, Nat.add_div_left]
  have hmag : f.pack neg c % 2 ^ (f.ebits + f.mbits) = c := by
    cases neg <;> simp [Fmt.pack, Nat.mod_eq_of_lt hlt]
  have hnan : ¬(f.e4m3 && decide (c = 0x7F)) = true := by
    intro h
    simp only [Bool.and_eq_true, decide_eq_true_eq] at h
    rw [Fmt.top, if_pos h.1] at hc
    omega
  have hinf : ¬(!f.e4m3 && decide (c / 2 ^ f.mbits = 2 ^ f.ebits - 1)) = true := by
    intro h
    simp only [Bool.and_eq_true, Bool.not_eq_true', decide_eq_true_eq] at h
    rw [Fmt.top, if_neg (by simp [h.1]), Nat.mul_comm] at hc
    exact (Nat.div_lt_of_lt_mul hc).ne h.2
  unfold Fmt.decode Fmt.value ratOf
  dsimp only
  rw [hsign, hmag, if_neg hnan, if_neg hinf]
  split <;> exact ⟨_, _, rfl, rfl⟩

end Sys2Proof.Machine
end

section
/-! SUPPORT for O60. Rounding picks one of the two codes around the exact magnitude. -/
namespace Sys2Proof.Machine

/-- How the distance to the code below compares with that to the code above: 0 less, 1 equal, 2 more (`roundsUp`). -/
def halfOf (x y : ℚ) : Nat := if x < y then 0 else if x = y then 1 else 2

/-- What the rounding mode makes of the magnitude `a`: its own code, or the code below or above, with the mark of an inexact result. -/
inductive Fmt.Rounds (f : Fmt) (r : Rnd) (neg : Bool) (a : ℚ) : Nat → Bool → Prop
  | exact {c : Nat} : f.value c = a → f.Rounds r neg a c false
  | inexact {c : Nat} : f.value c < a → a < f.value (c + 1) →
      f.Rounds r neg a (if roundsUp r neg (halfOf (a - f.value c) (f.value (c + 1) - a)) (decide (c % 2 = 1)) then c + 1 else c) true

theorem roundShift_of_ne_zero {r : Rnd} {neg : Bool} {m d : Nat} (h : m % 2 ^ d ≠ 0) :
    roundShift r neg m d =
      (if roundsUp r neg (halfOf (m % 2 ^ d : Nat) (2 ^ d - (m % 2 ^ d : Nat))) (decide (m / 2 ^ d % 2 = 1)) then m / 2 ^ d + 1
        else m / 2 ^ d, true) := by
  have hl : 2 * (m % 2 ^ d) < 2 ^ d ↔ ((m % 2 ^ d : Nat) : ℚ) < 2 ^ d - (m % 2 ^ d : Nat) := by
    rw [lt_sub_iff_add_lt, ← two_mul]
    exact_mod_cast Iff.rfl
  have he : 2 * (m % 2 ^ d) = 2 ^ d ↔ ((m % 2 ^ d : Nat) : ℚ) = 2 ^ d - (m % 2 ^ d : Nat) := by
    rw [eq_sub_iff_add_eq, ← two_mul]
    exact_mod_cast Iff.rfl
  unfold roundShift halfOf
  dsimp only
  rw [if_neg h]
  simp only [hl, he]

theorem halfOf_mul {p : ℚ} (hp : 0 < p) (x y : ℚ) : halfOf (x * p) (y * p) = halfOf x y := by
  simp only [halfOf, mul_lt_mul_iff_left₀ hp, mul_left_inj' hp.ne']

theorem bitLen_spec {m : Nat} (hm : m ≠ 0) : ∃ l, bitLen m = l + 1 ∧ 2 ^ l ≤ m ∧ m < 2 ^ (l + 1) :=
  ⟨m.log2, if_neg hm, Nat.log2_self_le hm, Nat.lt_log2_self⟩

/-- The kept bits of a value fit the format. -/
theorem Fmt.fits_unit {f : Fmt} {m k : Nat} {e : Int} (hm : m ≠ 0) (hle : (k : ℚ) * 2 ^ f.unit m e ≤ m * 2 ^ e)
    (hlt : (m : ℚ) * 2 ^ e < (k + 1) * 2 ^ f.unit m e) : f.Fits k (f.unit m e) ∧ k < 2 ^ (f.mbits + 1) := by
  obtain ⟨l, hl, hlo, hhi⟩ := bitLen_spec hm
  have hu : f.unit m e = max (l + e) f.emin - f.mbits := by rw [Fmt.unit, hl]; push_cast; ring_nf
  have hlo' : (2 : ℚ) ^ ((l : Int) + e) ≤ m * 2 ^ e := by
    rw [zpow_add₀ two_ne_zero, zpow_natCast]
    gcongr
    exact_mod_cast hlo
  have hhi' : (m : ℚ) * 2 ^ e < 2 ^ ((l : Int) + 1 + e) := by
    rw [zpow_add₀ two_ne_zero]
    gcongr
    exact_mod_cast hhi
  have hk : k < 2 ^ (f.mbits + 1) := by
    have h : (k : ℚ) * 2 ^ f.unit m e < 2 ^ (f.mbits + 1) * 2 ^ f.unit m e := by
      refine (hle.trans_lt hhi').trans_le ?_
      rw [← zpow_natCast, ← zpow_add₀ two_ne_zero]
      exact zpow_le_zpow_right₀ one_le_two (by rw [hu]; push_cast; omega)
    exact_mod_cast lt_of_mul_lt_mul_right h (by positivity)
  refine ⟨⟨by rw [hu]; omega, hk.le, ?_⟩, hk⟩
  rcases lt_or_ge ((l : Int) + e) f.emin with hs | hn
  · exact .inl (by rw [hu]; omega)
  · right
    have h : (2 : ℚ) ^ f.mbits * 2 ^ f.unit m e < (k + 1) * 2 ^ f.unit m e := by
      refine lt_of_le_of_lt ?_ (hlo'.trans_lt hlt)
      rw [← zpow_natCast, ← zpow_add₀ two_ne_zero]
      exact zpow_le_zpow_right₀ one_le_two (by rw [hu]; omega)
    have h' : 2 ^ f.mbits < k + 1 := by exact_mod_cast lt_of_mul_lt_mul_right h (by positivity)
    omega

theorem Fmt.code_mod_two {f : Fmt} (hf : f.Regular) (k : Nat) (u : Int) : f.code k u % 2 = k % 2 := by
  obtain ⟨b, hb⟩ := Nat.exists_eq_add_of_le hf.1
  rw [Fmt.code, hb, pow_add, pow_one, ← mul_assoc, mul_right_comm, Nat.mul_add_mod']

section
variable {f : Fmt} {r : Rnd} {neg : Bool} {m k : Nat} {e : Int}

theorem Fmt.rounds_exact (hm : m ≠ 0) (h : (k : ℚ) * 2 ^ f.unit m e = m * 2 ^ e) :
    f.Rounds r neg (m * 2 ^ e) (f.code k (f.unit m e)) false := by
  have hp : (0 : ℚ) < 2 ^ f.unit m e := by positivity
  refine .exact ?_
  rw [Fmt.value_code (Fmt.fits_unit hm h.le (by rw [← h, add_mul]; linarith)).1, h]

theorem Fmt.rounds_inexact (hf : f.Regular) (hm : m ≠ 0) {t : ℚ} (h0 : 0 < t) (h1 : t < 1)
    (h : (m : ℚ) * 2 ^ e = (k + t) * 2 ^ f.unit m e) :
    f.Rounds r neg (m * 2 ^ e)
      (f.code (if roundsUp r neg (halfOf t (1 - t)) (decide (k % 2 = 1)) then k + 1 else k) (f.unit m e)) true := by
  have hp : (0 : ℚ) < 2 ^ f.unit m e := by positivity
  have hlo : (k : ℚ) * 2 ^ f.unit m e < m * 2 ^ e := by rw [h]; gcongr; linarith
  have hhi : (m : ℚ) * 2 ^ e < (k + 1) * 2 ^ f.unit m e := by rw [h]; gcongr
  obtain ⟨hfit, hk⟩ := Fmt.fits_unit hm hlo.le hhi
  have hfit' : f.Fits (k + 1) (f.unit m e) := ⟨hfit.1, hk, hfit.2.2.imp_right (by omega)⟩
  have hv := Fmt.value_code hfit
  have hv' : f.value (f.code k (f.unit m e) + 1) = (k + 1) * 2 ^ f.unit m e := by
    rw [← Fmt.code_succ, Fmt.value_code hfit']
    push_cast
    rfl
  have hhalf : halfOf (m * 2 ^ e - f.value (f.code k (f.unit m e))) (f.value (f.code k (f.unit m e) + 1) - m * 2 ^ e) =
      halfOf t (1 - t) := by
    rw [hv, hv', h, ← halfOf_mul hp t]
    congr 1 <;> ring
  have hr := Fmt.Rounds.inexact (r := r) (neg := neg) (hv ▸ hlo) (hv' ▸ hhi)
  rw [hhalf, Fmt.code_mod_two hf, ← Fmt.code_succ, ← apply_ite (f.code · (f.unit m e))] at hr
  exact hr

/-- The kept bits, rounded, give the code that the rounding mode asks for. -/
theorem Fmt.rounds_kept (hf : f.Regular) (hm : m ≠ 0) {x : Nat × Bool}
    (hx : x = if f.unit m e ≤ e then (m * 2 ^ (e - f.unit m e).toNat, false) else roundShift r neg m (f.unit m e - e).toNat) :
    f.Rounds r neg (m * 2 ^ e) (f.code x.1 (f.unit m e)) x.2 := by
  subst hx
  split
  · next hu =>
    refine Fmt.rounds_exact hm ?_
    push_cast
    rw [mul_assoc, ← zpow_natCast, ← zpow_add₀ two_ne_zero]
    congr 2
    omega
  · next hu =>
    obtain ⟨d, hd⟩ : ∃ d : Nat, f.unit m e = d + e := ⟨(f.unit m e - e).toNat, by omega⟩
    have hdm : (m : ℚ) = 2 ^ d * (m / 2 ^ d : Nat) + (m % 2 ^ d : Nat) := by exact_mod_cast (Nat.div_add_mod m (2 ^ d)).symm
    have hp : (0 : ℚ) < 2 ^ d := by positivity
    have hue : (2 : ℚ) ^ f.unit m e = 2 ^ d * 2 ^ e := by rw [hd, zpow_add₀ two_ne_zero, zpow_natCast]
    rw [show (f.unit m e - e).toNat = d by omega]
    by_cases hrem : m % 2 ^ d = 0
    · have hs : roundShift r neg m d = (m / 2 ^ d, false) := by simp [roundShift, hrem]
      rw [hs]
      refine Fmt.rounds_exact hm ?_
      rw [hrem, Nat.cast_zero, add_zero] at hdm
      rw [hue, ← mul_assoc, mul_comm ((m / 2 ^ d : Nat) : ℚ), ← hdm]
    · rw [roundShift_of_ne_zero hrem]
      have hlt : ((m % 2 ^ d : Nat) : ℚ) < 2 ^ d := by exact_mod_cast Nat.mod_lt m (by positivity)
      have hpos : (0 : ℚ) < (m % 2 ^ d : Nat) := by exact_mod_cast Nat.pos_of_ne_zero hrem
      have hhalf : halfOf (m % 2 ^ d : Nat) (2 ^ d - (m % 2 ^ d : Nat)) =
          halfOf ((m % 2 ^ d : Nat) / 2 ^ d) (1 - (m % 2 ^ d : Nat) / 2 ^ d) := by
        rw [← halfOf_mul hp (_ / _), sub_mul, one_mul, div_mul_cancel₀ _ hp.ne']
      rw [hhalf]
      refine Fmt.rounds_inexact hf hm (div_pos hpos hp) ((div_lt_one hp).2 hlt) ?_
      rw [hue, ← mul_assoc, add_mul, div_mul_cancel₀ _ hp.ne', mul_comm ((m / 2 ^ d : Nat) : ℚ), ← hdm]

/-- A rounding that raises no OVERFLOW packs a finite code which the rounding mode asks for, with INEXACT and UNDERFLOW as R61
says. -/
theorem Fmt.roundFin_rounds (hf : f.Regular) (hov : (f.roundFin r false neg m e).2 &&& fOverflow = 0) :
    ∃ c b, c < f.top ∧ f.Rounds r neg (m * 2 ^ e) c b ∧ f.roundFin r false neg m e =
      (f.pack neg c, if b then (if f.tiny m e then fInexact ||| fUnderflow else fInexact) else 0) := by
  by_cases hm : m = 0
  · subst hm
    exact ⟨0, false, hf.2.1, .exact (by simp [f.value_zero]), by simp [Fmt.roundFin]⟩
  have hx := Fmt.rounds_kept (r := r) (neg := neg) (e := e) hf hm rfl
  generalize hkept : (if f.unit m e ≤ e then (m * 2 ^ (e - f.unit m e).toNat, false) else
    roundShift r neg m (f.unit m e - e).toNat) = x at hx
  have hfin : f.roundFin r false neg m e =
      if f.top ≤ f.code x.1 (f.unit m e) then (f.overflow r neg, fOverflow ||| fInexact)
      else (f.pack neg (f.code x.1 (f.unit m e)), if x.2 then (if f.tiny m e then fInexact ||| fUnderflow else fInexact) else 0) := by
    unfold Fmt.roundFin
    dsimp only
    rw [if_neg hm, hkept]
    rfl
  rw [hfin] at hov ⊢
  split at hov
  · exact absurd (show (fOverflow ||| fInexact) &&& fOverflow = 0 from hov) (by decide)
  · exact ⟨_, _, by omega, hx, by rw [if_neg ‹_›]⟩

end

end Sys2Proof.Machine
end

section
/-! O60: what each rounding mode asks for, about magnitudes and then about signed values. -/
namespace Sys2Proof.Machine

section
variable {f : Fmt} {r : Rnd} {neg : Bool} {a : ℚ} {c : Nat} {b : Bool}

theorem Fmt.value_nonneg (f : Fmt) (c : Nat) : 0 ≤ f.value c :=
  f.value_zero ▸ f.value_strictMono.monotone c.zero_le

/-- No code lies between two that follow each other. -/
theorem Fmt.value_le_or_le (f : Fmt) (c d : Nat) : f.value d ≤ f.value c ∨ f.value (c + 1) ≤ f.value d :=
  (Nat.lt_or_ge c d).symm.imp (f.value_strictMono.monotone ·) (f.value_strictMono.monotone ·)

theorem Fmt.Rounds.eq_false_iff (h : f.Rounds r neg a c b) : b = false ↔ f.value c = a := by
  cases h with
  | exact h => simp [h]
  | inexact hlo hhi =>
    simp only [Bool.true_eq_false, false_iff]
    split
    · exact hhi.ne'
    · exact hlo.ne

/-- A rounding mode that discards gives the largest magnitude not above the exact one. -/
theorem Fmt.Rounds.inward (h : f.Rounds r neg a c b) (hr : ∀ half odd, roundsUp r neg half odd = false) :
    f.value c ≤ a ∧ ∀ d, f.value d ≤ a → f.value d ≤ f.value c := by
  cases h with
  | exact h => exact ⟨h.le, fun d hd => h ▸ hd⟩
  | inexact hlo hhi =>
    rw [hr]
    exact ⟨hlo.le, fun d hd => (f.value_le_or_le _ d).resolve_right fun h => (hhi.trans_le h).not_ge hd⟩

/-- A rounding mode that rounds up in magnitude gives the smallest magnitude not below the exact one. -/
theorem Fmt.Rounds.outward (h : f.Rounds r neg a c b) (hr : ∀ half odd, roundsUp r neg half odd = true) :
    a ≤ f.value c ∧ ∀ d, a ≤ f.value d → f.value c ≤ f.value d := by
  cases h with
  | exact h => exact ⟨h.ge, fun d hd => h ▸ hd⟩
  | inexact hlo hhi =>
    rw [hr]
    exact ⟨hhi.le, fun d hd => (f.value_le_or_le _ d).resolve_left fun h => (h.trans_lt hlo).not_ge hd⟩

theorem roundsUp_rne_iff {x y : ℚ} {odd : Bool} : roundsUp .rne neg (halfOf x y) odd = true ↔ y < x ∨ x = y ∧ odd = true := by
  rcases lt_trichotomy x y with h | h | h
  · simp [roundsUp, halfOf, h, h.ne, h.le]
  · simp [roundsUp, halfOf, h]
  · simp [roundsUp, halfOf, h, h.ne', h.not_gt]

/-- RNE gives the nearest magnitude, of two equally near the one with the even code. -/
theorem Fmt.Rounds.nearest (h : f.Rounds .rne neg a c b) (d : Nat) :
    |a - f.value c| ≤ |a - f.value d| ∧ (|a - f.value d| ≤ |a - f.value c| → f.value c = f.value d ∨ c % 2 = 0) := by
  cases h with
  | exact h =>
    rw [h, sub_self, abs_zero]
    exact ⟨abs_nonneg _, fun h0 => .inl (sub_eq_zero.1 (abs_nonpos_iff.1 h0))⟩
  | @inexact c hlo hhi =>
    have hd : f.value d ≤ f.value c ∧ |a - f.value d| = a - f.value d ∨
        f.value (c + 1) ≤ f.value d ∧ |a - f.value d| = f.value d - a := by
      rcases f.value_le_or_le c d with h | h
      · exact .inl ⟨h, abs_of_nonneg (by linarith)⟩
      · exact .inr ⟨h, by rw [abs_sub_comm, abs_of_nonneg (by linarith)]⟩
    by_cases hup : roundsUp .rne neg (halfOf (a - f.value c) (f.value (c + 1) - a)) (decide (c % 2 = 1)) = true
    · rw [if_pos hup, abs_sub_comm a, abs_of_nonneg (sub_nonneg.2 hhi.le)]
      rw [roundsUp_rne_iff, decide_eq_true_eq] at hup
      rcases hd with ⟨hle, hd⟩ | ⟨hle, hd⟩ <;> rw [hd]
      · rcases hup with hup | ⟨hup, hodd⟩
        · exact ⟨by linarith, fun h => by linarith⟩
        · exact ⟨by linarith, fun _ => .inr (by omega)⟩
      · exact ⟨by linarith, fun h => .inl (by linarith)⟩
    · rw [if_neg hup, abs_of_nonneg (sub_nonneg.2 hlo.le)]
      rw [roundsUp_rne_iff, decide_eq_true_eq, not_or, not_lt, not_and] at hup
      rcases hd with ⟨hle, hd⟩ | ⟨hle, hd⟩ <;> rw [hd]
      · exact ⟨by linarith, fun h => .inl (by linarith)⟩
      · refine ⟨by linarith [hup.1], fun h => .inr ?_⟩
        have := hup.2 (by linarith [hup.1])
        omega

theorem Fmt.pack_mod_two (hf : f.Regular) (neg : Bool) (c : Nat) : f.pack neg c % 2 = c % 2 := by
  obtain ⟨b, hb⟩ := Nat.exists_eq_add_of_le hf.1
  cases neg
  · simp [Fmt.pack]
  · rw [Fmt.pack, if_pos rfl, hb, ← Nat.add_assoc, Nat.add_right_comm, pow_succ, Nat.mul_add_mod']

/-! The same of signed values: `z` is any finite value of the format. -/

variable {z : ℚ} {d : Nat}

theorem Fmt.Rounds.upward (h : f.Rounds .rup neg a c b) (ha : 0 ≤ a) (hz : |z| = f.value d) :
    signOf neg * a ≤ signOf neg * f.value c ∧ (signOf neg * a ≤ z → signOf neg * f.value c ≤ z) := by
  have hc := f.value_nonneg c
  cases neg with
  | false =>
    obtain ⟨hle, hleast⟩ := h.outward fun _ _ => rfl
    simp only [signOf, Bool.false_eq_true, if_false, one_mul]
    refine ⟨hle, fun hv => ?_⟩
    rw [abs_of_nonneg (ha.trans hv)] at hz
    exact hz ▸ hleast d (hz ▸ hv)
  | true =>
    obtain ⟨hle, hgreatest⟩ := h.inward fun _ _ => rfl
    simp only [signOf, if_true, neg_one_mul, neg_le_neg_iff]
    refine ⟨hle, fun hv => ?_⟩
    rcases abs_cases z with ⟨habs, hz0⟩ | ⟨habs, hz0⟩
    · linarith
    · linarith [hgreatest d (by linarith)]

/-- Rounding down is rounding up of the negated value. -/
theorem Fmt.Rounds.mirror (h : f.Rounds .rdn neg a c b) : f.Rounds .rup (!neg) a c b := by
  cases h with
  | exact h => exact .exact h
  | inexact hlo hhi =>
    have hr : ∀ half odd, roundsUp .rdn neg half odd = roundsUp .rup (!neg) half odd := by simp [roundsUp]
    rw [hr]
    exact .inexact hlo hhi

theorem Fmt.Rounds.downward (h : f.Rounds .rdn neg a c b) (ha : 0 ≤ a) (hz : |z| = f.value d) :
    signOf neg * f.value c ≤ signOf neg * a ∧ (z ≤ signOf neg * a → z ≤ signOf neg * f.value c) := by
  have h := h.mirror.upward ha (z := -z) (abs_neg z ▸ hz)
  simpa only [signOf_not, neg_mul, neg_le_neg_iff] using h

theorem Fmt.Rounds.closest (h : f.Rounds .rne neg a c b) (ha : 0 ≤ a) (hz : |z| = f.value d) :
    |signOf neg * a - signOf neg * f.value c| ≤ |signOf neg * a - z| ∧
      (|signOf neg * a - z| ≤ |signOf neg * a - signOf neg * f.value c| → signOf neg * f.value c = z ∨ c % 2 = 0) := by
  have habs : |signOf neg * a| = a := by rw [abs_mul, abs_signOf, one_mul, abs_of_nonneg ha]
  have hc := f.value_nonneg c
  have hlow : |a - f.value d| ≤ |signOf neg * a - z| := by
    rw [← hz]
    nth_rw 1 [← habs]
    exact abs_abs_sub_abs_le _ _
  rw [← mul_sub, abs_mul, abs_signOf, one_mul]
  obtain ⟨hnear, htie⟩ := h.nearest d
  refine ⟨hnear.trans hlow, fun hle => (htie (hlow.trans hle)).imp_left fun heq => ?_⟩
  have hzero := (h.nearest 0).1
  rw [f.value_zero, sub_zero, abs_of_nonneg ha] at hzero
  -- of the two values of this magnitude the one with the other sign is farther away, unless both are 0
  have hz' : signOf neg * f.value c = z ∨ signOf neg * f.value c = -z := by
    rw [heq, ← hz]
    cases neg <;> rcases abs_choice z with h | h <;> simp [signOf, h]
  rcases hz' with hsame | hother
  · exact hsame
  · obtain rfl : z = -(signOf neg * f.value c) := by linarith
    rw [sub_neg_eq_add, ← mul_add, abs_mul, abs_signOf, one_mul, abs_of_nonneg (by linarith)] at hle
    have hv : f.value c = 0 := by linarith
    simp [hv]

end

end Sys2Proof.Machine
end

section
namespace Sys2Proof.Claims
open Sys2Proof.Machine

/-- Settles O60: the rounded value is one of the two codes around the exact one, which the rounding mode chooses. -/
theorem roundingIsCorrect : Obligations.RoundingIsCorrect := by
  unfold Obligations.RoundingIsCorrect
  intro le abs f r neg m e hf v x fl hov
  have hreg := Fmt.regular hf
  obtain ⟨c, b, hc, hrounds, hres⟩ := Fmt.roundFin_rounds hreg hov
  obtain ⟨k, u, hdec, hval⟩ := Fmt.decode_pack hreg hc neg
  have hx : x = f.pack neg c := congrArg Prod.fst hres
  have hfl : fl = if b then (if f.tiny m e then fInexact ||| fUnderflow else fInexact) else 0 := congrArg Prod.snd hres
  have hle : ∀ n j w n' j' w', le (.fin n j w) (.fin n' j' w') ↔ ratOf n j w ≤ ratOf n' j' w' :=
    fun _ _ _ _ _ _ => cmpFin_nonpos_iff
  have hcmp : ∀ n j w n' j' w', Machine.Num.cmp (.fin n j w) (.fin n' j' w') = some 0 ↔ ratOf n j w = ratOf n' j' w' :=
    fun _ _ _ _ _ _ => (Option.some_inj.trans cmpFin_eq_zero_iff)
  have ha : (0 : ℚ) ≤ m * 2 ^ e := by positivity
  have hv : ratOf neg m e = signOf neg * (m * 2 ^ e) := rfl
  rw [hx, hdec]
  refine ⟨k, u, rfl, ?_, ?_, ?_⟩
  · rw [hcmp, hv, hval, mul_right_inj' (by cases neg <;> simp [signOf]), eq_comm (a := (m : ℚ) * _), ← hrounds.eq_false_iff, hfl]
    cases b <;> cases f.tiny m e <;> decide
  · rw [hfl]
    cases b <;> cases f.tiny m e <;> decide
  intro y _ n j w hy
  have hz := Fmt.decode_eq_fin hy
  rw [hy]
  cases r with dsimp only
  | rne =>
    obtain ⟨mx, ex, hdx, hqx⟩ := distance_fin neg m e neg k u
    obtain ⟨my, ey, hdy, hqy⟩ := distance_fin neg m e n j w
    rw [hdx, hdy, hle, hle, hqx, hqy, hcmp, hv, hval, Fmt.pack_mod_two hreg]
    exact hrounds.closest ha hz
  | rtz =>
    have hmag : ∀ j w, ratOf false j w = j * 2 ^ w := fun _ _ => one_mul _
    have hk : ratOf false k u = f.value c := by
      rw [hmag, ← abs_ratOf neg, hval, abs_mul, abs_signOf, one_mul, abs_of_nonneg (f.value_nonneg c)]
    have hj : ratOf false j w = f.value (y % 2 ^ (f.ebits + f.mbits)) := by rw [hmag, ← abs_ratOf n, hz]
    rw [hle, hle, hle, hk, hj, hmag]
    exact (hrounds.inward fun _ _ => rfl).imp_right (· _)
  | rup =>
    rw [hle, hle, hle, hval, hv]
    exact hrounds.upward ha hz
  | rdn =>
    rw [hle, hle, hle, hval, hv]
    exact hrounds.downward ha hz

end Sys2Proof.Claims
end

section
/-! O51 fails in one clause: the start of a drain. The clause of the cut bounds the tile by the shape of the handle, that of the start does
not. A tile of 257 rows has a row in none of the four quarters of a split handle; the model reads it from engine 0, which need
not be one of the handle's. -/
namespace Sys2Proof.Claims
open Sys2Proof.Machine

/-- A split handle over four engines of cluster 1. -/
def quartered : Machine.Handle :=
  { kind := .split, engine := 8, slot := 0, split := [(8, 0), (9, 0), (10, 0), (11, 0)], kg := 1, kord := 3, audit := 0 }

/-- A queued drain of 257 rows and 1 column of that handle. -/
def tallDrain : Cmd :=
  { core := 8, engines := [8, 9, 10, 11], feed := 3, instr := .accdrain 8 12 6 0 false false
    record := [9, 0, 0, 0, 1, 1, 1, 0] ++ List.replicate 24 0, params := [], coords := [], tensors := [], signal := .nothing, packNo := 0
    group := 1, part := 1, rcb := 0, slotNo := 5, priv := .user, time := 0, handle := some quartered, handleNo := 0 }

/-- The drain is the only command, and the first accumulator word of engine 0 is uncorrectable. -/
def brokenBeside : State := { ({} : State) with cores := [(0, { eng := { accBad := [0] } })], cmds := [(3, tallDrain)] }

theorem accClean_brokenBeside : AccClean brokenBeside quartered := by
  intro e he
  have he' : e ∈ [8, 9, 10, 11] := he
  fin_cases he' <;> exact ⟨rfl, rfl⟩

/-- The drain fails with 14 when it starts: row 256 lies in no quarter, and the word read for it is the broken one of engine 0. -/
theorem tallDrain_fails {t : State} {x : Cmd} (ht : exec (.engineCommandStart 8 3) brokenBeside = .next t)
    (hx : tabFind t.cmds 3 = some x) : x.fail = 14 := by
  have hrun : (match exec (.engineCommandStart 8 3) brokenBeside with
      | .next t => (tabFind t.cmds 3).map (·.fail)
      | _ => none) = some 14 := by decide +kernel
  rw [ht] at hrun
  simpa [hx] using hrun

/-- Refutes O51: a drain taller than its handle reads, when it starts, an engine that is not the handle's, and fails where a word
there is uncorrectable. -/
theorem not_engineTransfers : ¬ Obligations.EngineTransfers := by
  intro h
  obtain ⟨-, -, hdrain, -⟩ := h brokenBeside 8 3 tallDrain rfl rfl rfl
  obtain ⟨hstart, -⟩ := hdrain quartered rfl rfl accClean_brokenBeside
  obtain ⟨t, x, ht, hx, -, hfail, -⟩ := hstart rfl (by decide)
  exact absurd (hfail.symm.trans (tallDrain_fails ht hx)) (by decide)

end Sys2Proof.Claims
end

section
/-! Fences (spec/12_memory_instructions.md R264, R265): what an acquire and a release of a core change, and how the threads that only move
on end. -/
namespace Sys2Proof.Claims

open Sys2Proof.Machine

/-! Threads that only move on. -/

/-- Issuing threads that only move on. -/
theorem LanesDone.advance (n : Nat) (act : LaneMask) (p : Pack) :
    LanesDone n unguarded (fun _ _ => {}) 0 act p (p.onLanes act fun _ t => t.advance n) := by
  refine ⟨⟨?_, Pack.onLanes_threads_length _ _ _⟩, fun l hl => ?_⟩
  · simp [Pack.onLanes]
  · rw [Pack.thread_onLanes _ _ _ _ hl]
    by_cases h : hasLane act l = true
    · simp [h, LaneEffect.leaves, Thread.advance, SameButMeet.refl, Thread.r]
    · simp [h, SameButMeet.refl]

/-- What settles after the instruction changes the scoreboard and V of MEET alone. -/
theorem LanesDone.settled {n : Nat} {g : Guard} {eff : Nat → Thread → LaneEffect} {fl : Word} {act : LaneMask} {p : Pack} {t : State}
    (h : LanesDone n g eff fl act p t.pk) (s : State) : LanesDone n g eff fl act p (s.settle t).pk := by
  obtain ⟨hrest, hth⟩ := h
  refine ⟨hrest.trans (s.settle_holdsOnly t).rest, fun l hl => ?_⟩
  obtain ⟨hsame, hr, hp⟩ := hth l hl
  have hset := s.settle_thread t l
  refine ⟨?_, fun r => (Thread.r_of_v hset.v r).trans (hr r), fun k hk => by rw [hset.p]; exact hp k hk⟩
  -- The registers and predicates that the effect leaves to the thread after it are those of the settled thread.
  have hleaves : ∀ e : LaneEffect, e.leaves n (p.thread l) ((s.settle t).pk.thread l) = e.leaves n (p.thread l) (t.pk.thread l) := fun e => by
    unfold LaneEffect.leaves
    rw [hset.v, hset.p]
  rw [hleaves]
  exact hsame.trans hset

/-! Acquire and release of a core. -/

/-- What a fence at a scope leaves (R86, R122, R123): caches and lagging replicas may lose entries, and nothing else changes outside the
issuing pack. -/
structure FenceFrame (sc : Scope) (s t : State) : Prop where
  l1 : sc = .cl ∨ sc = .dev ∨ sc = .sys → (t.core s.here).l1 = []
  lag : sc = .dev ∨ sc = .sys → t.home.replicaLag = []
  lagDie : sc = .grp ∨ sc = .cl →
    ∀ x, x ∈ t.home.replicaLag ↔ x ∈ s.home.replicaLag ∧ sliceDie (s.slice x.1) = dieOf s.here
  rest : t = { s with pk := t.pk, home := { s.home with replicaLag := t.home.replicaLag }, cores := t.cores }
  cores : ∀ c, t.core c = { s.core c with l1 := (t.core c).l1 }

theorem syncDie_lag (s : State) (die : Nat) (x : Nat × Lag) :
    x ∈ (s.syncDie die).home.replicaLag ↔ x ∈ s.home.replicaLag ∧ sliceDie (s.slice x.1) = die := by
  unfold State.syncDie
  split
  · rename_i he
    rw [List.isEmpty_iff.1 he]
    simp
  · simp

theorem syncDie_rest (s : State) (die : Nat) :
    s.syncDie die = { s with home := { s.home with replicaLag := (s.syncDie die).home.replicaLag } } := by
  unfold State.syncDie
  split <;> rfl

theorem releaseAt_rest (s : State) (core : Nat) (sc : Option Scope) :
    s.releaseAt core sc = { s with home := { s.home with replicaLag := (s.releaseAt core sc).home.replicaLag } } := by
  unfold State.releaseAt
  split
  · rfl
  · rfl
  · exact syncDie_rest s _
  · exact syncDie_rest s _
  · rfl

theorem acquireL1_rest (s : State) (core : Nat) (sc : Option Scope) :
    s.acquireL1 core sc = { s with cores := (s.acquireL1 core sc).cores } := by
  unfold State.acquireL1
  split <;> rfl

theorem acquireL1_core (s : State) (core : Nat) (sc : Option Scope) (c : Nat) :
    (s.acquireL1 core sc).core c = { s.core c with l1 := ((s.acquireL1 core sc).core c).l1 } := by
  have emptied : (s.modCore core fun k => { k with l1 := [] }).core c =
      { s.core c with l1 := ((s.modCore core fun k => { k with l1 := [] }).core c).l1 } := by
    rw [State.core_modCore]
    split
    · subst_vars; rfl
    · rfl
  unfold State.acquireL1
  split
  · exact emptied
  · exact emptied
  · exact emptied
  · exact emptied
  · rfl

theorem acquireL1_empties (s : State) (core : Nat) {sc : Scope} (h : sc = .cl ∨ sc = .dev ∨ sc = .sys) :
    ((s.acquireL1 core (some sc)).core core).l1 = [] := by
  have emptied : ((s.modCore core fun k => { k with l1 := [] }).core core).l1 = [] := by
    rw [State.core_modCore, if_pos rfl]
  rcases h with rfl | rfl | rfl <;> exact emptied

/-- A release changes no core. -/
theorem releaseAt_core (s : State) (core : Nat) (sc : Option Scope) (c : Nat) : (s.releaseAt core sc).core c = s.core c := by
  rw [releaseAt_rest]
  rfl

/-- A fence's acquire, then its release (R122). -/
theorem fenceAt_rest (s : State) (sc : Scope) :
    s.fenceAt sc = { s with home := { s.home with replicaLag := (s.fenceAt sc).home.replicaLag }, cores := (s.fenceAt sc).cores } := by
  unfold State.fenceAt
  rw [releaseAt_rest, acquireL1_rest]

theorem fenceAt_pk (s : State) (sc : Scope) : (s.fenceAt sc).pk = s.pk := by
  rw [fenceAt_rest]

theorem fenceAt_frame (s : State) (sc : Scope) : FenceFrame sc s (s.fenceAt sc) where
  l1 h := by
    unfold State.fenceAt
    rw [releaseAt_core]
    exact acquireL1_empties s s.here h
  lag h := by
    rcases h with rfl | rfl <;> rfl
  lagDie h x := by
    rcases h with rfl | rfl <;> exact syncDie_lag _ _ x
  rest := by
    rw [fenceAt_pk]
    exact fenceAt_rest s sc
  cores c := by
    unfold State.fenceAt
    rw [releaseAt_core]
    exact acquireL1_core s s.here (some sc) c

namespace FenceFrame

variable {sc : Scope} {s t : State} (h : FenceFrame sc s t)
include h

/-- What the threads do afterwards is not what a fence changes. -/
theorem withPack (p : Pack) : FenceFrame sc s { t with pk := p } :=
  ⟨h.l1, h.lag, h.lagDie, congrArg (fun x : State => { x with pk := p }) h.rest, h.cores⟩

theorem settled (u : State) : FenceFrame sc s (u.settle t) := by
  rw [State.settle_outside]
  exact h.withPack _

theorem memByte (p : Nat) : t.memByte p = s.memByte p := by
  rw [h.rest]
  rfl

theorem vault (p : Nat) : vaultView t p = vaultView s p := by
  unfold vaultView
  rw [h.cores]

end FenceFrame

/-! The two fences. -/

/-- A ready fence with an active thread (R264). -/
theorem exec_fence {g : Guard} {sc : Scope} {s : State} (hr : Ready (.fence g sc) s) (ha : activeOf s g ≠ 0) :
    exec (.fence g sc) s = .next (s.settle (if s.drained then (s.fenceAt sc).advance s.act 8 else s.block .drain)) := by
  refine (issue_ready hr _).trans ?_
  rw [if_neg (show ¬s.active (·.guarded g) = 0 from ha)]
  cases s.drained <;> rfl

/-- A ready sfence (R265). -/
theorem exec_sfence {sc : Scope} {s : State} (hr : Ready (.sfence sc) s) :
    exec (.sfence sc) s = .next (s.settle (if s.drained then (s.fenceAt sc).next 8 else s.block .drain)) := by
  refine (issue_ready hr _).trans ?_
  cases s.drained <;> rfl

/-- Settles O15: the fence waits, or its acquire and its release are made and the threads move on. -/
theorem fences : Obligations.Fences := by
  -- A pack with accesses still to perform waits.
  have waits : ∀ s : State, OnlyPack s (s.settle (s.block .drain)) ∧ PackWaits .drain s.pk (s.settle (s.block .drain)).pk :=
    fun s => ⟨OnlyPack.of_pk s s _, (PackWaits.block s.pk .drain).settled s⟩
  refine ⟨fun g sc s hr ha => ?_, fun sc s hr => ?_⟩
  · have hexec := exec_fence hr ha
    split
    · rename_i hd
      rw [if_pos (show s.drained = true from hd)] at hexec
      have hf := ((fenceAt_frame s sc).withPack ((s.fenceAt sc).pk.onLanes s.act fun _ t => t.advance 8)).settled s
      refine ⟨_, hexec, LanesDone.settled ?_ s, hf.memByte, hf.vault, hf.l1, hf.lag, hf.lagDie, hf.rest, hf.cores⟩
      rw [← fenceAt_pk s sc]
      exact LanesDone.advance 8 s.act _
    · rename_i hd
      rw [if_neg (show ¬s.drained = true from hd)] at hexec
      exact ⟨_, hexec, waits s⟩
  · have hexec := exec_sfence hr
    split
    · rename_i hd
      rw [if_pos (show s.drained = true from hd)] at hexec
      have hf := ((fenceAt_frame s sc).withPack ((s.fenceAt sc).pk.onLanes (s.fenceAt sc).pk.live fun _ t => t.advance 8)).settled s
      refine ⟨_, hexec, PackDone.settled ?_ s, hf.memByte, hf.vault, hf.l1, hf.lag, hf.lagDie, hf.rest, hf.cores⟩
      rw [← fenceAt_pk s sc]
      exact PackDone.next _ 8
    · rename_i hd
      rw [if_neg (show ¬s.drained = true from hd)] at hexec
      exact ⟨_, hexec, waits s⟩

end Sys2Proof.Claims
end

section
/-! SUPPORT for O55. Turns (spec/07_queues.md R143, R144): whose turn it is, what a turn of a pack runs, and what the vote of a pack
promises. -/
namespace Sys2Proof.Machine

/-! Whose turn it is. -/

/-- The first answer, or else the default, heads the list of all answers and the default. -/
theorem firstOf_head {α : Type} (s : State) (d : α) (l : List (State → Option α)) :
    ∃ r, l.filterMap (fun f => f s) ++ [d] = (firstOf s l).getD d :: r := by
  induction l with
  | nil => exact ⟨[], rfl⟩
  | cons f l ih =>
    unfold firstOf
    rw [List.filterMap_cons]
    cases f s with
    | none => exact ih
    | some x => exact ⟨_, rfl⟩

theorem firstOf_mem {α : Type} {s : State} {l : List (State → Option α)} {x : α} (h : firstOf s l = some x) : ∃ f ∈ l, f s = some x := by
  induction l with
  | nil => cases h
  | cons f l ih =>
    unfold firstOf at h
    split at h
    · rename_i hy
      exact ⟨f, .head _, hy.trans h⟩
    · obtain ⟨g, hg, hx⟩ := ih h
      exact ⟨g, .tail _ hg, hx⟩

/-- The one whose turn it is comes first of all who may have it. -/
theorem State.turns_head (s : State) : ∃ r, s.turns = s.turn :: r := by
  obtain ⟨r, hr⟩ := firstOf_head s s.issueTurn [State.evictTurn, State.tapeTurn, State.portBTurn, State.dueTurn]
  refine ⟨r, .trans ?_ hr⟩
  unfold State.turns
  simp only [List.filterMap_cons, List.filterMap_nil]
  cases s.evictTurn <;> cases s.tapeTurn <;> cases s.portBTurn <;> cases s.dueTurn <;> rfl

/-- Port A has its turn in an issue slot only. -/
theorem State.turn_portA {s : State} {c u : Nat} {cs : List Cand} {k : Cand} (h : s.turn = .portA c u cs k) :
    s.nextSlot s.unitsFrom = some (c, u, cs, k) := by
  unfold State.turn at h
  cases hf : firstOf s [State.evictTurn, State.tapeTurn, State.portBTurn, State.dueTurn] with
  | some x =>
    rw [hf, Option.getD_some] at h
    obtain ⟨f, hmem, hx⟩ := firstOf_mem hf
    rw [h] at hx
    have hne : ∀ x ∈ [State.evictTurn, State.tapeTurn, State.portBTurn, State.dueTurn], x s ≠ some (.portA c u cs k) := by
      simp [State.evictTurn, State.tapeTurn, State.portBTurn, State.dueTurn]
    exact absurd hx (hne f hmem)
  | none =>
    rw [hf, Option.getD_none] at h
    unfold State.issueTurn at h
    split at h
    · rename_i hn
      cases h
      exact hn
    · cases h

/-- What the turn does is the step, where no place holds requests back or the turn sends none there. -/
theorem step_turn {s : State} {o : Host.Outcome State Fault Refusal} (h : act s.unload.clockTick.turn s.unload.clockTick = o)
    (hh : s.unload.clockTick.holding = false ∨ ∀ v, o = .next v → s.unload.clockTick.sendsHeld v = false) : step s = o := by
  unfold step
  dsimp only
  generalize s.unload.clockTick = n at *
  cases hold : n.holding with
  | false => exact h
  | true =>
    have hv := hh.resolve_left (by rw [hold]; decide)
    obtain ⟨r, hr⟩ := n.turns_head
    rw [if_pos rfl, hr]
    unfold actFirst
    rw [h]
    cases o with
    | next v => exact if_neg (by rw [hv v rfl]; decide)
    | fault f => rfl
    | refused f => rfl

/-! What a turn runs. -/

/-- The state in which threads `m` of the pack in the latch fetch at `pc`. -/
def State.atIssue (s : State) (m : LaneMask) (pc : BitVec 52) : State := { s with act := m, ipc := pc, pk := { s.pk with wait := .none } }

/-- Fetched words that decode run (R202). -/
theorem runAt_decoded {r q : State} {c slot : Nat} {m : LaneMask} {pc : BitVec 52} {w0 w1 : Word} {i : Instr}
    (hf : (r.atIssue m pc).fetchInstr c slot (r.atIssue m pc).pk (!r.env.defer || r.pk.filled) pc = (q, .words w0 w1))
    (hd : decode w0 w1 = .ok i) :
    runAt c slot m pc r = match exec i { q with pk := { q.pk with filled := false } } with
      | .next v => .next (v.finish c slot i pc m)
      | o => o := by
  have hb : r.begin c slot m pc = ({ q with pk := { q.pk with filled := false } }, .run i) := by
    unfold State.atIssue at hf
    dsimp only at hf
    unfold State.begin
    dsimp only
    rw [hf]
    dsimp only
    rw [hd]
  unfold runAt
  rw [hb] <;> rfl

/-- On port B the lanes that are left issue (R144). -/
theorem act_portB {s r : State} {c slot : Nat} {pc : BitVec 52} {m : LaneMask} (h : s.loadB c slot pc = (r, m)) (hm : m ≠ 0) :
    act (.portB c slot pc) s = runAt c slot m pc r := by
  unfold act
  dsimp only
  rw [h]
  exact if_neg hm

/-! Masks. -/

/-- A lane of several masks together is a lane of one of them. -/
theorem hasLane_orMasks (l : Nat) (ms : List LaneMask) : hasLane (orMasks ms) l = true ↔ ∃ m ∈ ms, hasLane m l = true := by
  have fold : ∀ (ms : List LaneMask) (a : LaneMask),
      hasLane (ms.foldl (· ||| ·) a) l = true ↔ hasLane a l = true ∨ ∃ m ∈ ms, hasLane m l = true := by
    intro ms
    induction ms with
    | nil => simp
    | cons m ms ih =>
      intro a
      rw [List.foldl_cons, ih, hasLane_or]
      simp [or_assoc]
  rw [orMasks, fold]
  simp [hasLane]

theorem exists_lane {m : LaneMask} (h : m ≠ 0) : ∃ l, hasLane m l = true := by
  by_contra hn
  rw [not_exists] at hn
  exact h (LaneMask.ext_lanes fun l _ => by simpa [hasLane] using hn l)

@[simp] theorem Pack.hasLane_threadsAt (p : Pack) (m : LaneMask) (pc : BitVec 52) (l : Nat) :
    hasLane (p.threadsAt m pc) l = (hasLane m l && ((p.thread l).pc == pc)) := by
  unfold Pack.threadsAt
  rw [hasLane_maskOf]
  cases h : hasLane m l with
  | false => simp
  | true => simp [hasLane_lt h]

/-! PCs of threads. -/

theorem mem_insertAsc (x y : Nat) (l : List Nat) : y ∈ insertAsc x l ↔ y = x ∨ y ∈ l := by
  induction l with
  | nil => simp [insertAsc]
  | cons z l ih =>
    unfold insertAsc
    split
    · subst_vars; simp
    · split
      · simp
      · simp only [List.mem_cons, ih]
        exact or_left_comm

theorem mem_ascending (y : Nat) (l : List Nat) : y ∈ ascending l ↔ y ∈ l := by
  induction l with
  | nil => rfl
  | cons x l ih => rw [ascending, mem_insertAsc, ih, List.mem_cons]

theorem Pack.mem_pcs (p : Pack) (m : LaneMask) (pc : BitVec 52) : pc ∈ p.pcs m ↔ ∃ l, hasLane m l = true ∧ (p.thread l).pc = pc := by
  unfold Pack.pcs
  simp only [List.mem_map, mem_ascending, mem_lanesOf]
  constructor
  · rintro ⟨_, ⟨l, hl, rfl⟩, rfl⟩
    exact ⟨l, hl, by simp⟩
  · rintro ⟨l, hl, rfl⟩
    exact ⟨_, ⟨l, hl, rfl⟩, by simp⟩

/-- A starving thread's PC is the PC of a thread of the mask. -/
theorem Pack.starving_pc {p : Pack} {m : LaneMask} {pc : BitVec 52} (h : p.starving m = some pc) :
    ∃ l, hasLane m l = true ∧ (p.thread l).pc = pc := by
  -- Whatever the search has found is the PC of a thread of the mask.
  have found : ∀ {f : Option (Nat × BitVec 52) → Nat → Option (Nat × BitVec 52)},
      (∀ b l, f b l = b ∨ ∃ n, f b l = some (n, (p.thread l).pc)) → ∀ (ls : List Nat), (∀ l ∈ ls, hasLane m l = true) →
      ∀ b, (∀ x ∈ b, ∃ l, hasLane m l = true ∧ (p.thread l).pc = x.2) →
      ∀ x ∈ ls.foldl f b, ∃ l, hasLane m l = true ∧ (p.thread l).pc = x.2 := by
    intro f hf ls
    induction ls with
    | nil => exact fun _ b hb => hb
    | cons l ls ih =>
      intro hm b hb
      refine ih (fun k hk => hm k (.tail _ hk)) _ ?_
      rcases hf b l with hfb | ⟨n, hfb⟩ <;> rw [hfb]
      · exact hb
      · rintro x ⟨⟩
        exact ⟨l, hm l (.head _), rfl⟩
  unfold Pack.starving at h
  obtain ⟨x, hx, rfl⟩ := Option.map_eq_some_iff.1 h
  refine found (fun b l => ?_) (lanesOf m) (fun l hl => (mem_lanesOf m l).1 hl) none nofun x hx
  dsimp only
  split
  · exact .inl rfl
  · split
    · exact .inr ⟨_, rfl⟩
    · split
      · exact .inr ⟨_, rfl⟩
      · exact .inl rfl

/-! What stands at a PC, and who is ready there. -/

theorem State.readyAt_snd (s : State) (core slot : Nat) (free : LaneMask) (pc : BitVec 52) :
    (s.readyAt core slot free pc).2 = s.peek core slot s.pk pc := by
  unfold State.readyAt
  dsimp only
  split
  · rfl
  · rfl
  · rfl
  · split <;> rfl

/-- Ready threads are free threads at that PC. -/
theorem State.readyAt_sub {s : State} {core slot l : Nat} {free : LaneMask} {pc : BitVec 52}
    (h : hasLane (s.readyAt core slot free pc).1 l = true) : hasLane free l = true ∧ (s.pk.thread l).pc = pc := by
  have zero : hasLane 0 l = false := by simp [hasLane]
  have here : hasLane (s.pk.threadsAt free pc) l = true → hasLane free l = true ∧ (s.pk.thread l).pc = pc := by
    simp
  -- All the threads there, or none.
  have all : ∀ {p : Prop} [Decidable p], hasLane (if p then s.pk.threadsAt free pc else 0) l = true →
      hasLane (s.pk.threadsAt free pc) l = true := by
    intro p _ hl
    split at hl
    · exact hl
    · rw [zero] at hl
      cases hl
  unfold State.readyAt at h
  dsimp only at h
  split at h
  · rw [zero] at h
    cases h
  · exact here h
  · exact here (all h)
  · split at h
    · exact here (all h)
    · rw [hasLane_maskOf] at h
      simp only [Bool.and_eq_true] at h
      obtain ⟨-, hl, -⟩ := h
      exact here hl

/-- A pack instruction is ready for every live thread or for none (R276). -/
theorem State.readyAt_uniform {s : State} {core slot : Nat} {free : LaneMask} {pc : BitVec 52}
    (hx : (s.peek core slot s.pk pc).pipe = .uniform) (h : (s.readyAt core slot free pc).1 ≠ 0) :
    (s.readyAt core slot free pc).1 = s.pk.live := by
  -- All the threads there, where they are the live ones, or none.
  have all : ∀ {p : Prop} [Decidable p], (p → s.pk.threadsAt free pc = s.pk.live) → (if p then s.pk.threadsAt free pc else 0) ≠ 0 →
      (if p then s.pk.threadsAt free pc else 0) = s.pk.live := by
    intro p _ hp h0
    split at h0
    · rename_i hh
      rw [if_pos hh]
      exact hp hh
    · exact absurd rfl h0
  unfold State.readyAt at h ⊢
  dsimp only at h ⊢
  generalize s.peek core slot s.pk pc = x at *
  cases x with
  | late => cases hx
  | fails => cases hx
  | packWord => exact all id h
  | instr i =>
    have hi : (pipeOf i == .uniform) = true := beq_iff_eq.2 hx
    simp only [hi, if_true] at h ⊢
    exact all (fun hh => by simp only [Bool.and_eq_true, decide_eq_true_eq] at hh; exact hh.1) h

/-! The vote. -/

/-- Threads that run and that no meeting holds. -/
def Pack.freeLanes (p : Pack) : LaneMask := maskOf fun l => !(p.thread l).exited && !(p.thread l).held

/-- For each PC of a free thread, who is ready there and what stands there. -/
def State.readies (s : State) (core slot : Nat) : List (BitVec 52 × LaneMask × AtPc) :=
  (s.pk.pcs s.pk.freeLanes).map fun pc => (pc, s.readyAt core slot s.pk.freeLanes pc)

/-- Ready threads, and those among them that yield to others (R143). -/
def State.allReady (s : State) (core slot : Nat) : LaneMask := orMasks ((s.readies core slot).map fun (_, m, _) => m)

def State.outYielding (s : State) (core slot : Nat) : LaneMask :=
  orMasks ((s.readies core slot).map fun (_, m, x) => if x.pipe == .uniform then 0 else s.pk.yielding m)

/-- The threads that the vote is about: where all would yield, none does. -/
def State.voters (s : State) (core slot : Nat) : LaneMask :=
  if s.allReady core slot ≠ 0 && (s.allReady core slot &&& ~~~s.outYielding core slot) = 0 then s.allReady core slot
  else s.allReady core slot &&& ~~~s.outYielding core slot

/-- The winner is the PC of a voter, and its voters issue. -/
theorem State.vote_winner {s : State} {core slot : Nat} {v : Vote} (h : s.vote core slot = some v) :
    v.lanesA = s.pk.threadsAt (s.voters core slot) v.pcA ∧ ∃ l, hasLane (s.voters core slot) l = true ∧ (s.pk.thread l).pc = v.pcA := by
  have hv : s.vote core slot = match (match s.pk.starving (s.voters core slot) with
      | some pc => some pc
      | none => (s.pk.pcs (s.voters core slot)).head?) with
    | none => none
    | some pc => some ⟨pc, s.pk.threadsAt (s.voters core slot) pc, _, s.voters core slot, _⟩ := rfl
  rw [hv] at h
  split at h
  · cases h
  · rename_i pc hpc
    cases h
    refine ⟨rfl, ?_⟩
    split at hpc
    · rename_i hs
      cases hpc
      exact Pack.starving_pc hs
    · exact (Pack.mem_pcs _ _ _).1 (List.mem_of_mem_head? hpc)

/-- A ready thread is ready at its own PC. -/
theorem State.allReady_iff {s : State} {core slot l : Nat} : hasLane (s.allReady core slot) l = true ↔
    (s.pk.thread l).pc ∈ s.pk.pcs s.pk.freeLanes ∧ hasLane (s.readyAt core slot s.pk.freeLanes (s.pk.thread l).pc).1 l = true := by
  unfold State.allReady State.readies
  simp only [hasLane_orMasks, List.mem_map]
  constructor
  · rintro ⟨_, ⟨_, ⟨pc, hpc, rfl⟩, rfl⟩, hl⟩
    obtain ⟨-, rfl⟩ := State.readyAt_sub hl
    exact ⟨hpc, hl⟩
  · rintro ⟨hpc, hl⟩
    exact ⟨_, ⟨_, ⟨_, hpc, rfl⟩, rfl⟩, hl⟩

/-- A thread that yields stands at no pack instruction. -/
theorem State.outYielding_pipe {s : State} {core slot l : Nat} (h : hasLane (s.outYielding core slot) l = true) :
    (s.peek core slot s.pk (s.pk.thread l).pc).pipe ≠ .uniform := by
  unfold State.outYielding State.readies at h
  simp only [hasLane_orMasks, List.mem_map] at h
  obtain ⟨_, ⟨_, ⟨pc, -, rfl⟩, rfl⟩, hl⟩ := h
  intro hu
  dsimp only at hl
  split at hl
  · simp [hasLane] at hl
  · rename_i hn
    have hy : hasLane (s.readyAt core slot s.pk.freeLanes pc).1 l = true := by
      simp only [Pack.yielding, hasLane_maskOf, Bool.and_eq_true] at hl
      exact hl.2.1
    obtain ⟨-, rfl⟩ := State.readyAt_sub hy
    rw [State.readyAt_snd, hu] at hn
    exact hn rfl

/-- Voters are ready threads. -/
theorem State.voters_ready {s : State} {core slot l : Nat} (h : hasLane (s.voters core slot) l = true) :
    hasLane (s.allReady core slot) l = true := by
  unfold State.voters at h
  split at h
  · exact h
  · rw [hasLane_andNot, Bool.and_eq_true] at h
    exact h.1

/-- A ready thread that does not yield is a voter. -/
theorem State.ready_voters {s : State} {core slot l : Nat} (h : hasLane (s.allReady core slot) l = true)
    (hy : hasLane (s.outYielding core slot) l = false) : hasLane (s.voters core slot) l = true := by
  unfold State.voters
  split
  · exact h
  · rw [hasLane_andNot, h, hy]
    rfl

/-- What a vote promises: at least one thread issues; each runs, is not held, and stands at the PC that issues; and a pack instruction
issues with every live thread (R143, R144, R276). -/
structure Vote.Promises (s : State) (core slot : Nat) (v : Vote) : Prop where
  some : v.lanesA ≠ 0
  lane : ∀ l, hasLane v.lanesA l = true →
    (s.pk.thread l).exited = false ∧ (s.pk.thread l).held = false ∧ (s.pk.thread l).pc = v.pcA
  uniform : (s.peek core slot s.pk v.pcA).pipe = .uniform → v.lanesA = s.pk.live

theorem State.vote_promises {s : State} {core slot : Nat} {v : Vote} (h : s.vote core slot = some v) : v.Promises s core slot := by
  obtain ⟨hlanes, l0, hl0, hpc0⟩ := State.vote_winner h
  have hat : ∀ l, hasLane v.lanesA l = true ↔ hasLane (s.voters core slot) l = true ∧ (s.pk.thread l).pc = v.pcA := fun l => by
    rw [hlanes]
    simp
  refine ⟨fun h0 => ?_, fun l hl => ?_, fun hu => LaneMask.ext_lanes fun l hl => ?_⟩
  · have := (hat l0).2 ⟨hl0, hpc0⟩
    rw [h0] at this
    simp [hasLane] at this
  · obtain ⟨hv, hpc⟩ := (hat l).1 hl
    obtain ⟨-, hr⟩ := State.allReady_iff.1 (State.voters_ready hv)
    obtain ⟨hfree, -⟩ := State.readyAt_sub hr
    simp only [Pack.freeLanes, hasLane_maskOf, Bool.and_eq_true, Bool.not_eq_true'] at hfree
    exact ⟨hfree.2.1, hfree.2.2, hpc⟩
  · -- The winner's threads are ready there, so all live threads are; none of them yields.
    obtain ⟨hmem, hr0⟩ := State.allReady_iff.1 (State.voters_ready hl0)
    rw [hpc0] at hmem hr0
    have hlive := State.readyAt_uniform hu (fun h0 => by rw [h0] at hr0; simp [hasLane] at hr0)
    rw [Bool.eq_iff_iff, hat]
    constructor
    · rintro ⟨hv, hpc⟩
      obtain ⟨-, hr⟩ := State.allReady_iff.1 (State.voters_ready hv)
      rwa [hpc, hlive] at hr
    · intro hl
      have hr := hl
      rw [← hlive] at hr
      obtain ⟨-, hpc⟩ := State.readyAt_sub hr
      refine ⟨State.ready_voters (State.allReady_iff.2 (by rw [hpc]; exact ⟨hmem, hr⟩)) ?_, hpc⟩
      rw [Bool.eq_false_iff]
      intro hy
      exact State.outYielding_pipe hy (by rw [hpc]; exact hu)

/-! The choice of a pack. -/

theorem bestCand_mem {key : Cand → Nat} {last : Nat} {cs : List Cand} : ∀ {k : Cand}, bestCand key last cs = some k → k ∈ cs := by
  induction cs with
  | nil => exact nofun
  | cons c cs ih =>
    intro k h
    unfold bestCand at h
    split at h
    · cases h
      exact .head _
    · rename_i d hd
      cases h
      split
      · exact .tail _ (ih hd)
      · exact .head _

/-- A candidate is a pack of the unit that may issue, with its vote. -/
theorem State.mem_candidates {s : State} {c u : Nat} {k : Cand} (h : k ∈ s.candidates c u) :
    k.slot / 12 = u ∧ s.voteOf c k.slot = some k.vote := by
  unfold State.candidates at h
  obtain ⟨⟨sl, p⟩, -, hk⟩ := List.mem_filterMap.1 h
  dsimp only at hk
  split at hk
  · rename_i hu
    split at hk
    · rename_i v hv
      cases hk
      exact ⟨hu, hv⟩
    · cases hk
  · cases hk

theorem State.nextSlot_mem {s : State} {l : List (Nat × Nat)} {c u : Nat} {cs : List Cand} {k : Cand}
    (h : s.nextSlot l = some (c, u, cs, k)) : k ∈ s.candidates c u := by
  induction l with
  | nil => cases h
  | cons x l ih =>
    obtain ⟨c', u'⟩ := x
    unfold State.nextSlot at h
    dsimp only at h
    split at h
    · rename_i hk
      cases h
      exact bestCand_mem hk
    · exact ih h

/-- Where port A has its turn, the pack may issue and its vote stands. -/
theorem State.portA_vote {s : State} {c u : Nat} {cs : List Cand} {k : Cand} (h : s.turn = .portA c u cs k) :
    ∃ p, s.packAt c k.slot = some p ∧ k.slot / 12 = u ∧ s.mayIssue p = true ∧
      k.vote.Promises { s with site := some (c, k.slot), pk := p } c k.slot := by
  obtain ⟨hu, hv⟩ := State.mem_candidates (State.nextSlot_mem (State.turn_portA h))
  unfold State.voteOf at hv
  split at hv
  · rename_i p hp
    split at hv
    · rename_i hm
      exact ⟨p, hp, hu, hm, State.vote_promises hv⟩
    · cases hv
  · cases hv

end Sys2Proof.Machine
end

section
/-! O55 (spec/10_encoding.md R202, R320, spec/07_queues.md R143, R144). -/
namespace Sys2Proof.Machine

open Sys2Proof.Claims

/-! Fetch. -/

/-- A translation that the core holds, and that allows the access, is used as it is (R159). -/
theorem State.translate_cached {s : State} {core part va : Nat} {priv : Priv} {ask : Acc} {use : PageUse} {x : Trans}
    (hx : (s.core core).tlb.find? (·.hits part (va / 65536)) = some x) (hm : x.misused use = false) (ha : x.allows ask priv = true) :
    s.translate core part priv ask use va = (s, .ok x) := by
  unfold State.translate
  dsimp only
  rw [hx]
  simp only [hm, ha, Bool.false_eq_true, if_false, if_true]

/-- A sound block has nothing uncorrectable where no error mark is set. -/
theorem State.uncorrectable_clean {s : State} (hc : Clean s) {a : Nat} (hs : s.blockCode a ≠ 3) (n : Nat) :
    s.uncorrectable a n = false := by
  obtain ⟨hb, -, -, -, hm2⟩ := hc
  have hk : s.mapBroken a = false := by
    unfold State.mapBroken
    rw [hm2]
    rfl
  simpa [State.uncorrectable, hb, hk] using hs

/-- A read on behalf of a core where no replica lags answers the bytes of a sound block. -/
theorem State.homeLoad_held {s : State} (hc : Clean s) (hlag : s.home.replicaLag = []) (core : Nat) {pa : Nat} (attr n : Nat)
    (hs : s.blockCode pa ≠ 3) : (s.homeLoad core pa attr n).1 = heldBytes s pa n := by
  obtain ⟨hbytes, -⟩ := State.sliceRead_held hc (s.mirrored core pa attr) n hs
  have hl : (s.sliceRead (s.mirrored core pa attr) pa n).2.2.home.replicaLag.isEmpty = true := by
    rw [(s.sliceRead_accessFrame _ _ _).lag, hlag]
    rfl
  unfold State.homeLoad
  dsimp only
  rw [hl, Bool.not_true, Bool.and_false, if_neg Bool.false_ne_true, hbytes]

/-- A line of the instruction cache is looked up by its key. -/
theorem findLine_eq (ic : List (Nat × CodeLine)) (key : Nat) : findLine ic key = tabFind ic key := by
  induction ic with
  | nil => rfl
  | cons x ic ih =>
    obtain ⟨j, ln⟩ := x
    unfold findLine at ih ⊢
    rw [tabFind_cons, List.find?_cons]
    by_cases h : j = key
    · simp [h]
    · simpa [h] using ih

/-- Where no loop buffer is filled and no line of the block is held, no parity error drops anything. -/
theorem State.dropOddCode_none {s : State} {core part pc : Nat} (slot : Nat) (hl : (s.core core).loops = [])
    (hi : tabFind (s.core core).icache (lineKey part pc) = none) : s.dropOddCode core slot part pc = s := by
  have hf : (s.core core).icache.filter (fun x => x.1 = lineKey part pc && x.2.odd.contains (pc % 128 / 16)) = [] := by
    rw [List.filter_eq_nil_iff]
    intro x hx hh
    simp only [Bool.and_eq_true, decide_eq_true_eq] at hh
    rw [← findLine_eq, findLine, Option.map_eq_none_iff, List.find?_eq_none] at hi
    exact hi x hx (decide_eq_true hh.1)
  unfold State.dropOddCode
  dsimp only
  rw [hf, hl]
  rfl

/-- The word at an address of its block's bytes. -/
theorem wordsOfBytes_block (s : State) {pa : Nat} (h : pa % 4 = 0) :
    (wordsOfBytes (heldBytes s (pa / 128 * 128) 128)).getD (pa % 128 / 4) 0 = BitVec.ofNat 32 (numberAt s.memByte pa 4) := by
  have hk : pa % 128 / 4 < 32 := by omega
  have hpa : pa / 128 * 128 + 4 * (pa % 128 / 4) = pa := by omega
  rw [wordsOfBytes_held s 32, List.getD_eq_getElem?_getD, List.getElem?_map, List.getElem?_range hk]
  simp only [Option.map_some, Option.getD_some, hpa]

/-- A fetch that misses the caches answers the word in memory (R85). -/
theorem State.fetchMiss_held {s : State} {core part pc : Nat} {priv : Priv} {x : Trans} (hc : Clean s) (hlag : s.home.replicaLag = [])
    (h4 : pc % 4 = 0) (hx : (s.core core).tlb.find? (·.hits part (pc / 65536)) = some x) (hm : x.misused .flat = false)
    (ha : x.allows .fetch priv = true) (hk : s.paKind (x.pa pc) = .hbm) (hs : s.blockCode (x.pa pc) ≠ 3) :
    (s.fetchMiss core part priv pc).2 = .word (BitVec.ofNat 32 (numberAt s.memByte (x.pa pc) 4)) := by
  have hmod : x.pa pc % 128 = pc % 128 := by
    unfold Trans.pa
    omega
  have hcode : s.blockCode (x.pa pc / 128 * 128) ≠ 3 := by
    have hsame := sameBlock.1 (show x.pa pc / 128 * 128 / 128 = x.pa pc / 128 by omega)
    rw [State.blockCode_eq] at hs ⊢
    rwa [hsame.1, hsame.2]
  have hu : s.uncorrectable (x.pa pc / 128 * 128) 128 = false := State.uncorrectable_clean hc hcode 128
  have hload := State.homeLoad_held hc hlag core x.attr 128 hcode
  have hword := wordsOfBytes_block s (pa := x.pa pc) (by unfold Trans.pa; omega)
  unfold State.fetchMiss
  rw [State.translate_cached hx hm ha]
  dsimp only
  rw [hk, if_neg (by decide), if_neg (by rw [hu]; decide), hload, ← hmod, hword]

/-- A word that no cache or loop buffer holds is fetched from memory (R320). -/
theorem State.fetchWord_held {s : State} {slot va : Nat} (hc : Clean s) (hlag : s.home.replicaLag = []) (h4 : va % 4 = 0)
    (hr : Reaches s .fetch .flat va (heldPa s va)) (hl : (s.core s.here).loops = [])
    (hi : tabFind (s.core s.here).icache (lineKey s.pk.part va) = none) :
    (s.fetchWord s.here slot s.pk.part s.pk.priv true va).2 = .word (BitVec.ofNat 32 (numberAt s.memByte (heldPa s va) 4)) := by
  obtain ⟨x, hx, hm, ha, hk, hs, -⟩ := hr
  have hpa : heldPa s va = x.pa va := by
    unfold heldPa
    rw [hx]
    rfl
  rw [hpa] at hk hs ⊢
  have hmiss := State.fetchMiss_held hc hlag h4 hx hm ha hk hs
  unfold State.fetchWord
  rw [State.dropOddCode_none slot hl hi]
  dsimp only
  rw [hl, findLine_eq, hi]
  exact hmiss

end Sys2Proof.Machine

namespace Sys2Proof.Claims

open Sys2Proof.Machine

/-- Settles O55: the turn of a pack is `runAt`, which runs what the words decode to; the vote's promises are those of port A. -/
theorem stepRunsDecoded : Obligations.StepRunsDecoded := by
  refine ⟨fun s c u cs k hturn q w0 w1 i => ?_, fun s r c slot pc m hturn hload hm q w0 w1 i => ?_,
    fun s slot va hc hlag h4 hr hl hi => State.fetchWord_held hc hlag h4 hr hl hi, fun s c u cs k hturn => ?_⟩
  · intro now b outcome hf hd hh
    refine step_turn ?_ hh
    rw [hturn]
    exact runAt_decoded hf hd
  · intro now b outcome hf hd hh
    refine step_turn ?_ hh
    rw [hturn, act_portB hload hm]
    exact runAt_decoded hf hd
  · obtain ⟨p, hp, hu, hmay, hsome, hlane, huni⟩ := State.portA_vote hturn
    refine ⟨p, hp, hu, hmay, hsome, hlane, fun hw => huni ?_, fun i hw hpipe => huni ?_⟩
    · rw [show State.peek { s with site := some (c, k.slot), pk := p } c k.slot p k.vote.pcA = _ from hw]
      rfl
    · rw [show State.peek { s with site := some (c, k.slot), pk := p } c k.slot p k.vote.pcA = _ from hw]
      exact hpipe

end Sys2Proof.Claims
end

section
/-! SUPPORT for O46. Training of the stacks (spec/04_memories.md R94): which lanes find spares, stack by stack and channel by channel, and
what training leaves alone. -/
namespace Sys2Proof.Machine

/-- What training may change: the MP's values and marks of training, its notifications, and time stamps. -/
def State.TrainFrame (s t : State) : Prop :=
  t = { s with
    stamps := t.stamps
    mp := { s.mp with
      training := t.mp.training, enabled := t.mp.enabled, trained := t.mp.trained, flash := t.mp.flash, delays := t.mp.delays
      spares := t.mp.spares, ring := t.mp.ring, nhead := t.mp.nhead, nstore := t.mp.nstore, nlost := t.mp.nlost
      nseq := t.mp.nseq, msix := t.mp.msix } }

theorem State.TrainFrame.refl (s : State) : s.TrainFrame s := rfl

theorem State.TrainFrame.trans {s t u : State} (h : s.TrainFrame t) (k : t.TrainFrame u) : s.TrainFrame u := by
  unfold State.TrainFrame at *
  refine k.trans ?_
  rw [h]

/-! Repair of lanes. -/

/-- Between `s` and `t` lanes of stack `st` have been repaired, in the channels of `C` at most, all of them exactly where `P` holds. -/
structure State.Repaired (st : Nat) (C : Nat → Prop) (P : Prop) (s t : State) : Prop where
  enabled : t.mp.enabled = true ↔ s.mp.enabled = true ∧ P
  trained : tabFind t.mp.trained st = some true ↔ tabFind s.mp.trained st = some true ∧ P
  other : ∀ k, k ≠ st → tabFind t.mp.trained k = tabFind s.mp.trained k
  spares : ∀ c, ¬C c → tabGet 0 t.mp.spares c = tabGet 0 s.mp.spares c
  training : t.mp.training = s.mp.training
  flash : t.mp.flash = s.mp.flash
  delays : t.mp.delays = s.mp.delays
  frame : s.TrainFrame t

open State (Repaired)

theorem State.Repaired.refl (st : Nat) (C : Nat → Prop) (s : State) : Repaired st C True s s :=
  ⟨by simp, by simp, fun _ _ => rfl, fun _ _ => rfl, rfl, rfl, rfl, .refl s⟩

theorem State.Repaired.trans {st : Nat} {C : Nat → Prop} {P Q : Prop} {s t u : State} (h : Repaired st C P s t)
    (k : Repaired st C Q t u) : Repaired st C (P ∧ Q) s u :=
  ⟨by rw [k.enabled, h.enabled, and_assoc], by rw [k.trained, h.trained, and_assoc], fun x hx => (k.other x hx).trans (h.other x hx),
    fun c hc => (k.spares c hc).trans (h.spares c hc), k.training.trans h.training, k.flash.trans h.flash, k.delays.trans h.delays,
    h.frame.trans k.frame⟩

theorem State.Repaired.mono {st : Nat} {C D : Nat → Prop} {P Q : Prop} {s t : State} (h : Repaired st C P s t) (hC : ∀ c, C c → D c)
    (hP : P ↔ Q) : Repaired st D Q s t :=
  ⟨by rw [h.enabled, hP], by rw [h.trained, hP], h.other, fun c hc => h.spares c fun hk => hc (hC c hk), h.training, h.flash, h.delays,
    h.frame⟩

/-- Spare lanes of a channel in use. -/
def State.sparesUsed (s : State) (c : Nat) : Nat := tabGet 0 s.mp.spares c

/-- The lanes of a pseudo-channel take the spares that are left in its channel; all find one where there are enough. -/
theorem State.repairLanes_repaired (s : State) (st x bad : Nat) :
    Repaired st (· = 32 * st + x / 2) (bad ≤ Config.spareLanes - s.sparesUsed (32 * st + x / 2)) s (s.repairLanes st x bad) ∧
      (s.repairLanes st x bad).sparesUsed (32 * st + x / 2) =
        s.sparesUsed (32 * st + x / 2) + min bad (Config.spareLanes - s.sparesUsed (32 * st + x / 2)) := by
  obtain ⟨c, hc⟩ : ∃ c, c = 32 * st + x / 2 := ⟨_, rfl⟩
  obtain ⟨new, hnew⟩ : ∃ new, new = min bad (Config.spareLanes - s.sparesUsed c) := ⟨_, rfl⟩
  obtain ⟨u, hu⟩ : ∃ u : State, u = if new = 0 then s else
    { s with mp := { s.mp with spares := tabPut s.mp.spares c (s.sparesUsed c + new) } } := ⟨_, rfl⟩
  -- The spares are taken first.
  have took : Repaired st (· = c) True s u ∧ u.sparesUsed c = s.sparesUsed c + new := by
    rw [hu]
    split
    · rename_i h0
      rw [h0]
      exact ⟨.refl st _ s, rfl⟩
    · refine ⟨⟨by simp, by simp, fun _ _ => rfl, fun k hk => ?_, rfl, rfl, rfl, rfl⟩, ?_⟩
      · simp [tabGet, tabFind_tabPut, Ne.symm hk]
      · simp [State.sparesUsed, tabGet, tabFind_tabPut]
  obtain ⟨took, used⟩ := took
  have hrep : s.repairLanes st x bad = if bad = new then u else
      let v := u.notify 0x81 0 (bytesOfNat 1 st ++ bytesOfNat 1 (x / 2) ++ bytesOfNat 1 (x % 2) ++ bytesOfNat 1 0 ++
        bytesOfNat 4 (bad - new) ++ bytesOfNat 32 0)
      { v with mp := { v.mp with enabled := false, trained := tabPut v.mp.trained st false } } := by
    rw [hu, hnew, hc]
    rfl
  rw [← hc, ← hnew, hrep]
  split
  · rename_i hb
    exact ⟨took.mono (fun _ h => h) (by simp; omega), used⟩
  · rename_i hb
    have hfail : ¬bad ≤ Config.spareLanes - s.sparesUsed c := by omega
    rw [State.notify_outside]
    refine ⟨⟨by simp [hfail], by simp [tabFind_tabPut, hfail], fun k hk => ?_, fun k hk => took.spares k hk, took.training, took.flash,
      took.delays, took.frame.trans rfl⟩, used⟩
    simpa [tabFind_tabPut, Ne.symm hk] using took.other k hk

/-- Whether all lanes that cannot be trained in a channel, of its two pseudo-channels together, find spares there. -/
def State.channelFits (s : State) (st : Nat) (bad : Nat → Nat) (k : Nat) : Prop :=
  bad (2 * k) + bad (2 * k + 1) = 0 ∨ s.sparesUsed (32 * st + k) + (bad (2 * k) + bad (2 * k + 1)) ≤ Config.spareLanes

/-- The two pseudo-channels of a channel. -/
theorem State.repairChannel_repaired (s : State) (st k : Nat) (bad : Nat → Nat) :
    Repaired st (· = 32 * st + k) (s.channelFits st bad k) s
      ((s.repairLanes st (2 * k) (bad (2 * k))).repairLanes st (2 * k + 1) (bad (2 * k + 1))) := by
  obtain ⟨h1, used⟩ := s.repairLanes_repaired st (2 * k) (bad (2 * k))
  obtain ⟨h2, -⟩ := (s.repairLanes st (2 * k) (bad (2 * k))).repairLanes_repaired st (2 * k + 1) (bad (2 * k + 1))
  rw [show 2 * k / 2 = k by omega] at h1 used
  rw [show (2 * k + 1) / 2 = k by omega, used] at h2
  refine (h1.trans h2).mono (fun _ h => h) ?_
  unfold State.channelFits
  omega

theorem foldl_range_pairs {α : Type} (f : α → Nat → α) (n : Nat) (a : α) :
    (List.range (2 * n)).foldl f a = (List.range n).foldl (fun a k => f (f a (2 * k)) (2 * k + 1)) a := by
  induction n with
  | zero => rfl
  | succ n ih => rw [show 2 * (n + 1) = 2 * n + 1 + 1 by omega, List.range_succ, List.range_succ, List.range_succ, List.foldl_append,
      List.foldl_append, List.foldl_append, ih]; rfl

/-- All lanes of a stack: the channels have spares of their own, so each fits or not as it stood before. -/
theorem State.repairStack_repaired (s : State) (st : Nat) (bad : Nat → Nat) (n : Nat) :
    Repaired st (fun c => 32 * st ≤ c ∧ c < 32 * st + n) (∀ k, k < n → s.channelFits st bad k) s
      ((List.range (2 * n)).foldl (fun s x => s.repairLanes st x (bad x)) s) := by
  rw [foldl_range_pairs]
  induction n with
  | zero => exact (Repaired.refl st _ s).mono (fun _ h => h) (by simp)
  | succ n ih =>
    rw [List.range_succ, List.foldl_append]
    refine ((ih.mono (D := fun c => 32 * st ≤ c ∧ c < 32 * st + (n + 1)) (fun c hc => by omega) .rfl).trans
      ((State.repairChannel_repaired _ st n bad).mono (fun c hc => by omega) .rfl)).mono (fun _ h => h) ?_
    have hfit : State.channelFits ((List.range n).foldl (fun a k => (a.repairLanes st (2 * k) (bad (2 * k))).repairLanes st (2 * k + 1)
        (bad (2 * k + 1))) s) st bad n ↔ s.channelFits st bad n := by
      unfold State.channelFits State.sparesUsed
      rw [ih.spares _ (by omega)]
    rw [hfit]
    constructor
    · rintro ⟨hlow, hn⟩ k hk
      rcases Nat.lt_succ_iff_lt_or_eq.1 hk with h | rfl
      · exact hlow k h
      · exact hn
    · exact fun h => ⟨fun k hk => h k (by omega), h n (by omega)⟩

/-! Training. -/

/-- Lanes of a pseudo-channel that cannot be trained: in a full training any, else only of those that fail verification. -/
def lanesLost (full : Bool) (n st x : Nat) : Nat :=
  if full then Config.untrainedLanes n st x else min (Config.untrainedLanes n st x) (Config.failedLanes n st x)

/-- The values that training of a stack leaves, where the flash holds `old` for it. -/
def trainedValues (full : Bool) (n st : Nat) (old : Option Word) : Option Word :=
  if full then some (Config.laneValues n st)
  else old.map fun v => if (List.range 64).all fun x => Config.failedLanes n st x = 0 then v else Config.retrainedValues n st v

/-- Between `s` and `t` stack `st` has been trained. -/
structure State.Trained (full : Bool) (n st : Nat) (s t : State) : Prop where
  enabled : t.mp.enabled = true ↔ s.mp.enabled = true ∧ ∀ k, k < 32 → s.channelFits st (lanesLost full n st) k
  trained : tabFind t.mp.trained st = some true ↔ ∀ k, k < 32 → s.channelFits st (lanesLost full n st) k
  delays : tabFind t.mp.delays st = trainedValues full n st (tabFind s.mp.flash (Config.stackSerial st))
  otherTrained : ∀ k, k ≠ st → tabFind t.mp.trained k = tabFind s.mp.trained k
  otherDelays : ∀ k, k ≠ st → tabFind t.mp.delays k = tabFind s.mp.delays k
  spares : ∀ c, c / 32 ≠ st → t.sparesUsed c = s.sparesUsed c
  training : t.mp.training = s.mp.training
  flash : full = false → t.mp.flash = s.mp.flash
  frame : s.TrainFrame t

/-- What training of a stack starts with: its values, the flash entry a full training stores, and the mark that it is trained. -/
def State.withValues (s : State) (full : Bool) (st : Nat) (v : Word) : State := { s with mp := { s.mp with
  flash := if full then tabPut s.mp.flash (Config.stackSerial st) v else s.mp.flash
  delays := tabPut s.mp.delays st v, trained := tabPut s.mp.trained st true } }

/-- Training is its values, then the repair of the lanes that are lost. -/
theorem State.trainStack_eq {full : Bool} (n : Nat) {s : State} {st : Nat}
    (h : full = false → tabFind s.mp.flash (Config.stackSerial st) ≠ none) :
    ∃ v, trainedValues full n st (tabFind s.mp.flash (Config.stackSerial st)) = some v ∧
      s.trainStack full n st = (List.range (2 * 32)).foldl (fun s x => s.repairLanes st x (lanesLost full n st x)) (s.withValues full st v) := by
  unfold trainedValues State.trainStack
  dsimp only
  cases full with
  | true =>
    refine ⟨_, rfl, ?_⟩
    cases tabFind s.mp.flash (Config.stackSerial st) <;> rfl
  | false =>
    obtain ⟨w, hw⟩ := Option.ne_none_iff_exists'.1 (h rfl)
    have hany : ((List.range 64).any fun x => Config.failedLanes n st x ≠ 0) = !(List.range 64).all fun x => Config.failedLanes n st x = 0 := by
      simp [List.all_eq_not_any_not]
    rw [hw, hany]
    refine ⟨_, rfl, ?_⟩
    cases (List.range 64).all fun x => decide (Config.failedLanes n st x = 0) <;> rfl

/-- A stack is trained in full, or restored from its entry of the flash (R94). -/
theorem State.trainStack_trained {full : Bool} (n : Nat) {s : State} {st : Nat}
    (h : full = false → tabFind s.mp.flash (Config.stackSerial st) ≠ none) : State.Trained full n st s (s.trainStack full n st) := by
  obtain ⟨v, hv, htrain⟩ := State.trainStack_eq n h
  let u := s.withValues full st v
  have hrep := u.repairStack_repaired st (lanesLost full n st) 32
  rw [← htrain] at hrep
  refine ⟨hrep.enabled, hrep.trained.trans ?_, ?_, fun k hk => ?_, fun k hk => ?_, fun c hc => hrep.spares c (by omega), hrep.training,
    fun hf => ?_, .trans (t := u) rfl hrep.frame⟩
  · simp [u, State.withValues, tabFind_tabPut, State.channelFits, State.sparesUsed]
  · rw [hrep.delays, hv]
    simp [u, State.withValues, tabFind_tabPut]
  · rw [hrep.other k hk]
    simp [u, State.withValues, tabFind_tabPut, Ne.symm hk]
  · rw [hrep.delays]
    simp [u, State.withValues, tabFind_tabPut, Ne.symm hk]
  · rw [hrep.flash]
    simp [u, State.withValues, hf]

/-- Whether all lanes of a stack that are lost find spares. -/
def State.stackFits (s : State) (full : Bool) (n st : Nat) : Prop := ∀ k, k < 32 → s.channelFits st (lanesLost full n st) k

/-- Between `s` and `t` the first `m` stacks have been trained. -/
structure State.TrainedUpTo (full : Bool) (n m : Nat) (s t : State) : Prop where
  enabled : t.mp.enabled = true ↔ s.mp.enabled = true ∧ ∀ st, st < m → s.stackFits full n st
  trained : ∀ st, st < m → (tabFind t.mp.trained st = some true ↔ s.stackFits full n st)
  delays : ∀ st, st < m → tabFind t.mp.delays st = trainedValues full n st (tabFind s.mp.flash (Config.stackSerial st))
  spares : ∀ c, m ≤ c / 32 → t.sparesUsed c = s.sparesUsed c
  training : t.mp.training = s.mp.training
  flash : full = false → t.mp.flash = s.mp.flash
  frame : s.TrainFrame t

/-- One more stack: its spares and, where it is restored, its entry of the flash are as they were before the others were trained. -/
theorem State.TrainedUpTo.succ {full : Bool} {n m : Nat} {s t u : State} (h : State.TrainedUpTo full n m s t)
    (k : State.Trained full n m t u) : State.TrainedUpTo full n (m + 1) s u := by
  have hfits : t.stackFits full n m ↔ s.stackFits full n m := by
    refine forall₂_congr fun c hc => ?_
    unfold State.channelFits
    rw [h.spares _ (by omega)]
  have hvalues : trainedValues full n m (tabFind t.mp.flash (Config.stackSerial m)) =
      trainedValues full n m (tabFind s.mp.flash (Config.stackSerial m)) := by
    cases full with
    | true => rfl
    | false => rw [h.flash rfl]
  have last : ∀ {P : Nat → Prop}, (∀ st, st < m → P st) → P m → ∀ st, st < m + 1 → P st := fun hP hm st hst => by
    rcases Nat.lt_succ_iff_lt_or_eq.1 hst with hlt | rfl
    · exact hP st hlt
    · exact hm
  refine ⟨?_, last (fun st hst => ?_) (k.trained.trans hfits), last (fun st hst => ?_) (k.delays.trans hvalues),
    fun c hc => (k.spares c (by omega)).trans (h.spares c (by omega)), k.training.trans h.training,
    fun hf => (k.flash hf).trans (h.flash hf), h.frame.trans k.frame⟩
  · refine k.enabled.trans ?_
    rw [h.enabled, and_assoc]
    refine and_congr_right fun _ => ⟨fun ⟨hlow, hm⟩ => last hlow (hfits.1 hm), fun hall => ⟨fun st hst => hall st (by omega), ?_⟩⟩
    exact hfits.2 (hall m (by omega))
  · rw [k.otherTrained st (by omega)]
    exact h.trained st hst
  · rw [k.otherDelays st (by omega)]
    exact h.delays st hst

theorem State.trainStacks {full : Bool} (n : Nat) {s : State} (m : Nat)
    (h : full = false → ∀ st, st < m → tabFind s.mp.flash (Config.stackSerial st) ≠ none) :
    State.TrainedUpTo full n m s ((List.range m).foldl (State.trainStack full n) s) := by
  induction m with
  | zero => exact ⟨by simp, nofun, nofun, fun _ _ => rfl, rfl, fun _ => rfl, .refl s⟩
  | succ m ih =>
    rw [List.range_succ, List.foldl_append]
    have hm := ih fun hf st hst => h hf st (by omega)
    refine hm.succ (State.trainStack_trained n fun hf => ?_)
    rw [hm.flash hf]
    exact h hf m (by omega)

end Sys2Proof.Machine

namespace Sys2Proof.Claims

open Sys2Proof.Machine

/-- Training of every stack (R94). -/
theorem train_retrained {full : Bool} {s : State}
    (h : full = false → ∀ st, st < 8 → tabFind s.mp.flash (Config.stackSerial st) ≠ none) : Retrained full s (s.train full) := by
  let u : State := { s with mp := { s.mp with training := s.mp.training + 1, enabled := true } }
  have hu : State.TrainedUpTo full (s.mp.training + 1) 8 u (s.train full) := State.trainStacks _ 8 h
  have hframe : s.TrainFrame (s.train full) := .trans (t := u) rfl hu.frame
  refine ⟨?_, hu.trained, hu.delays, ?_⟩
  · exact hu.enabled.trans ⟨fun hh => hh.2, fun hh => ⟨rfl, hh⟩⟩
  · unfold State.TrainFrame at hframe
    rw [hu.training] at hframe
    exact hframe

/-! Patrol (R96, R97). -/

/-- Errors of one class, logged one after the other, are counted, and change no byte and no mark. -/
theorem logSyndromes_counted (cls src part : Nat) (us : List Nat) : ∀ s : State,
    let t := us.foldl (fun s u => s.syndrome.2.logEvent cls src part (u * 32) s.syndrome.1) s
    t.mem = s.mem ∧ t.home = s.home ∧ ∀ c, tabGet 0 t.mp.counters c = tabGet 0 s.mp.counters c + if c = cls then us.length else 0 := by
  induction us with
  | nil => exact fun s => ⟨rfl, rfl, fun c => by simp⟩
  | cons u us ih =>
    intro s
    obtain ⟨hmem, hhome, hcount⟩ := ih (s.syndrome.2.logEvent cls src part (u * 32) s.syndrome.1)
    refine ⟨hmem, hhome, fun c => (hcount c).trans ?_⟩
    have hone := (logEvent_logged s.syndrome.2 cls src part (u * 32) s.syndrome.1).count c
    rw [hone, show s.syndrome.2.mp = s.mp from rfl, List.length_cons]
    split <;> omega

/-- The units of a 256-byte block. -/
theorem mem_blockUnits (b u : Nat) : u ∈ (List.range 8).map (b * 8 + ·) ↔ u / 8 = b := by
  simp only [List.mem_map, List.mem_range]
  constructor
  · rintro ⟨k, hk, rfl⟩
    omega
  · intro h
    exact ⟨u - b * 8, by omega, by omega⟩

theorem patrol_corrects {s : State} (hi : Idle s) {a : Nat} (hk : s.paKind (a / 256 * 256) = .hbm) :
    ∃ t, exec (.patrol (s.slice (a / 256 * 256)) a) s = .next t ∧ t.mem = s.mem ∧ t.home.bad = s.home.bad ∧
      (∀ u, u ∈ t.home.soft ↔ u ∈ s.home.soft ∧ ¬u / 8 = a / 256) ∧
      tabGet 0 t.mp.counters 0 = tabGet 0 s.mp.counters 0 + (List.range 8).countP (fun k => s.home.soft.contains (a / 256 * 8 + k)) ∧
      tabGet 0 t.mp.counters 1 = tabGet 0 s.mp.counters 1 + (List.range 8).countP (fun k => s.home.bad.contains (a / 256 * 8 + k)) := by
  let us := (List.range 8).map (a / 256 * 8 + ·)
  let log := fun (cls : Nat) (l : List Nat) (s0 : State) => l.foldl (fun v u => v.syndrome.2.logEvent cls (s.slice (a / 256 * 256))
    (s.groupOwner (groupOf (s.sel (a / 256 * 256)))) (u * 32) v.syndrome.1) s0
  have hcount : ∀ marks : List Nat, (us.filter fun u => marks.contains u).length =
      (List.range 8).countP fun k => marks.contains (a / 256 * 8 + k) := fun marks => by
    rw [← List.countP_eq_length_filter, List.countP_map]
    rfl
  obtain ⟨hmem1, hhome1, hcount1⟩ := logSyndromes_counted 0 (s.slice (a / 256 * 256)) (s.groupOwner (groupOf (s.sel (a / 256 * 256))))
    (us.filter fun u => s.home.soft.contains u) s
  let v := log 0 (us.filter fun u => s.home.soft.contains u) s
  obtain ⟨hmem2, hhome2, hcount2⟩ := logSyndromes_counted 1 (s.slice (a / 256 * 256)) (s.groupOwner (groupOf (s.sel (a / 256 * 256))))
    (us.filter fun u => v.home.bad.contains u) v
  let w := log 1 (us.filter fun u => v.home.bad.contains u) v
  have hvh : v.home = s.home := hhome1
  have hwh : w.home = s.home := hhome2.trans hhome1
  refine ⟨{ w with home := { w.home with soft := w.home.soft.filter fun u => !us.contains u } }, (event_idle _ hi).trans ?_,
    hmem2.trans hmem1, by rw [← hwh], fun u => ?_, ?_, ?_⟩
  · dsimp only
    rw [if_neg (by simp [hk])]
    have hus : (List.range 8).map (a / 256 * 256 / 32 + ·) = us := by
      simp only [us, show a / 256 * 256 / 32 = a / 256 * 8 by omega]
    rw [hus]
  · simp only [List.mem_filter, Bool.not_eq_true', List.contains_eq_mem, decide_eq_false_iff_not, hwh, us, mem_blockUnits]
  · refine (hcount2 0).trans ?_
    rw [if_neg (by decide), hcount1 0, if_pos rfl, hcount]
    rfl
  · refine (hcount2 1).trans ?_
    rw [if_pos rfl, hcount1 1, if_neg (by decide), hcount, hvh]
    rfl

/-! The other upkeep. -/

/-- A recalibration whose time has come, of the channel whose turn it is, while none pauses (R95). -/
theorem recalibration_pauses {s : State} (hi : Idle s) {k : Nat} (due : k = s.home.recals % 256 ∧ s.home.recals * 1000000 / 256 ≤ s.time ∧
    ∀ x, s.home.paused = some x → x.2 ≤ s.time) :
    exec (.hbmRecalibration k) s =
      .next { s with home := { s.home with paused := some (k, s.time + 200), recals := s.home.recals + 1 } } := by
  obtain ⟨hk, htime, hpause⟩ := due
  have hnow : s.pausedNow = none := by
    unfold State.pausedNow
    cases hp : s.home.paused with
    | none => rfl
    | some x => exact if_neg (Nat.not_lt.2 (hpause x hp))
  refine (event_idle _ hi).trans ?_
  simp [hnow, State.recalTime, hk, Nat.not_lt.2 htime]

/-- Any other does nothing. -/
theorem recalibration_idle {s : State} (hi : Idle s) {k : Nat} (due : ¬(k = s.home.recals % 256 ∧ s.home.recals * 1000000 / 256 ≤ s.time ∧
    ∀ x, s.home.paused = some x → x.2 ≤ s.time)) : exec (.hbmRecalibration k) s = .next s := by
  refine (event_idle _ hi).trans (congrArg _ (if_pos ?_))
  simp only [Bool.or_eq_true, decide_eq_true_eq, State.recalTime]
  by_contra hn
  simp only [not_or] at hn
  obtain ⟨⟨hnow, htime⟩, hk⟩ := hn
  refine due ⟨not_not.1 hk, Nat.le_of_not_lt fun h => htime (decide_eq_true h), fun x hx => ?_⟩
  unfold State.pausedNow at hnow
  rw [hx] at hnow
  by_contra hlt
  exact hnow (by simp [Nat.lt_of_not_le hlt])

/-- A lost port stays lost, and one more is (R29, R201). -/
theorem portLoss_adds {s : State} (hi : Idle s) {port : Nat} (hp : port < 18) :
    ∃ t, exec (.ralvanPortLoss port) s = .next t ∧ t = { s with mp := { s.mp with lostPorts := t.mp.lostPorts } } ∧
      ∀ k, k ∈ t.mp.lostPorts ↔ k ∈ s.mp.lostPorts ∨ k = port := by
  by_cases hin : port ∈ s.mp.lostPorts
  · refine ⟨s, (event_idle _ hi).trans ?_, rfl, fun k => ⟨.inl, ?_⟩⟩
    · simp [hin]
    · rintro (h | rfl)
      · exact h
      · exact hin
  · refine ⟨{ s with mp := { s.mp with lostPorts := insertAsc port s.mp.lostPorts } }, (event_idle _ hi).trans ?_, rfl, fun k => ?_⟩
    · simp [hin, hp]
    · exact (mem_insertAsc port k _).trans or_comm

/-- Settles O46: each event is its effect; what training does is followed stack by stack and channel by channel. -/
theorem upkeepAndBoot : Obligations.UpkeepAndBoot := by
  intro s hi
  refine ⟨fun a hk => patrol_corrects hi hk, fun k _ => ⟨recalibration_pauses hi, recalibration_idle hi⟩, fun src h1 h2 => ?_,
    fun _ => event_idle _ hi, fun port hp => portLoss_adds hi hp, ?_, fun hflash => ?_, event_idle _ hi⟩
  · refine ⟨s.logEvent 10 src 0 0 0, (event_idle _ hi).trans ?_, logEvent_onlyMp _ _ _ _ _ _, logEvent_logged _ _ _ _ _ _⟩
    simp [h1, h2]
  · exact ⟨_, event_idle _ hi, train_retrained nofun⟩
  · exact ⟨_, event_idle _ hi, train_retrained fun _ => hflash⟩

end Sys2Proof.Claims
end

section
/-! SUPPORT. Accesses at the home slices and the L1 on behalf of the pack in the latch (spec/04_memories.md R85-R93): what they leave of
the latch and of the bytes held. -/
namespace Sys2Proof.Machine

open Sys2Proof.Claims
open State (BytesFrame AccessFrame)

/-- An access from `s` to `t` leaves the latch, the node and whether accesses are deferred. -/
structure State.LatchFrame (s t : State) : Prop where
  site : t.site = s.site
  pk : t.pk = s.pk
  defer : t.env.defer = s.env.defer
  node : t.mp.nodeId = s.mp.nodeId

/-- An access from `s` to `t` that also writes no byte. -/
structure State.SilentFrame (s t : State) : Prop extends s.BytesFrame t, s.LatchFrame t

open State (LatchFrame SilentFrame)

theorem State.LatchFrame.trans {s t u : State} (h : s.LatchFrame t) (k : t.LatchFrame u) : s.LatchFrame u :=
  ⟨k.site.trans h.site, k.pk.trans h.pk, k.defer.trans h.defer, k.node.trans h.node⟩

theorem State.LatchFrame.paKind {s t : State} (h : s.LatchFrame t) (a : Nat) : t.paKind a = s.paKind a := by
  unfold State.paKind
  rw [h.node]

theorem State.AccessFrame.latch {s t : State} (h : s.AccessFrame t) : s.LatchFrame t := ⟨h.site, h.pk, h.defer, h.nodeId⟩

namespace State.SilentFrame

theorem refl (s : State) : s.SilentFrame s := ⟨.refl s, rfl, rfl, rfl, rfl⟩

theorem trans {s t u : State} (h : s.SilentFrame t) (k : t.SilentFrame u) : s.SilentFrame u :=
  ⟨h.toBytesFrame.trans k.toBytesFrame, h.toLatchFrame.trans k.toLatchFrame⟩

theorem foldl {α : Type} {f : State → α → State} (h : ∀ (s : State) x, s.SilentFrame (f s x)) (l : List α) :
    ∀ s : State, s.SilentFrame (l.foldl f s) := by
  induction l with
  | nil => exact refl
  | cons x l ih => exact fun s => (h s x).trans (ih _)

/-- The cores, and the replicas, tags and promotions of the slices, hold no byte of memory. -/
theorem caches (s : State) (cores : Tab Core) (lag : Tab Lag) (tags : Tab RelTag) (pr : List Promotion) :
    s.SilentFrame { s with cores := cores, home := { s.home with replicaLag := lag, tags := tags, promoting := pr } } :=
  ⟨⟨rfl, rfl, rfl, rfl, rfl, rfl, rfl⟩, rfl, rfl, rfl, rfl⟩

end State.SilentFrame

theorem State.modCore_silent (s : State) (c : Nat) (f : Core → Core) : s.SilentFrame (s.modCore c f) := .caches s _ _ _ _

theorem State.l1Update_silent (s : State) (core : Nat) (bs : Tab Byte) : s.SilentFrame (s.l1Update core bs) := by
  unfold State.l1Update
  dsimp only
  split
  · exact .refl s
  · exact s.modCore_silent _ _

theorem State.seenBy_silent (s : State) (core a n : Nat) : s.SilentFrame (s.seenBy core a n) := by
  unfold State.seenBy
  dsimp only
  split
  · exact .refl s
  · exact .caches s _ _ _ _

theorem State.tagRelease_silent (s : State) (core key : Nat) (rel scope : Option Scope) :
    s.SilentFrame (s.tagRelease core key rel scope) := by
  unfold State.tagRelease
  split
  · split <;> exact .caches s _ _ _ _
  · split
    · exact .caches s _ _ _ _
    · exact .refl s

theorem State.releaseAt_silent (s : State) (core : Nat) (sc : Option Scope) : s.SilentFrame (s.releaseAt core sc) := by
  rw [releaseAt_rest]
  exact .caches s _ _ _ _

theorem State.asks_silent (s : State) (x : Site) (e : Entry) (a : Machine.Access) (todo : List (Nat × LaneAcc × List (Nat × Nat))) :
    s.SilentFrame (s.asks x e a todo) := by
  unfold State.asks
  split
  · exact .caches s _ _ _ _
  · exact .refl s

/-- An access to this device's memory orders nothing at another (R128). -/
theorem State.orderRemote_local {s : State} {pa : Nat} (h : s.paKind pa = .hbm) (core : Nat) (acq rel : Option Scope) :
    s.orderRemote core pa acq rel = s := by
  unfold State.orderRemote
  rw [h]

theorem State.homeLoad_silent {s : State} (hc : Clean s) (core pa attr n : Nat) : s.SilentFrame (s.homeLoad core pa attr n).2.2 := by
  have ha : State.Access false s (s.homeLoad core pa attr n).2.2 := s.homeLoad_access core pa attr n
  exact ⟨ha.bytes hc, ha.frame.latch⟩

/-! Loads of one lane. -/

/-- A page that is not REPL is read at its home slice (R87). -/
theorem State.mirrored_false {attr : Nat} (s : State) (core pa : Nat) (h : attr % 4 ≠ 1) : s.mirrored core pa attr = false := by
  unfold State.mirrored
  rw [decide_eq_false h]
  rfl

/-- A read at the home slice answers the bytes of a sound block. -/
theorem State.homeLoad_home {s : State} (hc : Clean s) (core : Nat) {pa attr : Nat} (n : Nat) (hr : attr % 4 ≠ 1)
    (hs : s.blockCode pa ≠ 3) : (s.homeLoad core pa attr n).1 = heldBytes s pa n ∧ (s.homeLoad core pa attr n).2.1 = false := by
  have hm := s.mirrored_false core pa hr
  obtain ⟨hbytes, hbad⟩ := State.sliceRead_held hc false n hs
  unfold State.homeLoad
  dsimp only
  rw [hm]
  exact ⟨hbytes, hbad⟩

theorem State.dropOdd_none {s : State} {core : Nat} (h : ∀ b, b ∈ (s.core core).l1 → b.odd = []) (secs : List Nat) :
    s.dropOdd core secs = s := by
  have hz : ((s.core core).l1.map fun ln => (ln.odd.filter fun i => ln.odd.contains i && secs.contains (8 * ln.block + i)).length).sum = 0 := by
    rw [List.sum_eq_zero]
    intro k hk
    obtain ⟨ln, hl, rfl⟩ := List.mem_map.1 hk
    rw [h ln hl]
    rfl
  unfold State.dropOdd
  dsimp only
  rw [if_pos hz]

/-- Bytes within a run of bytes. -/
theorem heldBytes_within (s : State) {a pa n m : Nat} (h1 : a ≤ pa) (h2 : pa + n ≤ a + m) :
    ((heldBytes s a m).drop (pa - a)).take n = heldBytes s pa n := by
  have hsplit : heldBytes s a m = heldBytes s a (pa - a) ++ (heldBytes s pa n ++ heldBytes s (pa + n) (a + m - (pa + n))) := by
    rw [← heldBytes_add, show m = (pa - a) + (n + (a + m - (pa + n))) by omega, heldBytes_add s a (pa - a),
      show a + (pa - a) = pa by omega]
    congr 2
    omega
  have hlen : ∀ b k, (heldBytes s b k).length = k := fun b k => by simp [heldBytes]
  rw [hsplit, List.drop_left' (hlen _ _), List.take_left' (hlen _ _)]

theorem State.blockCode_sector (s : State) (pa : Nat) : s.blockCode (pa / 16 * 16) = s.blockCode pa := by
  have h := sameBlock.1 (show pa / 16 * 16 / 128 = pa / 128 by omega)
  rw [State.blockCode_eq, State.blockCode_eq, h.1, h.2]

/-- The span of a request for bytes of one sector is the sector (R92). -/
theorem requestSpan_sector {o n : Nat} (h0 : 0 < n) (h : o % 16 + n ≤ 16) (ho : o < 128) :
    requestSpan ([o].foldl min 127) ([o].foldl (fun m p => max m (p + n - 1)) 0) = (o / 16 * 16, 16) := by
  have h1 : [o].foldl min 127 = o := by simp only [List.foldl_cons, List.foldl_nil]; omega
  have h2 : [o].foldl (fun m p => max m (p + n - 1)) 0 = o + n - 1 := by simp only [List.foldl_cons, List.foldl_nil]; omega
  rw [h1, h2, requestSpan, if_pos (show o / 16 = (o + n - 1) / 16 by omega)]

/-- A plain load of bytes of one sound sector answers them, from the L1 or from the home slice (R85, R86). -/
theorem State.loadRequest_one {s : State} {core pa at' n : Nat} (hc : Clean s) (hodd : ∀ b, b ∈ (s.core core).l1 → b.odd = [])
    (hcached : ∀ bs, (s.core core).sector (pa / 16) = some bs → bs = s.memBytes (pa / 16 * 16) 16) (hr : at' % 4 ≠ 1)
    (hs : s.blockCode pa ≠ 3) (h0 : 0 < n) (h16 : pa % 16 + n ≤ 16) :
    (s.loadRequest core true n (pa / 128) [(pa, at')]).2 = [(pa, some (heldBytes s pa n))] ∧
      s.SilentFrame (s.loadRequest core true n (pa / 128) [(pa, at')]).1 := by
  have hsec : s.blockCode (pa / 16 * 16) ≠ 3 := by rwa [s.blockCode_sector]
  have hload := State.homeLoad_home hc core 16 hr hsec
  have hframe := State.homeLoad_silent hc core (pa / 16 * 16) at' 16
  have hspan := requestSpan_sector (o := pa % 128) h0 (by omega) (Nat.mod_lt _ (by decide))
  have ha : pa / 128 * 128 + pa % 128 / 16 * 16 = pa / 16 * 16 := by omega
  unfold State.loadRequest
  simp only [if_true, State.dropOdd_none hodd, List.map_cons, List.map_nil, hspan, ha, List.headD_cons, List.all_cons, List.all_nil, Bool.and_true]
  cases hl : s.l1Read core pa n with
  | some v =>
    refine ⟨?_, .refl s⟩
    obtain ⟨bs, hbs, rfl⟩ := Option.map_eq_some_iff.1 hl
    rw [hcached bs hbs, s.memBytes_held]
    have := heldBytes_within s (a := pa / 16 * 16) (pa := pa) (n := n) (m := 16) (by omega) (by omega)
    rw [show pa - pa / 16 * 16 = pa % 16 by omega] at this
    simp only [Option.isSome_some, if_true, this]
  | none =>
    simp only [Option.isSome_none, Bool.false_eq_true, if_false]
    have hfull := hframe.trans (State.modCore_silent _ core fun k => k.fill (pa / 128)
      (((List.range (16 / 16)).filter fun i => !(s.homeLoad core (pa / 16 * 16) at' 16).2.2.uncorrectable (pa / 16 * 16 + 16 * i) 16).map
        fun i => (pa % 128 / 16 * 16 / 16 + i, ((s.homeLoad core (pa / 16 * 16) at' 16).1.drop (16 * i)).take 16)))
    refine ⟨?_, hfull⟩
    rw [if_neg (by rw [State.uncorrectable_clean (hfull.clean hc) (by rwa [hfull.blockCode])]; decide), hload.1,
      heldBytes_within s (by omega) (by omega)]

end Sys2Proof.Machine
end

section
/-! SUPPORT. A pack with one access in flight, of one lane: what the stations of spec/04_memories.md R85 find in its entry, and how the
entry stands once it has been put back. -/
namespace Sys2Proof.Machine

open Sys2Proof.Claims
open State (SilentFrame)

/-! The mask of one lane. -/

theorem hasLane_twoPow {l : Nat} (h : l < 32) (k : Nat) : hasLane (BitVec.twoPow 32 l) k = decide (k = l) := hasLane_single h k

theorem lanesOf_single {m : LaneMask} {l : Nat} (hl : l < 32) (h : ∀ k, hasLane m k = decide (k = l)) : lanesOf m = [l] := by
  unfold lanesOf
  rw [List.filter_congr (q := fun k => k == l) fun k _ => h k, List.filter_beq, List.nodup_range.count, if_pos (List.mem_range.2 hl)]
  rfl

/-! Entries of a pack. -/

/-- Put back, the only entry of a pack stays while a lane is left in it. -/
theorem Pack.putEntry_only {p : Pack} {e e' : Entry} (h : p.replay = [e]) (hid : e'.id = e.id) (hm : e'.mask ≠ 0) :
    p.putEntry e' = { p with replay := [e'] } := by
  unfold Pack.putEntry
  rw [h, if_pos (by simp [hid])]
  simpa [hid, tidyEntries] using hm

/-- The only entry of a pack leaves with its last lane (R189). -/
theorem Pack.putEntry_last {p : Pack} {e e' : Entry} (h : p.replay = [e]) (hid : e'.id = e.id) (hm : e'.mask = 0) :
    p.putEntry e' = { p with replay := [] } := by
  unfold Pack.putEntry
  rw [h, if_pos (by simp [hid])]
  simp [hid, tidyEntries, hm]

/-- An access that stays in flight, no lane of which failed, goes back to its pack's entries. -/
theorem State.conclude_stays {s : State} {a : Machine.Access} (e : Entry) (hd : s.env.defer = true) (ha : a.dst.isSome = true) :
    s.conclude a e [] = { s with pk := s.pk.putEntry e } := by
  have hend : s.endsAtOnce a = false := by
    unfold State.endsAtOnce
    rw [hd, Option.isNone_eq_false_iff.2 ha]
    rfl
  unfold State.conclude
  rw [hend, hd]
  rfl

/-- An access that names no tensor uses no record. -/
theorem State.cachedRec_none {s : State} {x : Site} {e : Entry} {a : Machine.Access} (h : a.space ≠ .tensor) : s.cachedRec x e a = none := by
  unfold State.cachedRec State.entryRec
  split <;> simp_all

/-! The entry in flight. -/

/-- An entry with its one lane in phase `ph`. -/
def Entry.inPhase (e : Entry) (l : Nat) (w : LaneAcc) (ph : Phase) : Entry := { e with lanes := [(l, { w with phase := ph })] }

end Sys2Proof.Machine

namespace Sys2Proof.Claims

open Sys2Proof.Machine

section
variable {p : Pack} {e : Entry} {l : Nat} {w : LaneAcc} {i : Instr} (F : InFlight p e l w i)
include F

theorem InFlight.lane_iff (k : Nat) : hasLane e.mask k = decide (k = l) := by
  rw [F.mask]
  exact hasLane_twoPow F.lane k

theorem InFlight.mask_ne : e.mask ≠ 0 := fun h => by
  have := F.lane_iff l
  rw [h, hasLane_zero, decide_eq_true rfl] at this
  cases this

theorem InFlight.lanesOf : lanesOf e.mask = [l] := lanesOf_single F.lane F.lane_iff

theorem InFlight.phase : lanePhase e l = some w.phase := by
  unfold lanePhase
  rw [F.lane_iff, F.words]
  simp

theorem InFlight.phase_other {k : Nat} (h : k ≠ l) : lanePhase e k = none := by
  unfold lanePhase
  rw [F.lane_iff, decide_eq_false h]
  rfl

theorem InFlight.access : e.access = accessOf i := by
  unfold Entry.access
  rw [F.code]

theorem InFlight.entryAt {s : State} {a : Machine.Access} (hs : s.pk = p) (ha : accessOf i = some a) : s.entryAt e.id = some (e, a) := by
  unfold State.entryAt
  rw [hs, F.only, List.find?_cons_of_pos (by simp)]
  simp [F.access, ha]

/-- Nothing stands before the only access of a pack, which holds its queue entry where it needs one (R114, R137). -/
theorem InFlight.clearBefore {s : State} {a : Machine.Access} (hs : s.pk = p) (hq : a.queued = true → e.queued = e.mask)
    (ps : List (Nat × Nat)) : s.clearBefore e a l ps = true := by
  unfold State.clearBefore
  rw [hs, F.only]
  cases ha : a.queued with
  | false => simp
  | true => simp [hq ha, F.lane_iff]

theorem InFlight.mayPerform {s : State} {a : Machine.Access} (hs : s.pk = p) (hr : s.cachedRec (s.siteOf e) e a = none)
    (hq : a.queued = true → e.queued = e.mask) (ps : List (Nat × Nat)) : s.mayPerform e a l ps = true := by
  have hlow : lowerFirst e (s.entryBytes e a) l ps (fun _ => false) = true := by
    unfold lowerFirst
    rw [F.lanesOf]
    simp
  unfold State.mayPerform
  rw [F.clearBefore hs hq, hlow, hr]
  simp [oneCut]

/-- The request of a load carries its only lane (R92). -/
theorem InFlight.requestLanes {s : State} {a : Machine.Access} (hs : s.pk = p) (hr : s.cachedRec (s.siteOf e) e a = none)
    (hq : a.queued = false) (hl : isLoad a = true) {pa at' : Nat} (hw : w.phase = .ready [(pa, at')]) : s.requestLanes e a l = 1#32 <<< l := by
  have hclear := F.clearBefore (a := a) hs (fun h => absurd (hq.symm.trans h) (by decide)) [(pa, at')]
  unfold State.requestLanes
  rw [F.phase, hw, hr, F.lanesOf]
  simp [oneCut, F.phase, hw, hclear, hl]

/-- The entry concluded with its lane in a new phase: the pack has moved. -/
theorem InFlight.conclude {s : State} {a : Machine.Access} (hs : s.pk = p) (hd : s.env.defer = true) (ha : a.dst.isSome = true)
    (ph : Phase) : (s.conclude a (e.inPhase l w ph) []).site = s.site ∧ (∀ x, (s.conclude a (e.inPhase l w ph) []).memByte x = s.memByte x) ∧
      Moved p (s.conclude a (e.inPhase l w ph) []).pk e l w ph := by
  have hput : p.putEntry (e.inPhase l w ph) = { p with replay := [e.inPhase l w ph] } := Pack.putEntry_only F.only rfl F.mask_ne
  rw [State.conclude_stays _ hd ha, hs, hput]
  exact ⟨rfl, fun _ => rfl, rfl⟩

end


/-! Loads of the plain forms. -/

/-- The access of a flat load that does not acquire. -/
theorem accessOf_flatLoadForm {i : Instr} {x : Place} {d : VReg} {sg : Bool} (h : flatLoadForm i = some (x, d, sg))
    (hw : (encode i).length = 1) :
    accessOf i = some (ld .flat x.n sg d x.off x.base) ∧ (x.n = 1 ∨ x.n = 2 ∨ x.n = 4 ∨ x.n = 8 ∨ x.n = 16) := by
  unfold flatLoadForm at h
  split at h
  case h_8 => exact absurd hw (by simp [encode, encLW])
  case h_9 => cases h
  all_goals
    cases h
    exact ⟨rfl, by simp⟩

end Sys2Proof.Claims
end

section
/-! O44 (spec/04_memories.md R85, R90, spec/12_memory_instructions.md R250-R253): the stations of an access in flight. -/
namespace Sys2Proof.Claims

open Sys2Proof.Machine
open State (SilentFrame)

/-! An event through the latch. -/

/-- What an event on a resident pack leaves: the pack as the latch held it, its home slices and its bytes. -/
theorem event_landed {s r u : State} {c sl : Nat} {p : Pack} (hi : Idle s) (hr : Idle r) (hp : r.packAt c sl = some p)
    {g f : State → State} (hg : g s = r.onPack c sl f) (hf : f (r.latched c sl p) = u) (hu : u.site = some (c, sl)) :
    ∃ t, event g s = .next t ∧ t.packAt c sl = some u.pk ∧ t.home = u.home ∧ ∀ a, t.memByte a = u.memByte a := by
  subst hf
  refine ⟨_, (event_idle g hi).trans (by rw [hg]), State.onPack_packAt hr hp hu, ?_⟩
  rw [State.onPack_latched hr hp]
  simp only [State.unload, State.flush, hu]
  exact ⟨rfl, fun _ => rfl⟩

/-- What a station leaves in the latch: the access of the pack has come to phase `ph`, and no byte is written. -/
structure MovedTo (s u : State) (c sl : Nat) (p : Pack) (e : Entry) (l : Nat) (w : LaneAcc) (ph : Phase) : Prop where
  site : u.site = some (c, sl)
  moved : Moved p u.pk e l w ph
  bytes : ∀ a, u.memByte a = s.memByte a

/-- An event that moves a pack's access to phase `ph` and writes no byte. -/
theorem event_moves {s r u : State} {c sl : Nat} {p : Pack} {e : Entry} {l : Nat} {w : LaneAcc} {ph : Phase} (hi : Idle s) (hr : Idle r)
    (hp : r.packAt c sl = some p) {g f : State → State} (hg : g s = r.onPack c sl f) (hf : f (r.latched c sl p) = u)
    (hu : MovedTo s u c sl p e l w ph) :
    ∃ t q, event g s = .next t ∧ t.packAt c sl = some q ∧ Moved p q e l w ph ∧ ∀ a, t.memByte a = s.memByte a := by
  obtain ⟨t, hexec, hpk, -, hbytes⟩ := event_landed hi hr hp hg hf hu.site
  exact ⟨t, _, hexec, hpk, hu.moved, fun a => (hbytes a).trans (hu.bytes a)⟩

/-- An access that has not failed is put back in its new phase. -/
theorem InFlight.concluded {s u : State} {c sl : Nat} {p : Pack} {e : Entry} {l : Nat} {w : LaneAcc} {i : Instr} (F : InFlight p e l w i)
    (hd : s.env.defer = true) {a : Machine.Access} (ha : a.dst.isSome = true) (h : (s.latched c sl p).SilentFrame u) (ph : Phase) :
    MovedTo s (u.conclude a (e.inPhase l w ph) []) c sl p e l w ph := by
  obtain ⟨hsite, hmem, hq⟩ := F.conclude (s := u) h.pk (h.defer.trans hd) ha ph
  exact ⟨hsite.trans h.site, hq, fun x => (hmem x).trans (h.memByte x)⟩

/-! The walk (R158, R250, R251). -/

/-- The flat address of a lane record. -/
theorem flatAddr_words (w : LaneAcc) : flatAddr w.words = recordVa w := rfl

section
variable {s : State} {c sl : Nat} {p : Pack} {e : Entry} {l : Nat} {w : LaneAcc} {i : Instr} (F : InFlight p e l w i)
include F

/-- Only the lane of the entry walks. -/
theorem InFlight.walksNow (hw : w.phase = .walk) (k : Nat) : walksNow e k = decide (k = l) := by
  unfold Machine.walksNow
  by_cases h : k = l
  · rw [h, F.phase, hw]; simp
  · rw [F.phase_other h]; simp [h]

/-- A flat access has one page, of which nothing is left once its walk has been seen. -/
theorem InFlight.pagesLeft {a : Machine.Access} (hw : w.phase = .walk) (ha : a.space = .flat) :
    s.pagesLeft e a l = [recordVa w / 65536].drop w.seen := by
  have hpages : s.lanePages e a w = [recordVa w / 65536] := by
    unfold State.lanePages
    simp only [State.cachedRec_none (show a.space ≠ .tensor by rw [ha]; decide), accessVAs, ha]
    rfl
  unfold State.pagesLeft
  rw [F.words, F.walksNow hw]
  simp [hpages]

/-- The only lane's page is the next to walk. -/
theorem InFlight.walksNext {a : Machine.Access} (hw : w.phase = .walk) (ha : a.space = .flat) : s.walksNext e a l = true := by
  have hnext : s.nextPage e a = ([recordVa w / 65536].drop w.seen).headD 0 := by
    unfold State.nextPage
    rw [F.lanesOf]
    simp only [List.filterMap_cons, List.filterMap_nil, F.pagesLeft hw ha]
    cases w.seen <;> simp
  unfold State.walksNext
  rw [F.walksNow hw, F.pagesLeft hw ha, hnext]
  cases w.seen <;> simp

/-- No lane has a page to walk first. -/
theorem InFlight.noFirst {a : Machine.Access} (hw : w.phase = .walk) (ha : a.space = .flat) :
    (maskOf fun k => s.walksNext e a k && decide (1 < (s.pagesLeft e a k).length)) = 0 := by
  refine LaneMask.ext_lanes fun k _ => ?_
  rw [hasLane_maskOf, hasLane_zero]
  by_cases h : k = l
  · subst h
    rw [F.pagesLeft hw ha]
    cases w.seen <;> simp
  · simp [State.walksNext, F.walksNow hw, h]


/-- The lane passes the checks of its access (R251): a translation that the core holds makes it ready at its address. -/
theorem InFlight.admits {n : Nat} {sg : Bool} {d cv : VReg} {xb : SReg} {y : Trans} (hw : w.phase = .walk) {m : LaneMask}
    (hm : Machine.hasLane m l = true) (hva : recordVa w < 2 ^ 52) (hal : recordVa w % n = 0) (hn : n ≠ 0)
    (hy : (s.core s.here).tlb.find? (·.hits s.pk.part (recordVa w / 65536)) = some y) (hu : y.misused .flat = false)
    (hr : y.allows .load e.priv = true) (hk : s.paKind (y.pa (recordVa w)) = .hbm) :
    s.admitEntry (s.siteOf e) s.pk e (ld .flat n sg d cv xb) m =
      (s, e.inPhase l w (.ready [(y.pa (recordVa w), y.attr + if y.elide then 4 else 0)]), []) := by
  have hwalk : w.walking = true := by
    unfold LaneAcc.walking
    rw [hw]
  have hfail : s.addressFails (s.siteOf e) e (ld .flat n sg d cv xb) none l w.words = none := by
    have hv : ¬2 ^ 52 ≤ flatAddr w.words := Nat.not_le.2 hva
    have ha : ¬flatAddr w.words % n ≠ 0 := fun h => h hal
    simp only [State.addressFails, State.barFails, ld, accessBytes, ne_eq, hn, not_false_eq_true, if_true, if_neg hv]
    exact if_neg ha
  have htr : s.translate (s.siteOf e).core (s.siteOf e).part e.priv .load .flat (recordVa w) = (s, .ok y) :=
    State.translate_cached hy hu hr
  have hwalked : s.walkPages (s.siteOf e) e.priv .load 0 .flat (pagesOf [(l, [flatAddr w.words])]) =
      (s, [(recordVa w / 65536, .ok y)]) := by
    simp [pagesOf, addPage, State.walkPages, flatAddr_words, htr]
  have hlane : s.laneWalk (ld .flat n sg d cv xb) none l w.words [(recordVa w / 65536, .ok y)] [flatAddr w.words] =
      .ok [(y.pa (recordVa w), y.attr + if y.elide then 4 else 0)] := by
    simp [State.laneWalk, flatAddr_words, ld, hk]
  have hforbid : ∀ ps, laneForbidden s.pk (ld .flat n sg d cv xb) none l w.words ps = none := fun ps => by
    simp [laneForbidden, ld, writes]
  unfold State.admitEntry State.entryRec State.admitLanes
  simp only [ld] at hfail hwalked hlane hforbid ⊢
  simp [F.words, F.lane_iff, hm, hwalk, hfail, accessVAs, accessAsk, accessUse, hwalked, hlane, hforbid, Entry.inPhase]

end

section
variable {s : State} {c sl : Nat} {p : Pack} {e : Entry} {l : Nat} {w : LaneAcc} {i : Instr} (hi : Idle s)
  (hp : s.packAt c sl = some p) (F : InFlight p e l w i) (hd : s.env.defer = true)
include hi hp F hd

/-- The end of the walk. -/
theorem walkComplete_ready {n : Nat} {sg : Bool} {d cv : VReg} {xb : SReg} (ha : accessOf i = some (ld .flat n sg d cv xb)) (hn : n ≠ 0)
    (hh : (s.part p.part).halted = false) {y : Trans} (hw : w.phase = .walk) (hfree : s.hasWalker c e.id = true)
    (hva : recordVa w < 2 ^ 52) (hal : recordVa w % n = 0)
    (hy : (s.core c).tlb.find? (·.hits p.part (recordVa w / 65536)) = some y) (hu : y.misused .flat = false)
    (hr : y.allows .load e.priv = true) (hk : s.paKind (y.pa (recordVa w)) = .hbm) :
    ∃ t q, exec (.walkComplete c sl e.id l) s = .next t ∧ t.packAt c sl = some q ∧
      Moved p q e l w (.ready [(y.pa (recordVa w), y.attr + if y.elide then 4 else 0)]) ∧ ∀ a, t.memByte a = s.memByte a := by
  let L := s.latched c sl p
  let a := ld .flat n sg d cv xb
  have hlast : Machine.hasLane (maskOf fun k => L.walksNext e a k && decide ((L.pagesLeft e a k).length ≤ 1)) l = true := by
    rw [hasLane_maskOf, F.walksNext hw rfl, F.pagesLeft hw rfl, decide_eq_true F.lane]
    cases w.seen <;> simp
  have hadmit := F.admits (s := L) (d := d) (cv := cv) (xb := xb) (sg := sg) hw hlast hva hal hn hy hu hr hk
  have hfirst : L.walkFirst e a (L.nextPage e a) (maskOf fun k => L.walksNext e a k && decide (1 < (L.pagesLeft e a k).length)) = (L, e) := by
    rw [F.noFirst hw rfl]
    exact if_pos rfl
  have hgo : (L.walksNext e a l && !(L.part L.pk.part).halted) = true := by
    rw [F.walksNext hw rfl, show L.part L.pk.part = s.part p.part from rfl, hh]
    rfl
  refine event_moves hi hi hp (if_neg (by rw [hfree]; decide)) ?_ (F.concluded hd (a := a) rfl (.refl L) _)
  rw [F.entryAt rfl ha]
  dsimp only
  rw [if_pos hgo, hfirst]
  dsimp only
  rw [hadmit]

end

end Sys2Proof.Claims
end

section
/-! SUPPORT. Bytes as words: what the model writes to registers, in the terms of the statements (R253). -/
namespace Sys2Proof.Claims

open Sys2Proof.Machine

theorem natOfBytes_lt (bs : List Byte) : natOfBytes bs < 2 ^ (8 * bs.length) := by
  induction bs with
  | nil => decide
  | cons b bs ih =>
    have hb := b.isLt
    rw [natOfBytes, List.length_cons, Nat.mul_add, Nat.pow_add]
    omega

/-- Bytes written out again. -/
theorem bytesOfNat_natOfBytes (bs : List Byte) : bytesOfNat bs.length (natOfBytes bs) = bs := by
  induction bs with
  | nil => rfl
  | cons b bs ih =>
    have hb := b.isLt
    rw [List.length_cons, natOfBytes, bytesOfNat, show (b.toNat + 256 * natOfBytes bs) / 256 = natOfBytes bs by omega, ih]
    congr 1
    refine BitVec.eq_of_toNat_eq ?_
    rw [BitVec.toNat_ofNat]
    omega

/-- The words of whole words of bytes. -/
theorem wordsOfBytes_range (k : Nat) : ∀ bs : List Byte, bs.length = 4 * k →
    wordsOfBytes bs = (List.range k).map fun i => BitVec.ofNat 32 (natOfBytes ((bs.drop (4 * i)).take 4)) := by
  induction k with
  | zero => intro bs h; rw [List.length_eq_zero_iff.1 h]; rfl
  | succ k ih =>
    intro bs h
    match bs, h with
    | a :: b :: c :: d :: r, h =>
      have hr : r.length = 4 * k := by simp only [List.length_cons] at h; omega
      rw [wordsOfBytes, ih r hr, List.range_succ_eq_map, List.map_cons, List.map_map]
      congr 2

theorem loadWords_whole (sg : Bool) {bs : List Byte} {k : Nat} (h0 : 0 < k) (h : bs.length = 4 * k) : loadWords sg bs = wordsOfBytes bs := by
  unfold loadWords
  rw [if_neg (by omega), wordsOfBytes_range k bs h, h, Nat.mul_div_cancel_left k (by decide)]

/-- The sign bit of a number of `n` bits. -/
theorem bitOf_top {x n : Nat} (h : x < 2 ^ n) (h0 : 0 < n) : bitOf x (n - 1) = decide (2 ^ (n - 1) ≤ x) := by
  have hp : 2 ^ n = 2 ^ (n - 1) * 2 := by rw [← Nat.pow_succ, Nat.succ_eq_add_one, Nat.sub_add_cancel h0]
  have hq : x / 2 ^ (n - 1) < 2 := Nat.div_lt_of_lt_mul (by omega)
  unfold bitOf
  have hone : 1 ≤ x / 2 ^ (n - 1) ↔ 1 * 2 ^ (n - 1) ≤ x := Nat.le_div_iff_mul_le (Nat.two_pow_pos _)
  rw [Nat.mod_eq_of_lt hq, decide_eq_decide]
  omega

/-- A load widens its bytes as R253 has it. -/
theorem widen_loadWords (sg : Bool) {bs : List Byte}
    (h : bs.length = 1 ∨ bs.length = 2 ∨ bs.length = 4 ∨ bs.length = 8 ∨ bs.length = 16) : widen sg bs = loadWords sg bs := by
  by_cases hn : bs.length < 4
  · unfold widen loadWords wrap32
    dsimp only
    rw [if_pos hn, if_pos hn, bitOf_top (natOfBytes_lt bs) (by omega)]
    simp only [Bool.and_eq_true, decide_eq_true_eq]
  · obtain ⟨k, h0, hk⟩ : ∃ k, 0 < k ∧ bs.length = 4 * k := ⟨bs.length / 4, by omega, by omega⟩
    rw [loadWords_whole sg h0 hk]
    exact if_neg hn

end Sys2Proof.Claims
end

section
/-! O44 (spec/04_memories.md R85, R90, spec/12_memory_instructions.md R250-R253): loads in flight at their home slice, and the replies of
memory. -/
namespace Sys2Proof.Claims

open Sys2Proof.Machine
open State (SilentFrame)

theorem setPhase_one (l : Nat) (w : LaneAcc) (ph : Phase) : setPhase [(l, w)] l ph = [(l, { w with phase := ph })] := by
  simp [setPhase, tabMod, tabPut]

/-- One request of the L1, of one lane. -/
theorem State.loadAll_one (s : State) (core : Nat) (plain : Bool) (n pa at' : Nat) :
    s.loadAll core plain n [(pa, at')] = s.loadRequest core plain n (pa / 128) [(pa, at')] := by
  simp [State.loadAll, ascending, insertAsc]

section
variable {s : State} {c sl : Nat} {p : Pack} {e : Entry} {l : Nat} {w : LaneAcc} {i : Instr} (F : InFlight p e l w i)
include F

/-- The lane of the entry, at its physical address. -/
theorem InFlight.readyLanes {m : LaneMask} (hm : Machine.hasLane m l = true) {ps : List (Nat × Nat)}
    (hw : w.phase = .ready ps ∨ w.phase = .sent ps) : readyLanes e m = [(l, w, ps)] := by
  unfold Machine.readyLanes
  rw [F.words]
  rcases hw with hw | hw <;> simp [F.lane_iff, hm, hw]

/-- A plain load of a sound sector performs: its lane has the widened bytes (R85, R252, R253). -/
theorem InFlight.performsLoad {n : Nat} {sg : Bool} {d cv : VReg} {xb : SReg} (hn : n = 1 ∨ n = 2 ∨ n = 4 ∨ n = 8 ∨ n = 16)
    {m : LaneMask} (hm : Machine.hasLane m l = true) {pa at' : Nat} (hw : w.phase = .ready [(pa, at')] ∨ w.phase = .sent [(pa, at')])
    (hc : Clean s) (hk : s.paKind pa = .hbm) (hal : pa % n = 0) (hs : Sound s pa n) (hr : at' % 4 ≠ 1)
    (hodd : ∀ b, b ∈ (s.core s.here).l1 → b.odd = [])
    (hcached : ∀ bs, (s.core s.here).sector (pa / 16) = some bs → bs = s.memBytes (pa / 16 * 16) 16) :
    ∃ u, s.SilentFrame u ∧ s.performNow e (ld .flat n sg d cv xb) m =
      u.conclude (ld .flat n sg d cv xb) (e.inPhase l w (.done (loadWords sg (heldBytes s pa n)))) [] := by
  have hcode : s.blockCode pa ≠ 3 := hs 0 (by omega)
  have h16 : pa % 16 + n ≤ 16 := by rcases hn with h | h | h | h | h <;> subst h <;> omega
  obtain ⟨hval, hframe⟩ := State.loadRequest_one (core := s.here) (n := n) hc hodd hcached hr hcode (by omega) h16
  refine ⟨_, hframe, ?_⟩
  have hwide : widen sg (heldBytes s pa n) = loadWords sg (heldBytes s pa n) := widen_loadWords sg (by simpa [heldBytes] using hn)
  have hn0 : n ≠ 0 := by omega
  have horder : ∀ acq, (s.loadRequest s.here true n (pa / 128) [(pa, at')]).1.orderRemote s.here pa acq none =
      (s.loadRequest s.here true n (pa / 128) [(pa, at')]).1 := fun acq =>
    State.orderRemote_local ((hframe.paKind pa).trans hk) _ _ _
  have hload : s.performLanes (s.siteOf e) e (ld .flat n sg d cv xb) none m =
      ((s.loadRequest s.here true n (pa / 128) [(pa, at')]).1, e.inPhase l w (.done (loadWords sg (heldBytes s pa n))), []) := by
    unfold State.performLanes
    rw [F.readyLanes hm hw]
    simp only [State.asks, ld, State.siteOf, accessBytes, ne_eq, hn0, not_false_eq_true, if_true, List.map_cons, List.map_nil,
      List.headD_cons, BEq.rfl, Bool.and_self, State.loadAll_one, hval]
    simp [horder, loadSigned, setPhase_one, F.words, hwide, Entry.inPhase]
  unfold State.performNow
  dsimp only
  rw [State.cachedRec_none (a := ld .flat n sg d cv xb) (show Space.flat ≠ .tensor by decide), hload]
  rfl

/-- The address at which the request of a lane asks. -/
theorem InFlight.readyAddrs {pa at' : Nat} (hw : w.phase = .ready [(pa, at')]) : readyAddrs e (1#32 <<< l) = [(pa, at')] := by
  unfold Machine.readyAddrs
  rw [F.readyLanes (by rw [hasLane_single F.lane, decide_eq_true rfl]) (.inl hw)]
  rfl

end

section
variable {s : State} {p : Pack} {e : Entry} {l : Nat} {w : LaneAcc} {i : Instr} (F : InFlight p e l w i)
include F

/-- Nothing keeps the request of a plain load from its home slice. -/
theorem InFlight.requests {n : Nat} {sg : Bool} {d cv : VReg} {xb : SReg} (hs : s.pk = p) (ps : List (Nat × Nat)) :
    (!s.mayPerform e (ld .flat n sg d cv xb) l ps || !(isLoad (ld .flat n sg d cv xb) || isStore (ld .flat n sg d cv xb)) ||
      decide (1#32 <<< l = 0)) = false := by
  have hm : 1#32 <<< l ≠ 0 := fun h => by
    have := hasLane_single F.lane l
    rw [h, hasLane_zero, decide_eq_true rfl] at this
    cases this
  rw [F.mayPerform hs (State.cachedRec_none (show Space.flat ≠ .tensor by decide)) (fun h => absurd h (show ¬false = true by decide)),
    decide_eq_false hm]
  rfl

/-- The lanes of a request of a plain load. -/
theorem InFlight.loadLanes {n : Nat} {sg : Bool} {d cv : VReg} {xb : SReg} (hs : s.pk = p) {pa at' : Nat} (hw : w.phase = .ready [(pa, at')]) :
    s.requestLanes e (ld .flat n sg d cv xb) l = 1#32 <<< l :=
  F.requestLanes hs (State.cachedRec_none (show Space.flat ≠ .tensor by decide)) rfl rfl hw

end

/-! The pack that has an entry. -/

theorem tabFind_of_mem {α : Type} {m : Tab α} {lo k : Nat} {x : α} (hr : tabRising m lo = true) (h : (k, x) ∈ m) : tabFind m k = some x := by
  induction m generalizing lo with
  | nil => cases h
  | cons e m ih =>
    obtain ⟨j, y⟩ := e
    simp only [tabRising, Bool.and_eq_true, decide_eq_true_eq] at hr
    rw [tabFind_cons]
    rcases List.mem_cons.1 h with h | h
    · cases h
      exact if_pos rfl
    · have := tabRising_le hr.2 _ h
      dsimp only at this
      rw [if_neg (by omega)]
      exact ih hr.2 h

/-- A resident pack is the one in its slot. -/
theorem State.mem_residents {s : State} (hl : Listed s) {c sl : Nat} {p : Pack} :
    (c, sl, p) ∈ s.residents ↔ s.packAt c sl = some p := by
  obtain ⟨hcores, hpacks⟩ := hl
  have hcore : ∀ {k}, (c, k) ∈ s.cores → s.core c = k := fun h => by
    unfold State.core tabGet
    rw [tabFind_of_mem hcores h]
    rfl
  unfold State.residents State.packAt
  simp only [List.mem_flatMap, List.mem_map, Prod.mk.injEq, Prod.exists]
  constructor
  · rintro ⟨k, K, hK, n, q, hq, rfl, rfl, rfl⟩
    rw [hcore hK]
    exact tabFind_of_mem (hcore hK ▸ hpacks k) hq
  · intro h
    cases hf : tabFind s.cores c with
    | none => simp [State.core, tabGet, hf] at h
    | some K =>
      have hK := tabFind_mem hf
      exact ⟨c, K, hK, sl, p, tabFind_mem (hcore hK ▸ h), rfl, rfl, rfl⟩

theorem findSome?_only {α β : Type} {f : α → Option β} {b : β} : ∀ {l : List α}, (∀ x, x ∈ l → f x = none ∨ f x = some b) →
    (∃ x, x ∈ l ∧ f x = some b) → l.findSome? f = some b
  | [], _, h => by simp at h
  | x :: l, h1, h2 => by
    rw [List.findSome?_cons]
    rcases h1 x (.head _) with hx | hx
    · rw [hx]
      refine findSome?_only (fun y hy => h1 y (.tail _ hy)) ?_
      obtain ⟨y, hy, hb⟩ := h2
      rcases List.mem_cons.1 hy with rfl | hy
      · rw [hx] at hb; cases hb
      · exact ⟨y, hy, hb⟩
    · rw [hx]

/-- Where no other pack has an entry, the entry in flight is found at its pack. -/
theorem InFlight.packOfEntry {s : State} {c sl : Nat} {p : Pack} {e : Entry} {l : Nat} {w : LaneAcc} {i : Instr} (F : InFlight p e l w i)
    (hl : Listed s) (hp : s.packAt c sl = some p)
    (ho : ∀ k n q, (k, n, q) ∈ s.residents → ¬(k = c ∧ n = sl) → q.replay = []) : s.packOfEntry e.id = some (c, sl, e) := by
  have hhere : (p.replay.find? (·.id = e.id)).map (fun e => (c, sl, e)) = some (c, sl, e) := by
    rw [F.only]
    simp
  refine findSome?_only (fun x hx => ?_) ⟨(c, sl, p), (State.mem_residents hl).2 hp, hhere⟩
  obtain ⟨k, n, q⟩ := x
  by_cases h : k = c ∧ n = sl
  · obtain ⟨rfl, rfl⟩ := h
    cases hp.symm.trans ((State.mem_residents hl).1 hx)
    exact .inr hhere
  · left
    dsimp only
    rw [ho k n q hx h]
    rfl

/-- What memory's answer to the request of lane `l` does in the latch: the loads that the request carries perform (R90). -/
def performSent (id l : Nat) (s : State) : State :=
  match s.entryAt id with
  | some (e, a) => s.performNow e a (sentWith e l)
  | none => s

theorem State.answerRequest_found {s : State} {id l c sl : Nat} {e : Entry} (h : s.packOfEntry id = some (c, sl, e)) :
    s.answerRequest (id, l) = s.onPack c sl (performSent id l) := by
  unfold State.answerRequest
  dsimp only
  rw [h]
  rfl

/-- A slice answers at once from its cache, but not for a granule it has not, that is not elided and not in the L1 (R85, R93). -/
theorem State.answersNow_iff {s : State} {n : Nat} {sg : Bool} {d cv : VReg} {xb : SReg} {pa at' : Nat} (hk : s.paKind pa = .hbm)
    (hr : at' % 4 ≠ 1) : s.answersNow (ld .flat n sg d cv xb) [(pa, at')] = true ↔
      (pa / 256 ∈ s.home.lines ∨ s.blockCode pa ≠ 0) ∨ ((s.core s.here).sector (pa / 16)).isSome := by
  unfold State.answersNow State.l1Read
  simp [hk, State.mirrored_false s s.here pa hr, lineId, ld]

section
variable {s : State} {c sl : Nat} {p : Pack} {e : Entry} {l : Nat} {w : LaneAcc} {i : Instr} (hi : Idle s)
  (hp : s.packAt c sl = some p) (F : InFlight p e l w i) {n : Nat} {sg : Bool} {d cv : VReg} {xb : SReg}
  (ha : accessOf i = some (ld .flat n sg d cv xb)) {pa at' : Nat} (hk : s.paKind pa = .hbm) (hr : at' % 4 ≠ 1)
include hi hp F ha hk hr

/-- A request that misses waits for memory (R90). -/
theorem homeSlice_asks (hw : w.phase = .ready [(pa, at')]) (hline : pa / 256 ∉ s.home.lines) (hcode : s.blockCode pa = 0)
    (hsec : (s.core c).sector (pa / 16) = none) :
    ∃ t q, exec (.homeSliceRequest c sl e.id l) s = .next t ∧ t.packAt c sl = some q ∧
      Moved p q e l w (.sent [(pa, at')]) ∧ ∀ a, t.memByte a = s.memByte a := by
  let L := s.latched c sl p
  let a := ld .flat n sg d cv xb
  have hlane : Machine.hasLane (1#32 <<< l) l = true := by rw [hasLane_single F.lane, decide_eq_true rfl]
  have hnow : (isStore a || L.answersNow a (readyAddrs e (1#32 <<< l))) = false := by
    have hno : ¬L.answersNow a [(pa, at')] = true := by
      rw [State.answersNow_iff (s := L) hk hr, show (L.core L.here).sector (pa / 16) = none from hsec]
      exact fun h => h.elim (fun h => h.elim hline fun h => h hcode) (by decide)
    rw [F.readyAddrs hw, Bool.eq_false_iff.2 hno]
    rfl
  have hput : p.putEntry (e.inPhase l w (.sent [(pa, at')])) = { p with replay := [e.inPhase l w (.sent [(pa, at')])] } :=
    Pack.putEntry_only F.only rfl F.mask_ne
  refine event_moves hi hi hp (u := { L with
    pk := p.putEntry (e.inPhase l w (.sent [(pa, at')])), home := { s.home with arrivals := s.home.arrivals ++ [(e.id, l)] } })
    rfl ?_ ⟨rfl, hput, fun _ => rfl⟩
  rw [F.entryAt rfl ha]
  dsimp only
  rw [F.phase, hw]
  dsimp only
  rw [F.loadLanes rfl hw, F.requests rfl, hnow, F.words]
  simp [hw, hlane, Entry.inPhase, State.latched, L]

variable (hd : s.env.defer = true) (hc : Clean s) (hodd : ∀ b, b ∈ (s.core c).l1 → b.odd = [])
  (hn : n = 1 ∨ n = 2 ∨ n = 4 ∨ n = 8 ∨ n = 16) (hal : pa % n = 0) (hs : Sound s pa n)
include hd hc hodd hn hal hs

/-- A request whose granule the slice has is answered (R85). -/
theorem homeSlice_answers (hw : w.phase = .ready [(pa, at')])
    (hcached : ∀ bs, (s.core c).sector (pa / 16) = some bs → bs = s.memBytes (pa / 16 * 16) 16) (hline : pa / 256 ∈ s.home.lines) :
    ∃ t q, exec (.homeSliceRequest c sl e.id l) s = .next t ∧ t.packAt c sl = some q ∧
      Moved p q e l w (.done (loadWords sg (heldBytes s pa n))) ∧ ∀ a, t.memByte a = s.memByte a := by
  let L := s.latched c sl p
  let a := ld .flat n sg d cv xb
  have hlane : Machine.hasLane (1#32 <<< l) l = true := by rw [hasLane_single F.lane, decide_eq_true rfl]
  have hnow : (isStore a || L.answersNow a (readyAddrs e (1#32 <<< l))) = true := by
    rw [F.readyAddrs hw, (State.answersNow_iff (s := L) hk hr).2 (.inl (.inl hline))]
    rfl
  obtain ⟨u, hframe, hperform⟩ := F.performsLoad (s := L) (sg := sg) (d := d) (cv := cv) (xb := xb) hn hlane (.inl hw) hc hk hal hs hr
    hodd hcached
  refine event_moves hi hi hp rfl ?_ (F.concluded hd (a := a) rfl hframe _)
  rw [F.entryAt rfl ha]
  dsimp only
  rw [F.phase, hw]
  dsimp only
  rw [F.loadLanes rfl hw, F.requests rfl, hnow, if_neg Bool.false_ne_true, if_pos rfl]
  exact hperform

/-- Memory answers the request that waits for it (R90). -/
theorem hbmReadReply_answers (hlist : Listed s) (hpause : s.home.paused = none) (hw : w.phase = .sent [(pa, at')])
    (hsec : (s.core c).sector (pa / 16) = none) (harr : s.home.arrivals = [(e.id, l)])
    (ho : ∀ k n q, (k, n, q) ∈ s.residents → ¬(k = c ∧ n = sl) → q.replay = []) :
    ∃ t q, exec (.hbmReadReply (s.slice pa)) s = .next t ∧ t.packAt c sl = some q ∧
      Moved p q e l w (.done (loadWords sg (heldBytes s pa n))) ∧ ∀ a, t.memByte a = s.memByte a := by
  have hfind : s.packOfEntry e.id = some (c, sl, e) := F.packOfEntry hlist hp ho
  have hwaits : s.answers (s.slice pa) (e.id, l) = true := by
    unfold State.answers State.waitsAt State.onPaused State.pausedNow
    simp [hfind, F.phase, hw, hpause]
  let r : State := { s with home := { s.home with arrivals := [] } }
  let L := r.latched c sl p
  let a := ld .flat n sg d cv xb
  have hlane : Machine.hasLane (sentWith e l) l = true := by
    unfold sentWith
    rw [F.phase, hw]
    simp [F.phase, hw, F.lane]
  obtain ⟨u, hframe, hperform⟩ := F.performsLoad (s := L) (sg := sg) (d := d) (cv := cv) (xb := xb) hn hlane (.inr hw) hc hk hal hs hr
    hodd (fun bs h => absurd (hsec.symm.trans h) (by simp))
  have hmoved := F.concluded (s := r) (c := c) (sl := sl) hd (a := a) rfl hframe (.done (loadWords sg (heldBytes s pa n)))
  refine event_moves hi hi (r := r) (f := performSent e.id l) hp ?_ ?_ ⟨hmoved.site, hmoved.moved, hmoved.bytes⟩
  · have hrest : s.home.arrivals.filter (s.answers (s.slice pa)) = [(e.id, l)] ∧ (s.home.arrivals.filter fun x =>
        !([(e.id, l)] : List (Nat × Nat)).contains x && (s.packOfEntry x.1).isSome) = [] := by
      rw [harr, List.filter_cons_of_pos hwaits, List.filter_nil]
      simp
    dsimp only
    rw [hrest.1, hrest.2]
    exact State.answerRequest_found (s := r) hfind
  · unfold performSent
    rw [F.entryAt rfl ha]
    exact hperform

end

end Sys2Proof.Claims
end

section
/-! O44 (spec/12_memory_instructions.md R250, spec/06_consistency.md R120): the reply of a lane. -/
namespace Sys2Proof.Claims

open Sys2Proof.Machine
open State (SilentFrame)

/-! Registers of a destination. -/

theorem lookup_zipIdx_below {n r : Nat} : ∀ (ws : List Word) (j : Nat), r < n + j →
    ((ws.zipIdx j).map fun (w, k) => (n + k, w)).lookup r = none
  | [], _, _ => rfl
  | w :: ws, j, h => by
    rw [List.zipIdx_cons, List.map_cons, List.lookup_cons, beq_eq_false_iff_ne.2 (by omega : r ≠ n + j)]
    exact lookup_zipIdx_below ws (j + 1) (by omega)

/-- Consecutive registers written. -/
theorem Thread.r_setRs_zipIdx (n r : Nat) : ∀ (ws : List Word) (j : Nat) (t : Thread),
    (t.setRs (n + j) ws).r r = (((ws.zipIdx j).map fun (w, k) => (n + k, w)).lookup r).getD (t.r r)
  | [], _, _ => rfl
  | w :: ws, j, t => by
    rw [Thread.setRs, Nat.add_assoc, Thread.r_setRs_zipIdx n r ws (j + 1), Thread.r_setR, List.zipIdx_cons, List.map_cons, List.lookup_cons]
    by_cases h : r = n + j
    · rw [lookup_zipIdx_below ws (j + 1) (by omega), h]
      simp
    · rw [if_neg (Ne.symm h), beq_eq_false_iff_ne.2 h]

theorem Thread.r_setRs (t : Thread) (d : VReg) (ws : List Word) (r : Nat) :
    (t.setRs d.toNat ws).r r = ((putWords d ws).regs.lookup r).getD (t.r r) := Thread.r_setRs_zipIdx d.toNat r ws 0 t

/-! The reply. -/

/-- The pack with the value of lane `l` of an entry in registers from `r` up: the marks of errors there are cleared, and the marks of the
entry in the scoreboard are taken off (R97, R250). -/
def delivered (p : Pack) (e : Entry) (l r : Nat) : Pack :=
  ((p.onLanes (1#32 <<< l &&& p.live) fun k t => t.setRs r (doneValue e k)).mend (1#32 <<< l &&& p.live) fun k q =>
    decide (r ≤ q) && decide (q < r + (doneValue e k).length)).unpend e.id

section
variable {p : Pack} {e : Entry} {l : Nat} {w : LaneAcc} {i : Instr} (F : InFlight p e l w i) {vs : List Word} (hw : w.phase = .done vs)
include F hw

theorem InFlight.doneLanes : Machine.doneLanes e &&& 1#32 <<< l = 1#32 <<< l := by
  have hd : Machine.doneLanes e = 1#32 <<< l := by
    unfold Machine.doneLanes
    rw [F.words]
    simp [F.lane_iff, hw]
  rw [hd, BitVec.and_self]

theorem InFlight.doneValue : Machine.doneValue e l = vs := by
  obtain ⟨ws, ph, rep, seen⟩ := w
  cases hw
  unfold Machine.doneValue
  rw [F.words]
  simp

omit hw in
/-- Without its lane the entry is done. -/
theorem InFlight.drop_mask : (e.drop (1#32 <<< l)).mask = 0 := by
  refine LaneMask.ext_lanes fun k _ => ?_
  unfold Entry.drop
  dsimp only
  rw [hasLane_andNot, F.lane_iff, hasLane_single F.lane, hasLane_zero]
  cases decide (k = l) <;> rfl

/-- The pack once the value of its lane has been delivered (R250). -/
theorem InFlight.delivers {a : Machine.Access} {d : VReg} (ha : accessOf i = some a) (hdst : a.dst = some d.toNat) :
    deliver p e (1#32 <<< l) = (delivered p e l d.toNat, e.drop (1#32 <<< l)) := by
  have hgone : ∀ x : Pack, x.unpendDone (e.drop (1#32 <<< l)) = x.unpend e.id := fun x => by
    unfold Pack.unpendDone
    rw [F.drop_mask]
    exact if_pos (by simp [hasLane])
  unfold deliver
  rw [F.doneLanes hw, F.access, ha]
  dsimp only
  rw [hdst]
  dsimp only
  rw [hgone]
  rfl

omit hw in
theorem InFlight.liveLane (hx : (p.thread l).exited = false) (k : Nat) : hasLane (1#32 <<< l &&& p.live) k = decide (k = l) := by
  rw [hasLane_and, hasLane_single F.lane, Pack.hasLane_live]
  by_cases hk : k = l
  · subst hk; simp [hx, F.lane]
  · simp [hk]

/-- The registers that are still bad once a value has been delivered. -/
theorem InFlight.delivered_bad (hx : (p.thread l).exited = false) (r : Nat) (y : Nat × Nat) :
    y ∈ (delivered p e l r).bad ↔ y ∈ p.bad ∧ ¬(y.1 = l ∧ r ≤ y.2 ∧ y.2 < r + vs.length) := by
  have hfilter : y ∈ (delivered p e l r).bad ↔ y ∈ p.bad ∧ ¬(hasLane (1#32 <<< l &&& p.live) y.1 = true ∧ r ≤ y.2 ∧
      y.2 < r + (Machine.doneValue e y.1).length) := by
    simp [delivered, Pack.mend, Pack.unpend, imp_iff_not_or, or_assoc]
  rw [hfilter, F.liveLane hx, decide_eq_true_eq]
  by_cases hy : y.1 = l
  · rw [hy, F.doneValue hw]
  · simp [hy]

theorem InFlight.delivered_thread (hx : (p.thread l).exited = false) (hlen : l < p.threads.length) (d : VReg) (k r : Nat) :
    ((delivered p e l d.toNat).thread k).r r =
      if k = l then ((putWords d vs).regs.lookup r).getD ((p.thread k).r r) else (p.thread k).r r := by
  by_cases hk : k < p.threads.length
  · have hth : (delivered p e l d.toNat).thread k = if hasLane (1#32 <<< l &&& p.live) k then
        (p.thread k).setRs d.toNat (Machine.doneValue e k) else p.thread k := Pack.thread_onLanes p _ _ k hk
    rw [hth, F.liveLane hx]
    by_cases hkl : k = l
    · subst hkl
      rw [decide_eq_true rfl, if_pos rfl, if_pos rfl, F.doneValue hw, Thread.r_setRs]
    · rw [decide_eq_false hkl, if_neg Bool.false_ne_true, if_neg hkl]
  · have hq : (delivered p e l d.toNat).threads.length = p.threads.length := Pack.onLanes_threads_length p _ _
    rw [if_neg (by omega), Pack.thread_out _ k (by omega), Pack.thread_out p k (by omega)]

end

section
variable {s : State} {c sl : Nat} {p : Pack} {e : Entry} {l : Nat} {w : LaneAcc} {i : Instr} (hi : Idle s)
  (hp : s.packAt c sl = some p) (F : InFlight p e l w i) {a : Machine.Access} (ha : accessOf i = some a) {vs : List Word}
  (hw : w.phase = .done vs)
include hi hp F ha hw

/-- A lane that waits for a promotion gets no reply yet (R120). -/
theorem laneReply_waits (h1 : ∃ y, y ∈ s.home.promoting ∧ y.entry = e.id ∧ y.lane = l)
    (h2 : ∀ y, y ∈ s.home.promoting → y.entry = e.id ∧ y.lane = l → y.replied = false) :
    ∃ t, exec (.laneReply c sl e.id l) s = .next t ∧ t.packAt c sl = some p ∧ t.home = s.home := by
  have hwait : ((s.latched c sl p).promotionOf e.id l).any (!·.replied) = true := by
    unfold State.promotionOf
    cases hf : s.home.promoting.find? fun x => x.entry = e.id && x.lane = l with
    | none =>
      obtain ⟨y, hy, hm⟩ := h1
      exact absurd (List.find?_eq_none.1 hf y hy) (by simp [hm])
    | some y =>
      have hm := List.find?_some hf
      simp only [Bool.and_eq_true, decide_eq_true_eq] at hm
      rw [show (s.latched c sl p).home = s.home from rfl, hf, Option.any_some, h2 y (List.mem_of_find?_eq_some hf) hm]
      rfl
  have hland : ∃ t, exec (.laneReply c sl e.id l) s = .next t ∧ t.packAt c sl = some (s.latched c sl p).pk ∧
      t.home = (s.latched c sl p).home ∧ ∀ a, t.memByte a = (s.latched c sl p).memByte a := by
    refine event_landed hi hi hp rfl ?_ rfl
    rw [F.entryAt rfl ha]
    dsimp only
    rw [F.phase, hw]
    exact if_pos hwait
  obtain ⟨t, hexec, hpk, hhome, -⟩ := hland
  exact ⟨t, hexec, hpk, hhome⟩

/-- Once no promotion is waited for, the value goes to the destination of the lane, and the entry leaves (R97, R120, R250). -/
theorem laneReply_delivers {d : VReg} (hdst : a.dst = some d.toNat) (hacq : a.acq = none) (hx : (p.thread l).exited = false)
    (hlen : l < p.threads.length)
    (h : ∀ y, y ∈ s.home.promoting → y.entry = e.id ∧ y.lane = l → y.replied = true) :
    ∃ t q, exec (.laneReply c sl e.id l) s = .next t ∧ t.packAt c sl = some q ∧ q.replay = [] ∧
      (∀ y, y ∈ t.home.promoting ↔ y ∈ s.home.promoting ∧ ¬(y.entry = e.id ∧ y.lane = l)) ∧
      q = { p with threads := q.threads, pend := q.pend, replay := [], soft := q.soft, bad := q.bad } ∧
      (∀ y, y ∈ q.bad ↔ y ∈ p.bad ∧ ¬(y.1 = l ∧ d.toNat ≤ y.2 ∧ y.2 < d.toNat + vs.length)) ∧
      (∀ y, y ∈ q.pend → y.owner = e.id → hasLane y.lanes l = false) ∧
      ∀ k r, (q.thread k).r r = if k = l then ((putWords d vs).regs.lookup r).getD ((p.thread k).r r) else (p.thread k).r r := by
  let q := { delivered p e l d.toNat with replay := [] }
  let home := { s.home with promoting := s.home.promoting.filter fun x => !(x.entry = e.id && x.lane = l) }
  have hdone : ((s.latched c sl p).promotionOf e.id l).any (!·.replied) = false := by
    unfold State.promotionOf
    cases hf : s.home.promoting.find? fun x => x.entry = e.id && x.lane = l with
    | none => rw [show (s.latched c sl p).home = s.home from rfl, hf]; rfl
    | some y =>
      have hy := List.find?_some hf
      simp only [Bool.and_eq_true, decide_eq_true_eq] at hy
      rw [show (s.latched c sl p).home = s.home from rfl, hf, Option.any_some, h y (List.mem_of_find?_eq_some hf) hy]
      rfl
  have hput : (delivered p e l d.toNat).putEntry (e.drop (1#32 <<< l)) = q := Pack.putEntry_last F.only rfl F.drop_mask
  have hland : ∃ t, exec (.laneReply c sl e.id l) s = .next t ∧ t.packAt c sl = some ({ s.latched c sl p with pk := q, home := home } : State).pk ∧
      t.home = home ∧ ∀ a, t.memByte a = ({ s.latched c sl p with pk := q, home := home } : State).memByte a := by
    refine event_landed hi hi hp rfl ?_ rfl
    rw [F.entryAt rfl ha]
    dsimp only
    rw [F.phase, hw]
    dsimp only
    rw [hdone, if_neg Bool.false_ne_true, show (s.latched c sl p).pk = p from rfl, F.delivers hw ha hdst]
    dsimp only
    rw [hput, hacq]
    rfl
  obtain ⟨t, hexec, hpk, hhome, -⟩ := hland
  refine ⟨t, q, hexec, hpk, rfl, fun y => ?_, rfl, F.delivered_bad hw hx d.toNat, fun y hy ho => ?_, F.delivered_thread hw hx hlen d⟩
  · rw [hhome]
    simp [home, imp_iff_not_or]
  · have := (List.mem_filter.1 hy).2
    simp [ho] at this

end

end Sys2Proof.Claims
end

section
/-! O44 (spec/06_consistency.md R121, spec/12_memory_instructions.md R252, R261): an atomic performs at its home slice. -/
namespace Sys2Proof.Machine

open Sys2Proof.Claims
open State (LatchFrame SilentFrame AccessFrame)

/-! One store. -/

theorem tabPut_last {α : Type} {k : Nat} (x : α) : ∀ {m : Tab α}, (∀ e, e ∈ m → e.1 < k) → tabPut m k x = m ++ [(k, x)]
  | [], _ => rfl
  | (j, y) :: m, h => by
    have hj : j < k := h (j, y) (.head _)
    rw [tabPut, if_neg (by omega), if_neg (by omega), tabPut_last x fun e he => h e (.tail _ he)]
    rfl

/-- Consecutive bytes put one by one after those below them. -/
theorem spread_foldl_tabPut : ∀ (bs : List Byte) {a : Nat} {m : Tab Byte}, (∀ e, e ∈ m → e.1 < a) →
    (spread a bs).foldl (fun m e => tabPut m e.1 e.2) m = m ++ spread a bs
  | [], _, _, _ => (List.append_nil _).symm
  | b :: bs, a, m, h => by
    rw [spread, List.foldl_cons, tabPut_last b h, spread_foldl_tabPut bs, List.append_assoc]
    · rfl
    · intro e he
      rcases List.mem_append.1 he with he | he
      · have := h e he
        omega
      · cases List.mem_singleton.1 he
        exact Nat.lt_succ_self a

/-- A store of bytes of one sound block of this device, whose page has neither REPL nor ELIDE, stores them (R93, R252). -/
theorem State.performStores_one {s : State} (hc : Clean s) (core : Nat) (rel scope : Option Scope) {pa : Nat} {bs : List Byte}
    (hk : s.paKind pa = .hbm) (hb : pa % 128 + bs.length ≤ 128) (hs : s.blockCode pa ≠ 3) :
    s.LatchFrame (s.performStores core rel scope [(pa, 0, bs)]) ∧
      ∀ y, (s.performStores core rel scope [(pa, 0, bs)]).memByte y = stored s.memByte pa bs y := by
  let h := s.homeWrite false (wideRel scope) (spread pa bs)
  let u := (h.l1Update core (spread pa bs)).tagRelease core (pa / 256) rel scope
  have hbytes : (spread pa bs).foldl (fun m e => tabPut m e.1 e.2) [] = spread pa bs := spread_foldl_tabPut bs nofun
  have hwrite : s.LatchFrame h := (s.homeWrite_accessFrame _ _ _).latch
  have hcache : h.SilentFrame u := (h.l1Update_silent core _).trans (State.tagRelease_silent _ _ _ _ _)
  have hscope : ∀ (t : State) sc, t.paKind pa = .hbm → t.scopeAt pa sc = sc := fun t sc ht => by unfold State.scopeAt; rw [ht]
  have hl1 : (h.l1Update core (spread pa bs)).paKind pa = .hbm := (((h.l1Update_silent core _).paKind pa).trans (hwrite.paKind pa)).trans hk
  have heq : s.performStores core rel scope [(pa, 0, bs)] = u := by
    have hlocal : u.orderRemote core pa none rel = u :=
      State.orderRemote_local ((hcache.paKind pa).trans ((hwrite.paKind pa).trans hk)) _ _ _
    unfold State.performStores
    simp [ascending, insertAsc, hbytes, hscope _ _ hk, bitOf]
    change ((h.l1Update core (spread pa bs)).tagRelease core (pa / 256) ((h.l1Update core (spread pa bs)).scopeAt pa rel) scope).orderRemote
      core pa none rel = u
    rw [hscope _ rel hl1]
    exact hlocal
  rw [heq]
  refine ⟨hwrite.trans hcache.toLatchFrame, fun y => ?_⟩
  rw [hcache.memByte, State.homeWrite_memByte s false _ _ pa hc.2.2.1 (spread_oneBlock hb) (.inl hs), tabFind_spread]
  unfold stored
  split <;> rfl

/-! The atomic. -/

theorem State.atomicRead_accessFrame (s : State) (a n : Nat) : s.AccessFrame (s.atomicRead a n).2.2 := by
  have hmap := (s.materialise_accessFrame a).trans ((s.materialise a).readMap_accessFrame a)
  unfold State.atomicRead
  dsimp only
  split
  · exact hmap.trans (State.sliceRead_accessFrame _ _ _ _)
  · exact (hmap.trans (State.unelide_accessFrame _ _)).trans (State.sliceRead_accessFrame _ _ _ _)

/-- The access of an atomic in memory. -/
def atomAccess (d a b : VReg) (ty : AtomTy) (op : AtomOp) (ord : MemOrd) (sc : Scope) (x : SReg) : Machine.Access :=
  { space := .flat, op := .rmw op, size := atomBytes ty, ty := ty, dst := some d.toNat, base := x.toNat, off := a.toNat, data := [b.toNat],
    plain := false, acq := acqOf ord sc, rel := relOf ord sc, scope := some sc, queued := true }

theorem natOfBytes_append (xs ys : List Byte) : natOfBytes (xs ++ ys) = natOfBytes xs + 256 ^ xs.length * natOfBytes ys := by
  induction xs with
  | nil => simp [natOfBytes]
  | cons x xs ih => rw [List.cons_append, natOfBytes, natOfBytes, ih, List.length_cons, Nat.pow_succ']; ring

/-- The bytes of a word, as a number. -/
theorem natOfBytes_word (w : Word) : natOfBytes (bytesOfNat 4 w.toNat) = w.toNat := by
  rw [natOfBytes_bytesOfNat]
  exact Nat.mod_eq_of_lt w.isLt

theorem toNat_wordPair (hi lo : Word) : (hi ++ lo).toNat = hi.toNat * 2 ^ 32 + lo.toNat := by
  rw [BitVec.toNat_append, ← Nat.shiftLeft_add_eq_or_of_lt lo.isLt, Nat.shiftLeft_eq]

/-- One or two words as the number of their bytes; words that are not there are 0. -/
theorem natOfBytes_words (ws : List Word) {k : Nat} (h : k = 1 ∨ k = 2) :
    natOfBytes ((bytesOfWords (ws.take k)).take (4 * k)) = (ws.getD 1 0 ++ ws.getD 0 0).toNat % 256 ^ (4 * k) := by
  rw [toNat_wordPair]
  match ws with
  | [] => rcases h with rfl | rfl <;> rfl
  | [x] =>
    have hx := x.isLt
    have hall : (bytesOfNat 4 x.toNat).take (4 * k) = bytesOfNat 4 x.toNat := List.take_of_length_le (by rw [bytesOfNat_length]; omega)
    have hval : natOfBytes ((bytesOfWords ([x].take k)).take (4 * k)) = x.toNat := by
      rw [List.take_of_length_le (show [x].length ≤ k by simp only [List.length_singleton]; omega), bytesOfWords, bytesOfWords,
        List.append_nil, hall, natOfBytes_word]
    rw [hval]
    rcases h with rfl | rfl <;> simp <;> omega
  | x :: y :: r =>
    have hx := x.isLt
    have hy := y.isLt
    rcases h with rfl | rfl
    · have hone : bytesOfWords ((x :: y :: r).take 1) = bytesOfNat 4 x.toNat := List.append_nil _
      rw [hone, List.take_of_length_le (by rw [bytesOfNat_length]), natOfBytes_word]
      simp only [List.getD_cons_zero, List.getD_cons_succ]
      omega
    · have htwo : bytesOfWords ((x :: y :: r).take 2) = bytesOfNat 4 x.toNat ++ bytesOfNat 4 y.toNat := by
        simp [bytesOfWords]
      rw [htwo, List.take_of_length_le (by simp), natOfBytes_append, natOfBytes_word, natOfBytes_word, bytesOfNat_length]
      simp only [List.getD_cons_zero, List.getD_cons_succ]
      omega

/-- The operand of an atomic is the data in its lane record (R189). -/
theorem operandOf_record {d a b : VReg} {ty : AtomTy} {op : AtomOp} {ord : MemOrd} {sc : Scope} {x : SReg} (w : LaneAcc) :
    operandOf (atomAccess d a b ty op ord sc x) w.words (atomBytes ty) 0 = recordData w (atomBytes ty) := by
  obtain ⟨k, hk, hn⟩ : ∃ k, (k = 1 ∨ k = 2) ∧ atomBytes ty = 4 * k := by
    cases ty
    · exact ⟨1, .inl rfl, rfl⟩
    · exact ⟨2, .inr rfl, rfl⟩
    · exact ⟨1, .inl rfl, rfl⟩
    · exact ⟨2, .inr rfl, rfl⟩
  have hwords : dataWords (4 * k) = k := by unfold dataWords; omega
  have hdrop : ∀ j, w.words.getD (2 + j) 0 = (w.words.drop 2).getD j 0 := fun j => by
    rw [List.getD_eq_getElem?_getD, List.getD_eq_getElem?_getD, List.getElem?_drop]
  have := natOfBytes_words (w.words.drop 2) hk
  rw [← hdrop 0, ← hdrop 1] at this
  unfold operandOf recordData
  rw [hn, hwords, Nat.zero_mul]
  exact this

end Sys2Proof.Machine

namespace Sys2Proof.Claims

open Sys2Proof.Machine
open State (LatchFrame SilentFrame)

section
variable {s : State} {p : Pack} {e : Entry} {l : Nat} {w : LaneAcc} {i : Instr} {d a b : VReg} {ty : AtomTy} {op : AtomOp}
  {ord : MemOrd} {sc : Scope} {x : SReg} {pa : Nat} (hc : Clean s) (hk : s.paKind pa = .hbm) (hal : pa % atomBytes ty = 0)
  (hs : Sound s pa (atomBytes ty))
include hc hk hal hs

/-- One read-modify-write at its home slice: the old bytes return, and the result is stored (R121, R261). -/
theorem performRmw_updates :
    (s.performRmw (s.siteOf e) e (atomAccess d a b ty op ord sc x) none w.words pa 0).2 = some (wordsOfBytes (heldBytes s pa (atomBytes ty))) ∧
      s.LatchFrame (s.performRmw (s.siteOf e) e (atomAccess d a b ty op ord sc x) none w.words pa 0).1 ∧
      ∀ y, (s.performRmw (s.siteOf e) e (atomAccess d a b ty op ord sc x) none w.words pa 0).1.memByte y =
        stored s.memByte pa (bytesOfNat (atomBytes ty) (atomResult ty op (numberAt s.memByte pa (atomBytes ty)) (recordData w (atomBytes ty)))) y := by
  have hn : 0 < atomBytes ty := by cases ty <;> decide
  have hblock : pa % 128 + atomBytes ty ≤ 128 := by
    cases ty <;> simp only [atomBytes] at hal ⊢ <;> omega
  have hsound : s.blockCode pa ≠ 3 := hs 0 hn
  obtain ⟨hold, hbad, hclean, hcode, -, hmem⟩ := State.atomicRead_held hc (atomBytes ty) hsound
  have hlatch := (s.atomicRead_accessFrame pa (atomBytes ty)).latch
  have hseen := ((s.atomicRead pa (atomBytes ty)).2.2.seenBy_silent s.here pa (atomBytes ty)).trans
    (State.l1Update_silent _ s.here (spread pa (heldBytes s pa (atomBytes ty))))
  have hstore := State.performStores_one (hseen.clean hclean) s.here (relOf ord sc) (some sc) (pa := pa)
    (bs := bytesOfNat (atomBytes ty) (atomResult ty op (numberAt s.memByte pa (atomBytes ty)) (recordData w (atomBytes ty))))
    (((hseen.paKind pa).trans (hlatch.paKind pa)).trans hk) (by rw [bytesOfNat_length]; exact hblock) (by rw [hseen.blockCode]; exact hcode)
  have hall := (hlatch.trans hseen.toLatchFrame).trans hstore.1
  have hlocal := State.orderRemote_local ((hall.paKind pa).trans hk) s.here (acqOf ord sc) none
  have hnew : rmwNew (atomAccess d a b ty op ord sc x) none w.words (atomBytes ty) (natOfBytes (heldBytes s pa (atomBytes ty))) =
      some (atomResult ty op (numberAt s.memByte pa (atomBytes ty)) (recordData w (atomBytes ty))) := by
    unfold rmwNew
    rw [operandOf_record]
    rfl
  have hbytes : accessBytes (atomAccess d a b ty op ord sc x) none = atomBytes ty := if_pos (Nat.pos_iff_ne_zero.1 hn)
  have hview : ∀ y, (((s.atomicRead pa (atomBytes ty)).2.2.seenBy s.here pa (atomBytes ty)).l1Update s.here
      (spread pa (heldBytes s pa (atomBytes ty)))).memByte y = s.memByte y := fun y => (hseen.memByte y).trans (hmem y)
  unfold State.performRmw
  rw [hbytes]
  dsimp only
  rw [hbad, hold, hnew]
  refine ⟨rfl, ?_, fun y => ?_⟩
  · exact (congrArg s.LatchFrame hlocal).mpr hall
  · refine (congrArg (fun t : State => t.memByte y) hlocal).trans ((hstore.2 y).trans ?_)
    unfold stored
    rw [hview]

end

/-- What an atomic leaves, and what its lane returns (R121): the words of the bytes as they were. -/
theorem atomWords_old (s : State) (pa : Nat) (ty : AtomTy) : wordsOfBytes (heldBytes s pa (atomBytes ty)) =
    loadWords false (bytesOfNat (atomBytes ty) (numberAt s.memByte pa (atomBytes ty))) := by
  have hlen : (heldBytes s pa (atomBytes ty)).length = atomBytes ty := by simp [heldBytes]
  have hbytes : bytesOfNat (atomBytes ty) (numberAt s.memByte pa (atomBytes ty)) = heldBytes s pa (atomBytes ty) := by
    have := bytesOfNat_natOfBytes (heldBytes s pa (atomBytes ty))
    rwa [hlen] at this
  obtain ⟨k, h0, hk⟩ : ∃ k, 0 < k ∧ atomBytes ty = 4 * k := by
    cases ty
    · exact ⟨1, by decide, rfl⟩
    · exact ⟨2, by decide, rfl⟩
    · exact ⟨1, by decide, rfl⟩
    · exact ⟨2, by decide, rfl⟩
  rw [hbytes, loadWords_whole false h0 (hlen.trans hk)]

section
variable {s : State} {c sl : Nat} {p : Pack} {e : Entry} {l : Nat} {w : LaneAcc} {i : Instr} (F : InFlight p e l w i)
  {d a b : VReg} {ty : AtomTy} {op : AtomOp} {ord : MemOrd} {sc : Scope} {x : SReg} {pa : Nat} (hw : w.phase = .ready [(pa, 0)])
  (hc : Clean s) (hk : s.paKind pa = .hbm) (hal : pa % atomBytes ty = 0) (hs : Sound s pa (atomBytes ty))
include F hw hc hk hal hs

/-- An atomic performs: its lane has the old value, and the result is stored. -/
theorem InFlight.performsAtomic : ∃ u, s.LatchFrame u ∧
    (∀ y, u.memByte y = stored s.memByte pa (bytesOfNat (atomBytes ty)
      (atomResult ty op (numberAt s.memByte pa (atomBytes ty)) (recordData w (atomBytes ty)))) y) ∧
    s.performNow e (atomAccess d a b ty op ord sc x) (1#32 <<< l) = u.conclude (atomAccess d a b ty op ord sc x)
      (e.inPhase l w (.done (loadWords false (bytesOfNat (atomBytes ty) (numberAt s.memByte pa (atomBytes ty)))))) [] := by
  let acc := atomAccess d a b ty op ord sc x
  let r := s.asks (s.siteOf e) e acc [(l, w, [(pa, 0)])]
  have hasks : s.SilentFrame r := s.asks_silent _ _ _ _
  have hsite : r.siteOf e = s.siteOf e := by
    unfold State.siteOf State.here
    rw [hasks.site, hasks.pk]
  obtain ⟨hval, hlatch, hmem⟩ := performRmw_updates (e := e) (w := w) (d := d) (a := a) (b := b) (op := op) (ord := ord) (sc := sc) (x := x)
    (hasks.clean hc) ((hasks.paKind pa).trans hk) hal (hasks.sound hs)
  have hnum : numberAt r.memByte pa (atomBytes ty) = numberAt s.memByte pa (atomBytes ty) := by
    unfold numberAt
    simp only [hasks.memByte]
  rw [hsite] at hval hlatch hmem
  let v := (r.performRmw (s.siteOf e) e acc none w.words pa 0).1
  have hrelease : v.SilentFrame (v.releaseAt v.here acc.rel) := v.releaseAt_silent _ _
  have hlane : Machine.hasLane (1#32 <<< l) l = true := by rw [hasLane_single F.lane, decide_eq_true rfl]
  have heach : r.performEach (s.siteOf e) e acc none [(l, w, [(pa, 0)])] e.lanes =
      (v, (e.inPhase l w (.done (wordsOfBytes (heldBytes r pa (atomBytes ty))))).lanes, []) := by
    have hone : r.performOne (s.siteOf e) e acc none w.words [(pa, 0)] = (v, some (wordsOfBytes (heldBytes r pa (atomBytes ty)))) :=
      Prod.ext rfl hval
    unfold State.performEach
    rw [hone, F.words]
    dsimp only
    rw [setPhase_one]
    rfl
  have hperform : s.performLanes (s.siteOf e) e acc none (1#32 <<< l) =
      (v, e.inPhase l w (.done (wordsOfBytes (heldBytes r pa (atomBytes ty)))), []) := by
    unfold State.performLanes
    rw [F.readyLanes hlane (.inl hw)]
    exact congrArg (fun z : State × Tab LaneAcc × List LaneFail => (z.1, { e with lanes := z.2.1 }, z.2.2)) heach
  refine ⟨_, (hasks.toLatchFrame.trans hlatch).trans hrelease.toLatchFrame, fun y => ?_, ?_⟩
  · rw [hrelease.memByte, hmem, hnum]
    unfold stored
    rw [hasks.memByte]
  · unfold State.performNow
    dsimp only
    rw [State.cachedRec_none (a := acc) (show Space.flat ≠ .tensor by decide), hperform, atomWords_old, hnum]

end

section
variable {s : State} {c sl : Nat} {p : Pack} {e : Entry} {l : Nat} {w : LaneAcc} {i : Instr} (hi : Idle s)
  (hp : s.packAt c sl = some p) (F : InFlight p e l w i) (hd : s.env.defer = true) (hc : Clean s)
include hi hp F hd hc

/-- The atomic of a lane that holds its queue entry performs. -/
theorem atomicPerform_updates {g : Guard} {d a b : VReg} {la : BitVec 4} {ty : AtomTy} {op : AtomOp} {ord : MemOrd} {sc : Scope} {x : SReg} {pa : Nat}
    (h : i = .atom g d a b la ty op ord sc x) (hw : w.phase = .ready [(pa, 0)]) (hq : e.queued = e.mask) (hk : s.paKind pa = .hbm)
    (hal : pa % atomBytes ty = 0) (hs : Sound s pa (atomBytes ty)) :
    let old := numberAt s.memByte pa (atomBytes ty)
    ∃ t q, exec (.atomicPerform c sl e.id l) s = .next t ∧ t.packAt c sl = some q ∧
      Moved p q e l w (.done (loadWords false (bytesOfNat (atomBytes ty) old))) ∧
      ∀ y, t.memByte y = stored s.memByte pa (bytesOfNat (atomBytes ty) (atomResult ty op old (recordData w (atomBytes ty)))) y := by
  intro old
  let L := s.latched c sl p
  let acc := atomAccess d a b ty op ord sc x
  have ha : accessOf i = some acc := by rw [h]; rfl
  obtain ⟨u, hlatch, hmem, hperform⟩ := F.performsAtomic (s := L) (d := d) (a := a) (b := b) (op := op) (ord := ord) (sc := sc) (x := x)
    hw hc hk hal hs
  have hrec : L.cachedRec (L.siteOf e) e acc = none := State.cachedRec_none (show Space.flat ≠ .tensor by decide)
  have hmay : (isLoad acc || isStore acc || !L.mayPerform e acc l [(pa, 0)]) = false := by
    rw [F.mayPerform rfl hrec fun _ => hq]
    rfl
  have hcut : oneCut acc none = false := rfl
  obtain ⟨hsite, hbytes, hq⟩ := F.conclude (s := u) (a := acc) hlatch.pk (hlatch.defer.trans hd) rfl
    (.done (loadWords false (bytesOfNat (atomBytes ty) old)))
  have hland : ∃ t, exec (.atomicPerform c sl e.id l) s = .next t ∧ t.packAt c sl = some
      (u.conclude acc (e.inPhase l w (.done (loadWords false (bytesOfNat (atomBytes ty) old)))) []).pk ∧
      t.home = (u.conclude acc (e.inPhase l w (.done (loadWords false (bytesOfNat (atomBytes ty) old)))) []).home ∧
      ∀ y, t.memByte y = (u.conclude acc (e.inPhase l w (.done (loadWords false (bytesOfNat (atomBytes ty) old)))) []).memByte y := by
    refine event_landed hi hi hp rfl ?_ (hsite.trans hlatch.site)
    rw [F.entryAt rfl ha]
    dsimp only
    rw [F.phase, hw]
    dsimp only
    rw [hmay, if_neg Bool.false_ne_true, hrec, hcut, if_neg Bool.false_ne_true]
    exact hperform
  obtain ⟨t, hexec, hpk, -, hview⟩ := hland
  exact ⟨t, _, hexec, hpk, hq, fun y => (hview y).trans ((hbytes y).trans (hmem y))⟩

end

end Sys2Proof.Claims
end

section
/-! O44: the stations together. -/
namespace Sys2Proof.Claims

open Sys2Proof.Machine

/-- Settles O44: in each station the entry's one lane is found, nothing stands before it, and its pack gets the entry back in the next phase. -/
theorem accessesInFlight : Obligations.AccessesInFlight := by
  intro s c sl p e l w i hi hlist hc hd hp F hh hpause hodd
  refine ⟨fun x d sg hform hlen => ?_, fun g d a b la ty op ord sc x pa h hw hq hk hal hs =>
    atomicPerform_updates hi hp F hd hc h hw hq hk hal hs⟩
  obtain ⟨ha, hn⟩ := accessOf_flatLoadForm hform hlen
  refine ⟨fun y hw hfree hva hal hy hu hr hk => ?_, fun pa at' hw hk hal hs hcached => ⟨fun hline hr => ?_, fun hline hcode hr hsec => ?_⟩,
    fun pa at' hw hk hal hs hr hsec harr ho => ?_, fun vs hw hx hlane => ⟨fun h1 h2 => ?_, fun h => ?_⟩⟩
  · exact walkComplete_ready hi hp F hd ha (by omega) hh hw hfree hva hal hy hu hr hk
  · exact homeSlice_answers hi hp F ha hk hr hd hc hodd hn hal hs hw (fun bs h => hcached _ _ h) hline
  · exact homeSlice_asks hi hp F ha hk hr hw hline hcode hsec
  · exact hbmReadReply_answers hi hp F ha hk hr hd hc hodd hn hal hs hlist hpause hw hsec harr ho
  · exact laneReply_waits hi hp F ha hw h1 h2
  · exact laneReply_delivers hi hp F ha hw rfl rfl hx hlane h

end Sys2Proof.Claims
end
